-- ==== Sys2Proof/Word.lean ====
section
/-! DEFINITION. Word types and their plainest arithmetic (R5: bit 0 is the least significant bit). -/

namespace Sys2Proof

/-- A register or instruction word. -/
abbrev Word := BitVec 64

/-- A byte of memory. -/
abbrev Byte := BitVec 8

/-- A lane of a vector register (R182). -/
abbrev Lane := BitVec 32

/-- A stable name of a bundle: its grid, its crew and its number in the crew (R193 bundleid, crewid, gridid). -/
structure BKey where
  grid : Nat
  crew : Nat
  idx  : Nat
  deriving DecidableEq, Repr

/-- A stable name of a crew. -/
structure CKey where
  grid : Nat
  crew : Nat
  deriving DecidableEq, Repr

/-- The crew of a bundle. -/
def BKey.ck (b : BKey) : CKey := ⟨b.grid, b.crew⟩

/-- An interleaving-free helper: bits [hi:lo] of a number (R5). -/
abbrev natBits (w hi lo : Nat) : Nat := (w >>> lo) % 2 ^ (hi + 1 - lo)

end Sys2Proof
end

