-- ==== Sys2Proof/Syntax.lean ====
section
/-! DEFINITION. The instruction set and the device's events: operand forms, format records and the one inductive Instr. -/

namespace Sys2Proof

/-- Instruction classes of a clause header (R296). -/
inductive Cls where
  | s | v | m | t | x
  deriving DecidableEq, Repr

/-- Type suffixes, codes 0 to 11 (R290). -/
inductive Ty where
  | i8 | i16 | i32 | i64 | n8 | n16 | n32 | n64 | f16 | bf16 | f32 | f64
  deriving DecidableEq, Repr

/-- Operand selectors (R303): a vector, scalar or mask register, the clause literal sign- or zero-extended, an inline constant. -/
inductive Sel where
  | v (n : Fin 128)
  | s (n : Fin 64)
  | m (n : Fin 16)
  | litS
  | litZ
  | const (k : Fin 32)
  deriving DecidableEq, Repr

/-- A 10-bit source field (R303): trap bit, kill bit and selector. -/
structure Src where
  sel  : Sel
  kill : Bool
  trap : Bool
  deriving DecidableEq, Repr

/-- The field whose bits are all 0: what an unused source field holds (R304). -/
def Src.zero : Src := ⟨.v 0, false, false⟩

/-- The register format (R307): classes S, V, X and the copy and stream instructions of class M. -/
structure RArgs where
  ty   : Ty
  pred : Option (Fin 16)
  md   : Fin 128
  dst  : Sel
  a    : Src
  b    : Src
  c    : Src
  deriving DecidableEq, Repr

/-- The immediate format (R308). -/
structure IArgs where
  ty   : Ty
  pred : Option (Fin 16)
  md   : Fin 128
  dst  : Sel
  a    : Src
  imm  : BitVec 22
  deriving DecidableEq, Repr

/-- The branch format (R311). -/
structure BArgs where
  cond : Fin 16
  pred : Option (Fin 16)
  md   : Fin 128
  a    : Src
  link : Fin 64
  off  : BitVec 24
  deriving DecidableEq, Repr

/-- The order an access carries (R221, R309). -/
inductive Order where
  | plain | acquire | release | acqRel
  deriving DecidableEq, Repr

/-- Scopes (R218, R309). -/
inductive Scope where
  | crew | core | grove | device | system
  deriving DecidableEq, Repr

/-- The space of an address (R309). -/
inductive Space where
  | mem | ls | vlt
  deriving DecidableEq, Repr

/-- The memory format (R309). -/
structure MArgs where
  ty    : Ty
  pred  : Option (Fin 16)
  order : Order
  scope : Scope
  space : Space
  data  : Src
  base  : Src
  index : Src
  dst   : Sel
  mx    : Fin 4
  deriving DecidableEq, Repr

/-- The tile format (R310). A crdb that is a destination (R326) is a plain scalar field. -/
structure TArgs where
  pred : Option (Fin 16)
  tile : Fin 8
  dira : Bool
  dirb : Bool
  tfa  : Fin 256
  tfb  : Fin 256
  crda : Src
  crdb : Src
  md   : Fin 64
  deriving DecidableEq, Repr

/-- The operations of class V in opcode order (R320). -/
inductive VOp where
  | add | sub | mul | mulh | fma | div | min | max | abs | neg | sqrt | rcp | rsqrt | exp2 | log2
  | addsat | subsat | and | or | xor | not | shl | shr | cmp | sel | mov | clz | popc | cvt | pack | unpack
  | perm | shfl | bcast | rdx | scan | vote | frnd | cls | copysign | bfx | bfi | ldexp | fract
  deriving DecidableEq, Repr

/-- A sweep field (R312): a stream on the scalar pair s(2n), s(2n+1), or the clause literal. -/
inductive SwF where
  | stream (n : Fin 32)
  | lit
  deriving DecidableEq, Repr

/-- The sweep format (R312). -/
structure SweepArgs where
  op    : VOp
  ty    : Ty
  pred  : Option (Fin 16)
  md    : Fin 128
  count : Fin 4096
  fd    : SwF
  fa    : SwF
  fb    : SwF
  fc    : SwF
  deriving DecidableEq, Repr

/-- What a strike sensor watches (R275). -/
inductive StrikeRegion where
  | column (grove col : Nat)
  | vault (grove col : Nat)
  | patch (die : Nat)
  | hostHart (n : Nat)
  deriving DecidableEq, Repr

/-- Engines of watchdog level 4 (R132). -/
inductive Engine where
  | copy (grove : Nat)
  | walker (grove : Nat)
  | fault (grove : Nat)
  | skidder (stack : Nat)
  | xoxia
  | collective (stack : Nat)
  deriving DecidableEq, Repr

/-- An engine that has made no progress, and whether it had made any since its last reset at level 4 (R132). -/
structure EngineStall where
  engine   : Engine
  restored : Bool
  deriving DecidableEq, Repr

/-- Where a code detects an error (R278, R282): a register of a bundle, or a lane of a vector register, a line of a window or of a crew's vault allocation, an accumulator tile,
a line of memory, a crew's save area, state of an engine or of the device that no tenant owns, a host-die hart or its caches. -/
inductive ErrPlace where
  | reg (b : BKey) (r : Sel) (lane : Nat)
  | window (c : CKey) (a : Nat)
  | vault (c : CKey) (a : Nat)
  | tile (c : CKey) (tile : Nat)
  | line (pa : Nat)
  | area (c : CKey)
  | engine (e : Engine)
  | device
  | hostHart (n : Nat)
  deriving DecidableEq, Repr

/-- Which outstanding access of a bundle is performed (R224, R232): the oldest, or the load of the vault at a place among them. -/
structure LoadPick where
  bundle : BKey
  vault  : Option Nat
  deriving DecidableEq, Repr

/-- An error that a code detects: one of a single bit is corrected, one of several bits is not (R278, R285). -/
structure ArrayError where
  place : ErrPlace
  multi : Bool
  deriving DecidableEq, Repr

/-- A sensor's report (R277): the region struck, and the errors that the codes of its arrays then find (R278, R282). -/
structure Strike where
  region : StrikeRegion
  errs   : List ArrayError
  deriving DecidableEq, Repr

/-- A bridge by the two dies that it joins (R10, R28): the groves g and g + 1 of one row, the groves g and g + 4 of two rows, the hub and grove g, the host die and
the hub, the storage die and the hub. -/
inductive Bridge where
  | row (g : Nat)
  | column (g : Nat)
  | hub (g : Nat)
  | host
  | storage
  deriving DecidableEq, Repr

/-- A half of a vertical link (R18), or of one link of a bridge, towards its first die or away from it (R28). -/
inductive LinkId where
  | vlink (grove n : Nat)
  | bridge (b : Bridge) (link : Nat) (away : Bool)
  deriving DecidableEq, Repr

/-- The virtual channels of the fabric (R29). -/
inductive Channel where
  | request | response | acknowledgement | copy | collective | management
  deriving DecidableEq, Repr

/-- What a beat brings of one line: a request on its way to the line's home, by the bundle it is of if it is a bundle's, or bytes for a line of a crew's vault; data of a line for a bundle's read; the old
value of an atomic; data of the copy at the head of a queue, at an offset; an operand of the tile unit; an element of a crew's collective. -/
inductive Carried where
  | write (b : Option BKey) (line : Nat)
  | vault (c : CKey) (line : Nat)
  | data (b : BKey) (sp : Space) (line : Nat)
  | old (b : BKey) (line : Nat)
  | copy (c : CKey) (q : Fin 4) (off : Nat)
  | tile (c : CKey) (n : Fin 8)
  | coll (c : CKey) (comm seq i : Nat)
  deriving DecidableEq, Repr

/-- A beat as it reaches the receiver (R13): its sequence number, whether its CRC passes, the virtual channel that it travels in (R29), its bytes, and the lines they are of. -/
structure Beat where
  seq     : Nat
  ok      : Bool
  ch      : Channel
  payload : List Byte
  lines   : List Carried
  deriving DecidableEq, Repr

/-- A DRAM row of an HBM4E stack (R20). -/
structure RowId where
  stack : Nat
  bank  : Nat
  row   : Nat
  deriving DecidableEq, Repr

/-- What the patrol measures of a row (R20, R21): its retention in ms, and whether firmware then assigns it the bin of that. -/
structure Retention where
  ms     : Nat
  assign : Bool
  deriving DecidableEq, Repr

/-- Which images of one slot number pass at a boot step (R135): the command processors' (or, at the loader's step, the loader's), and Sawyer's. -/
structure SlotCheck where
  own    : Bool
  sawyer : Bool
  deriving DecidableEq, Repr

/-- A hart of the command processors, or of Sawyer (R117, R131). -/
structure HartName where
  sawyer : Bool
  hart   : Fin 16
  deriving DecidableEq, Repr

/-- A posted write (or MSI) from a PCI Express device (R37), with the translation context its stream is bound to. -/
structure IngressWrite where
  port  : Fin 2
  rid   : Nat
  pasid : Option Nat
  ro    : Bool
  ctx   : Option Nat
  addr  : Nat
  data  : List Byte
  deriving DecidableEq, Repr

/-- A read, ATS or PRI request from a PCI Express device (R35, R37, R87). -/
structure IngressRead where
  port  : Fin 2
  rid   : Nat
  pasid : Option Nat
  ctx   : Option Nat
  addr  : Nat
  len   : Nat
  deriving DecidableEq, Repr

/-- How the packet delivery sublayer of Ultra Ethernet carries a packet (R42): unreliable unordered, reliable unordered, reliable ordered, reliable unordered for idempotent operations. -/
inductive Delivery where
  | uud | rud | rod | rudIdem
  deriving DecidableEq, Repr

/-- A Xoxia packet: the four words of its header (R46), the fragment payload or the body that follows them (R47), the CRC-32C at its end, the delivery and the entropy
value that UET gives it (R42, R43), its port, whether the Ethernet frame check passed, and whether the network trimmed it. -/
structure Packet where
  w0       : Word
  w1       : Word
  w2       : Word
  w3       : Word
  payload  : List Byte
  crc      : Nat
  delivery : Delivery
  entropy  : Nat
  port     : Nat
  fcsOk    : Bool
  trimmed  : Bool
  deriving DecidableEq, Repr

/-- Reasons to save a crew (R161). -/
inductive PreemptWhy where
  | ranked | dieLeft | childWait | hotColumn | retired | commanded
  deriving DecidableEq, Repr

/-- One rank's outcome in the exchange of R269. -/
structure CollOutcome where
  rank   : Nat
  status : Nat
  op     : Nat
  red    : Nat
  comp   : Bool
  fmt    : Nat
  root   : Nat
  rows   : Nat
  cols   : Nat
  deriving DecidableEq, Repr

/-- A chunk command (R273): its communicator, the collective's number, its rows and columns of the region, the receive buffers it fills, each its destination (12 × module + stack) and its number
there, the receive buffers of its own stack that it consumes (R448), whether it is the collective's last here. -/
structure ChunkCmd where
  comm : Nat
  seq  : Nat
  row0 : Nat
  rows : Nat
  col0 : Nat
  cols : Nat
  fills : List (Nat × Nat)
  takes : List Nat
  last : Bool
  deriving DecidableEq, Repr

/-- How a chunk ends (R269, R273, R448): in a slot of the stack; in a slot of another module's stack (the operand before it is 12 × module + stack), which returns to a sender here the credits of the buffers that
it consumed; or in the unrecoverable loss of a message of its collective, one that this stack sent or waits for, by its communicator, destination and buffer. -/
inductive ChunkFin where
  | slot (i : Fin 4)
  | returned (comm sender : Nat) (bufs : List Nat)
  | lost (comm dest buf : Nat)
  deriving DecidableEq, Repr

/-- Who writes a register: the command processors as one, their harts' PMP letting them; the host die; a tenant's supervisor (R136); or a firmware hart (R117), by number (Sawyer's from 16 up), in a step of its
own: a CSR write or read, a load or store of some bytes at its effective address, a return from an exception, or a computation among its registers that ends at an address; or firmware, which changes the hub's map from module numbers to IP addresses (R44). -/
inductive Party where
  | cp
  | host
  | supervisor (t : Nat)
  | csr (hart : Nat)
  | csrLoad (hart rd : Nat)
  | load (hart rd len : Nat) (signed : Bool)
  | store (hart len : Nat)
  | ret (hart : Nat) (machine : Bool)
  | compute (hart rd : Nat)
  | route
  deriving DecidableEq, Repr

/-- The register file that a host-die hart's load fills: general, floating-point, vector. -/
inductive HostBank where
  | x | f | v
  deriving DecidableEq, Repr

/-- What a host-die hart does (R87, R115, R116, R238): accesses of memory, CSR accesses, returns from exceptions, the receipt of an MSI by its IMSIC, or a computation among its own registers, whose outcome
RISC-V gives. (log 67, PRESUMED) -/
inductive HostOp where
  | load (bank : HostBank) (len : Nat) (signed : Bool)
  | fetch (len : Nat)
  | store (data : List Byte)
  | amo (op : Fin 9) (len : Nat) (v : Nat)
  | lr (len : Nat)
  | sc (len : Nat) (v : Nat)
  | fence (predW : Bool)
  | csrRead (n : Nat)
  | csrWrite (n : Nat) (v : Word)
  | sret
  | mret
  | msi (i : Nat)
  | compute (bank : HostBank) (v : Nat) (pc : Nat)
  deriving DecidableEq, Repr

/-- A step of a host-die hart (R87, R116): the context whose tables its satp names, the address, the destination register, acquire and release bits. -/
structure HostAccess where
  hart : Nat
  ctx  : Nat
  va   : Nat
  op   : HostOp
  rd   : Nat
  aq   : Bool
  rel  : Bool
  deriving DecidableEq, Repr

/-- One constructor per row of the opcode table: the instructions, then the steps of the device's other parties. -/
inductive Instr where
  /-- R298: A bundle reaches a clause header: the header is checked, its wait conditions are evaluated once, and it traps with cause illegal-clause if the header is bad. -/
  | clauseHeader (w : Word)
  /-- R333: Scalar integer add, with the result reduced modulo 2^n. -/
  | sAdd (x : RArgs)
  /-- R333: Scalar integer subtract. -/
  | sSub (x : RArgs)
  /-- R333: Scalar integer multiply, low half of the product. -/
  | sMul (x : RArgs)
  /-- R333: Scalar upper half of the 2n-bit product. -/
  | sMulh (x : RArgs)
  /-- R334: Scalar divide truncating toward zero, with defined results for division by zero and for overflow. -/
  | sDiv (x : RArgs)
  /-- R334: Scalar remainder of truncating division. -/
  | sRem (x : RArgs)
  /-- R333: Scalar absolute value. -/
  | sAbs (x : RArgs)
  /-- R333: Scalar minimum. -/
  | sMin (x : RArgs)
  /-- R333: Scalar maximum. -/
  | sMax (x : RArgs)
  /-- R333: Scalar bitwise AND. -/
  | sAnd (x : RArgs)
  /-- R333: Scalar bitwise OR. -/
  | sOr (x : RArgs)
  /-- R333: Scalar bitwise XOR. -/
  | sXor (x : RArgs)
  /-- R333: Scalar a AND NOT b. -/
  | sAndn (x : RArgs)
  /-- R333: Scalar shift left. -/
  | sShl (x : RArgs)
  /-- R333: Scalar shift right, arithmetic or logical by type. -/
  | sShr (x : RArgs)
  /-- R333: Scalar rotate left. -/
  | sRotl (x : RArgs)
  /-- R333: Scalar rotate right. -/
  | sRotr (x : RArgs)
  /-- R333: Scalar compare under a condition code, writing 1 or 0. -/
  | sCmp (x : RArgs)
  /-- R333: Scalar select: a when c is nonzero, otherwise b. -/
  | sSel (x : RArgs)
  /-- R335: Scalar or mask move, including saving and restoring m0. -/
  | sMov (x : RArgs)
  /-- R333: Scalar count of leading zeros. -/
  | sClz (x : RArgs)
  /-- R333: Scalar count of trailing zeros. -/
  | sCtz (x : RArgs)
  /-- R333: Scalar population count. -/
  | sPopc (x : RArgs)
  /-- R336: Scalar bit-field extract. -/
  | sBfx (x : RArgs)
  /-- R336: Scalar bit-field insert. -/
  | sBfi (x : RArgs)
  /-- R337: Forms a 64-bit address: base plus the index shifted left by K. -/
  | lea (x : RArgs)
  /-- R337: Extends a value from a chosen bit. -/
  | sext (x : RArgs)
  /-- R339: Mask AND. -/
  | mand (x : RArgs)
  /-- R339: Mask OR. -/
  | mor (x : RArgs)
  /-- R339: Mask XOR. -/
  | mxor (x : RArgs)
  /-- R339: Mask AND NOT. -/
  | mandn (x : RArgs)
  /-- R339: Mask NOT. -/
  | mnot (x : RArgs)
  /-- R339: Mask move. -/
  | mmov (x : RArgs)
  /-- R339: Counts the set bits of a mask into a scalar register. -/
  | mpop (x : RArgs)
  /-- R339: Writes the index of the lowest set bit of a mask, or 64 when the mask is 0. -/
  | mfirst (x : RArgs)
  /-- R339: Sets the low k bits of a mask. -/
  | mlow (x : RArgs)
  /-- R338: Moves a sign-extended 22-bit immediate into a scalar register. -/
  | movi (x : IArgs)
  /-- R338: Adds a sign-extended 22-bit immediate. -/
  | addi (x : IArgs)
  /-- R338: Places a 22-bit immediate in bits [63:42] above the source's low 42 bits. -/
  | movhi (x : IArgs)
  /-- R342: Conditional relative branch on a scalar compared with 0; the spin detector may demote the bundle. -/
  | br (x : BArgs)
  /-- R342: Branch when a mask is zero over the bundle's lanes. -/
  | bmz (x : BArgs)
  /-- R342: Branch when a mask is nonzero over the bundle's lanes. -/
  | bmnz (x : BArgs)
  /-- R343: Unconditional relative jump. -/
  | jump (x : BArgs)
  /-- R343: Unconditional jump to a register target. -/
  | jumpR (x : BArgs)
  /-- R343: Relative call that writes the return address into the link register. -/
  | call (x : BArgs)
  /-- R343: Call to a register target. -/
  | callR (x : BArgs)
  /-- R343: Return: a jump to the register target. -/
  | ret (x : BArgs)
  /-- R345: Divides the path by a mask into two paths with a join target, pushing onto the divergence stack as needed. -/
  | split (x : BArgs)
  /-- R346: Waits for or merges with the sibling path at the join target, restoring the outer target. -/
  | join (x : BArgs)
  /-- R355: Per-lane add. -/
  | vAdd (x : RArgs)
  /-- R355: Per-lane subtract. -/
  | vSub (x : RArgs)
  /-- R355: Per-lane multiply. -/
  | vMul (x : RArgs)
  /-- R355: Per-lane upper half of the product. -/
  | vMulh (x : RArgs)
  /-- R355: Per-lane fused multiply-add. -/
  | vFma (x : RArgs)
  /-- R355: Per-lane divide. -/
  | vDiv (x : RArgs)
  /-- R355: Per-lane minimum or minimumNumber. -/
  | vMin (x : RArgs)
  /-- R355: Per-lane maximum or maximumNumber. -/
  | vMax (x : RArgs)
  /-- R355: Per-lane absolute value. -/
  | vAbs (x : RArgs)
  /-- R355: Per-lane negation. -/
  | vNeg (x : RArgs)
  /-- R356: Per-lane correctly rounded square root. -/
  | vSqrt (x : RArgs)
  /-- R356: Per-lane reciprocal. -/
  | vRcp (x : RArgs)
  /-- R356: Per-lane reciprocal square root. -/
  | vRsqrt (x : RArgs)
  /-- R356: Per-lane 2^a. -/
  | vExp2 (x : RArgs)
  /-- R356: Per-lane log2(a). -/
  | vLog2 (x : RArgs)
  /-- R355: Per-lane saturating add. -/
  | vAddsat (x : RArgs)
  /-- R355: Per-lane saturating subtract. -/
  | vSubsat (x : RArgs)
  /-- R358: Per-lane bitwise AND. -/
  | vAnd (x : RArgs)
  /-- R358: Per-lane bitwise OR. -/
  | vOr (x : RArgs)
  /-- R358: Per-lane bitwise XOR. -/
  | vXor (x : RArgs)
  /-- R358: Per-lane bitwise complement. -/
  | vNot (x : RArgs)
  /-- R358: Per-lane shift left. -/
  | vShl (x : RArgs)
  /-- R358: Per-lane shift right. -/
  | vShr (x : RArgs)
  /-- R359: Per-lane compare that writes a mask. -/
  | vCmp (x : RArgs)
  /-- R360: Per-lane select by a mask. -/
  | vSel (x : RArgs)
  /-- R360: Per-lane move. -/
  | vMov (x : RArgs)
  /-- R358: Per-lane count of leading zeros. -/
  | vClz (x : RArgs)
  /-- R358: Per-lane population count. -/
  | vPopc (x : RArgs)
  /-- R361: Per-lane conversion between integer and float types. -/
  | cvt (x : RArgs)
  /-- R362: Converts each lane's value to a narrow format and writes it into slot j. -/
  | pack (x : RArgs)
  /-- R362: Reads slot j of a narrow format and writes its exact value. -/
  | unpack (x : RArgs)
  /-- R363: Per-lane permute by a lane index. -/
  | perm (x : RArgs)
  /-- R364: Segmented shuffle in idx, up, down or xor mode. -/
  | shfl (x : RArgs)
  /-- R363: Broadcasts one lane to every active lane. -/
  | bcast (x : RArgs)
  /-- R365: Reduces over the active lanes in a fixed tree. -/
  | rdx (x : RArgs)
  /-- R366: Prefix scan over the active lanes in increasing lane order. -/
  | scan (x : RArgs)
  /-- R367: any, all or ballot vote over the active lanes. -/
  | vote (x : RArgs)
  /-- R357: Rounds each lane to an integral value. -/
  | frnd (x : RArgs)
  /-- R357: Writes a one-hot class of each float lane. -/
  | vClass (x : RArgs)
  /-- R355: |a| with the sign of b, per lane. -/
  | copysign (x : RArgs)
  /-- R358: Per-lane bit-field extract. -/
  | vBfx (x : RArgs)
  /-- R358: Per-lane bit-field insert. -/
  | vBfi (x : RArgs)
  /-- R355: Per-lane a × 2^b. -/
  | ldexp (x : RArgs)
  /-- R357: Per-lane fractional part a − Floor(a). -/
  | fract (x : RArgs)
  /-- R313: Sweep form of a V instruction over up to 4,095 segments of the window, resumable from its progress. -/
  | sweep (x : SweepArgs)
  /-- R376: Per-lane gather load. -/
  | ld (x : MArgs)
  /-- R376: Per-lane scatter store into the store queue. -/
  | st (x : MArgs)
  /-- R376: Bundle-block load of consecutive elements. -/
  | ldb (x : MArgs)
  /-- R376: Bundle-block store of consecutive elements. -/
  | stb (x : MArgs)
  /-- R376: Scalar load made once for the path. -/
  | lds (x : MArgs)
  /-- R376: Scalar store made once for the path. -/
  | sts (x : MArgs)
  /-- R379: Atomic add with return, at the target's execution place. -/
  | atomAdd (x : MArgs)
  /-- R379: Atomic minimum with return. -/
  | atomMin (x : MArgs)
  /-- R379: Atomic maximum with return. -/
  | atomMax (x : MArgs)
  /-- R379: Atomic AND with return. -/
  | atomAnd (x : MArgs)
  /-- R379: Atomic OR with return. -/
  | atomOr (x : MArgs)
  /-- R379: Atomic XOR with return. -/
  | atomXor (x : MArgs)
  /-- R379: Atomic exchange. -/
  | atomXchg (x : MArgs)
  /-- R380: Compare-and-swap with the comparand taken from the destination register. -/
  | cas (x : MArgs)
  /-- R379: Atomic add without return. -/
  | redAdd (x : MArgs)
  /-- R379: Atomic minimum without return. -/
  | redMin (x : MArgs)
  /-- R379: Atomic maximum without return. -/
  | redMax (x : MArgs)
  /-- R379: Atomic AND without return. -/
  | redAnd (x : MArgs)
  /-- R379: Atomic OR without return. -/
  | redOr (x : MArgs)
  /-- R379: Atomic XOR without return. -/
  | redXor (x : MArgs)
  /-- R382: Orders every earlier access of the bundle before every later one at its scope. -/
  | fence (x : MArgs)
  /-- R383: Prefetches lines into the home slice or the L1, never faulting. -/
  | pf (x : MArgs)
  /-- R384: Drops the addressed lines from the core's L1. -/
  | cinv (x : MArgs)
  /-- R384: Drops every line of the core's L1. -/
  | cinvall (x : MArgs)
  /-- R386: Checks and queues an asynchronous copy between spaces, marking its token empty. -/
  | cp (x : RArgs)
  /-- R387: Queues an asynchronous copy of one 64 × 64 tile of a tensor to or from a dense image. -/
  | cpt (x : RArgs)
  /-- R388: Resets a copy queue, ending its commands with status 1. -/
  | cpreset (x : RArgs)
  /-- R391: Sends a request to open a stream on a region to Skidder. -/
  | appOpen (x : RArgs)
  /-- R391: Checks its source and sends an append write of up to 4 KiB to Skidder. -/
  | appWr (x : RArgs)
  /-- R391: Sends a seal request to the stream's Skidder. -/
  | appSeal (x : RArgs)
  /-- R391: Sends a sync request to the stream's Skidder. -/
  | appSync (x : RArgs)
  /-- R391: Sends a close request to the stream's Skidder. -/
  | appClose (x : RArgs)
  /-- R404: Queues the zeroing of an accumulator tile and the setting of its mode. -/
  | mz (x : TArgs)
  /-- R406: Queues a matrix product accumulated into a tile, with the width pair latched. -/
  | mm (x : TArgs)
  /-- R407: Queues a matrix–vector product into a tile in segments. -/
  | mmv (x : TArgs)
  /-- R405: Queues a load of a tile from a tensor. -/
  | mld (x : TArgs)
  /-- R408: Queues a drain of a tile into an output tensor, with histogram counting. -/
  | mdrain (x : TArgs)
  /-- R410: Writes a width pair at issue. -/
  | mwp (x : TArgs)
  /-- R410: Reads a width pair into a scalar register. -/
  | mwpr (x : TArgs)
  /-- R411: Blocks until the tile is full and its queue is empty, then merges its flags into fpflags. -/
  | mwait (x : TArgs)
  /-- R411: Waits like mwait, then reads the tile's flags word and optionally clears it. -/
  | mflag (x : TArgs)
  /-- R412: Reads the tile's row-progress register without waiting. -/
  | mprog (x : TArgs)
  /-- R417: Arrives at a named barrier and returns a ticket. -/
  | barArrive (x : RArgs)
  /-- R418: Waits for the named barrier's generation to pass the ticket. -/
  | barWait (x : RArgs)
  /-- R418: Arrives at a named barrier and waits on the resulting ticket. -/
  | barSync (x : RArgs)
  /-- R420: Initialises an asynchronous barrier object at its home slice. -/
  | aboInit (x : RArgs)
  /-- R421: Arrives n times at a barrier object and returns a phase ticket; waiters are woken when a phase completes. -/
  | aboArrive (x : RArgs)
  /-- R422: Blocks until the object's phase passes the ticket, then writes the result word. -/
  | aboWait (x : RArgs)
  /-- R422: Tests the object's phase once without blocking. -/
  | aboTest (x : RArgs)
  /-- R423: Sets up a stage ring and clears its stage words. -/
  | ringInit (x : RArgs)
  /-- R424: Queues a post of a stage, which fills it with a release. -/
  | ringPost (x : RArgs)
  /-- R424: Waits for a stage to be full with the expected phase. -/
  | ringWait (x : RArgs)
  /-- R424: Queues a free of a stage. -/
  | ringFree (x : RArgs)
  /-- R425: Adds to an event counter at its home slice, which evaluates the armed actions. -/
  | evAdd (x : RArgs)
  /-- R426: Arms a launch, arrive or store action on an event counter. -/
  | evArm (x : RArgs)
  /-- R427: Launches a child grid from a launch record. -/
  | launch (x : RArgs)
  /-- R428: Waits for children of the bundle to retire. -/
  | cwait (x : RArgs)
  /-- R429: Blocks at a step boundary while a die-set change is announced. -/
  | step (x : RArgs)
  /-- R430: Starts an erasure-coded message under a code profile. -/
  | send (x : RArgs)
  /-- R431: Arms a receive from a receive descriptor. -/
  | narm (x : RArgs)
  /-- R432: narm with desc 0: cancels an armed receive by handle. -/
  | narmCancel (x : RArgs)
  /-- R433: Issues a collective on a communicator; it starts once every live bundle of the crew has issued it. -/
  | coll (x : RArgs)
  /-- R434: Requests extended register granules, blocking until they are granted. -/
  | racq (x : RArgs)
  /-- R434: Tries to acquire extended granules without queuing. -/
  | rtry (x : RArgs)
  /-- R434: Releases extended granules from the top. -/
  | rrel (x : RArgs)
  /-- R436: Sets a tensor format table entry from an image. -/
  | tftSet (x : RArgs)
  /-- R437: Stores a tensor format table entry's image. -/
  | tftGet (x : RArgs)
  /-- R437: Stores, and optionally clears, the drain histogram of an entry. -/
  | tftHist (x : RArgs)
  /-- R438: Supervisor mapping of a page from the tenant's pool by compare-and-swap. -/
  | fmap (x : RArgs)
  /-- R439: Harvests the gathered A and D marks of the grid's context. -/
  | tlbh (x : RArgs)
  /-- R197: Returns from the trap of the current depth. -/
  | sret (x : RArgs)
  /-- R442: Ranks the bundle last for its next issue and ends the spin count. -/
  | yield (x : RArgs)
  /-- R442: No operation. -/
  | nop (x : RArgs)
  /-- R442: Ends both paths of the bundle at once. -/
  | halt (x : RArgs)
  /-- R179: Ends the issuing path and pops the divergence stack. -/
  | exit (x : RArgs)
  /-- R440: Reads a special register. -/
  | sysr (x : IArgs)
  /-- R440: Writes a special register. -/
  | sysw (x : IArgs)
  /-- R441: Takes a software trap. -/
  | trap (x : IArgs)
  /-- R441: Takes a breakpoint trap. -/
  | brk (x : IArgs)
  /-- R156: A demoted bundle is restored 8,192 cycles after demotion. -/
  | demotionTimeout (b : BKey)
  /-- R223: A store-queue entry past the strike horizon leaves for its target; a ring post or free takes effect at its stage word. -/
  | storeQueueLeave (b : BKey)
  /-- R206: A write becomes visible at its home slice, which returns the acknowledgement and evaluates the armed actions of a counter. -/
  | homeSliceWrite (i : Nat)
  /-- R32: A write acknowledgement returns and decrements the bundle's acknowledgement counter. -/
  | acknowledgement (i : Nat)
  /-- R187: Load or atomic data arrives and fills the empty destination, waking a blocked bundle; poison is consumed. -/
  | loadResponse (x : LoadPick)
  /-- R277: A strike sensor report rolls back the region's bundles, or starts a patrol scrub on other dies; the errors that codes then find are corrected, served from a mirror copy, or poison. -/
  | strikeReport (r : Strike)
  /-- R184: When every resident bundle is blocked in racq, the core reclaims extended blocks or traps one racq with register-starved. -/
  | coreReclaim (core : Nat)
  /-- R13: The receiver checks a beat's CRC and sequence, delivering it or discarding it and starting the error procedure. -/
  | vlinkBeatReceive (l : LinkId) (b : Beat)
  /-- R13: The sender receives an acknowledgement or negative acknowledgement and frees or marks replay entries. -/
  | vlinkAckReceive (l : LinkId) (upTo : Nat) (nak : Bool)
  /-- R14: The eight-pattern lane test ends: replay on a transient error, or steering of the failed lane onto the spare. -/
  | laneTestDone (l : LinkId) (failed : List (Nat × Nat))
  /-- R14: Retraining ends and replay from the first unacknowledged beat begins. -/
  | laneRetrainDone (l : LinkId)
  /-- R20: The HBM4E base die refreshes a row at its bin's interval. -/
  | rowRefresh (r : RowId)
  /-- R21: The patrol re-measures a row in ms and moves it to a lower bin or remaps it; firmware then assigns it the bin measured, or leaves it. -/
  | retentionPatrol (r : RowId) (bin : Retention)
  /-- R21: A remapped row's copy completes and waiting accesses proceed against the spare. -/
  | rowRemapCopyDone (r : RowId)
  /-- R25: Die temperature or input power crossing its limit changes issue throttling in steps of 1/16. -/
  | throttle (die : Option Nat) (raise : Bool)
  /-- R26: A die at 110 °C forces watchdog level 5. -/
  | overTemperature (die : Nat)
  /-- R26: Input below 40 V for more than 1 ms forces watchdog level 5. -/
  | undervoltage
  /-- R108: On power loss Sawyer programs committed staging and discards uncommitted entries within the hold-up. -/
  | inputPowerLoss
  /-- R134: Power-good starts the boot ROM on hart 0. -/
  | powerGood
  /-- R134: Boot advances to its next stage: training, image verification with slot fallback, Sawyer recovery, command processor start, host release. -/
  | bootStep (activeOk otherOk : SlotCheck)
  /-- R463: A write of link_enable starts training, or holds the link down. -/
  | pcieLinkEnable (port : Fin 2) (v : Word)
  /-- R463: Training ends with the link up at the negotiated rate and width. -/
  | pcieTrainingDone (port : Fin 2) (speed width : Nat)
  /-- R38: A write of stream_clear takes every stream of the port out of the error state. -/
  | pcieStreamClear (port : Fin 2) (v : Word)
  /-- R37: A posted write arrives: it is translated, rejected, discarded in error state, forwarded, or held at the ordering point. -/
  | ingressPostedWrite (w : IngressWrite)
  /-- R37: A read request arrives and is held until earlier posted writes are acknowledged. -/
  | ingressReadRequest (r : IngressRead)
  /-- R37: An MSI arrives and is ordered behind earlier posted writes. -/
  | ingressMsi (w : IngressWrite)
  /-- R447: A line acknowledgement returns to the ordering point, possibly with a poison mark that puts the stream into error. -/
  | orderingPointAck (i : Nat)
  /-- R37: A held ingress transaction is forwarded once earlier writes are acknowledged or line room frees. -/
  | heldWriteForward (i : Nat)
  /-- R35: An ATS translation request is served by the IOMMU. -/
  | atsTranslationRequest (r : IngressRead)
  /-- R87: A page request through PRI for a tier-3 leaf starts a migration. -/
  | priPageRequest (r : IngressRead)
  /-- R41: A network lane fails: firmware steers in the spare, or the port retrains at 800 Gb/s. -/
  | netLaneFail (port lane : Nat)
  /-- R52: Xoxia reads and encodes a stripe and transmits its fragments over the path set. -/
  | stripeTransmit (send stripe : Nat)
  /-- R58: A fragment arrives and is checked, claimed, accepted, discarded, refused or answered busy per the landing slot table. -/
  | fragmentReceive (p : Packet)
  /-- R65: Decoding of a stripe ends and the rebuilt data fragments are written to the buffer. -/
  | decodeComplete (rec stripe : Nat)
  /-- R58: The writes of a decoding stripe are acknowledged and the slot becomes DECODED. -/
  | stripeDecoded (rec stripe : Nat)
  /-- R63: 2 µs after the first unconfirmed decode, a stripe confirmation is sent. -/
  | stripeConfirmTimer (rec : Nat)
  /-- R58: A slot's horizon timer expires: send a repair request, or fail the message after two. -/
  | horizonTimerExpiry (rec stripe : Nat)
  /-- R59: The sender retransmits the named fragments with the request's offset, or answers closed. -/
  | repairRequestReceive (p : Packet)
  /-- R52: A stripe confirmation lets the sender transmit the stripes beyond the window of 16. -/
  | stripeConfirmationReceive (p : Packet)
  /-- R53: A message confirmation writes token status 0 and decrements ackcnt. -/
  | messageConfirmationReceive (p : Packet)
  /-- R53: A refusal writes token status 2 or 3 and posts a fault record. -/
  | refusalReceive (p : Packet)
  /-- R55: A busy reply stops the transmission, or ends the message with status 4 at the ninth. -/
  | busyReceive (p : Packet)
  /-- R55: After one horizon the sender transmits again from stripe 0. -/
  | busyBackoffExpiry (send : Nat)
  /-- R53: A loss notice from the receiver writes token status 1 or 6. -/
  | lossNoticeReceiveSender (p : Packet)
  /-- R61: The receiving hub answers a sender-deadline loss notice once, failing an open record as needed. -/
  | lossNoticeReceiveReceiver (p : Packet)
  /-- R54: A closed packet answering the loss notice writes token status 5. -/
  | closedReceiveSender (p : Packet)
  /-- R59: A closed packet fails the receiver's message with cause 3. -/
  | closedReceiveReceiver (p : Packet)
  /-- R54: The sender deadline of an unconfirmed stripe expires: transmission stops and a loss notice is sent. -/
  | senderDeadlineExpiry (send : Nat)
  /-- R54: No answer arrives to the loss notice in time, and the token is written with status 5. -/
  | lossNoticeWaitExpiry (send : Nat)
  /-- R57: A message identity leaves the late filter 1 ms after completion or failure. -/
  | filterEntryExpiry (i : Nat)
  /-- R74: A grove TLB miss starts a walk when the tenant's quota allows. -/
  | walkStart (i : Nat)
  /-- R69: The walker checks the leaf, installing it, faulting, deferring or starting a migration. -/
  | walkComplete (i : Nat)
  /-- R80: A migration's copy completes; the leaf is written by compare-and-swap and the waiters replay or walk again. -/
  | migrationCopyDone (i : Nat)
  /-- R76: Kind 0 shoot-down of one page. -/
  | shootdownPage (t : Fin 64) (v : Word)
  /-- R76: Kind 1 shoot-down of every page of a context. -/
  | shootdownContext (t : Fin 64) (v : Word)
  /-- R76: Kind 2 shoot-down of every context of a tenant. -/
  | shootdownTenant (t : Fin 64) (v : Word)
  /-- R76: Kind 3 harvest of a context, keeping entries. -/
  | shootdownHarvest (t : Fin 64) (v : Word)
  /-- R76: A shoot-down completes, clears go_busy, and retries the accesses waiting on covered faults. -/
  | shootdownDone (t : Fin 64)
  /-- R77: Every 500 µs a grove base harvests the gathered marks of every entry. -/
  | harvestTimer (grove : Nat)
  /-- R83: Software advances a pool's tail, resuming bundles parked on an empty pool. -/
  | poolTailWrite (n : Fin 192) (v : Word)
  /-- R91: A flash line read, with retries, returns its bytes or poison. -/
  | flashReadComplete (line retries : Nat)
  /-- R92: Sawyer sets reloc in a unit's anchor leaf before switching its translation. -/
  | relocationBegin (unit : Nat)
  /-- R92: Sawyer clears reloc and wakes the unit's deferred accesses. -/
  | relocationSwitchEnd (unit : Nat)
  /-- R94: A busy flash die frees and its deferred accesses are woken. -/
  | flashDieFree (unit : Nat)
  /-- R94: An access still deferred 20 ms after its fault completes poisoned with a deferral-timeout record. -/
  | deferralTimeout (i : Nat)
  /-- R97: A region in erasing finishes erasure and becomes free. -/
  | regionEraseDone (n : Nat)
  /-- R102: Skidder accepts a stream request and acts on it per the stream table. -/
  | skidderRequestAccept (stack : Fin 4)
  /-- R103: A write's extent reaches staging and its token is written. -/
  | extentStaged (handle i : Nat)
  /-- R107: Sawyer writes a seal's commit record, completing covering syncs and closes. -/
  | sealCommit (handle : Nat)
  /-- R106: Staging drains to flash, freeing room for extents. -/
  | stagingDrain (stack : Fin 4) (bytes : Nat)
  /-- R109: An uncorrectable error in staging poisons extents and stops committing the stream. -/
  | stagingError (handle i : Nat)
  /-- R111: A block that fails program or erase is retired and replaced; an exhausted stack goes read-only. -/
  | flashBlockFail (stack : Fin 4) (exhausted : Bool)
  /-- R122: A write reaches an enabled launch window page and is submitted to the queue or counted as dropped. -/
  | launchWindowWrite (i : Nat)
  /-- R124: The serving hart checks the record at the head of a launch queue and passes it to the device scheduler or rejects it. -/
  | launchRecord (q : Nat)
  /-- R128: Command 0x01 binds a guest and ASID to a context number. -/
  | cmdBindContext
  /-- R128: Command 0x02 unbinds a context. -/
  | cmdUnbindContext
  /-- R70: Command 0x03 records a frame's interleave scheme. -/
  | cmdSetFrameScheme
  /-- R97: Command 0x04 grants a flash region. -/
  | cmdGrantRegion
  /-- R97: Command 0x05 frees a region into erasing, or is refused. -/
  | cmdFreeRegion
  /-- R128: Command 0x06 sets a region read-only. -/
  | cmdSetRegionReadOnly
  /-- R89: Command 0x07 registers a flash leaf as the anchor of its units. -/
  | cmdAnchorFlashLeaf
  /-- R50: Command 0x08 writes a tenant's code profile. -/
  | cmdWriteCodeProfile
  /-- R128: Command 0x09 sets record and walk quotas. -/
  | cmdSetQuotas
  /-- R131: Command 0x0A copies an image into the inactive slot and starts its verification. -/
  | cmdLoadFirmwareImage
  /-- R131: Command 0x0B raises the target's fused floor. -/
  | cmdCommitFirmware
  /-- R109: Command 0x0C aborts a stream, writing status 6 to its pending tokens. -/
  | cmdAbortStream
  /-- R132: Command 0x0D resets a named engine. -/
  | cmdResetEngine
  /-- R132: Command 0x0D with engine 0xFFFF resets the device at level 5. -/
  | cmdResetDevice
  /-- R266: Command 0x10 creates a communicator with its reservations. -/
  | cmdCreateCommunicator
  /-- R266: Command 0x11 destroys a communicator. -/
  | cmdDestroyCommunicator
  /-- R128: A command with an unknown code is answered with status 1. -/
  | cmdUnknownCode
  /-- R131: Image verification of a target, having taken some cycles, ends in state verified or failed, and the hart hand-over begins. -/
  | fwVerifyDone (x took : Nat)
  /-- R131: A hart declares a quiescent point: the queue head advances and a pending hand-over restarts the hart on the new image. -/
  | cpQuiesceWrite (hart : HartName)
  /-- R131: A hart reaching no quiescent point within 50 ms aborts the swap. -/
  | handoverTimeout (hart : HartName)
  /-- R118: A write of kick restarts the hart's watchdog interval. -/
  | cpWdogKick (hart : Fin 16) (v : Word)
  /-- R132: A queue with a pending record that has not advanced for 2 ms takes level 0, or escalates to level 1 or 3. -/
  | watchdogQueueStall (q : Nat)
  /-- R132: A hart misses its kick interval: level-1 restart, or level 2 or 3. -/
  | watchdogKickMissed (hart : Fin 16)
  /-- R132: An engine holding work without progress for 20 ms is reset at level 4, escalating to level 5. -/
  | engineNoProgress (e : EngineStall)
  /-- R132: No hart refreshes the hub's timer for 1 s: level 5. -/
  | hubTimerExpiry
  /-- R127: A write of reset_busy resets a tenant through its ordered steps and posts record 0x41. -/
  | tenantReset (t : Fin 64) (v : Word)
  /-- R146: A waiting grid chooses its die set and leaves the waiting state. -/
  | gridDieSet (g : Nat)
  /-- R148: The grove scheduler places waiting crews on cores from the resources freed. -/
  | crewPlace (die : Nat)
  /-- R138: A crew whose bundles have all exited retires and gives back its resources. -/
  | crewRetire (c : CKey)
  /-- R124: A grid and its children retire; the done counter is incremented and child waits complete. -/
  | gridRetire (g : Nat)
  /-- R151: The device scheduler announces a die-set change to a grid. -/
  | stepAnnounce (g : Nat) (add : Bool)
  /-- R152: When every bundle is at step, the die set is changed, crews are moved and the steps are released. -/
  | stepChange (g : Nat)
  /-- R161: A pre-emption cause requests that a crew be saved. -/
  | preemptRequest (c : CKey) (why : PreemptWhy)
  /-- R162: At its pre-emption point the crew is saved to the save area. -/
  | crewSave (c : CKey)
  /-- R164: A saved crew is restored on a core that can take it, or a restore-fault record is posted. -/
  | crewRestore (c : CKey)
  /-- R154: Every 100 ms the hub halves every tenant's consumed field. -/
  | shareDecay
  /-- R216: A column's temperature crosses its threshold, setting or clearing hot and migrating its crews. -/
  | columnHot (grove col temp : Nat)
  /-- R202: A write of CORE_BANK_ROLE gives banks new roles, pending until they can change. -/
  | bankRoleWrite (core : Nat) (v : Word)
  /-- R202: A pending bank role change takes effect and retries pending restores. -/
  | bankRoleEffect (core : Nat) (bank : Fin 32)
  /-- R213: A copy's writes are all acknowledged and its token is written. -/
  | copyComplete (c : CKey) (q : Fin 4)
  /-- R394: The tile unit takes the oldest head of the core's tile queues. -/
  | tileInstructionStart (core : Nat)
  /-- R400: A block is accumulated whole and the row-progress register advances. -/
  | tileBlockDone (c : CKey) (tile : Fin 8)
  /-- R394: A tile instruction completes, filling the tile when it is the last. -/
  | tileInstructionComplete (c : CKey) (tile : Fin 8)
  /-- R269: Ranks exchange their status outcomes before any chunk starts. -/
  | collOutcomeExchange (comm seq : Nat) (others : List CollOutcome)
  /-- R273: A chunk command reaches its stack's collective command queue. -/
  | chunkCommandArrive (stack : Nat) (ch : ChunkCmd)
  /-- R448: A chunk ends, returns its credits and frees its slot. -/
  | chunkEnd (stack : Nat) (fin : ChunkFin)
  /-- R269: A failure notice fails the communicator's in-flight collectives. -/
  | collFailureNotice (comm status : Nat)
  /-- R283: Firmware replaces a failing core with a spare or retires it. -/
  | coreSpareBringIn (core : Nat)
  /-- R283: Firmware copies and remaps a vault row to a spare. -/
  | vaultRowRemap (grove col row : Nat)
  /-- R136: A write to a device register that has no row of its own. -/
  | registerWrite (p : Party) (addr : Nat) (v : Word)
  /-- R116: A host-die hart load, store, AMO or FENCE leaves the hart as one or more per-line transactions under the module's page tables and RVWMO. -/
  | hostHartAccess (a : HostAccess)
  /-- R40: A trained PCI Express link loses its partner or channel and goes to recovery or down, with link_state, speed and width changing. -/
  | pcieLinkLoss (port : Fin 2) (recovery : Bool)
  /-- R43: An Ultra Ethernet port goes down or comes back up, changing which port carries the fragments of each entropy value. -/
  | networkPortStateChange (port : Nat) (lanes : Option Nat)
  /-- R85: A running copy meets a fault at some byte and stalls there, migrating a tier-3 page, waiting on a reloc page or posting a record of cause 0x13. -/
  | copyFaultStall (c : CKey) (q : Fin 4)
  /-- R127: A tenant reset finishes its steps, posts a record of cause 0x41, increments resets and returns reset_busy to 0. -/
  | tenantResetComplete (t : Fin 64)
  /-- R20: An HBM4E DRAM die crosses 85 °C, halving or restoring every refresh interval of its stack. -/
  | dramTemperatureChange (stack : Nat) (hot : Bool)  deriving DecidableEq, Repr

end Sys2Proof
end

