-- ==== Sys2Proof/WellFormed.lean ====
section
/-! DEFINITION. Well-formed instructions: the encoding check of R302 (types, modifiers, selectors, zero fields). -/

namespace Sys2Proof

/-- What makes an instruction ill-formed. Each is met as cause illegal-instruction (R302 check 1, R328). -/
inductive Ill where
  | type | mod | dst | srcA | srcB | srcC | order | scope | space | mx | cond | link | off | imm | tensor | count | stream
  deriving DecidableEq, Repr

/-- Bits of a type: 8, 16, 32 or 64 (R290). -/
def Ty.bits : Ty → Nat
  | .i8 | .n8 => 8
  | .i16 | .n16 | .f16 | .bf16 => 16
  | .i32 | .n32 | .f32 => 32
  | .i64 | .n64 | .f64 => 64

/-- Bytes of a type. -/
def Ty.bytes (t : Ty) : Nat := t.bits / 8

/-- The integer types I of R317. -/
def Ty.isInt : Ty → Bool
  | .i8 | .i16 | .i32 | .i64 | .n8 | .n16 | .n32 | .n64 => true
  | _ => false

/-- The float types F of R317. -/
def Ty.isFloat (t : Ty) : Bool := !t.isInt

/-- Signed integer types (R331). -/
def Ty.signed : Ty → Bool
  | .i8 | .i16 | .i32 | .i64 => true
  | _ => false

/-- A 64-bit type, whose vector operands are register pairs (R349). -/
def Ty.is64 (t : Ty) : Bool := t.bits == 64

/-- I and F together. -/
def tyAny (_ : Ty) : Bool := true

/-- N: no type, encoded as type 0 (R317). -/
def tyNone (t : Ty) : Bool := t == .i8

/-- Types of atom.add, atom.min, atom.max and their reductions (R323). -/
def tyAtomF : Ty → Bool
  | .i32 | .i64 | .n32 | .n64 | .f32 | .f64 => true
  | _ => false

/-- Types of the bitwise atomics and cas (R323). -/
def tyAtomN : Ty → Bool
  | .n32 | .n64 => true
  | _ => false

/-- The types by their codes (R290). -/
def Ty.ofCode : Nat → Option Ty
  | 0 => some .i8 | 1 => some .i16 | 2 => some .i32 | 3 => some .i64
  | 4 => some .n8 | 5 => some .n16 | 6 => some .n32 | 7 => some .n64
  | 8 => some .f16 | 9 => some .bf16 | 10 => some .f32 | 11 => some .f64
  | _ => none

/-- The code of a type (R290). -/
def Ty.code : Ty → Nat
  | .i8 => 0 | .i16 => 1 | .i32 => 2 | .i64 => 3 | .n8 => 4 | .n16 => 5 | .n32 => 6 | .n64 => 7
  | .f16 => 8 | .bf16 => 9 | .f32 => 10 | .f64 => 11

/-- The selector kinds an operand accepts (R330, R350); w32: a single register whatever the type; all false: a zero field. -/
structure Kind where
  v   : Bool := false
  s   : Bool := false
  m   : Bool := false
  k   : Bool := false
  w32 : Bool := false
  deriving DecidableEq, Repr

/-- A zero field. -/
def Kind.zero : Kind := {}
def kS : Kind := { s := true }
def kSK : Kind := { s := true, k := true }
def kSM : Kind := { s := true, m := true }
def kSMK : Kind := { s := true, m := true, k := true }
def kM : Kind := { m := true }
def kV : Kind := { v := true }
def kV32 : Kind := { v := true, w32 := true }
def kVS : Kind := { v := true, s := true }
def kVSK : Kind := { v := true, s := true, k := true }
def kVSK32 : Kind := { v := true, s := true, k := true, w32 := true }

/-- Does a selector fit a kind, with even registers where it names a pair (R304, R349)? -/
def Kind.fits (kd : Kind) (pair : Bool) : Sel → Bool
  | .v n => kd.v && (kd.w32 || !pair || n.val % 2 == 0)
  | .s _ => kd.s
  | .m _ => kd.m
  | .litS | .litZ | .const _ => kd.k

/-- A literal or a constant. -/
def Sel.isK : Sel → Bool
  | .litS | .litZ | .const _ => true
  | _ => false

/-- A source field: of a kind the operand accepts, no marks on a literal or constant, or all zero where it is unused (R304). -/
def srcOk (kd : Kind) (pair : Bool) (x : Src) : Bool :=
  if kd = Kind.zero then x == Src.zero
  else kd.fits pair x.sel && !(x.sel.isK && (x.kill || x.trap))

/-- A destination field (R304). -/
def dstOk (kd : Kind) (pair : Bool) (d : Sel) : Bool :=
  if kd = Kind.zero then d == .v 0 else kd.fits pair d && !d.isK

/-- mod[6], the zeroing modifier of class V (R301). -/
def RArgs.z (x : RArgs) : Bool := x.md.val / 64 == 1
/-- mod[5:4], the rounding field of class V (R321). -/
def RArgs.rnd (x : RArgs) : Nat := x.md.val / 16 % 4

def mdLt (n : Nat) (x : RArgs) : Bool := x.md.val < n
/-- R333: codes 0 to 5, mod[6:4] = 0. -/
def mdCondS (x : RArgs) : Bool := x.md.val < 6
def mdZ (x : RArgs) : Bool := x.md.val % 64 == 0
/-- R321: rnd is not 3, and is 0 on an integer type. -/
def rndOk (x : RArgs) : Bool := x.rnd < 3 && (x.ty.isFloat || x.rnd == 0)
def mdRnd (x : RArgs) : Bool := x.md.val % 16 == 0 && rndOk x
/-- R359: codes 0 to 7 for floats, 0 to 5 for integers; mod[5:4] = 0. -/
def mdCondV (x : RArgs) : Bool := x.md.val % 64 < (if x.ty.isFloat then 8 else 6)
/-- The source type of cvt (R361). -/
def cvtSrc (x : RArgs) : Option Ty := Ty.ofCode (x.md.val % 16)
def mdCvt (x : RArgs) : Bool :=
  match cvtSrc x with
  | none => false
  | some t => x.rnd < 3 && (x.rnd == 0 || x.ty.isFloat || t.isFloat)
/-- R321: the container of the format is at most 16 bits and mod[5] = 0. -/
def mdFmt (x : RArgs) : Bool := x.md.val % 64 < 28 && x.md.val % 64 != 11
def mdShfl (x : RArgs) : Bool := x.md.val % 64 < 4
/-- R321: operators 0 to 5; the bitwise ones accept I only; rnd only with .add on a float type. -/
def redOk (x : RArgs) : Bool :=
  x.md.val % 8 < 6 && (x.md.val % 8 < 3 || x.ty.isInt) && rndOk x && (x.rnd == 0 || x.md.val % 8 == 0)
/-- A scalar destination takes no .z (R351). -/
def zDst (x : RArgs) : Bool := match x.dst with | .s _ => !x.z | _ => true
def mdRdx (x : RArgs) : Bool := redOk x && x.md.val / 8 % 2 == 0 && zDst x
def mdScan (x : RArgs) : Bool := redOk x
/-- R367: modes 0 to 2; .ballot takes no scalar destination. -/
def mdVote (x : RArgs) : Bool :=
  x.md.val % 64 < 3 && zDst x && (match x.dst with | .s _ => x.md.val % 4 != 2 | _ => true)
/-- R325: space fields below 3, mod[6] = 0. -/
def mdCp (x : RArgs) : Bool := x.md.val < 64 && x.md.val / 4 % 4 < 3 && x.md.val / 16 % 4 < 3
def mdCpt (x : RArgs) : Bool := x.md.val < 32 && x.md.val / 4 % 4 < 3
/-- R327: operation 0 to 4, operator 0 to 2 and 0 for .ag, .bc and .bar. -/
def mdColl (x : RArgs) : Bool :=
  x.md.val < 64 && x.md.val % 8 < 5 && x.md.val / 8 % 4 < 3 && (x.md.val % 8 < 2 || x.md.val / 8 % 4 == 0)

/-- The first rule of a list that is broken. -/
def firstIll : List (Bool × Ill) → Option Ill
  | [] => none
  | (ok, e) :: r => if ok then firstIll r else some e

/-- The shape of a register-format instruction: its types, modifiers and operand kinds. -/
structure RShape where
  ty  : Ty → Bool
  md  : RArgs → Bool
  dst : Kind
  a   : Kind := .zero
  b   : Kind := .zero
  c   : Kind := .zero

/-- The encoding check of a register-format instruction; pa says whether opa is a pair. -/
def illR' (sh : RShape) (x : RArgs) (pa : Bool) : Option Ill :=
  firstIll [(sh.ty x.ty, .type), (sh.md x, .mod), (dstOk sh.dst x.ty.is64 x.dst, .dst),
    (srcOk sh.a pa x.a, .srcA), (srcOk sh.b x.ty.is64 x.b, .srcB), (srcOk sh.c x.ty.is64 x.c, .srcC)]

def illR (sh : RShape) (x : RArgs) : Option Ill := illR' sh x x.ty.is64

/-- cvt: opa is a pair exactly when its own type is 64 bits wide (R361). -/
def illCvt (sh : RShape) (x : RArgs) : Option Ill :=
  illR' sh x (match cvtSrc x with | some t => t.is64 | none => false)

/-- mov with a mask operand takes .i64 or .n64 only (R335). -/
def illMov (sh : RShape) (x : RArgs) : Option Ill :=
  let isM := fun q : Sel => match q with | .m _ => true | _ => false
  if (isM x.dst || isM x.a.sel) && !(x.ty == .i64 || x.ty == .n64) then some .type else illR sh x

/-- narm (R431); a descriptor that is the inline constant 0 is the cancelling form of R432, a row of its own. -/
def illNarm (cancel : Bool) (sh : RShape) (x : RArgs) : Option Ill :=
  if (x.a.sel == .const 0) != cancel then some .srcA else illR sh x

/-- Special registers by number (R193): per lane, writable, supervisor only. -/
def sysPerLane (n : Nat) : Bool := n == 0x00 || n == 0x0F || n == 0x26 || n == 0x27
def sysWritable (n : Nat) : Bool := n == 0x0F || (0x21 ≤ n && n ≤ 0x24) || (0x28 ≤ n && n ≤ 0x2B)
def sysListed (n : Nat) : Bool := n ≤ 0x12 || (0x20 ≤ n && n ≤ 0x2B)
def sysSuper (n : Nat) : Bool := 0x20 ≤ n

inductive IShape where
  | movi | addi | movhi | sysr | sysw | imm

def illI (sh : IShape) (x : IArgs) : Option Ill :=
  let n := x.imm.toNat
  let z := Src.zero
  match sh with
  | .movi => firstIll [(tyNone x.ty, .type), (x.md.val == 0, .mod), (dstOk kS false x.dst, .dst), (x.a == z, .srcA)]
  | .addi => firstIll [(x.ty.isInt, .type), (x.md.val == 0, .mod), (dstOk kS false x.dst, .dst), (srcOk kSK false x.a, .srcA)]
  | .movhi => firstIll [(tyNone x.ty, .type), (x.md.val == 0, .mod), (dstOk kS false x.dst, .dst), (srcOk kSK false x.a, .srcA)]
  | .sysr => firstIll [(tyNone x.ty, .type), (x.md.val == 0, .mod), (sysListed n, .imm),
      (dstOk (if sysPerLane n then kV else kS) false x.dst, .dst), (x.a == z, .srcA)]
  | .sysw => firstIll [(tyNone x.ty, .type), (x.md.val == 0, .mod), (sysListed n && sysWritable n, .imm),
      (x.dst == .v 0, .dst), (srcOk (if sysPerLane n then kV else kSK) false x.a, .srcA)]
  | .imm => firstIll [(tyNone x.ty, .type), (x.md.val == 0, .mod), (x.dst == .v 0, .dst), (x.a == z, .srcA)]

/-- The branch format: limit of cond, the value of mod, the kind of opa, whether link and off are used (R319, R341). -/
structure BShape where
  cond : Nat
  md   : Nat
  a    : Kind
  link : Bool
  off  : Bool

def illB (sh : BShape) (x : BArgs) : Option Ill :=
  firstIll [(decide (x.cond.val < sh.cond), .cond), (x.md.val == sh.md, .mod), (srcOk sh.a false x.a, .srcA),
    (sh.link || x.link.val == 0, .link), (sh.off || x.off == 0, .off)]

/-- The memory format: types, orders, whether other spaces than 0 are accepted, operand kinds, the limit of mx (R323, R324). -/
structure MShape where
  ty    : Ty → Bool
  ord   : Order → Bool
  space : Bool
  data  : Kind
  base  : Kind
  index : Kind
  dst   : Kind
  mx    : Nat

def ordAny (_ : Order) : Bool := true
def ordAcq : Order → Bool | .plain | .acquire => true | _ => false
def ordRel : Order → Bool | .plain | .release => true | _ => false
def ordPlain : Order → Bool | .plain => true | _ => false
def ordAr : Order → Bool | .acqRel => true | _ => false

def illM (sh : MShape) (x : MArgs) : Option Ill :=
  firstIll [(sh.ty x.ty, .type), (sh.ord x.order, .order), (x.order != .plain || x.scope == .crew, .scope),
    (sh.space || x.space == .mem, .space), (dstOk sh.dst x.ty.is64 x.dst, .dst), (srcOk sh.data x.ty.is64 x.data, .srcA),
    (srcOk sh.base false x.base, .srcB), (srcOk sh.index x.ty.is64 x.index, .srcC), (decide (x.mx.val < sh.mx), .mx)]

/-- A crdb that is a destination: a scalar register with bits [9:8] = 0 (R326). -/
def crdDst (x : Src) : Bool :=
  (match x.sel with | .s _ => true | _ => false) && !x.kill && !x.trap

/-- The tile format: which of A and B (tensor, direction, coordinates) are used, whether crdb is a destination, the limit of mod (R326). -/
structure TShape where
  tfa  : Bool := false
  tfb  : Bool := false
  crda : Bool := false
  crdb : Bool := false
  dst  : Bool := false
  md   : Nat

def illT (sh : TShape) (x : TArgs) : Option Ill :=
  firstIll [(sh.tfa || (!x.dira && x.tfa.val == 0), .tensor), (sh.tfb || (!x.dirb && x.tfb.val == 0), .tensor),
    (srcOk (if sh.crda then kSK else .zero) false x.crda, .srcA),
    (if sh.dst then crdDst x.crdb else srcOk (if sh.crdb then kSK else .zero) false x.crdb, .srcB),
    (decide (x.md.val < sh.md), .mod)]

/-- The shape of a class V operation in its register form (R320, R355 to R367). -/
def VOp.shape : VOp → RShape
  | .add => ⟨tyAny, mdRnd, kV, kVSK, kVSK, .zero⟩
  | .sub => ⟨tyAny, mdRnd, kV, kVSK, kVSK, .zero⟩
  | .mul => ⟨tyAny, mdRnd, kV, kVSK, kVSK, .zero⟩
  | .mulh => ⟨Ty.isInt, mdZ, kV, kVSK, kVSK, .zero⟩
  | .fma => ⟨tyAny, mdRnd, kV, kVSK, kVSK, kVSK⟩
  | .div => ⟨tyAny, mdRnd, kV, kVSK, kVSK, .zero⟩
  | .min => ⟨tyAny, mdZ, kV, kVSK, kVSK, .zero⟩
  | .max => ⟨tyAny, mdZ, kV, kVSK, kVSK, .zero⟩
  | .abs => ⟨tyAny, mdZ, kV, kVSK, .zero, .zero⟩
  | .neg => ⟨tyAny, mdZ, kV, kVSK, .zero, .zero⟩
  | .sqrt => ⟨Ty.isFloat, mdRnd, kV, kVSK, .zero, .zero⟩
  | .rcp => ⟨Ty.isFloat, mdRnd, kV, kVSK, .zero, .zero⟩
  | .rsqrt => ⟨Ty.isFloat, mdRnd, kV, kVSK, .zero, .zero⟩
  | .exp2 => ⟨Ty.isFloat, mdRnd, kV, kVSK, .zero, .zero⟩
  | .log2 => ⟨Ty.isFloat, mdRnd, kV, kVSK, .zero, .zero⟩
  | .addsat => ⟨Ty.isInt, mdZ, kV, kVSK, kVSK, .zero⟩
  | .subsat => ⟨Ty.isInt, mdZ, kV, kVSK, kVSK, .zero⟩
  | .and => ⟨Ty.isInt, mdZ, kV, kVSK, kVSK, .zero⟩
  | .or => ⟨Ty.isInt, mdZ, kV, kVSK, kVSK, .zero⟩
  | .xor => ⟨Ty.isInt, mdZ, kV, kVSK, kVSK, .zero⟩
  | .not => ⟨Ty.isInt, mdZ, kV, kVSK, .zero, .zero⟩
  | .shl => ⟨Ty.isInt, mdZ, kV, kVSK, kVSK, .zero⟩
  | .shr => ⟨Ty.isInt, mdZ, kV, kVSK, kVSK, .zero⟩
  | .cmp => ⟨tyAny, mdCondV, kM, kVSK, kVSK, .zero⟩
  | .sel => ⟨tyAny, mdZ, kV, kVSK, kVSK, kM⟩
  | .mov => ⟨tyAny, mdZ, kV, kVSK, .zero, .zero⟩
  | .clz => ⟨Ty.isInt, mdZ, kV, kVSK, .zero, .zero⟩
  | .popc => ⟨Ty.isInt, mdZ, kV, kVSK, .zero, .zero⟩
  | .cvt => ⟨tyAny, mdCvt, kV, kVSK, .zero, .zero⟩
  | .pack => ⟨tyNone, mdFmt, kV, kVSK, kVSK32, .zero⟩
  | .unpack => ⟨tyNone, mdFmt, kV, kVSK, kVSK32, .zero⟩
  | .perm => ⟨tyAny, mdZ, kV, kVSK, kVSK32, .zero⟩
  | .shfl => ⟨tyAny, mdShfl, kV, kVSK, kVSK32, kSK⟩
  | .bcast => ⟨tyAny, mdZ, kV, kVSK, kSK, .zero⟩
  | .rdx => ⟨tyAny, mdRdx, kVS, kV, .zero, .zero⟩
  | .scan => ⟨tyAny, mdScan, kV, kV, .zero, .zero⟩
  | .vote => ⟨tyNone, mdVote, kSM, kV, .zero, .zero⟩
  | .frnd => ⟨Ty.isFloat, mdRnd, kV, kVSK, .zero, .zero⟩
  | .cls => ⟨Ty.isFloat, mdZ, kV32, kVSK, .zero, .zero⟩
  | .copysign => ⟨Ty.isFloat, mdZ, kV, kVSK, kVSK, .zero⟩
  | .bfx => ⟨Ty.isInt, mdZ, kV, kVSK, kVSK, .zero⟩
  | .bfi => ⟨Ty.isInt, mdZ, kV, kVSK, kVSK, kVSK⟩
  | .ldexp => ⟨Ty.isFloat, mdRnd, kV, kVSK, kVSK32, .zero⟩
  | .fract => ⟨Ty.isFloat, mdZ, kV, kVSK, .zero, .zero⟩

/-- Which of the three sources an operation uses. -/
def VOp.uses (o : VOp) : Bool × Bool × Bool :=
  (o.shape.a != .zero, o.shape.b != .zero, o.shape.c != .zero)

/-- The register-form arguments a sweep's type and modifiers stand in; the destination is a stream, so a vector or mask one (R322). -/
def SweepArgs.reg (x : SweepArgs) : RArgs :=
  ⟨x.ty, x.pred, x.md, .v 0, Src.zero, Src.zero, Src.zero⟩

/-- The encoding check of a sweep (R312, R322): unused source fields are zero, a literal stands in a source only. -/
def illSweep (x : SweepArgs) : Option Ill :=
  let u := x.op.uses
  firstIll [(x.op.shape.ty x.ty, .type), (x.op.shape.md x.reg, .mod), (x.count.val != 0, .count),
    (x.fd != .lit, .stream), (u.1 || x.fa == .stream 0, .stream), (u.2.1 || x.fb == .stream 0, .stream),
    (u.2.2 || x.fc == .stream 0, .stream)]

/-- The first rule of its encoding that an instruction breaks; the device's events carry no encoding and break none. -/
def Instr.ill : Instr → Option Ill
  | .clauseHeader _ => none
  | .sAdd x => illR ⟨Ty.isInt, (mdLt 1), kS, kSK, kSK, .zero⟩ x
  | .sSub x => illR ⟨Ty.isInt, (mdLt 1), kS, kSK, kSK, .zero⟩ x
  | .sMul x => illR ⟨Ty.isInt, (mdLt 1), kS, kSK, kSK, .zero⟩ x
  | .sMulh x => illR ⟨Ty.isInt, (mdLt 1), kS, kSK, kSK, .zero⟩ x
  | .sDiv x => illR ⟨Ty.isInt, (mdLt 1), kS, kSK, kSK, .zero⟩ x
  | .sRem x => illR ⟨Ty.isInt, (mdLt 1), kS, kSK, kSK, .zero⟩ x
  | .sAbs x => illR ⟨Ty.isInt, (mdLt 1), kS, kSK, .zero, .zero⟩ x
  | .sMin x => illR ⟨Ty.isInt, (mdLt 1), kS, kSK, kSK, .zero⟩ x
  | .sMax x => illR ⟨Ty.isInt, (mdLt 1), kS, kSK, kSK, .zero⟩ x
  | .sAnd x => illR ⟨Ty.isInt, (mdLt 1), kS, kSK, kSK, .zero⟩ x
  | .sOr x => illR ⟨Ty.isInt, (mdLt 1), kS, kSK, kSK, .zero⟩ x
  | .sXor x => illR ⟨Ty.isInt, (mdLt 1), kS, kSK, kSK, .zero⟩ x
  | .sAndn x => illR ⟨Ty.isInt, (mdLt 1), kS, kSK, kSK, .zero⟩ x
  | .sShl x => illR ⟨Ty.isInt, (mdLt 1), kS, kSK, kSK, .zero⟩ x
  | .sShr x => illR ⟨Ty.isInt, (mdLt 1), kS, kSK, kSK, .zero⟩ x
  | .sRotl x => illR ⟨Ty.isInt, (mdLt 1), kS, kSK, kSK, .zero⟩ x
  | .sRotr x => illR ⟨Ty.isInt, (mdLt 1), kS, kSK, kSK, .zero⟩ x
  | .sCmp x => illR ⟨Ty.isInt, mdCondS, kS, kSK, kSK, .zero⟩ x
  | .sSel x => illR ⟨Ty.isInt, (mdLt 1), kS, kSK, kSK, kSK⟩ x
  | .sMov x => illMov ⟨Ty.isInt, (mdLt 1), kSM, kSMK, .zero, .zero⟩ x
  | .sClz x => illR ⟨Ty.isInt, (mdLt 1), kS, kSK, .zero, .zero⟩ x
  | .sCtz x => illR ⟨Ty.isInt, (mdLt 1), kS, kSK, .zero, .zero⟩ x
  | .sPopc x => illR ⟨Ty.isInt, (mdLt 1), kS, kSK, .zero, .zero⟩ x
  | .sBfx x => illR ⟨Ty.isInt, (mdLt 1), kS, kSK, kSK, .zero⟩ x
  | .sBfi x => illR ⟨Ty.isInt, (mdLt 1), kS, kSK, kSK, kSK⟩ x
  | .lea x => illR ⟨Ty.isInt, (mdLt 8), kS, kSK, kSK, .zero⟩ x
  | .sext x => illR ⟨Ty.isInt, (mdLt 1), kS, kSK, kSK, .zero⟩ x
  | .mand x => illR ⟨tyNone, (mdLt 1), kM, kM, kM, .zero⟩ x
  | .mor x => illR ⟨tyNone, (mdLt 1), kM, kM, kM, .zero⟩ x
  | .mxor x => illR ⟨tyNone, (mdLt 1), kM, kM, kM, .zero⟩ x
  | .mandn x => illR ⟨tyNone, (mdLt 1), kM, kM, kM, .zero⟩ x
  | .mnot x => illR ⟨tyNone, (mdLt 1), kM, kM, .zero, .zero⟩ x
  | .mmov x => illR ⟨tyNone, (mdLt 1), kM, kM, .zero, .zero⟩ x
  | .mpop x => illR ⟨tyNone, (mdLt 1), kS, kM, .zero, .zero⟩ x
  | .mfirst x => illR ⟨tyNone, (mdLt 1), kS, kM, .zero, .zero⟩ x
  | .mlow x => illR ⟨tyNone, (mdLt 1), kM, kSK, .zero, .zero⟩ x
  | .vAdd x => illR (VOp.shape .add) x
  | .vSub x => illR (VOp.shape .sub) x
  | .vMul x => illR (VOp.shape .mul) x
  | .vMulh x => illR (VOp.shape .mulh) x
  | .vFma x => illR (VOp.shape .fma) x
  | .vDiv x => illR (VOp.shape .div) x
  | .vMin x => illR (VOp.shape .min) x
  | .vMax x => illR (VOp.shape .max) x
  | .vAbs x => illR (VOp.shape .abs) x
  | .vNeg x => illR (VOp.shape .neg) x
  | .vSqrt x => illR (VOp.shape .sqrt) x
  | .vRcp x => illR (VOp.shape .rcp) x
  | .vRsqrt x => illR (VOp.shape .rsqrt) x
  | .vExp2 x => illR (VOp.shape .exp2) x
  | .vLog2 x => illR (VOp.shape .log2) x
  | .vAddsat x => illR (VOp.shape .addsat) x
  | .vSubsat x => illR (VOp.shape .subsat) x
  | .vAnd x => illR (VOp.shape .and) x
  | .vOr x => illR (VOp.shape .or) x
  | .vXor x => illR (VOp.shape .xor) x
  | .vNot x => illR (VOp.shape .not) x
  | .vShl x => illR (VOp.shape .shl) x
  | .vShr x => illR (VOp.shape .shr) x
  | .vCmp x => illR (VOp.shape .cmp) x
  | .vSel x => illR (VOp.shape .sel) x
  | .vMov x => illR (VOp.shape .mov) x
  | .vClz x => illR (VOp.shape .clz) x
  | .vPopc x => illR (VOp.shape .popc) x
  | .cvt x => illCvt (VOp.shape .cvt) x
  | .pack x => illR (VOp.shape .pack) x
  | .unpack x => illR (VOp.shape .unpack) x
  | .perm x => illR (VOp.shape .perm) x
  | .shfl x => illR (VOp.shape .shfl) x
  | .bcast x => illR (VOp.shape .bcast) x
  | .rdx x => illR (VOp.shape .rdx) x
  | .scan x => illR (VOp.shape .scan) x
  | .vote x => illR (VOp.shape .vote) x
  | .frnd x => illR (VOp.shape .frnd) x
  | .vClass x => illR (VOp.shape .cls) x
  | .copysign x => illR (VOp.shape .copysign) x
  | .vBfx x => illR (VOp.shape .bfx) x
  | .vBfi x => illR (VOp.shape .bfi) x
  | .ldexp x => illR (VOp.shape .ldexp) x
  | .fract x => illR (VOp.shape .fract) x
  | .cp x => illR ⟨tyNone, mdCp, kS, kSK, kSK, kSK⟩ x
  | .cpt x => illR ⟨tyNone, mdCpt, kS, kSK, kSK, kSK⟩ x
  | .cpreset x => illR ⟨tyNone, (mdLt 4), .zero, .zero, .zero, .zero⟩ x
  | .appOpen x => illR ⟨tyNone, (mdLt 1), kS, kSK, .zero, .zero⟩ x
  | .appWr x => illR ⟨tyNone, (mdLt 2), kS, kSK, kSK, kSK⟩ x
  | .appSeal x => illR ⟨tyNone, (mdLt 1), kS, kSK, .zero, .zero⟩ x
  | .appSync x => illR ⟨tyNone, (mdLt 1), kS, kSK, .zero, .zero⟩ x
  | .appClose x => illR ⟨tyNone, (mdLt 1), kS, kSK, .zero, .zero⟩ x
  | .barArrive x => illR ⟨tyNone, (mdLt 1), kS, kSK, kSK, .zero⟩ x
  | .barWait x => illR ⟨tyNone, (mdLt 1), kS, kSK, kSK, .zero⟩ x
  | .barSync x => illR ⟨tyNone, (mdLt 1), kS, kSK, kSK, .zero⟩ x
  | .aboInit x => illR ⟨tyNone, (mdLt 5), .zero, kSK, kSK, .zero⟩ x
  | .aboArrive x => illR ⟨tyNone, (mdLt 1), kS, kSK, kSK, .zero⟩ x
  | .aboWait x => illR ⟨tyNone, (mdLt 1), kS, kSK, kSK, .zero⟩ x
  | .aboTest x => illR ⟨tyNone, (mdLt 1), kS, kSK, kSK, .zero⟩ x
  | .ringInit x => illR ⟨tyNone, (mdLt 1), .zero, kSK, kSK, kSK⟩ x
  | .ringPost x => illR ⟨tyNone, (mdLt 1), kS, kSK, kSK, .zero⟩ x
  | .ringWait x => illR ⟨tyNone, (mdLt 1), kS, kSK, kSK, kSK⟩ x
  | .ringFree x => illR ⟨tyNone, (mdLt 1), .zero, kSK, kSK, .zero⟩ x
  | .evAdd x => illR ⟨tyNone, (mdLt 2), kS, kSK, kSK, .zero⟩ x
  | .evArm x => illR ⟨tyNone, (mdLt 3), kS, kSK, kSK, kSK⟩ x
  | .launch x => illR ⟨tyNone, (mdLt 1), kS, kSK, .zero, .zero⟩ x
  | .cwait x => illR ⟨tyNone, (mdLt 1), kS, kSK, .zero, .zero⟩ x
  | .step x => illR ⟨tyNone, (mdLt 1), .zero, .zero, .zero, .zero⟩ x
  | .send x => illR ⟨tyNone, (mdLt 16), kS, kSK, kSK, kSK⟩ x
  | .narm x => illNarm false ⟨tyNone, (mdLt 1), kS, kSK, kSK, .zero⟩ x
  | .narmCancel x => illNarm true ⟨tyNone, (mdLt 1), kS, kSK, kSK, .zero⟩ x
  | .coll x => illR ⟨tyNone, mdColl, .zero, kSK, kSK, kSK⟩ x
  | .racq x => illR ⟨tyNone, (mdLt 1), .zero, kSK, .zero, .zero⟩ x
  | .rtry x => illR ⟨tyNone, (mdLt 1), kM, kSK, .zero, .zero⟩ x
  | .rrel x => illR ⟨tyNone, (mdLt 1), .zero, kSK, .zero, .zero⟩ x
  | .tftSet x => illR ⟨tyNone, (mdLt 1), kS, kSK, kSK, .zero⟩ x
  | .tftGet x => illR ⟨tyNone, (mdLt 1), .zero, kSK, kSK, .zero⟩ x
  | .tftHist x => illR ⟨tyNone, (mdLt 1), .zero, kSK, kSK, kSK⟩ x
  | .fmap x => illR ⟨tyNone, (mdLt 3), kS, kSK, kSK, .zero⟩ x
  | .tlbh x => illR ⟨tyNone, (mdLt 1), kS, .zero, .zero, .zero⟩ x
  | .sret x => illR ⟨tyNone, (mdLt 1), .zero, .zero, .zero, .zero⟩ x
  | .yield x => illR ⟨tyNone, (mdLt 1), .zero, .zero, .zero, .zero⟩ x
  | .nop x => illR ⟨tyNone, (mdLt 1), .zero, .zero, .zero, .zero⟩ x
  | .halt x => illR ⟨tyNone, (mdLt 1), .zero, .zero, .zero, .zero⟩ x
  | .exit x => illR ⟨tyNone, (mdLt 1), .zero, .zero, .zero, .zero⟩ x
  | .movi x => illI .movi x
  | .addi x => illI .addi x
  | .movhi x => illI .movhi x
  | .sysr x => illI .sysr x
  | .sysw x => illI .sysw x
  | .trap x => illI .imm x
  | .brk x => illI .imm x
  | .br x => illB ⟨6, 0, kS, false, true⟩ x
  | .bmz x => illB ⟨1, 0, kM, false, true⟩ x
  | .bmnz x => illB ⟨1, 0, kM, false, true⟩ x
  | .jump x => illB ⟨1, 0, .zero, false, true⟩ x
  | .jumpR x => illB ⟨1, 1, kS, false, false⟩ x
  | .call x => illB ⟨1, 0, .zero, true, true⟩ x
  | .callR x => illB ⟨1, 1, kS, true, false⟩ x
  | .ret x => illB ⟨1, 0, kS, false, false⟩ x
  | .split x => illB ⟨1, 0, kM, true, true⟩ x
  | .join x => illB ⟨1, 0, kS, false, false⟩ x
  | .ld x => illM ⟨tyAny, ordAcq, true, .zero, kSK, kVSK32, kV, 2⟩ x
  | .st x => illM ⟨tyAny, ordRel, true, kVSK, kSK, kVSK32, .zero, 1⟩ x
  | .ldb x => illM ⟨tyAny, ordAcq, true, .zero, kSK, kSK, kV, 2⟩ x
  | .stb x => illM ⟨tyAny, ordRel, true, kV, kSK, kSK, .zero, 1⟩ x
  | .lds x => illM ⟨tyAny, ordAcq, true, .zero, kSK, kSK, kS, 2⟩ x
  | .sts x => illM ⟨tyAny, ordRel, true, kSK, kSK, kSK, .zero, 1⟩ x
  | .atomAdd x => illM ⟨tyAtomF, ordAny, true, kVSK, kSK, kVSK32, kV, 1⟩ x
  | .atomMin x => illM ⟨tyAtomF, ordAny, true, kVSK, kSK, kVSK32, kV, 1⟩ x
  | .atomMax x => illM ⟨tyAtomF, ordAny, true, kVSK, kSK, kVSK32, kV, 1⟩ x
  | .atomAnd x => illM ⟨tyAtomN, ordAny, true, kVSK, kSK, kVSK32, kV, 1⟩ x
  | .atomOr x => illM ⟨tyAtomN, ordAny, true, kVSK, kSK, kVSK32, kV, 1⟩ x
  | .atomXor x => illM ⟨tyAtomN, ordAny, true, kVSK, kSK, kVSK32, kV, 1⟩ x
  | .atomXchg x => illM ⟨tyAtomN, ordAny, true, kVSK, kSK, kVSK32, kV, 1⟩ x
  | .cas x => illM ⟨tyAtomN, ordAny, true, kVSK, kSK, kVSK32, kV, 1⟩ x
  | .redAdd x => illM ⟨tyAtomF, ordRel, true, kVSK, kSK, kVSK32, .zero, 1⟩ x
  | .redMin x => illM ⟨tyAtomF, ordRel, true, kVSK, kSK, kVSK32, .zero, 1⟩ x
  | .redMax x => illM ⟨tyAtomF, ordRel, true, kVSK, kSK, kVSK32, .zero, 1⟩ x
  | .redAnd x => illM ⟨tyAtomN, ordRel, true, kVSK, kSK, kVSK32, .zero, 1⟩ x
  | .redOr x => illM ⟨tyAtomN, ordRel, true, kVSK, kSK, kVSK32, .zero, 1⟩ x
  | .redXor x => illM ⟨tyAtomN, ordRel, true, kVSK, kSK, kVSK32, .zero, 1⟩ x
  | .fence x => illM ⟨tyNone, ordAr, false, .zero, .zero, .zero, .zero, 1⟩ x
  | .pf x => illM ⟨tyNone, ordPlain, false, .zero, kSK, kVSK32, .zero, 2⟩ x
  | .cinv x => illM ⟨tyNone, ordPlain, false, .zero, kSK, kVSK32, .zero, 1⟩ x
  | .cinvall x => illM ⟨tyNone, ordPlain, false, .zero, .zero, .zero, .zero, 1⟩ x
  | .mz x => illT { md := 4 } x
  | .mm x => illT { tfa := true, tfb := true, crda := true, crdb := true, md := 2 } x
  | .mmv x => illT { tfa := true, tfb := true, crda := true, crdb := true, md := 2 } x
  | .mld x => illT { tfa := true, crda := true, md := 8 } x
  | .mdrain x => illT { tfb := true, crdb := true, md := 1 } x
  | .mwp x => illT { crda := true, md := 1 } x
  | .mwpr x => illT { dst := true, md := 1 } x
  | .mwait x => illT { md := 1 } x
  | .mflag x => illT { dst := true, md := 2 } x
  | .mprog x => illT { dst := true, md := 1 } x
  | .sweep x => illSweep x
  | .demotionTimeout _ => none
  | .storeQueueLeave _ => none
  | .homeSliceWrite _ => none
  | .acknowledgement _ => none
  | .loadResponse _ => none
  | .strikeReport _ => none
  | .coreReclaim _ => none
  | .vlinkBeatReceive _ _ => none
  | .vlinkAckReceive _ _ _ => none
  | .laneTestDone _ _ => none
  | .laneRetrainDone _ => none
  | .rowRefresh _ => none
  | .retentionPatrol _ _ => none
  | .rowRemapCopyDone _ => none
  | .throttle _ _ => none
  | .overTemperature _ => none
  | .undervoltage => none
  | .inputPowerLoss => none
  | .powerGood => none
  | .bootStep _ _ => none
  | .pcieLinkEnable _ _ => none
  | .pcieTrainingDone _ _ _ => none
  | .pcieStreamClear _ _ => none
  | .ingressPostedWrite _ => none
  | .ingressReadRequest _ => none
  | .ingressMsi _ => none
  | .orderingPointAck _ => none
  | .heldWriteForward _ => none
  | .atsTranslationRequest _ => none
  | .priPageRequest _ => none
  | .netLaneFail _ _ => none
  | .stripeTransmit _ _ => none
  | .fragmentReceive _ => none
  | .decodeComplete _ _ => none
  | .stripeDecoded _ _ => none
  | .stripeConfirmTimer _ => none
  | .horizonTimerExpiry _ _ => none
  | .repairRequestReceive _ => none
  | .stripeConfirmationReceive _ => none
  | .messageConfirmationReceive _ => none
  | .refusalReceive _ => none
  | .busyReceive _ => none
  | .busyBackoffExpiry _ => none
  | .lossNoticeReceiveSender _ => none
  | .lossNoticeReceiveReceiver _ => none
  | .closedReceiveSender _ => none
  | .closedReceiveReceiver _ => none
  | .senderDeadlineExpiry _ => none
  | .lossNoticeWaitExpiry _ => none
  | .filterEntryExpiry _ => none
  | .walkStart _ => none
  | .walkComplete _ => none
  | .migrationCopyDone _ => none
  | .shootdownPage _ _ => none
  | .shootdownContext _ _ => none
  | .shootdownTenant _ _ => none
  | .shootdownHarvest _ _ => none
  | .shootdownDone _ => none
  | .harvestTimer _ => none
  | .poolTailWrite _ _ => none
  | .flashReadComplete _ _ => none
  | .relocationBegin _ => none
  | .relocationSwitchEnd _ => none
  | .flashDieFree _ => none
  | .deferralTimeout _ => none
  | .regionEraseDone _ => none
  | .skidderRequestAccept _ => none
  | .extentStaged _ _ => none
  | .sealCommit _ => none
  | .stagingDrain _ _ => none
  | .stagingError _ _ => none
  | .flashBlockFail _ _ => none
  | .launchWindowWrite _ => none
  | .launchRecord _ => none
  | .cmdBindContext => none
  | .cmdUnbindContext => none
  | .cmdSetFrameScheme => none
  | .cmdGrantRegion => none
  | .cmdFreeRegion => none
  | .cmdSetRegionReadOnly => none
  | .cmdAnchorFlashLeaf => none
  | .cmdWriteCodeProfile => none
  | .cmdSetQuotas => none
  | .cmdLoadFirmwareImage => none
  | .cmdCommitFirmware => none
  | .cmdAbortStream => none
  | .cmdResetEngine => none
  | .cmdResetDevice => none
  | .cmdCreateCommunicator => none
  | .cmdDestroyCommunicator => none
  | .cmdUnknownCode => none
  | .fwVerifyDone _ _ => none
  | .cpQuiesceWrite _ => none
  | .handoverTimeout _ => none
  | .cpWdogKick _ _ => none
  | .watchdogQueueStall _ => none
  | .watchdogKickMissed _ => none
  | .engineNoProgress _ => none
  | .hubTimerExpiry => none
  | .tenantReset _ _ => none
  | .gridDieSet _ => none
  | .crewPlace _ => none
  | .crewRetire _ => none
  | .gridRetire _ => none
  | .stepAnnounce _ _ => none
  | .stepChange _ => none
  | .preemptRequest _ _ => none
  | .crewSave _ => none
  | .crewRestore _ => none
  | .shareDecay => none
  | .columnHot _ _ _ => none
  | .bankRoleWrite _ _ => none
  | .bankRoleEffect _ _ => none
  | .copyComplete _ _ => none
  | .tileInstructionStart _ => none
  | .tileBlockDone _ _ => none
  | .tileInstructionComplete _ _ => none
  | .collOutcomeExchange _ _ _ => none
  | .chunkCommandArrive _ _ => none
  | .chunkEnd _ _ => none
  | .collFailureNotice _ _ => none
  | .coreSpareBringIn _ => none
  | .vaultRowRemap _ _ _ => none
  | .registerWrite _ _ _ => none
  | .hostHartAccess _ => none
  | .pcieLinkLoss _ _ => none
  | .networkPortStateChange _ _ => none
  | .copyFaultStall _ _ => none
  | .tenantResetComplete _ => none
  | .dramTemperatureChange _ _ => none

/-- A well-formed instruction: one that passes the encoding check of R302. -/
def Instr.wf (i : Instr) : Bool := i.ill.isNone

/-- An instruction of a clause (R296): one that has a word; the device's events and the header itself have none here. -/
def Instr.isWord : Instr → Bool
  | .clauseHeader _ => false
  | .sAdd _ => true
  | .sSub _ => true
  | .sMul _ => true
  | .sMulh _ => true
  | .sDiv _ => true
  | .sRem _ => true
  | .sAbs _ => true
  | .sMin _ => true
  | .sMax _ => true
  | .sAnd _ => true
  | .sOr _ => true
  | .sXor _ => true
  | .sAndn _ => true
  | .sShl _ => true
  | .sShr _ => true
  | .sRotl _ => true
  | .sRotr _ => true
  | .sCmp _ => true
  | .sSel _ => true
  | .sMov _ => true
  | .sClz _ => true
  | .sCtz _ => true
  | .sPopc _ => true
  | .sBfx _ => true
  | .sBfi _ => true
  | .lea _ => true
  | .sext _ => true
  | .mand _ => true
  | .mor _ => true
  | .mxor _ => true
  | .mandn _ => true
  | .mnot _ => true
  | .mmov _ => true
  | .mpop _ => true
  | .mfirst _ => true
  | .mlow _ => true
  | .movi _ => true
  | .addi _ => true
  | .movhi _ => true
  | .br _ => true
  | .bmz _ => true
  | .bmnz _ => true
  | .jump _ => true
  | .jumpR _ => true
  | .call _ => true
  | .callR _ => true
  | .ret _ => true
  | .split _ => true
  | .join _ => true
  | .vAdd _ => true
  | .vSub _ => true
  | .vMul _ => true
  | .vMulh _ => true
  | .vFma _ => true
  | .vDiv _ => true
  | .vMin _ => true
  | .vMax _ => true
  | .vAbs _ => true
  | .vNeg _ => true
  | .vSqrt _ => true
  | .vRcp _ => true
  | .vRsqrt _ => true
  | .vExp2 _ => true
  | .vLog2 _ => true
  | .vAddsat _ => true
  | .vSubsat _ => true
  | .vAnd _ => true
  | .vOr _ => true
  | .vXor _ => true
  | .vNot _ => true
  | .vShl _ => true
  | .vShr _ => true
  | .vCmp _ => true
  | .vSel _ => true
  | .vMov _ => true
  | .vClz _ => true
  | .vPopc _ => true
  | .cvt _ => true
  | .pack _ => true
  | .unpack _ => true
  | .perm _ => true
  | .shfl _ => true
  | .bcast _ => true
  | .rdx _ => true
  | .scan _ => true
  | .vote _ => true
  | .frnd _ => true
  | .vClass _ => true
  | .copysign _ => true
  | .vBfx _ => true
  | .vBfi _ => true
  | .ldexp _ => true
  | .fract _ => true
  | .sweep _ => true
  | .ld _ => true
  | .st _ => true
  | .ldb _ => true
  | .stb _ => true
  | .lds _ => true
  | .sts _ => true
  | .atomAdd _ => true
  | .atomMin _ => true
  | .atomMax _ => true
  | .atomAnd _ => true
  | .atomOr _ => true
  | .atomXor _ => true
  | .atomXchg _ => true
  | .cas _ => true
  | .redAdd _ => true
  | .redMin _ => true
  | .redMax _ => true
  | .redAnd _ => true
  | .redOr _ => true
  | .redXor _ => true
  | .fence _ => true
  | .pf _ => true
  | .cinv _ => true
  | .cinvall _ => true
  | .cp _ => true
  | .cpt _ => true
  | .cpreset _ => true
  | .appOpen _ => true
  | .appWr _ => true
  | .appSeal _ => true
  | .appSync _ => true
  | .appClose _ => true
  | .mz _ => true
  | .mm _ => true
  | .mmv _ => true
  | .mld _ => true
  | .mdrain _ => true
  | .mwp _ => true
  | .mwpr _ => true
  | .mwait _ => true
  | .mflag _ => true
  | .mprog _ => true
  | .barArrive _ => true
  | .barWait _ => true
  | .barSync _ => true
  | .aboInit _ => true
  | .aboArrive _ => true
  | .aboWait _ => true
  | .aboTest _ => true
  | .ringInit _ => true
  | .ringPost _ => true
  | .ringWait _ => true
  | .ringFree _ => true
  | .evAdd _ => true
  | .evArm _ => true
  | .launch _ => true
  | .cwait _ => true
  | .step _ => true
  | .send _ => true
  | .narm _ => true
  | .narmCancel _ => true
  | .coll _ => true
  | .racq _ => true
  | .rtry _ => true
  | .rrel _ => true
  | .tftSet _ => true
  | .tftGet _ => true
  | .tftHist _ => true
  | .fmap _ => true
  | .tlbh _ => true
  | .sret _ => true
  | .yield _ => true
  | .nop _ => true
  | .halt _ => true
  | .exit _ => true
  | .sysr _ => true
  | .sysw _ => true
  | .trap _ => true
  | .brk _ => true
  | .demotionTimeout _ => false
  | .storeQueueLeave _ => false
  | .homeSliceWrite _ => false
  | .acknowledgement _ => false
  | .loadResponse _ => false
  | .strikeReport _ => false
  | .coreReclaim _ => false
  | .vlinkBeatReceive _ _ => false
  | .vlinkAckReceive _ _ _ => false
  | .laneTestDone _ _ => false
  | .laneRetrainDone _ => false
  | .rowRefresh _ => false
  | .retentionPatrol _ _ => false
  | .rowRemapCopyDone _ => false
  | .throttle _ _ => false
  | .overTemperature _ => false
  | .undervoltage => false
  | .inputPowerLoss => false
  | .powerGood => false
  | .bootStep _ _ => false
  | .pcieLinkEnable _ _ => false
  | .pcieTrainingDone _ _ _ => false
  | .pcieStreamClear _ _ => false
  | .ingressPostedWrite _ => false
  | .ingressReadRequest _ => false
  | .ingressMsi _ => false
  | .orderingPointAck _ => false
  | .heldWriteForward _ => false
  | .atsTranslationRequest _ => false
  | .priPageRequest _ => false
  | .netLaneFail _ _ => false
  | .stripeTransmit _ _ => false
  | .fragmentReceive _ => false
  | .decodeComplete _ _ => false
  | .stripeDecoded _ _ => false
  | .stripeConfirmTimer _ => false
  | .horizonTimerExpiry _ _ => false
  | .repairRequestReceive _ => false
  | .stripeConfirmationReceive _ => false
  | .messageConfirmationReceive _ => false
  | .refusalReceive _ => false
  | .busyReceive _ => false
  | .busyBackoffExpiry _ => false
  | .lossNoticeReceiveSender _ => false
  | .lossNoticeReceiveReceiver _ => false
  | .closedReceiveSender _ => false
  | .closedReceiveReceiver _ => false
  | .senderDeadlineExpiry _ => false
  | .lossNoticeWaitExpiry _ => false
  | .filterEntryExpiry _ => false
  | .walkStart _ => false
  | .walkComplete _ => false
  | .migrationCopyDone _ => false
  | .shootdownPage _ _ => false
  | .shootdownContext _ _ => false
  | .shootdownTenant _ _ => false
  | .shootdownHarvest _ _ => false
  | .shootdownDone _ => false
  | .harvestTimer _ => false
  | .poolTailWrite _ _ => false
  | .flashReadComplete _ _ => false
  | .relocationBegin _ => false
  | .relocationSwitchEnd _ => false
  | .flashDieFree _ => false
  | .deferralTimeout _ => false
  | .regionEraseDone _ => false
  | .skidderRequestAccept _ => false
  | .extentStaged _ _ => false
  | .sealCommit _ => false
  | .stagingDrain _ _ => false
  | .stagingError _ _ => false
  | .flashBlockFail _ _ => false
  | .launchWindowWrite _ => false
  | .launchRecord _ => false
  | .cmdBindContext => false
  | .cmdUnbindContext => false
  | .cmdSetFrameScheme => false
  | .cmdGrantRegion => false
  | .cmdFreeRegion => false
  | .cmdSetRegionReadOnly => false
  | .cmdAnchorFlashLeaf => false
  | .cmdWriteCodeProfile => false
  | .cmdSetQuotas => false
  | .cmdLoadFirmwareImage => false
  | .cmdCommitFirmware => false
  | .cmdAbortStream => false
  | .cmdResetEngine => false
  | .cmdResetDevice => false
  | .cmdCreateCommunicator => false
  | .cmdDestroyCommunicator => false
  | .cmdUnknownCode => false
  | .fwVerifyDone _ _ => false
  | .cpQuiesceWrite _ => false
  | .handoverTimeout _ => false
  | .cpWdogKick _ _ => false
  | .watchdogQueueStall _ => false
  | .watchdogKickMissed _ => false
  | .engineNoProgress _ => false
  | .hubTimerExpiry => false
  | .tenantReset _ _ => false
  | .gridDieSet _ => false
  | .crewPlace _ => false
  | .crewRetire _ => false
  | .gridRetire _ => false
  | .stepAnnounce _ _ => false
  | .stepChange _ => false
  | .preemptRequest _ _ => false
  | .crewSave _ => false
  | .crewRestore _ => false
  | .shareDecay => false
  | .columnHot _ _ _ => false
  | .bankRoleWrite _ _ => false
  | .bankRoleEffect _ _ => false
  | .copyComplete _ _ => false
  | .tileInstructionStart _ => false
  | .tileBlockDone _ _ => false
  | .tileInstructionComplete _ _ => false
  | .collOutcomeExchange _ _ _ => false
  | .chunkCommandArrive _ _ => false
  | .chunkEnd _ _ => false
  | .collFailureNotice _ _ => false
  | .coreSpareBringIn _ => false
  | .vaultRowRemap _ _ _ => false
  | .registerWrite _ _ _ => false
  | .hostHartAccess _ => false
  | .pcieLinkLoss _ _ => false
  | .networkPortStateChange _ _ => false
  | .copyFaultStall _ _ => false
  | .tenantResetComplete _ => false
  | .dramTemperatureChange _ _ => false

end Sys2Proof
end

