-- ==== Sys2Proof/Decode.lean ====
section
/-! DEFINITION. The decoder of clause headers and instruction words (R296 to R328), rejecting by name, and the encoder. -/

namespace Sys2Proof

/-- Why a word is no instruction. The header's reasons are met as cause illegal-clause (R298), the others as illegal-instruction (R328). -/
inductive DecodeErr where
  | headerClass | headerZero | headerWait
  | opcode | typeCode | pred | selector | zeroField | scope | space | stream | ill (e : Ill)
  deriving DecidableEq, Repr

/-! Fields of a word, lowest first: a width and a value each. -/

/-- The number whose fields, from the lowest bit up, have these widths and values. -/
def pack : List (Nat × Nat) → Nat
  | [] => 0
  | (w, v) :: r => v % 2 ^ w + 2 ^ w * pack r

/-- The fields of a number, from the lowest bit up. -/
def unpack : List Nat → Nat → List Nat
  | [], _ => []
  | w :: ws, n => n % 2 ^ w :: unpack ws (n / 2 ^ w)

/-- A number below a bound, as a field of that bound. -/
def fin? (n : Nat) (v : Nat) : Option (Fin n) := if h : v < n then some ⟨v, h⟩ else none

/-- A selector from its 8 bits (R303); 0xD2 to 0xDF are reserved. -/
def selOf (n : Nat) : Option Sel :=
  if h : n < 128 then some (.v ⟨n, h⟩)
  else if h : n - 128 < 64 then some (.s ⟨n - 128, h⟩)
  else if h : n - 192 < 16 then some (.m ⟨n - 192, h⟩)
  else if n == 0xD0 then some .litS
  else if n == 0xD1 then some .litZ
  else if n < 0xE0 then none
  else if h : n - 0xE0 < 32 then some (.const ⟨n - 0xE0, h⟩) else none

/-- The 8 bits of a selector. -/
def selCode : Sel → Nat
  | .v n => n.val
  | .s n => 128 + n.val
  | .m n => 192 + n.val
  | .litS => 0xD0
  | .litZ => 0xD1
  | .const k => 0xE0 + k.val

/-- A source field from its 10 bits (R303). -/
def srcOf (n : Nat) : Option Src :=
  match selOf (n % 256) with
  | none => none
  | some q => some ⟨q, n / 256 % 2 == 1, n / 512 % 2 == 1⟩

def srcCode (x : Src) : Nat := selCode x.sel + 256 * x.kill.toNat + 512 * x.trap.toNat

/-- The predicate from its 5 bits: pe = 0 needs pm = 0 (R301). -/
def predOf (n : Nat) : Option (Option (Fin 16)) :=
  if n == 0 then some none
  else if n < 16 then none
  else if h : n - 16 < 16 then some (some ⟨n - 16, h⟩) else none

def predCode : Option (Fin 16) → Nat
  | none => 0
  | some m => 16 + m.val

def orderOf : Nat → Order
  | 0 => .plain | 1 => .acquire | 2 => .release | _ => .acqRel
def orderCode : Order → Nat
  | .plain => 0 | .acquire => 1 | .release => 2 | .acqRel => 3
def scopeOf : Nat → Option Scope
  | 0 => some .crew | 1 => some .core | 2 => some .grove | 3 => some .device | 4 => some .system | _ => none
def scopeCode : Scope → Nat
  | .crew => 0 | .core => 1 | .grove => 2 | .device => 3 | .system => 4
def spaceOf : Nat → Option Space
  | 0 => some .mem | 1 => some .ls | 2 => some .vlt | _ => none
def spaceCode : Space → Nat
  | .mem => 0 | .ls => 1 | .vlt => 2

/-- A sweep field from its 6 bits (R312). -/
def swfOf (n : Nat) : Option SwF :=
  if h : n < 32 then some (.stream ⟨n, h⟩) else if n == 32 then some .lit else none
def swfCode : SwF → Nat
  | .stream n => n.val
  | .lit => 32

/-- Class codes (R296). -/
def Cls.ofCode : Nat → Option Cls
  | 0 => some .s | 1 => some .v | 2 => some .m | 3 => some .t | 4 => some .x | _ => none
def Cls.code : Cls → Nat
  | .s => 0 | .v => 1 | .m => 2 | .t => 3 | .x => 4

/-- Answer a part of a word, or the name of what is wrong with it. -/
def need {α : Type} (e : DecodeErr) : Option α → Except DecodeErr α
  | some a => .ok a
  | none => .error e

/-- The register format (R307): widths from bit 0 up. -/
def parseR (n : Nat) : Except DecodeErr RArgs :=
  match unpack [2, 8, 10, 10, 10, 7, 5, 4] n with
  | [z, d, a, b, c, md, p, t] => do
    let ty ← need .typeCode (Ty.ofCode t)
    let pred ← need .pred (predOf p)
    if z != 0 then .error .zeroField
    let a ← need .selector (srcOf a)
    let b ← need .selector (srcOf b)
    let c ← need .selector (srcOf c)
    let d ← need .selector (selOf d)
    let md ← need .zeroField (fin? 128 md)
    .ok ⟨ty, pred, md, d, a, b, c⟩
  | _ => .error .zeroField

def encR (x : RArgs) (op : Nat) : Nat :=
  pack [(2, 0), (8, selCode x.dst), (10, srcCode x.a), (10, srcCode x.b), (10, srcCode x.c), (7, x.md.val), (5, predCode x.pred),
    (4, x.ty.code), (8, op)]

/-- The immediate format (R308). -/
def parseI (n : Nat) : Except DecodeErr IArgs :=
  match unpack [22, 10, 8, 7, 5, 4] n with
  | [i, a, d, md, p, t] => do
    let ty ← need .typeCode (Ty.ofCode t)
    let pred ← need .pred (predOf p)
    let a ← need .selector (srcOf a)
    let d ← need .selector (selOf d)
    let md ← need .zeroField (fin? 128 md)
    .ok ⟨ty, pred, md, d, a, BitVec.ofNat 22 i⟩
  | _ => .error .zeroField

def encI (x : IArgs) (op : Nat) : Nat :=
  pack [(22, x.imm.toNat), (10, srcCode x.a), (8, selCode x.dst), (7, x.md.val), (5, predCode x.pred), (4, x.ty.code), (8, op)]

/-- The branch format (R311). -/
def parseB (n : Nat) : Except DecodeErr BArgs :=
  match unpack [24, 6, 10, 7, 5, 4] n with
  | [o, l, a, md, p, cc] => do
    let pred ← need .pred (predOf p)
    let a ← need .selector (srcOf a)
    let md ← need .zeroField (fin? 128 md)
    let l ← need .zeroField (fin? 64 l)
    let cc ← need .zeroField (fin? 16 cc)
    .ok ⟨cc, pred, md, a, l, BitVec.ofNat 24 o⟩
  | _ => .error .zeroField

def encB (x : BArgs) (op : Nat) : Nat :=
  pack [(24, x.off.toNat), (6, x.link.val), (10, srcCode x.a), (7, x.md.val), (5, predCode x.pred), (4, x.cond.val), (8, op)]

/-- The memory format (R309). -/
def parseM (n : Nat) : Except DecodeErr MArgs :=
  match unpack [2, 8, 10, 10, 10, 2, 3, 2, 5, 4] n with
  | [mx, d, ix, bs, dt, sp, sc, od, p, t] => do
    let ty ← need .typeCode (Ty.ofCode t)
    let pred ← need .pred (predOf p)
    let scope ← need .scope (scopeOf sc)
    let space ← need .space (spaceOf sp)
    let dt ← need .selector (srcOf dt)
    let bs ← need .selector (srcOf bs)
    let ix ← need .selector (srcOf ix)
    let d ← need .selector (selOf d)
    let mx ← need .zeroField (fin? 4 mx)
    .ok ⟨ty, pred, orderOf od, scope, space, dt, bs, ix, d, mx⟩
  | _ => .error .zeroField

def encM (x : MArgs) (op : Nat) : Nat :=
  pack [(2, x.mx.val), (8, selCode x.dst), (10, srcCode x.index), (10, srcCode x.base), (10, srcCode x.data), (2, spaceCode x.space),
    (3, scopeCode x.scope), (2, orderCode x.order), (5, predCode x.pred), (4, x.ty.code), (8, op)]

/-- The tile format (R310). -/
def parseT (n : Nat) : Except DecodeErr TArgs :=
  match unpack [6, 10, 10, 8, 8, 1, 1, 3, 5, 4] n with
  | [md, cb, ca, tb, ta, db, da, tl, p, z] => do
    let pred ← need .pred (predOf p)
    if z != 0 then .error .zeroField
    let cb ← need .selector (srcOf cb)
    let ca ← need .selector (srcOf ca)
    let md ← need .zeroField (fin? 64 md)
    let ta ← need .zeroField (fin? 256 ta)
    let tb ← need .zeroField (fin? 256 tb)
    let tl ← need .zeroField (fin? 8 tl)
    .ok ⟨pred, tl, da == 1, db == 1, ta, tb, ca, cb, md⟩
  | _ => .error .zeroField

def encT (x : TArgs) (op : Nat) : Nat :=
  pack [(6, x.md.val), (10, srcCode x.crdb), (10, srcCode x.crda), (8, x.tfb.val), (8, x.tfa.val), (1, x.dirb.toNat), (1, x.dira.toNat),
    (3, x.tile.val), (5, predCode x.pred), (4, 0), (8, op)]

/-- The operations of class V in opcode order (R320). -/
def VOp.ofCode : Nat → Option VOp
  | 0 => some .add
  | 1 => some .sub
  | 2 => some .mul
  | 3 => some .mulh
  | 4 => some .fma
  | 5 => some .div
  | 6 => some .min
  | 7 => some .max
  | 8 => some .abs
  | 9 => some .neg
  | 10 => some .sqrt
  | 11 => some .rcp
  | 12 => some .rsqrt
  | 13 => some .exp2
  | 14 => some .log2
  | 15 => some .addsat
  | 16 => some .subsat
  | 17 => some .and
  | 18 => some .or
  | 19 => some .xor
  | 20 => some .not
  | 21 => some .shl
  | 22 => some .shr
  | 23 => some .cmp
  | 24 => some .sel
  | 25 => some .mov
  | 26 => some .clz
  | 27 => some .popc
  | 28 => some .cvt
  | 29 => some .pack
  | 30 => some .unpack
  | 31 => some .perm
  | 32 => some .shfl
  | 33 => some .bcast
  | 34 => some .rdx
  | 35 => some .scan
  | 36 => some .vote
  | 37 => some .frnd
  | 38 => some .cls
  | 39 => some .copysign
  | 40 => some .bfx
  | 41 => some .bfi
  | 42 => some .ldexp
  | 43 => some .fract
  | _ => none

/-- The opcode of a class V operation (R320). -/
def VOp.code : VOp → Nat
  | .add => 0
  | .sub => 1
  | .mul => 2
  | .mulh => 3
  | .fma => 4
  | .div => 5
  | .min => 6
  | .max => 7
  | .abs => 8
  | .neg => 9
  | .sqrt => 10
  | .rcp => 11
  | .rsqrt => 12
  | .exp2 => 13
  | .log2 => 14
  | .addsat => 15
  | .subsat => 16
  | .and => 17
  | .or => 18
  | .xor => 19
  | .not => 20
  | .shl => 21
  | .shr => 22
  | .cmp => 23
  | .sel => 24
  | .mov => 25
  | .clz => 26
  | .popc => 27
  | .cvt => 28
  | .pack => 29
  | .unpack => 30
  | .perm => 31
  | .shfl => 32
  | .bcast => 33
  | .rdx => 34
  | .scan => 35
  | .vote => 36
  | .frnd => 37
  | .cls => 38
  | .copysign => 39
  | .bfx => 40
  | .bfi => 41
  | .ldexp => 42
  | .fract => 43

/-- The sweep format (R312, R322). -/
def parseSweep (op : VOp) (n : Nat) : Except DecodeErr SweepArgs :=
  match unpack [4, 6, 6, 6, 6, 12, 7, 5, 4] n with
  | [z, fc, fb, fa, fd, ct, md, p, t] => do
    let ty ← need .typeCode (Ty.ofCode t)
    let pred ← need .pred (predOf p)
    if z != 0 then .error .zeroField
    let fd ← need .stream (swfOf fd)
    let fa ← need .stream (swfOf fa)
    let fb ← need .stream (swfOf fb)
    let fc ← need .stream (swfOf fc)
    let ct ← need .zeroField (fin? 4096 ct)
    let md ← need .zeroField (fin? 128 md)
    .ok ⟨op, ty, pred, md, ct, fd, fa, fb, fc⟩
  | _ => .error .zeroField

def encSweep (x : SweepArgs) : Nat :=
  pack [(4, 0), (6, swfCode x.fc), (6, swfCode x.fb), (6, swfCode x.fa), (6, swfCode x.fd), (12, x.count.val), (7, x.md.val),
    (5, predCode x.pred), (4, x.ty.code), (8, 0x80 + x.op.code)]

/-- The register-format instructions of a class by opcode (R318, R320, R325, R327). -/
def buildR : Cls → Nat → Option (RArgs → Instr)
  | .s, 0x0 => some .sAdd
  | .s, 0x1 => some .sSub
  | .s, 0x2 => some .sMul
  | .s, 0x3 => some .sMulh
  | .s, 0x4 => some .sDiv
  | .s, 0x5 => some .sRem
  | .s, 0x6 => some .sAbs
  | .s, 0x7 => some .sMin
  | .s, 0x8 => some .sMax
  | .s, 0x9 => some .sAnd
  | .s, 0xa => some .sOr
  | .s, 0xb => some .sXor
  | .s, 0xc => some .sAndn
  | .s, 0xd => some .sShl
  | .s, 0xe => some .sShr
  | .s, 0xf => some .sRotl
  | .s, 0x10 => some .sRotr
  | .s, 0x11 => some .sCmp
  | .s, 0x12 => some .sSel
  | .s, 0x13 => some .sMov
  | .s, 0x14 => some .sClz
  | .s, 0x15 => some .sCtz
  | .s, 0x16 => some .sPopc
  | .s, 0x17 => some .sBfx
  | .s, 0x18 => some .sBfi
  | .s, 0x19 => some .lea
  | .s, 0x1a => some .sext
  | .s, 0x20 => some .mand
  | .s, 0x21 => some .mor
  | .s, 0x22 => some .mxor
  | .s, 0x23 => some .mandn
  | .s, 0x24 => some .mnot
  | .s, 0x25 => some .mmov
  | .s, 0x26 => some .mpop
  | .s, 0x27 => some .mfirst
  | .s, 0x28 => some .mlow
  | .v, 0x0 => some .vAdd
  | .v, 0x1 => some .vSub
  | .v, 0x2 => some .vMul
  | .v, 0x3 => some .vMulh
  | .v, 0x4 => some .vFma
  | .v, 0x5 => some .vDiv
  | .v, 0x6 => some .vMin
  | .v, 0x7 => some .vMax
  | .v, 0x8 => some .vAbs
  | .v, 0x9 => some .vNeg
  | .v, 0xa => some .vSqrt
  | .v, 0xb => some .vRcp
  | .v, 0xc => some .vRsqrt
  | .v, 0xd => some .vExp2
  | .v, 0xe => some .vLog2
  | .v, 0xf => some .vAddsat
  | .v, 0x10 => some .vSubsat
  | .v, 0x11 => some .vAnd
  | .v, 0x12 => some .vOr
  | .v, 0x13 => some .vXor
  | .v, 0x14 => some .vNot
  | .v, 0x15 => some .vShl
  | .v, 0x16 => some .vShr
  | .v, 0x17 => some .vCmp
  | .v, 0x18 => some .vSel
  | .v, 0x19 => some .vMov
  | .v, 0x1a => some .vClz
  | .v, 0x1b => some .vPopc
  | .v, 0x1c => some .cvt
  | .v, 0x1d => some .pack
  | .v, 0x1e => some .unpack
  | .v, 0x1f => some .perm
  | .v, 0x20 => some .shfl
  | .v, 0x21 => some .bcast
  | .v, 0x22 => some .rdx
  | .v, 0x23 => some .scan
  | .v, 0x24 => some .vote
  | .v, 0x25 => some .frnd
  | .v, 0x26 => some .vClass
  | .v, 0x27 => some .copysign
  | .v, 0x28 => some .vBfx
  | .v, 0x29 => some .vBfi
  | .v, 0x2a => some .ldexp
  | .v, 0x2b => some .fract
  | .m, 0x20 => some .cp
  | .m, 0x21 => some .cpt
  | .m, 0x22 => some .cpreset
  | .m, 0x28 => some .appOpen
  | .m, 0x29 => some .appWr
  | .m, 0x2a => some .appSeal
  | .m, 0x2b => some .appSync
  | .m, 0x2c => some .appClose
  | .x, 0x0 => some .barArrive
  | .x, 0x1 => some .barWait
  | .x, 0x2 => some .barSync
  | .x, 0x3 => some .aboInit
  | .x, 0x4 => some .aboArrive
  | .x, 0x5 => some .aboWait
  | .x, 0x6 => some .aboTest
  | .x, 0x7 => some .ringInit
  | .x, 0x8 => some .ringPost
  | .x, 0x9 => some .ringWait
  | .x, 0xa => some .ringFree
  | .x, 0xb => some .evAdd
  | .x, 0xc => some .evArm
  | .x, 0xd => some .launch
  | .x, 0xe => some .cwait
  | .x, 0xf => some .step
  | .x, 0x10 => some .send
  | .x, 0x11 => some fun x => if x.a.sel = .const 0 then .narmCancel x else .narm x
  | .x, 0x12 => some .coll
  | .x, 0x13 => some .racq
  | .x, 0x14 => some .rtry
  | .x, 0x15 => some .rrel
  | .x, 0x16 => some .tftSet
  | .x, 0x17 => some .tftGet
  | .x, 0x18 => some .tftHist
  | .x, 0x19 => some .fmap
  | .x, 0x1a => some .tlbh
  | .x, 0x1b => some .sret
  | .x, 0x1c => some .yield
  | .x, 0x1d => some .nop
  | .x, 0x1e => some .halt
  | .x, 0x1f => some .exit
  | _, _ => none

/-- The immediate-format instructions (R318, R327). -/
def buildI : Cls → Nat → Option (IArgs → Instr)
  | .s, 0x40 => some .movi
  | .s, 0x41 => some .addi
  | .s, 0x42 => some .movhi
  | .x, 0x40 => some .sysr
  | .x, 0x41 => some .sysw
  | .x, 0x42 => some .trap
  | .x, 0x43 => some .brk
  | _, _ => none

/-- The branch-format instructions; mod[0] tells a register target of jump and call (R318). -/
def buildB : Nat → Option (BArgs → Instr)
  | 0x80 => some .br
  | 0x81 => some .bmz
  | 0x82 => some .bmnz
  | 0x83 => some fun x => if x.md.val = 0 then .jump x else .jumpR x
  | 0x84 => some fun x => if x.md.val = 0 then .call x else .callR x
  | 0x85 => some .ret
  | 0x86 => some .split
  | 0x87 => some .join
  | _ => none

/-- The memory-format instructions (R323). -/
def buildM : Nat → Option (MArgs → Instr)
  | 0x0 => some .ld
  | 0x1 => some .st
  | 0x2 => some .ldb
  | 0x3 => some .stb
  | 0x4 => some .lds
  | 0x5 => some .sts
  | 0x8 => some .atomAdd
  | 0x9 => some .atomMin
  | 0xa => some .atomMax
  | 0xb => some .atomAnd
  | 0xc => some .atomOr
  | 0xd => some .atomXor
  | 0xe => some .atomXchg
  | 0xf => some .cas
  | 0x10 => some .redAdd
  | 0x11 => some .redMin
  | 0x12 => some .redMax
  | 0x13 => some .redAnd
  | 0x14 => some .redOr
  | 0x15 => some .redXor
  | 0x18 => some .fence
  | 0x19 => some .pf
  | 0x1a => some .cinv
  | 0x1b => some .cinvall
  | _ => none

/-- The tile-format instructions (R326). -/
def buildT : Nat → Option (TArgs → Instr)
  | 0x0 => some .mz
  | 0x1 => some .mm
  | 0x2 => some .mmv
  | 0x3 => some .mld
  | 0x4 => some .mdrain
  | 0x5 => some .mwp
  | 0x6 => some .mwpr
  | 0x7 => some .mwait
  | 0x8 => some .mflag
  | 0x9 => some .mprog
  | _ => none

/-- The formats of a class by opcode range (R315). -/
def decodeRaw (cls : Cls) (n : Nat) : Except DecodeErr Instr :=
  let op := n / 2 ^ 56 % 256
  match cls with
  | .s =>
    if op < 0x40 then do let f ← need .opcode (buildR .s op); let x ← parseR n; .ok (f x)
    else if op < 0x80 then do let f ← need .opcode (buildI .s op); let x ← parseI n; .ok (f x)
    else do let f ← need .opcode (buildB op); let x ← parseB n; .ok (f x)
  | .v =>
    if op < 0x80 then do let f ← need .opcode (buildR .v op); let x ← parseR n; .ok (f x)
    else do let o ← need .opcode (VOp.ofCode (op - 0x80)); let x ← parseSweep o n; .ok (.sweep x)
  | .m =>
    if op < 0x20 then do let f ← need .opcode (buildM op); let x ← parseM n; .ok (f x)
    else do let f ← need .opcode (buildR .m op); let x ← parseR n; .ok (f x)
  | .t => do let f ← need .opcode (buildT op); let x ← parseT n; .ok (f x)
  | .x =>
    if op < 0x40 then do let f ← need .opcode (buildR .x op); let x ← parseR n; .ok (f x)
    else do let f ← need .opcode (buildI .x op); let x ← parseI n; .ok (f x)

/-- The instruction of a word in a clause of a class, or the name of what makes it illegal (R328). -/
def decodeWord (cls : Cls) (w : Word) : Except DecodeErr Instr :=
  match decodeRaw cls w.toNat with
  | .error e => .error e
  | .ok i => match i.ill with
    | none => .ok i
    | some e => .error (.ill e)

/-- The class and the word of an instruction; the device's events and the header have none here. -/
def encode : Instr → Option (Cls × Nat)
  | .clauseHeader _ => none
  | .sAdd x => some (.s, encR x 0x0)
  | .sSub x => some (.s, encR x 0x1)
  | .sMul x => some (.s, encR x 0x2)
  | .sMulh x => some (.s, encR x 0x3)
  | .sDiv x => some (.s, encR x 0x4)
  | .sRem x => some (.s, encR x 0x5)
  | .sAbs x => some (.s, encR x 0x6)
  | .sMin x => some (.s, encR x 0x7)
  | .sMax x => some (.s, encR x 0x8)
  | .sAnd x => some (.s, encR x 0x9)
  | .sOr x => some (.s, encR x 0xa)
  | .sXor x => some (.s, encR x 0xb)
  | .sAndn x => some (.s, encR x 0xc)
  | .sShl x => some (.s, encR x 0xd)
  | .sShr x => some (.s, encR x 0xe)
  | .sRotl x => some (.s, encR x 0xf)
  | .sRotr x => some (.s, encR x 0x10)
  | .sCmp x => some (.s, encR x 0x11)
  | .sSel x => some (.s, encR x 0x12)
  | .sMov x => some (.s, encR x 0x13)
  | .sClz x => some (.s, encR x 0x14)
  | .sCtz x => some (.s, encR x 0x15)
  | .sPopc x => some (.s, encR x 0x16)
  | .sBfx x => some (.s, encR x 0x17)
  | .sBfi x => some (.s, encR x 0x18)
  | .lea x => some (.s, encR x 0x19)
  | .sext x => some (.s, encR x 0x1a)
  | .mand x => some (.s, encR x 0x20)
  | .mor x => some (.s, encR x 0x21)
  | .mxor x => some (.s, encR x 0x22)
  | .mandn x => some (.s, encR x 0x23)
  | .mnot x => some (.s, encR x 0x24)
  | .mmov x => some (.s, encR x 0x25)
  | .mpop x => some (.s, encR x 0x26)
  | .mfirst x => some (.s, encR x 0x27)
  | .mlow x => some (.s, encR x 0x28)
  | .vAdd x => some (.v, encR x 0x0)
  | .vSub x => some (.v, encR x 0x1)
  | .vMul x => some (.v, encR x 0x2)
  | .vMulh x => some (.v, encR x 0x3)
  | .vFma x => some (.v, encR x 0x4)
  | .vDiv x => some (.v, encR x 0x5)
  | .vMin x => some (.v, encR x 0x6)
  | .vMax x => some (.v, encR x 0x7)
  | .vAbs x => some (.v, encR x 0x8)
  | .vNeg x => some (.v, encR x 0x9)
  | .vSqrt x => some (.v, encR x 0xa)
  | .vRcp x => some (.v, encR x 0xb)
  | .vRsqrt x => some (.v, encR x 0xc)
  | .vExp2 x => some (.v, encR x 0xd)
  | .vLog2 x => some (.v, encR x 0xe)
  | .vAddsat x => some (.v, encR x 0xf)
  | .vSubsat x => some (.v, encR x 0x10)
  | .vAnd x => some (.v, encR x 0x11)
  | .vOr x => some (.v, encR x 0x12)
  | .vXor x => some (.v, encR x 0x13)
  | .vNot x => some (.v, encR x 0x14)
  | .vShl x => some (.v, encR x 0x15)
  | .vShr x => some (.v, encR x 0x16)
  | .vCmp x => some (.v, encR x 0x17)
  | .vSel x => some (.v, encR x 0x18)
  | .vMov x => some (.v, encR x 0x19)
  | .vClz x => some (.v, encR x 0x1a)
  | .vPopc x => some (.v, encR x 0x1b)
  | .cvt x => some (.v, encR x 0x1c)
  | .pack x => some (.v, encR x 0x1d)
  | .unpack x => some (.v, encR x 0x1e)
  | .perm x => some (.v, encR x 0x1f)
  | .shfl x => some (.v, encR x 0x20)
  | .bcast x => some (.v, encR x 0x21)
  | .rdx x => some (.v, encR x 0x22)
  | .scan x => some (.v, encR x 0x23)
  | .vote x => some (.v, encR x 0x24)
  | .frnd x => some (.v, encR x 0x25)
  | .vClass x => some (.v, encR x 0x26)
  | .copysign x => some (.v, encR x 0x27)
  | .vBfx x => some (.v, encR x 0x28)
  | .vBfi x => some (.v, encR x 0x29)
  | .ldexp x => some (.v, encR x 0x2a)
  | .fract x => some (.v, encR x 0x2b)
  | .cp x => some (.m, encR x 0x20)
  | .cpt x => some (.m, encR x 0x21)
  | .cpreset x => some (.m, encR x 0x22)
  | .appOpen x => some (.m, encR x 0x28)
  | .appWr x => some (.m, encR x 0x29)
  | .appSeal x => some (.m, encR x 0x2a)
  | .appSync x => some (.m, encR x 0x2b)
  | .appClose x => some (.m, encR x 0x2c)
  | .barArrive x => some (.x, encR x 0x0)
  | .barWait x => some (.x, encR x 0x1)
  | .barSync x => some (.x, encR x 0x2)
  | .aboInit x => some (.x, encR x 0x3)
  | .aboArrive x => some (.x, encR x 0x4)
  | .aboWait x => some (.x, encR x 0x5)
  | .aboTest x => some (.x, encR x 0x6)
  | .ringInit x => some (.x, encR x 0x7)
  | .ringPost x => some (.x, encR x 0x8)
  | .ringWait x => some (.x, encR x 0x9)
  | .ringFree x => some (.x, encR x 0xa)
  | .evAdd x => some (.x, encR x 0xb)
  | .evArm x => some (.x, encR x 0xc)
  | .launch x => some (.x, encR x 0xd)
  | .cwait x => some (.x, encR x 0xe)
  | .step x => some (.x, encR x 0xf)
  | .send x => some (.x, encR x 0x10)
  | .narm x => some (.x, encR x 0x11)
  | .narmCancel x => some (.x, encR x 0x11)
  | .coll x => some (.x, encR x 0x12)
  | .racq x => some (.x, encR x 0x13)
  | .rtry x => some (.x, encR x 0x14)
  | .rrel x => some (.x, encR x 0x15)
  | .tftSet x => some (.x, encR x 0x16)
  | .tftGet x => some (.x, encR x 0x17)
  | .tftHist x => some (.x, encR x 0x18)
  | .fmap x => some (.x, encR x 0x19)
  | .tlbh x => some (.x, encR x 0x1a)
  | .sret x => some (.x, encR x 0x1b)
  | .yield x => some (.x, encR x 0x1c)
  | .nop x => some (.x, encR x 0x1d)
  | .halt x => some (.x, encR x 0x1e)
  | .exit x => some (.x, encR x 0x1f)
  | .movi x => some (.s, encI x 0x40)
  | .addi x => some (.s, encI x 0x41)
  | .movhi x => some (.s, encI x 0x42)
  | .sysr x => some (.x, encI x 0x40)
  | .sysw x => some (.x, encI x 0x41)
  | .trap x => some (.x, encI x 0x42)
  | .brk x => some (.x, encI x 0x43)
  | .br x => some (.s, encB x 0x80)
  | .bmz x => some (.s, encB x 0x81)
  | .bmnz x => some (.s, encB x 0x82)
  | .jump x => some (.s, encB x 0x83)
  | .jumpR x => some (.s, encB x 0x83)
  | .call x => some (.s, encB x 0x84)
  | .callR x => some (.s, encB x 0x84)
  | .ret x => some (.s, encB x 0x85)
  | .split x => some (.s, encB x 0x86)
  | .join x => some (.s, encB x 0x87)
  | .ld x => some (.m, encM x 0x0)
  | .st x => some (.m, encM x 0x1)
  | .ldb x => some (.m, encM x 0x2)
  | .stb x => some (.m, encM x 0x3)
  | .lds x => some (.m, encM x 0x4)
  | .sts x => some (.m, encM x 0x5)
  | .atomAdd x => some (.m, encM x 0x8)
  | .atomMin x => some (.m, encM x 0x9)
  | .atomMax x => some (.m, encM x 0xa)
  | .atomAnd x => some (.m, encM x 0xb)
  | .atomOr x => some (.m, encM x 0xc)
  | .atomXor x => some (.m, encM x 0xd)
  | .atomXchg x => some (.m, encM x 0xe)
  | .cas x => some (.m, encM x 0xf)
  | .redAdd x => some (.m, encM x 0x10)
  | .redMin x => some (.m, encM x 0x11)
  | .redMax x => some (.m, encM x 0x12)
  | .redAnd x => some (.m, encM x 0x13)
  | .redOr x => some (.m, encM x 0x14)
  | .redXor x => some (.m, encM x 0x15)
  | .fence x => some (.m, encM x 0x18)
  | .pf x => some (.m, encM x 0x19)
  | .cinv x => some (.m, encM x 0x1a)
  | .cinvall x => some (.m, encM x 0x1b)
  | .mz x => some (.t, encT x 0x0)
  | .mm x => some (.t, encT x 0x1)
  | .mmv x => some (.t, encT x 0x2)
  | .mld x => some (.t, encT x 0x3)
  | .mdrain x => some (.t, encT x 0x4)
  | .mwp x => some (.t, encT x 0x5)
  | .mwpr x => some (.t, encT x 0x6)
  | .mwait x => some (.t, encT x 0x7)
  | .mflag x => some (.t, encT x 0x8)
  | .mprog x => some (.t, encT x 0x9)
  | .sweep x => some (.v, encSweep x)
  | .demotionTimeout _ => none
  | .storeQueueLeave _ => none
  | .homeSliceWrite _ => none
  | .acknowledgement _ => none
  | .loadResponse _ => none
  | .strikeReport _ => none
  | .coreReclaim _ => none
  | .vlinkBeatReceive _ _ => none
  | .vlinkAckReceive _ _ _ => none
  | .laneTestDone _ _ => none
  | .laneRetrainDone _ => none
  | .rowRefresh _ => none
  | .retentionPatrol _ _ => none
  | .rowRemapCopyDone _ => none
  | .throttle _ _ => none
  | .overTemperature _ => none
  | .undervoltage => none
  | .inputPowerLoss => none
  | .powerGood => none
  | .bootStep _ _ => none
  | .pcieLinkEnable _ _ => none
  | .pcieTrainingDone _ _ _ => none
  | .pcieStreamClear _ _ => none
  | .ingressPostedWrite _ => none
  | .ingressReadRequest _ => none
  | .ingressMsi _ => none
  | .orderingPointAck _ => none
  | .heldWriteForward _ => none
  | .atsTranslationRequest _ => none
  | .priPageRequest _ => none
  | .netLaneFail _ _ => none
  | .stripeTransmit _ _ => none
  | .fragmentReceive _ => none
  | .decodeComplete _ _ => none
  | .stripeDecoded _ _ => none
  | .stripeConfirmTimer _ => none
  | .horizonTimerExpiry _ _ => none
  | .repairRequestReceive _ => none
  | .stripeConfirmationReceive _ => none
  | .messageConfirmationReceive _ => none
  | .refusalReceive _ => none
  | .busyReceive _ => none
  | .busyBackoffExpiry _ => none
  | .lossNoticeReceiveSender _ => none
  | .lossNoticeReceiveReceiver _ => none
  | .closedReceiveSender _ => none
  | .closedReceiveReceiver _ => none
  | .senderDeadlineExpiry _ => none
  | .lossNoticeWaitExpiry _ => none
  | .filterEntryExpiry _ => none
  | .walkStart _ => none
  | .walkComplete _ => none
  | .migrationCopyDone _ => none
  | .shootdownPage _ _ => none
  | .shootdownContext _ _ => none
  | .shootdownTenant _ _ => none
  | .shootdownHarvest _ _ => none
  | .shootdownDone _ => none
  | .harvestTimer _ => none
  | .poolTailWrite _ _ => none
  | .flashReadComplete _ _ => none
  | .relocationBegin _ => none
  | .relocationSwitchEnd _ => none
  | .flashDieFree _ => none
  | .deferralTimeout _ => none
  | .regionEraseDone _ => none
  | .skidderRequestAccept _ => none
  | .extentStaged _ _ => none
  | .sealCommit _ => none
  | .stagingDrain _ _ => none
  | .stagingError _ _ => none
  | .flashBlockFail _ _ => none
  | .launchWindowWrite _ => none
  | .launchRecord _ => none
  | .cmdBindContext => none
  | .cmdUnbindContext => none
  | .cmdSetFrameScheme => none
  | .cmdGrantRegion => none
  | .cmdFreeRegion => none
  | .cmdSetRegionReadOnly => none
  | .cmdAnchorFlashLeaf => none
  | .cmdWriteCodeProfile => none
  | .cmdSetQuotas => none
  | .cmdLoadFirmwareImage => none
  | .cmdCommitFirmware => none
  | .cmdAbortStream => none
  | .cmdResetEngine => none
  | .cmdResetDevice => none
  | .cmdCreateCommunicator => none
  | .cmdDestroyCommunicator => none
  | .cmdUnknownCode => none
  | .fwVerifyDone _ _ => none
  | .cpQuiesceWrite _ => none
  | .handoverTimeout _ => none
  | .cpWdogKick _ _ => none
  | .watchdogQueueStall _ => none
  | .watchdogKickMissed _ => none
  | .engineNoProgress _ => none
  | .hubTimerExpiry => none
  | .tenantReset _ _ => none
  | .gridDieSet _ => none
  | .crewPlace _ => none
  | .crewRetire _ => none
  | .gridRetire _ => none
  | .stepAnnounce _ _ => none
  | .stepChange _ => none
  | .preemptRequest _ _ => none
  | .crewSave _ => none
  | .crewRestore _ => none
  | .shareDecay => none
  | .columnHot _ _ _ => none
  | .bankRoleWrite _ _ => none
  | .bankRoleEffect _ _ => none
  | .copyComplete _ _ => none
  | .tileInstructionStart _ => none
  | .tileBlockDone _ _ => none
  | .tileInstructionComplete _ _ => none
  | .collOutcomeExchange _ _ _ => none
  | .chunkCommandArrive _ _ => none
  | .chunkEnd _ _ => none
  | .collFailureNotice _ _ => none
  | .coreSpareBringIn _ => none
  | .vaultRowRemap _ _ _ => none
  | .registerWrite _ _ _ => none
  | .hostHartAccess _ => none
  | .pcieLinkLoss _ _ => none
  | .networkPortStateChange _ _ => none
  | .copyFaultStall _ _ => none
  | .tenantResetComplete _ => none
  | .dramTemperatureChange _ _ => none

/-- A clause header (R296). -/
structure Header where
  cls   : Cls
  count : Nat
  wait0 : Nat
  wait1 : Nat
  lit   : BitVec 32
  deriving DecidableEq, Repr

/-- A wait field that R298 accepts: kind in bits [7:6], index in [5:0]; acc is the crew's tile count. -/
def waitOk (acc : Nat) (w : Nat) : Bool :=
  match w / 64 with
  | 0 => w == 0
  | 1 => true
  | 2 => w % 64 < acc
  | _ => w % 64 == 0

/-- The header of a word, for a crew of acc tiles, or the rule of R298 that it breaks. -/
def decodeHeader (acc : Nat) (w : Word) : Except DecodeErr Header :=
  match unpack [32, 8, 8, 8, 4, 4] w.toNat with
  | [lit, z, w1, w0, ct, c] =>
    match Cls.ofCode c with
    | none => .error .headerClass
    | some cls =>
      if z != 0 then .error .headerZero
      else if !(waitOk acc w0 && waitOk acc w1) then .error .headerWait
      else .ok ⟨cls, ct, w0, w1, BitVec.ofNat 32 lit⟩
  | _ => .error .headerZero

/-- The word of a header. -/
def encodeHeader (h : Header) : Word :=
  BitVec.ofNat 64 (pack [(32, h.lit.toNat), (8, 0), (8, h.wait1), (8, h.wait0), (4, h.count), (4, h.cls.code)])

/-- What the decoder reads from an instruction laid out with its clause header as the first 64-bit word and the
instruction word as the second, the host's numbering of bits; 64 bits or fewer are a header alone. -/
def decodeTableWord (nbits w : Nat) : Option Instr :=
  if nbits ≤ 64 then
    match decodeHeader 8 (BitVec.ofNat 64 w) with
    | .ok _ => some (.clauseHeader (BitVec.ofNat 64 w))
    | .error _ => none
  else
    match decodeHeader 8 (BitVec.ofNat 64 w) with
    | .error _ => none
    | .ok h => match decodeWord h.cls (BitVec.ofNat 64 (w / 2 ^ 64)) with
      | .ok i => some i
      | .error _ => none

end Sys2Proof
end

