-- ==== Sys2Proof/Config.lean ====
section
/-! DEFINITION. What is fixed for the device, and the values the manual leaves open (opaque constants without a body). -/

namespace Sys2Proof.Config

/-- An unspecified value (R4): the free value number n, at a place k inside what holds it (a register, a lane, a byte). Nothing is known of it. (log 3, DESIGN CHOICE) -/
opaque freeWord : Nat → Nat → Word

/-- An unspecified byte (R4), at place k of the free value number n. -/
def freeByte (n k : Nat) : Byte := (freeWord n k).truncate 8

/-- A stall counter's value (R286): what the counter at an offset reads at a cycle. Nothing is known of it (log 3, DESIGN CHOICE). -/
opaque stallCycles : Nat → Nat → Word

/-- The bank and the row of its stack that hold an offset of one of its 128 sub-channels of HBM4E: the manual does not give the map (log 78, DESIGN CHOICE). -/
opaque rowOf : Nat → Nat → Nat × Nat

/-- The tracker that an ordering stream shares when 256 are in use, by requester ID and PASID (R37): the manual does not give the hash (log 79, DESIGN CHOICE). -/
opaque streamHash : Nat → Option Nat → Nat

/-- The set of a set-associative structure that a key falls in, before it is reduced to the number of sets: 0 a grove TLB, 1 an L1, 2 a home slice. The manual does not give the
index (log 98, DESIGN CHOICE). -/
opaque setIndex : Nat → Nat → Nat

/-- Does a home slice still hold a line at a cycle that it fetched at another (R206)? What else its set held and what it replaced is not given (log 98, DESIGN CHOICE). -/
opaque l2Keeps : Nat → Nat → Nat → Bool

/-- SHAKE256 with 32 bytes of output, and the verification of an XMSS-SHAKE256_20_256 signature of a message under a key (R129): the standards that the manual names define them
(log 101, DESIGN CHOICE). -/
opaque shake256 : List Byte → List Byte
opaque xmssOk : List Byte → List Byte → List Byte → Bool

/-- The digests of keys that are fused into the hub (R129) (log 101, DESIGN CHOICE). -/
opaque fusedDigests : List (List Byte)

/-- The IP address that firmware's boot gives a module number (R44, log 42, DESIGN CHOICE). -/
opaque bootIp : Nat → Nat

/-- CP_HWINFO's serial and stepping (R117): they differ from module to module (log 1, DESIGN CHOICE). -/
opaque serial : BitVec 32
opaque stepping : BitVec 16

/-- Core cycles of a microsecond: the core clock runs at 1.9 GHz (R1). -/
abbrev cyclesPerUs : Nat := 1900

/-- The strike horizon in cycles (R190, R276). -/
abbrev horizon : Nat := 40

/-- Enabled cores, dies, groves (R1, R9). -/
abbrev cores : Nat := 1536
abbrev dies : Nat := 24
abbrev groves : Nat := 12

/-- The map of physical addresses (R67): ends are one past the last byte. -/
abbrev hbmEnd : Nat := 0x861C000000
abbrev lpBase : Nat := 0x10000000000
abbrev lpEnd : Nat := 0x20000000000
abbrev flashBase : Nat := 0x40000000000
abbrev flashEnd : Nat := 0x80000000000
abbrev pcieBase : Nat := 0x80000000000
abbrev pcie1Base : Nat := 0xC0000000000
abbrev pcieEnd : Nat := 0x100000000000
abbrev regBase : Nat := 0x100000000000
abbrev regEnd : Nat := 0x100100000000

/-- Bytes of a frame, and the number of frames (R67). -/
abbrev frameBytes : Nat := 0x600000
abbrev frames : Nat := 91552

/-- The runs of frames that firmware reserves at boot, as first frame and count: Landing, Sawyer's staging, the save area, the firmware slots, the collectives' receive buffers, the
member tables (R56, R67, R101, R130, R161, R262, R266). The manual gives their sizes and not their places (log 92, DESIGN CHOICE). -/
abbrev landingFrame : Nat := 91509
abbrev slotFrame : Nat := 88717
abbrev memberFrame : Nat := 88030
abbrev reserved : List (Nat × Nat) := [(landingFrame, 43), (91466, 43), (88735, 2731), (slotFrame, 18), (88201, 516), (memberFrame, 171)]

/-- Where the host-die loader is placed in LPDDR-6 (R134): the manual does not say (log 92, DESIGN CHOICE). -/
abbrev loaderAt : Nat := lpBase

/-- The address a trap handler starts at (R195). -/
abbrev handler : Word := 0xFFFFFFFFFFFF0000

/-- No join target (R176). -/
abbrev noTarget : Word := 0xFFFFFFFFFFFFFFFF

end Sys2Proof.Config
end

