-- ==== Sys2Proof/Machine/State.lean ====
section
/-! DEFINITION. The state of the machine as plain data, the state after reset, the one fault and the refusals. -/

namespace Sys2Proof.Machine

/-- Why a step stops. -/
inductive Fault where
  /-- Raised by an instruction of a bundle when the focus names no bundle with a live path: there is no issuer. Safe: no claim holds of a next state. -/
  | noIssuer
  deriving DecidableEq, Repr

/-- Why an instruction has no meaning. -/
inductive Refusal where
  /-- Raised by an arm of the dispatch that has no meaning yet. Safe: no claim holds of a next state. -/
  | notModelled (mnemonic : String)
  deriving DecidableEq, Repr

/-- A held value: known, or the free value of a number at its own place (R4). -/
inductive RVal where
  | val (v : Word)
  | free (n : Nat)
  deriving DecidableEq, Repr

/-- Values by key, keys strictly rising. -/
abbrev Bank := List (Nat × RVal)

/-- Small numbers by key, keys strictly rising, none 0. -/
abbrev Nats := List (Nat × Nat)

/-! ### Bundles (R176 to R199) -/

/-- A clause that a path runs: its header and the words under it, fetched whole (R181). -/
structure Clause where
  hdr   : Word
  words : List Word
  deriving DecidableEq, Repr

/-- What an instruction that blocks has done already, kept until it completes: the arrival of bar.sync, its number, and its generation and status once it has taken effect (R418),
a child waited for (R428), a step (R429), a barrier object's wait with the result word captured at its wake (R450), a racq with its granules, its place in the core's order (R183) and the place it blocked in (R184).
Beside them: a join that its path waits at (R178), the tiles whose empty bit a clause header has met (R260), a sweep with the iterations that are complete and its scalar pairs, once they are read (R313), and the number of a record read that is deferred (R94). -/
inductive Held where
  | barSync (b pid : Nat) (ticket : Option (Nat × Nat))
  | child (g : Nat)
  | step
  | abo (pa g : Nat) (res : Option Word)
  | racq (n order first : Nat)
  | join
  | tiles (l : List Nat)
  | sweep (done : Nat) (pairs : Option (List (Nat × Word)))
  | deferred (id : Nat)
  deriving DecidableEq, Repr

/-- A path (R176): the header address and position of its program counter, the clause in hand, the mask, the join target,
whether it waits at a join or a header, the lanes its first instruction after a return is held to (R197), what a blocked instruction has done, and whether the first instruction of its clause has issued,
so that the header's waits are not evaluated again (R168, R297). -/
structure Path where
  pc      : Word
  idx     : Nat
  clause  : Option Clause
  mask    : Word
  jt      : Word
  waiting : Bool
  first   : Option Word
  held    : Option Held
  begun   : Bool
  deriving DecidableEq, Repr

/-- The trap state of one depth (R193, R195), with the sweep progress of that depth (R313), the clause that trapped, and whether its first instruction had issued (R168). -/
structure TrapSt where
  tcause   : Word
  tpc      : Word
  tidx     : Word
  tmask    : Word
  tm0      : Word
  tval     : List (Nat × Word)
  progress : Nat
  origin   : Word
  begun    : Bool
  deriving DecidableEq, Repr

/-- The part of a bundle that a strike rolls back (R277): paths, registers, full/empty bits, flags, trap state and the keys of poisoned registers and lanes (R278). -/
structure Arch where
  slot0    : Option Path
  slot1    : Option Path
  stack    : List Path
  regs     : Bank
  awaits   : List (Sel × Nat)
  fpflags  : Nats
  sup      : Bool
  hslot    : Bool
  tdepth   : Nat
  trap     : TrapSt
  trap1    : TrapSt
  scratch  : List Word
  progress : Nat
  ext      : Nat
  bad      : List Nat
  deriving DecidableEq, Repr

/-- One lane's access after its checks: the lane, the space, the address there (physical in space 0), the virtual address,
the page's memory type and tier, whether it waits as a deferred flash access (R94), and the 4 KiB pages of the translation that it used (R76). -/
structure LaneAcc where
  lane  : Nat
  space : Space
  addr  : Nat
  va    : Nat
  pbmt  : Nat
  tier  : Nat
  defer : Bool
  pages : Nat
  deriving DecidableEq, Repr

/-- Operations of atomics and reductions (R379). -/
inductive AtomOp where
  | add | min | max | and | or | xor | xchg | cas
  deriving DecidableEq, Repr

/-- A lane of an atomic: its access, operand and comparand. -/
structure AtomLane where
  acc : LaneAcc
  b   : Word
  cmp : Word
  deriving DecidableEq, Repr

/-- What a result that is on its way will fill (R187). -/
inductive PendKind where
  | load (na : Bool)
  | atom (ty : Ty)
  | token
  deriving DecidableEq, Repr

/-- An outstanding load, atomic or token (R187): its number, destination, type, lanes still to be read, values that have come back
with the lane and the flags of each, the scope of an acquire, its issue time, the poison it has met, and the path that issued it. -/
structure Pend where
  id    : Nat
  kind  : PendKind
  ty    : Ty
  dst   : Sel
  lanes : List LaneAcc
  want  : Nat
  got   : List (Nat × Word × Nat)
  acq   : Option Scope
  time  : Nat
  bad   : Option (Nat × Nat)
  slot  : Bool
  deriving DecidableEq, Repr

/-- A tensor format table entry (R435) with its drain histogram (R258). -/
structure Tensor where
  format    : Nat
  scaleMode : Nat
  zeroPoint : Nat
  histBase  : Nat
  location  : Nat
  base      : Word
  rows      : Nat
  cols      : Nat
  pitch     : Nat
  scaleBase : Word
  hist      : Nats
  deriving DecidableEq, Repr

/-- The effects that wait in a store queue (R223, R276). -/
inductive SqOp where
  /-- Bytes of a store, lane by lane; whether it is an stb, whose bytes of a line leave as one transaction (R122). -/
  | store (block : Bool) (parts : List (LaneAcc × List Byte))
  /-- An atomic or reduction; the number of the pending result, if one returns. -/
  | atom (pid : Option Nat) (op : AtomOp) (ty : Ty) (lanes : List AtomLane)
  /-- A barrier object's 32 bytes (R420). -/
  | aboInit (acc : LaneAcc) (data : List Byte)
  /-- Arrivals at a barrier object (R421). -/
  | aboArrive (pid : Nat) (acc : LaneAcc) (n : Nat)
  /-- An add to an event counter (R425). -/
  | evAdd (pid : Nat) (acc : LaneAcc) (v : Word)
  /-- An arming (R426): kind, threshold, argument, the record's words and the value. -/
  | evArm (pid : Nat) (acc : LaneAcc) (kind : Nat) (thr arg value : Word) (rec : List Word)
  /-- The stage words of a ring, each 0 (R423). -/
  | ringInit (ring : Nat) (parts : List (LaneAcc × List Byte))
  | ringPost (pid ring stage : Nat)
  | ringFree (ring stage : Nat)
  /-- fmap (R438): the token, the size, the address and the attributes. -/
  | fmap (pid z : Nat) (va attr : Word)
  | launch (pid : Nat) (rec : List Word)
  /-- send (R430): the token, the profile latched at issue, the message. -/
  | send (pid : Nat) (prof buf : Word) (len : Nat) (dest : Word)
  /-- narm (R431): the token and the words of the descriptor and of the launch record. -/
  | narm (pid : Nat) (desc launch : List Word)
  | narmCancel (pid : Nat) (h : Word)
  /-- A stream request (R391): its operation 0 open, 1 write, 2 seal, 3 sync, 4 close. -/
  | stream (pid op : Nat) (handle : Word) (space : Space) (src len : Nat)
  /-- coll (R433): its modifiers, operands and the tensor it names. -/
  | coll (md : Nat) (sel crd obj : Word) (t : Tensor)
  /-- An arrival at a named barrier with its count (R417). -/
  | barArrive (pid b n : Nat)
  /-- The bundle exits (R179): its exit counts at the crew's barriers. -/
  | exit
  /-- The counters of a tensor's histogram are stored, and cleared or not, in one step (R437). -/
  | hist (acc : LaneAcc) (n : Nat) (clear : Bool)
  deriving DecidableEq, Repr

/-- An entry of a store queue: its issue time, the effect, and what it counts on the acknowledgement counter. -/
structure SqEntry where
  time  : Nat
  op    : SqOp
  lines : Nat
  deriving DecidableEq, Repr

/-- What a walk left with an instruction that waited for it (R69, R94). -/
inductive XNote where
  | fault (cause : Nat)
  | defer (pa : Nat)
  | park
  deriving DecidableEq, Repr

/-- Kinds of access for the checks of R69. -/
inductive Acc where
  | load | store | atomic | fetch
  deriving DecidableEq, Repr

/-- A note for an access of a page, kept until its instruction ends. -/
structure Note where
  vpn  : Nat
  acc  : Acc
  note : XNote
  deriving DecidableEq, Repr

/-- The spin detector of a bundle (R156): the branch, its takings in a row, what the loop touched, whether a register changed, and since when the bundle is demoted. (log 22, DEDUCED) -/
structure Spin where
  branch  : Word
  takings : Nat
  watch   : List (Space × Nat)
  changed : Bool
  demoted : Option Nat
  deriving DecidableEq, Repr

/-- A bundle. Fields after arch survive a rollback as they are: the window of checkpoints with their issue times (R190, R277), outstanding results,
the store queue (R223), the acknowledgement counter (R32), translation notes, the spin detector, the path that issued last (R163), the yield rank (R442),
the reclaimed mark (R184), extended blocks in order of acquisition, its children (R428), a pool it is parked on (R83), drains whose writes are to come (R409), the collectives it has issued by
communicator (R267), its bundle-context number on its core (R169), the forwarding window: the issue times of the eight latest instructions with the registers whose results are live, newest first (R190);
the register granules of its core that it holds, base block first (R143, R183), the port of the clause that each slot has begun (R168), the slots whose instruction was found blocked and has not gone on since, and since when it has been eligible without issuing (R155). -/
structure Bundle where
  key       : BKey
  role      : Nat
  fid       : Nat
  live      : Bool
  arch      : Arch
  window    : List (Nat × Arch)
  pend      : List Pend
  sq        : List SqEntry
  ackcnt    : Nat
  notes     : List Note
  spin      : Spin
  last      : Bool
  yielded   : Bool
  reclaimed : Bool
  extAt     : Nat
  children  : List Nat
  parked    : Option Nat
  drains    : Nat
  colls     : List (Nat × Nat)
  ctxNo     : Nat
  results   : List (Nat × List Sel)
  grans     : List Nat
  hold      : List (Bool × Nat)
  stopped   : List Bool
  ready     : Option Nat
  deriving DecidableEq, Repr

/-! ### Crews, tiles, copies (R137 to R167, R203 to R214, R394) -/

/-- A named barrier (R417). -/
structure Bar where
  gen      : Nat
  expected : Nat
  arrived  : Nat
  deriving DecidableEq, Repr

/-- A stage ring's descriptor, and whether software stored to its stage words, so that its state is unspecified (R423). -/
structure Ring where
  base  : Nat
  size  : Nat
  count : Nat
  spoilt : Bool
  deriving DecidableEq, Repr

/-- What a copy command moves (R386, R387). -/
inductive CopyKind where
  | bytes (dsp ssp : Space) (dst src : Nat)
  | tile (t : Tensor) (row0 col0 : Nat) (asp : Space) (addr : Nat) (back : Bool)
  deriving DecidableEq, Repr

/-- A copy command (R212): its issuer and token, issue time, what it moves, its length, the bytes done, whether it met poison, the fault it stalls on, the offsets of data that reached the engine poisoned. -/
structure CopyCmd where
  owner : BKey
  pid   : Nat
  time  : Nat
  kind  : CopyKind
  len   : Nat
  done  : Nat
  bad   : Bool
  stall : Option (Nat × Nat)
  hurt  : List Nat
  deriving DecidableEq, Repr

/-- What a tile instruction does, with what it latched at issue (R397). -/
inductive TileOp where
  | zero (mode : Nat)
  | load (mode : Nat) (a : Tensor) (da : Bool) (ca : Word)
  | mm (a b : Tensor) (da db : Bool) (ca cb : Word)
  | mmv (a b : Tensor) (da db : Bool) (ca cb : Word)
  | drain (b : Tensor) (tf : Nat) (db : Bool) (cb : Word)
  deriving DecidableEq, Repr

/-- A tile instruction in a queue or in progress (R394): issuer, issue time, operation, latched width pair, blocks done, row, the fault it stopped on with its address, blocks charged (R153), the operand-ready
fence that its operands stand under, none where the crew has made none (R398). -/
structure TileCmd where
  owner   : BKey
  time    : Nat
  op      : TileOp
  wp      : RVal
  block   : Nat
  row     : Nat
  stopped : Option (Nat × Nat)
  paid    : Nat
  since   : Option Nat
  deriving DecidableEq, Repr

/-- What a tile held before a block (R277): the time the block ended, the entries, the flags, the poisoned mark and whom it was read for, the blocks done. -/
structure TileUndo where
  time  : Nat
  ents  : Bank
  fid   : Nat
  flags : Nat
  bad   : Bool
  owed  : List BKey
  block : Nat
  deriving DecidableEq, Repr

/-- An accumulator tile (R252, R259, R394): mode, entries, flags, full, poisoned, the bundles that poison was read for and that have yet to consume it (R279, R401), the instruction in progress, those that wait, the blocks younger than the horizon with what stood before each, the end of the last block, the latched width pair, the instructions that have ended and not reached their release points (R399). -/
structure Tile where
  mode     : Option Nat
  ents     : Bank
  fid      : Nat
  flags    : Nat
  full     : Bool
  poisoned : Bool
  owed     : List BKey
  busy     : Option TileCmd
  queue    : List TileCmd
  undo     : List TileUndo
  lastEnd  : Nat
  wp       : RVal
  unread   : List TileCmd
  deriving DecidableEq, Repr

/-- Where a crew stands (R138, R161, R184). -/
inductive CrewSt where
  | waiting | resident | saved | retired
  deriving DecidableEq, Repr

/-- A crew of a grid (R138 to R167); bad are the poisoned lines of its window and of its part of the vault (R278), mended the places in them that have been overwritten since, a bit for each, at 2 × line and 2 × line + 1, grans the scratchpad granules of its core that it holds, 16 × bank + place in
the bank (R203), tileAt its core's tiles that it holds, places the vault granules of its grove that back it, 1,024 × column + place (R210), fence when its last operand-ready fence was (R398). -/
structure Crew where
  key       : CKey
  die       : Nat
  core      : Nat
  slot      : Nat
  st        : CrewSt
  order     : Nat
  win       : Bank
  winFree   : Nat
  bars      : List Bar
  rings     : List (Nat × Ring)
  copies    : List (List CopyCmd)
  copyHold  : Bool
  abandoned : Bool
  plgen     : Nat
  since     : Nat
  save      : Option PreemptWhy
  area      : Nat
  areaBad   : Bool
  restFault : Bool
  vlt       : Bank
  vltFree   : Nat
  backing   : List Nat
  grove     : Option Nat
  record    : Bool
  tiles     : List Tile
  bad       : List (Space × Nat)
  mended    : Nats
  grans     : List Nat
  tileAt    : List Nat
  places    : List Nat
  fence     : Option Nat
  deriving DecidableEq, Repr

/-- Where a grid stands (R137, R138, R146, R151). -/
inductive GridSt where
  | waiting | running | retired
  deriving DecidableEq, Repr

/-- A grid (R123, R137, R138); oldDies is the die set that ndies and dierank still read while a change is under way (R152). -/
structure Grid where
  id       : Nat
  tenant   : Nat
  ctx      : Nat
  prio     : Nat
  depth    : Nat
  parent   : Option BKey
  entry    : Word
  args     : Word
  ncrews   : Nat
  bundles  : Nat
  width    : Nat
  dstack   : Nat
  regs     : Nat
  acc      : Nat
  scratch  : Nat
  vault    : Nat
  roles    : Word
  minDies  : Nat
  maxDies  : Nat
  coop     : Bool
  done     : Word
  tag      : Nat
  limiting : Nat
  order    : Nat
  st       : GridSt
  dies     : List Nat
  announce : Option Bool
  oldDies  : Option (List Nat)
  deriving DecidableEq, Repr

/-! ### Translation (R66 to R87) -/

/-- A leaf held in a TLB (R73): context, first 4 KiB page number, pages, the leaf as read, where it lies, gathered marks (R77), and for a translation of two stages the leaves of both, each as its place
and ppn. -/
structure TlbEnt where
  ctx   : Nat
  vpn   : Nat
  pages : Nat
  leaf  : Word
  pte   : Nat
  a     : Bool
  d     : Bool
  also  : List (Nat × Nat)
  deriving DecidableEq, Repr

/-- The structure that holds a TLB entry (R73). -/
inductive TlbAt where
  | core (c : Nat)
  | inst (c : Nat)
  | grove (g : Nat)
  deriving DecidableEq, Repr

/-- A waiter of a walk (R74): a bundle or an engine (none), its level, its kind of access and its address. -/
structure Waiter where
  who : Option BKey
  sup : Bool
  acc : Acc
  va  : Word
  deriving DecidableEq, Repr

/-- A grove TLB miss (R74): the key, the tenant whose quota it takes, who waits, whether it is in a walk, whether a shoot-down made it walk again, whether it waited for the quota. -/
structure Miss where
  grove   : Nat
  ctx     : Nat
  vpn     : Nat
  tenant  : Nat
  waiters : List Waiter
  walking : Bool
  stale   : Bool
  waited  : Bool
  deriving DecidableEq, Repr

/-- A migration in progress (R80): the page, the leaf as read (sixteen entries for a 64 KiB page), where it lies, its size, the frame taken, the tag of the grid that waits, the waiters, whether it was escalated (R83), the address whose access started it (R84). -/
structure Mig where
  tenant  : Nat
  ctx     : Nat
  vpn     : Nat
  va      : Word
  size    : Nat
  leaf    : List Word
  pte     : Nat
  frame   : Option (Nat × Nat)
  tag     : Nat
  waiters : List BKey
  escalated : Bool
  deriving DecidableEq, Repr

/-- A context number's binding (R73). -/
structure Ctx where
  num    : Nat
  tenant : Nat
  guest  : Nat
  asid   : Nat
  root   : Nat
  last   : Nat
  deriving DecidableEq, Repr

/-- A shoot-down in progress (R76). -/
structure Shoot where
  tenant : Nat
  kind   : Nat
  ctx    : Nat
  vpn    : Nat
  deriving DecidableEq, Repr

/-- A non-leaf entry that a grove's page-walk cache holds (R73): grove, context, whether it is of the second stage, level, the address's bits above those that the entry's table resolves, the entry. -/
structure Pwc where
  grove : Nat
  ctx   : Nat
  two   : Bool
  lvl   : Nat
  tag   : Nat
  entry : Word
  deriving DecidableEq, Repr

/-- Translation state: TLBs, page-walk caches, misses, migrations, frames kept for a tenant and size, contexts, shoot-downs, recorded frame schemes plus one, and the runs of
frames that firmware has reserved (R70), the roots of the second stages of guests (R68). -/
structure Xl where
  tlb    : List (TlbAt × TlbEnt)
  pwc    : List Pwc
  misses : List Miss
  migs   : List Mig
  kept   : List (Nat × Nat × Nat × Nat)
  ctxs   : List Ctx
  shoots : List Shoot
  frames : Nats
  reserved : List (Nat × Nat)
  guests : Nats
  deriving DecidableEq, Repr

/-! ### The fabric (R30 to R33, R159) -/

/-- Who is told that a write is visible (R31). -/
inductive Owner where
  | none
  | bundle (b : BKey)
  | stream (id : Nat)
  | post (unit : Nat)
  deriving DecidableEq, Repr

/-- What a write in flight does at its home slice (R206, R207). -/
inductive FlightOp where
  | bytes (block : Bool) (parts : List (Nat × Byte))
  | atom (pid : Option Nat) (op : AtomOp) (ty : Ty) (lanes : List AtomLane)
  | aboInit (pa : Nat) (data : List Byte)
  | aboArrive (pid va pa n : Nat)
  | evAdd (pid va pa : Nat) (v : Word)
  /-- Accesses to I/O space, for a tenant's supervisor, in order (R229). -/
  | io (tenant : Nat) (accs : List (Nat × List Byte))
  /-- Bytes of a line of a crew's vault view on a grove (R211, R232). -/
  | vlt (crew : CKey) (grove : Nat) (parts : List (Nat × List Byte))
  /-- What a response brings back: the result it fills, the address accessed, and each lane's old value with its flags. -/
  | resp (pid va : Nat) (got : List (Nat × Word × Nat))
  deriving DecidableEq, Repr

/-- A write on its way to a home slice: the core it left, its owner, its line, whether it carries poison. -/
structure Flight where
  core   : Option Nat
  owner  : Owner
  line   : Nat
  op     : FlightOp
  bad    : Bool
  deriving DecidableEq, Repr

/-- The effect of an armed action (R158, R426). -/
inductive ArmedFx where
  | launch (rec : List Word)
  | arrive (va : Nat)
  | store (va : Nat) (v : Word)
  deriving DecidableEq, Repr

/-- An armed action at a home slice (R158). -/
structure Armed where
  pa     : Nat
  va     : Nat
  thr    : Nat
  fx     : ArmedFx
  tenant : Nat
  ctx    : Nat
  tag    : Nat
  waits  : Bool
  deriving DecidableEq, Repr

/-- A line of a core's L1 (R205). -/
structure L1Line where
  core : Nat
  line : Nat
  data : List Byte
  deriving DecidableEq, Repr

/-- An instruction or event still to run: the model's own input (log 4, DESIGN CHOICE). -/
inductive Turn where
  | event (i : Instr)
  | issue (b : BKey) (slot : Bool)
  deriving DecidableEq, Repr
/-- A write of some bytes that was noted because a unit works on bytes that software must leave alone (R52, R63, R103, R212): where (memory, or the window or the part of the vault
of a crew), the addresses, when, and the bundle that wrote, if one did. -/
structure Wrote where
  place  : Option (Space × CKey)
  addrs  : List Nat
  time   : Nat
  writer : Option BKey
  deriving DecidableEq, Repr

/-- A host-die hart (R87, R115, R116): general, floating-point and vector registers by number, the pc, the privilege mode (3 machine, 1 supervisor, 0 user) and the virtualization mode, CSRs as last written
(0xB00: the offset of mcycle), the reservation of its last LR (address and length), the identities pending in its IMSIC, what its last load or fetch returned and whether that was poisoned, its last
exception as cause and address, the FENCEs completed. -/
structure HostHart where
  x      : Nats
  f      : Nats
  v      : Nats
  pc     : Nat
  mode   : Nat
  virt   : Bool
  csrs   : Nats
  resv   : Option (Nat × Nat)
  eip    : List Nat
  got    : List Byte
  bad    : Bool
  fault  : Option (Nat × Nat)
  fences : Nat
  deriving DecidableEq, Repr

/-- The hub's queues and what it sends out (R122, R125, R128, R36): launch queues by number, oldest record first; MSIs sent to the host die, by
what sent them; the host-die harts; writes noted for the units; the outbound posted writes (port, address, bytes) and the non-posted reads (port, address, length) of the ports in their order; AER reports; grids entered so far and the next order number; barrier objects, and
whether an ordinary write has left the state of one unspecified (R419). -/
structure Hub where
  queues    : List (Nat × List (List Word))
  msis      : List Nat
  hosts     : List (Nat × HostHart)
  posted    : List (Nat × Nat × List Byte)
  nonPosted : List (Nat × Nat × Nat)
  aer       : List (Nat × Nat)
  wrote     : List Wrote
  objs      : List (Nat × Bool)
  nextGrid  : Nat
  nextOrder : Nat
  deriving DecidableEq, Repr

/-- Parts that come and go (R11, R16, R134, R202, R216, R283): retired cores, spare cores used by die, retired columns, columns whose vault has left its grove's pool (grove and column),
roles still in effect of banks with a pending change (32 × core + bank, role + 1), power; failing cores whose crews are being saved for a spare to take over; the tenant plus one that last
wrote each place that passes between tenants: register granules, contexts, tiles and scratchpad granules of cores, vault granules of groves (R185, R203, R210). -/
structure Parts where
  retiredCores : List Nat
  spareCores   : Nats
  retiredCols  : List (Nat × Nat)
  downVaults   : List (Nat × Nat)
  oldRoles     : Nats
  powered      : Bool
  sparing      : List Nat
  last         : Nats
  deriving DecidableEq, Repr

/-! ### Xoxia (R41 to R65, R430 to R432) -/

/-- States of a landing slot (R58); a DECODING slot whose writes are made and not yet acknowledged is `written`. -/
inductive SlotSt where
  | free | filling | decoding | written | decoded | lost
  deriving DecidableEq, Repr

/-- A landing slot (R56, R58): its state and stripe, the k of that stripe, the fragments held, those of them that stand in the receive buffer, the trimmed count, the repair
requests sent, the time its timer ends. -/
structure NetSlot where
  st      : SlotSt
  stripe  : Nat
  k       : Nat
  held    : List (Nat × List Byte)
  placed  : List Nat
  trimmed : Nat
  repairs : Nat
  due     : Nat
  deriving DecidableEq, Repr

/-- A message record (R56): its block of landing slots, its identity, the armed receive it claimed, what its header gives, the message's full k once fragments fix it, its slots,
the stripes decoded, the stripes already confirmed, the time of the next stripe confirmation (R63), whether its writes wait on a fault (R64), and the message's bytes that were written, by offset (R63). -/
structure NetRec where
  block   : Nat
  src     : Nat
  tenant  : Nat
  seq     : Nat
  handle  : Nat
  fsize   : Nat
  m       : Nat
  horizon : Nat
  length  : Nat
  tag     : Nat
  kfull   : Option Nat
  slots   : List NetSlot
  decoded : List Nat
  told    : Nat
  unconf  : Option Nat
  stalled : Bool
  got     : List (Nat × List Byte)
  deriving DecidableEq, Repr

/-- An armed receive (R57, R431), and since when it is armed. -/
structure Narm where
  handle  : Nat
  tenant  : Nat
  ctx     : Nat
  buf     : Nat
  len     : Nat
  obj     : Nat
  tag     : Nat
  gtag    : Nat
  launch  : List Word
  order   : Nat
  since   : Nat
  claimed : Bool
  deriving DecidableEq, Repr

/-- Where a send stands (R52 to R55). -/
inductive SendPh where
  | tx | backoff | lossWait
  deriving DecidableEq, Repr

/-- A send in progress (R52): the number of its record, its token, where its bundle ran, the profile latched, the message, the next stripe to transmit,
the stripes confirmed, the busy replies counted, the deadline of each stripe transmitted (R54), the latest repair request of each (R59), the repair requests still to be answered as stripe, ordinal and mask, the time its phase ends, the fault it stalls on, when it was issued. -/
structure Send where
  id        : Nat
  owner     : BKey
  pid       : Nat
  tenant    : Nat
  ctx       : Nat
  core      : Nat
  slot      : Nat
  gtag      : Nat
  prof      : Word
  buf       : Nat
  len       : Nat
  dest      : Nat
  tag       : Nat
  seq       : Nat
  ph        : SendPh
  next      : Nat
  confirmed : Nat
  busies    : Nat
  dues      : List (Nat × Nat)
  reps      : Nats
  asks      : List (Nat × Nat × Nat)
  due       : Nat
  stall     : Option (Nat × Nat)
  since     : Nat
  deriving DecidableEq, Repr

/-- An identity in the late filter (R57), whether its message completed, and since when it stands there. -/
structure Late where
  src    : Nat
  tenant : Nat
  seq    : Nat
  ok     : Bool
  since  : Nat
  deriving DecidableEq, Repr

/-- A message that was answered busy (R47, R55): its identity, the back-offs so far, the fragments of the present transmission that drew an answer. -/
structure Backoff where
  src    : Nat
  tenant : Nat
  seq    : Nat
  count  : Nat
  seen   : List (Nat × Nat)
  deriving DecidableEq, Repr

/-- Xoxia and the network ports: the module's own number; the IP address of each module number whose mapping firmware has changed, none for one without (R44), the next msg_seq of each tenant, sends, armed receives,
message records, the late filter, packets handed to the network, ports that are down, the lanes in use of ports below full rate, ports whose spare lane is in use, ports with fewer than eight lanes left, discards of each port, messages answered busy, where Landing lies once it is reserved. -/
structure Net where
  self     : Nat
  routes   : List (Nat × Option Nat)
  seqs     : Nats
  sends    : List Send
  narms    : List Narm
  recs     : List NetRec
  filter   : List Late
  out      : List Packet
  down     : List Nat
  lanes    : Nats
  spared   : List Nat
  broken   : List Nat
  discards : Nats
  backoffs : List Backoff
  landing  : Option Nat
  deriving DecidableEq, Repr

/-! ### Arrivals and increments of the hub that wait for a migration (R124, R432, R433) -/

/-- What the hub does at an address: an arrival at a barrier object, or an increment of a counter. -/
inductive LateFx where
  | arrive (st fl : Nat)
  | count
  deriving DecidableEq, Repr

/-- An effect of the hub at a virtual address, with what its record of cause 0x13 names (R213). -/
structure HubFx where
  tenant : Nat
  ctx    : Nat
  va     : Nat
  fx     : LateFx
  source : Nat
  word2  : Word
  tag    : Nat
  deriving DecidableEq, Repr

/-! ### Vertical links and bridges (R11 to R18, R28) -/

/-- A link half: the sender's next sequence number and unacknowledged beats, the receiver's expected number, whether a lane test is still to end, whether a further error is queued (R17),
the number that ends the replay, groups whose spare is in use, unrepaired groups, counters, state and width as R18 has them, beats delivered, each with whether it came poisoned. -/
structure Link where
  id        : LinkId
  next      : Nat
  unacked   : List Beat
  expect    : Nat
  testing   : Bool
  queued    : Bool
  replayEnd : Nat
  spared    : List Nat
  broken    : List Nat
  crcErrors : Nat
  replays   : Nat
  state     : Nat
  width     : Nat
  got       : List (Beat × Bool)
  deriving DecidableEq, Repr

/-! ### DRAM rows and power (R20, R21, R25) -/

/-- Rows off bin 3 with their bins (0: remapped), spare rows used by bank, stacks above 85 °C, remaps in progress, the last refresh of a row, throttling steps (key 0 the module, 1 + die a die). -/
structure Phys where
  bins     : List (RowId × Nat)
  spares   : List ((Nat × Nat) × Nat)
  hot      : List Nat
  remaps   : List RowId
  refresh  : List (RowId × Nat)
  throttle : Nats
  vaultRows : List ((Nat × Nat × Nat) × Nat)
  deriving DecidableEq, Repr

/-! ### The ingress ordering point (R37, R38, R446) -/

/-- An ingress transaction. -/
inductive InTx where
  | write (w : IngressWrite)
  | msi (w : IngressWrite)
  | read (r : IngressRead)
  deriving DecidableEq, Repr

/-- Is it a posted write, an MSI included? -/
def InTx.isWrite : InTx → Bool
  | .read _ => false
  | _ => true

/-- An ordering stream's name within its port: requester ID and PASID (R37). -/
abbrev StreamKey := Nat × Option Nat

/-- A tracker of the ordering point: its port, the stream it tracks (others may share it), the lines forwarded and not acknowledged, each with its transaction's
number, and all lines of the writes that are not wholly acknowledged. -/
structure PStream where
  port    : Fin 2
  rid     : Nat
  pasid   : Option Nat
  flying  : List (Nat × Nat)
  targets : List (Nat × Nat)
  deriving DecidableEq, Repr

/-- A transaction held at the ordering point: its number in arrival order, its tracker's port and key, its own stream. -/
structure HeldTx where
  id    : Nat
  port  : Fin 2
  rid   : Nat
  pasid : Option Nat
  own   : StreamKey
  tx    : InTx
  deriving DecidableEq, Repr

/-- The ordering point: trackers, held transactions, the next number, the streams in the error state, the streams of forwarded writes by number; what the hub returned to
devices: completions (port, address, bytes) and translations (port, address, physical address); the tier-3 pages asked for through PRI (context, first page); the
limits of rate and width that a port's training works under (port, rate, width). -/
structure Pcie where
  streams : List PStream
  held    : List HeldTx
  nextId  : Nat
  errs    : List (Fin 2 × StreamKey)
  owners  : List (Nat × StreamKey)
  replies : List (Fin 2 × Nat × List Byte)
  ats     : List (Fin 2 × Nat × Option Nat)
  asked   : List (Nat × Nat)
  limits  : List (Nat × Nat × Nat)
  deriving DecidableEq, Repr

/-! ### Command processors (R117 to R119, R129 to R135) -/

/-- A firmware image in a slot: version, min_version, checkpoint format, entry, length; whether its form is that of R129. -/
structure FwImage where
  target  : Nat
  version : Nat
  minVer  : Nat
  ckfmt   : Nat
  entry   : Nat
  length  : Nat
  formed  : Bool
  deriving DecidableEq, Repr

/-- A hart of the command processors or of Sawyer (R117, R131, R132, R134): its general registers by number, the pc, the privilege mode (3 machine, 1 supervisor, 0 user), its CSRs but for those that are
computed (0xB00: the offset of mcycle while it counts), whether its queue interrupt is raised. -/
structure FwHart where
  x    : Nats
  pc   : Nat
  mode : Nat
  csrs : List (Nat × Word)
  irq  : Bool
  deriving DecidableEq, Repr

/-- A hand-over of firmware (R131): the hart that it waits for, the harts handed over, since when it waits. -/
structure Swap where
  waiting : Nat
  handed  : List Nat
  since   : Nat
  deriving DecidableEq, Repr

/-- The firmware harts and the watchdog: harts by number, Sawyer's from 16 up; CP_WDOG registers; hand-overs by target; harts still to return to the old image; queues whose head record is processed and not yet past a quiescent point,
images by 2 × target + slot, the last kick of each hart, when each queue's head last advanced, levels taken lately: 0 by queue, 1 by hart, 2 by queue, 4 by engine;
the last refresh of the hub's timer. -/
structure Cp where
  harts    : List (Nat × FwHart)
  wdog     : List (Nat × Word)
  swaps    : List (Nat × Swap)
  back     : List Nat
  served   : List Nat
  images   : List (Nat × FwImage)
  kicked   : Nats
  headAt   : Nats
  level0   : List (Nat × Nat)
  level1   : List (Nat × Nat)
  level2   : List (Nat × Nat)
  level4   : List (Engine × Nat)
  hubKick  : Nat
  deriving DecidableEq, Repr

/-! ### Skidder and Sawyer (R88 to R113, R451, R459) -/

/-- An accepted write (R103): its extent, token, source, whether it is in staging, poisoned, the bytes staged, when it was issued. -/
structure Extent where
  off    : Nat
  len    : Nat
  owner  : BKey
  pid    : Nat
  space  : Space
  src    : Nat
  staged : Bool
  bad    : Bool
  data   : List Byte
  since  : Nat
  deriving DecidableEq, Repr

/-- An accepted seal (R104): its end, its token unless it is a close's own, the writes it covers by the count accepted before it, whether it is complete and committed. -/
structure Seal where
  endAt     : Nat
  token     : Option (BKey × Nat)
  covers    : Nat
  done      : Bool
  committed : Bool
  deriving DecidableEq, Repr

/-- A stream in a slot: writes accepted so far and those not in a completed seal, seals, syncs as token and the count of seals covered, the token of a close, whether commits stopped (R109). -/
structure FStream where
  handle  : Nat
  count   : Nat
  extents : List (Nat × Extent)
  seals   : List Seal
  syncs   : List ((BKey × Nat) × Nat)
  sealed  : Nat
  close   : Option (BKey × Nat)
  broken  : Bool
  deriving DecidableEq, Repr

/-- A stream request on its way to a Skidder engine, and when it was issued (R102, R103). -/
structure SkReq where
  owner  : BKey
  pid    : Nat
  tenant : Nat
  op     : Nat
  handle : Word
  space  : Space
  src    : Nat
  len    : Nat
  since  : Nat
  deriving DecidableEq, Repr

/-- A deferred access (R94, R459): its bundle, result and lane, the grove that holds it, since when, its address, the physical address when it was deferred at the controller, its unit, the fault its replay met, a migration it waits on. -/
structure Deferral where
  owner : BKey
  pid   : Nat
  lane  : Nat
  grove : Nat
  since : Nat
  va    : Nat
  pa    : Option Nat
  unit  : Nat
  cause : Option Nat
  deriving DecidableEq, Repr

/-- The flash tier: requests that wait at each stack's Skidder, streams, bytes in staging by stack, committed ends of regions, what discarded staging takes back at a power loss,
anchors (first unit, units, leaf address, size), units that switch, units whose die is busy, extents of closed streams that are still in staging (handle, number, region base), deferred accesses, flash lines brought to their home slices with the time (R206). -/
structure Flash where
  reqs      : List (Nat × List SkReq)
  streams   : List (Nat × FStream)
  staging   : Nats
  committed : Nats
  anchors   : List (Nat × Nat × Nat × Nat)
  switching : List Nat
  busy      : List Nat
  deferred  : List Deferral
  l2        : List (Nat × Nat)
  left      : List (Nat × Nat × Nat × Extent)
  deriving DecidableEq, Repr

/-! ### Collectives (R262 to R274, R433) -/

/-- A bundle's issue of a collective: its operands, and the tensor named as it stood. -/
structure CollIss where
  bundle : Nat
  md     : Nat
  sel    : Word
  crd    : Word
  obj    : Word
  tensor : Tensor
  deriving DecidableEq, Repr

/-- A crew's collective: communicator, its number there and among the crew's own, the crew with its tenant, context and tag, the issues and when the first came, whether it has started, whether the ranks
have agreed to go on, whether its last chunk has been seen, the elements of its region as the engine read them, with their poison (R236). -/
structure CollRec where
  comm    : Nat
  seq     : Nat
  nth     : Nat
  crew    : CKey
  tenant  : Nat
  ctx     : Nat
  tag     : Nat
  issues  : List CollIss
  started : Bool
  agreed  : Bool
  closing : Bool
  since   : Nat
  snap    : List (Nat × Bool)
  deriving DecidableEq, Repr

/-- A chunk's message to another module (R273): communicator, its collective's number, destination (12 × module + stack) and buffer, under the communicator's profile and tag. -/
structure CollMsg where
  comm    : Nat
  seq     : Nat
  dest    : Nat
  buf     : Nat
  profile : Nat
  tag     : Nat
  deriving DecidableEq, Repr

/-- The collective engine: crews' collectives, the next number of each communicator and crewid, the entry counts of the member tables in reserved HBM4E, and for each stack the chunk commands that wait, the four slots, the order of the last
start of each communicator on each stack, the credits that chunks hold (stack, communicator, destination and buffer, R273), the messages to other modules whose buffers are not known consumed, the failure notices sent (communicator, member module, status, R269). -/
structure Coll where
  recs    : List CollRec
  nums    : List ((Nat × Nat) × Nat)
  members : Nats
  queues  : List (Nat × List ChunkCmd)
  slots   : List ((Nat × Nat) × ChunkCmd)
  starts  : List ((Nat × Nat) × Nat)
  credits : List ((Nat × Nat) × (Nat × Nat))
  msgs    : List CollMsg
  notices : List (Nat × Nat × Nat)
  deriving DecidableEq, Repr

/-- The machine. Each field is described in INVENTORY.md with the rule that names it. -/
structure State where
  clock    : Nat
  focus    : Option (BKey × Bool)
  agenda   : List Turn
  free     : Nat
  mem      : List Host.Cell
  memOpen  : List (Nat × Nat × Nat)
  poison   : List Nat
  mended   : Nats
  poisonBy : Nats
  l1       : List L1Line
  inflight : List Flight
  acks     : List Flight
  armed    : List Armed
  grids    : List Grid
  crews    : List Crew
  bundles  : List Bundle
  tft      : List (Nat × Tensor)
  xl       : Xl
  regs     : List (Nat × Word)
  charge   : Nats
  hub      : Hub
  parts    : Parts
  net      : Net
  hubFx    : List HubFx
  links    : List Link
  phys     : Phys
  pcie     : Pcie
  cp       : Cp
  flash    : Flash
  coll     : Coll
  deriving DecidableEq, Repr

/-! ### Reset -/

/-- Xoxia after reset: module number 0, every module number with an address, every port up at its full rate (log 1, DESIGN CHOICE). (log 42, DESIGN CHOICE) -/
def Net.reset : Net :=
  { self := 0, routes := [], seqs := [], sends := [], narms := [], recs := [], filter := [], out := [], down := [], lanes := [], spared := [], broken := [], discards := [], backoffs := [], landing := none }

/-- The command processors after reset (R118): timeouts of 10 ms; images and the harts' registers as log 1, DESIGN CHOICE says. -/
def Cp.reset : Cp :=
  { harts := [], wdog := [], swaps := [], back := [], served := [], images := [], kicked := [], headAt := [],
    level0 := [], level1 := [], level2 := [], level4 := [], hubKick := 0 }

/-- The machine right after reset: nothing runs, no memory is listed, no context is bound, every device register reads its reset value. (log 1, DESIGN CHOICE) -/
def State.reset : State :=
  { clock := 0, focus := none, agenda := [], free := 1, mem := [],
    memOpen := [], poison := [], mended := [], poisonBy := [], l1 := [], inflight := [], acks := [], armed := [],
    grids := [], crews := [], bundles := [], tft := [],
    xl := { tlb := [], pwc := [], misses := [], migs := [], kept := [], ctxs := [], shoots := [], frames := [], reserved := [], guests := [] },
    regs := [], charge := [],
    hub := { queues := [], msis := [], hosts := [], posted := [], nonPosted := [], aer := [], wrote := [], objs := [], nextGrid := 0, nextOrder := 0 },
    parts := { retiredCores := [], spareCores := [], retiredCols := [], downVaults := [], oldRoles := [], powered := true, sparing := [], last := [] },
    net := .reset, hubFx := [], links := [],
    phys := { bins := [], spares := [], hot := [], remaps := [], refresh := [], throttle := [], vaultRows := [] },
    pcie := { streams := [], held := [], nextId := 0, errs := [], owners := [], replies := [], ats := [], asked := [], limits := [] },
    cp := .reset,
    flash := { reqs := [], streams := [], staging := [], committed := [], anchors := [], switching := [], busy := [], deferred := [], l2 := [], left := [] },
    coll := { recs := [], nums := [], members := [], queues := [], slots := [], starts := [], credits := [], msgs := [], notices := [] } }

end Sys2Proof.Machine
end

