-- ==== Sys2Proof/Machine/Ops.lean ====
section
/-! DEFINITION. Shared operations: sorted maps, memory, device registers, registers of a bundle, traps, returns, halts. -/

namespace Sys2Proof.Machine

/-- The answer of every meaning. -/
abbrev Res := Host.Outcome State Fault Refusal

/-! ### Sorted maps -/

/-- The value at a key of a map with rising keys. -/
def mapGet {α : Type} : List (Nat × α) → Nat → Option α
  | [], _ => none
  | (j, v) :: r, k => if j == k then some v else mapGet r k

/-- Put a value at a key, keeping the keys rising. -/
def mapPut {α : Type} : List (Nat × α) → Nat → α → List (Nat × α)
  | [], k, x => [(k, x)]
  | (j, v) :: r, k, x => if k < j then (k, x) :: (j, v) :: r else if k = j then (k, x) :: r else (j, v) :: mapPut r k x

/-- Drop a key. -/
def mapDel {α : Type} : List (Nat × α) → Nat → List (Nat × α)
  | [], _ => []
  | (j, v) :: r, k => if j = k then r else (j, v) :: mapDel r k

/-- Are the keys strictly rising, all at least lo? -/
def keysFrom {α : Type} : Nat → List (Nat × α) → Bool
  | _, [] => true
  | lo, (k, _) :: r => decide (lo ≤ k) && keysFrom (k + 1) r

/-- A small number at a key; 0 where nothing is listed. -/
def natsGet (m : Nats) (k : Nat) : Nat := (mapGet m k).getD 0

/-- Put a small number; 0 removes the entry. -/
def natsPut (m : Nats) (k v : Nat) : Nats := if v = 0 then mapDel m k else mapPut m k v

/-! ### Memory: bytes of the physical space (R67) -/

/-- What a byte of memory reads as where nothing is listed (log 2, DESIGN CHOICE). -/
def memUnlisted : Byte := 0

/-- The byte at an address. (log 2, DESIGN CHOICE) -/
def memGet (m : List Host.Cell) (a : Nat) : Byte := (mapGet m a).getD memUnlisted

/-- Write a byte; the value an unlisted address reads as removes the entry. -/
def memPut (m : List Host.Cell) (a : Nat) (b : Byte) : List Host.Cell :=
  if b = memUnlisted then mapDel m a else mapPut m a b

/-- The canonical form of memory: addresses strictly rising, no entry that reads as an unlisted one. -/
def memWf (m : List Host.Cell) : Bool := keysFrom 0 m && m.all fun c => c.2 != memUnlisted

/-- The range of unspecified bytes an address lies in, if any: first address, length, number of the free value. (log 2, DESIGN CHOICE) -/
def openAt (r : List (Nat × Nat × Nat)) (a : Nat) : Option (Nat × Nat × Nat) :=
  r.find? fun x => decide (x.1 ≤ a) && decide (a < x.1 + x.2.1)

/-- Take one byte out of the unspecified ranges. -/
def openCut (r : List (Nat × Nat × Nat)) (a : Nat) : List (Nat × Nat × Nat) :=
  r.flatMap fun x =>
    if x.1 ≤ a ∧ a < x.1 + x.2.1 then
      ([(x.1, a - x.1, x.2.2), (a + 1, x.1 + x.2.1 - (a + 1), x.2.2)]).filter fun y => y.2.1 != 0
    else [x]

/-- The byte of physical memory at an address, as its home slice holds it. -/
def State.byte (s : State) (a : Nat) : Byte :=
  match openAt s.memOpen a with
  | some r => Config.freeByte r.2.2 a
  | none => memGet s.mem a

/-- Write a byte of physical memory. -/
def State.setByte (s : State) (a : Nat) (b : Byte) : State :=
  { s with mem := memPut s.mem a b, memOpen := openCut s.memOpen a }

/-- n bytes from an address up. -/
def bytesFrom (f : Nat → Byte) : Nat → Nat → List Byte
  | _, 0 => []
  | a, n + 1 => f a :: bytesFrom f (a + 1) n

/-- Write a list of bytes from an address up. -/
def State.setBytes (s : State) : Nat → List Byte → State
  | _, [] => s
  | a, b :: r => (s.setByte a b).setBytes (a + 1) r

/-- The little-endian number of bytes (R372). -/
def leNat : List Byte → Nat
  | [] => 0
  | b :: r => b.toNat + 256 * leNat r

/-- The n little-endian bytes of a number. -/
def leBytes : Nat → Nat → List Byte
  | 0, _ => []
  | n + 1, v => BitVec.ofNat 8 v :: leBytes n (v / 256)

/-- An n-byte number of physical memory. -/
def State.rdMem (s : State) (a n : Nat) : Nat := leNat (bytesFrom s.byte a n)

/-- A 64-bit word of physical memory. -/
def State.rd64 (s : State) (a : Nat) : Word := BitVec.ofNat 64 (s.rdMem a 8)

/-- Write a 64-bit word of physical memory. -/
def State.wr64 (s : State) (a : Nat) (w : Word) : State := s.setBytes a (leBytes 8 w.toNat)

/-- The first byte of the 128-byte line of an address (R217). -/
def lineOf (a : Nat) : Nat := a / 128 * 128

/-- Make the bytes of a range unspecified (R4). -/
def State.openRange (s : State) (lo len : Nat) : State :=
  { s with
    mem := s.mem.filter fun c => decide (c.1 < lo) || decide (lo + len ≤ c.1)
    memOpen := (lo, len, s.free) :: s.memOpen
    free := s.free + 1 }

/-- Drop every held value of a key range of a bank, leaving a free value at one key. -/
def bankFree (b : Bank) (k n : Nat) : Bank := mapPut b k (.free n)

/-- The word of a bank at a key; an unlisted key holds the free value of the holder, or 0 where the holder's number is 0: its place was cleared for a new tenant (R185, R203, R210). -/
def bankGet (b : Bank) (fid k : Nat) : Word :=
  match mapGet b k with
  | some (.val v) => v
  | some (.free n) => Config.freeWord n k
  | none => if fid = 0 then 0 else Config.freeWord fid k

/-! ### Bit fields of words -/

/-- Bits [hi:lo] of a word as a number. -/
def fld (w : Word) (hi lo : Nat) : Nat := natBits w.toNat hi lo

/-- A word with bits [hi:lo] replaced. -/
def setFld (w : Word) (hi lo v : Nat) : Word :=
  let n := hi + 1 - lo
  BitVec.ofNat 64 (w.toNat - w.toNat / 2 ^ lo % 2 ^ n * 2 ^ lo + v % 2 ^ n * 2 ^ lo)

/-- A word of fields, each a shift and a value. -/
def wordOf (l : List (Nat × Nat)) : Word := BitVec.ofNat 64 (l.foldl (fun a x => a + x.2 * 2 ^ x.1) 0)

/-! ### Device registers by offset from the register base (R136) -/

def offFq (t : Nat) : Nat := 0x1000060 + 0x10000 * t
def offPool (n : Nat) : Nat := 0x1000010 + 0x10000 * (n / 3) + 0x10 * (n % 3)
def offCoreRas (c : Nat) : Nat := 0x20000010 + 0x1000 * c

/-- Reset values of device registers (R39, R75, R101, R130, R154, R201, R215, R18, R118, R284); 0 elsewhere. (log 1, DESIGN CHOICE) -/
def regReset (off : Nat) : Word :=
  if off / 0x1000 ≥ 0x20000 ∧ off / 0x1000 < 0x20000 + Config.cores then
    if off % 0x1000 = 0 then 0x5555555555555A00 else 0
  else if 0x10000000 ≤ off ∧ off < 0x10000000 + 0x100000 * Config.groves then
    let o := off % 0x100000
    if o < 0x400 then 0xFF00 else if o < 0x600 then 8 else if o < 0x700 then 0x5F0000 else 0
  else if off = 0x100 ∨ off = 0x110 then 0x7040180
  else if 0x400 ≤ off ∧ off < 0x600 then 0x0100000000000000
  else if off = 0x200 then 48#64 <<< 40
  else if off = 0x208 then 85032#64 <<< 40
  else if off = 0x210 then 196608#64 <<< 40
  else if off = 0x228 then 16#64 <<< 40
  else if off = 0x10 ∨ off = 0x18 ∨ off = 0x20 then BitVec.ofNat 64 (((off - 0x10) / 8 + 1) * 2 ^ 56)
  else 0

/-- A device register's stored value. -/
def State.reg (s : State) (off : Nat) : Word := (mapGet s.regs off).getD (regReset off)

/-- Store a device register's value. -/
def State.setReg (s : State) (off : Nat) (w : Word) : State := { s with regs := mapPut s.regs off w }

/-- Add to a saturating counter field. -/
def satAdd (w : Word) (hi lo n : Nat) : Word := setFld w hi lo (min (fld w hi lo + n) (2 ^ (hi + 1 - lo) - 1))

/-- Microseconds since reset (R125). -/
def State.us (s : State) : Nat := s.clock / Config.cyclesPerUs % 2 ^ 32

/-! ### What a write at a home slice sets off for windows and reservations (R121, R122, R238) -/

/-- The launch queue of a window page that is enabled (R121). -/
def State.windowOf (s : State) (pa : Nat) : Option Nat :=
  (List.range 256).find? fun n =>
    let w := s.reg (0x1000040 + 0x10000 * (n / 4) + 8 * (n % 4))
    w.getLsbD 0 && fld w 55 12 == pa / 4096

/-- Count writes to a window page that are not submitted (R121). -/
def State.winDrop (s : State) (n count : Nat) : State :=
  let o := 0x1000040 + 0x10000 * (n / 4) + 8 * (n % 4)
  s.setReg o (satAdd (s.reg o) 11 4 count)

/-- A write of memory ends the reservations of host-die harts on the lines that it meets. (log 67, PRESUMED) -/
def unreserve (hit : Nat → Bool) (hosts : List (Nat × HostHart)) : List (Nat × HostHart) :=
  hosts.map fun h => (h.1, if h.2.resv.any fun r => hit (lineOf r.1) then { h.2 with resv := none } else h.2)

/-- A unit of the module writes bytes at their home slices, a record, a leaf or a page's copy: in an enabled window page each line of it counts as dropped (R122); reservations end. (log 50, DEDUCED) -/
def State.unitWrote (s : State) (a n : Nat) : State :=
  let hub := { s.hub with hosts := unreserve (fun l => decide (lineOf a ≤ l ∧ l < a + n)) s.hub.hosts }
  (List.range ((a % 4096 + n + 4095) / 4096)).foldl (fun t i =>
    let lo := max a ((a / 4096 + i) * 4096)
    let hi := min (a + n) ((a / 4096 + i + 1) * 4096)
    match t.windowOf lo with
    | some k => t.winDrop k ((hi + 127) / 128 - lo / 128)
    | none => t) { s with hub := hub }

/-- A unit of the module writes a word. -/
def State.put64 (s : State) (a : Nat) (w : Word) : State := (s.wr64 a w).unitWrote a 8

/-! ### The fault queue (R125) -/

/-- Post a record to a tenant's fault queue: words 0 to 2 and the upper half of word 3; the time goes into word 3 [31:0]. With msi set an MSI goes to the host die. -/
def State.post (s : State) (t : Nat) (w0 w1 w2 : Word) (hi3 : Nat) : State :=
  let base := s.reg (offFq t)
  let ptr := s.reg (offFq t + 8)
  let size := fld base 4 0
  let n := 2 ^ size
  let tail := fld ptr 63 48
  if size = 0 ∨ (tail + 1) % n = fld ptr 47 32 then s.setReg (offFq t + 8) (satAdd ptr 31 16 1)
  else
    let pa := fld base 55 12 * 4096 + 32 * (tail % n)
    let s := ((s.wr64 pa w0).wr64 (pa + 8) w1).wr64 (pa + 16) w2
    let s := (s.wr64 (pa + 24) (wordOf [(32, hi3), (0, s.us)])).unitWrote pa 32
    let s := if ptr.getLsbD 0 then { s with hub := { s.hub with msis := s.hub.msis ++ [t] } } else s
    s.setReg (offFq t + 8) (setFld ptr 63 48 ((tail + 1) % n))

/-! ### Grids, crews, bundles by name -/

def State.grid? (s : State) (g : Nat) : Option Grid := s.grids.find? fun x => x.id == g
def State.crew? (s : State) (k : CKey) : Option Crew := s.crews.find? fun x => x.key == k
def State.bundle? (s : State) (k : BKey) : Option Bundle := s.bundles.find? fun x => x.key == k

def State.putGrid (s : State) (g : Grid) : State :=
  { s with grids := s.grids.map fun x => if x.id == g.id then g else x }
def State.putCrew (s : State) (c : Crew) : State :=
  { s with crews := s.crews.map fun x => if x.key == c.key then c else x }
def State.putBundle (s : State) (b : Bundle) : State :=
  { s with bundles := s.bundles.map fun x => if x.key == b.key then b else x }

/-- Change one bundle. -/
def State.onBundle (s : State) (k : BKey) (f : Bundle → Bundle) : State :=
  match s.bundle? k with
  | some b => s.putBundle (f b)
  | none => s

/-- Change one crew. -/
def State.onCrew (s : State) (k : CKey) (f : Crew → Crew) : State :=
  match s.crew? k with
  | some c => s.putCrew (f c)
  | none => s

/-- Core numbering (R9). -/
def dieOf (core : Nat) : Nat := core / 64
def groveOf (core : Nat) : Nat := core / 128
def columnOf (core : Nat) : Nat := 16 * (core / 64 % 2) + core % 64 / 4

/-- The bundles of a crew. -/
def State.crewBundles (s : State) (k : CKey) : List Bundle := s.bundles.filter fun b => b.key.ck == k

/-- Bundles of a crew that have not exited (R417). -/
def State.liveBundles (s : State) (k : CKey) : Nat := ((s.crewBundles k).filter fun b => b.live).length

/-- The core a bundle's crew is on. -/
def State.coreOfB (s : State) (k : BKey) : Nat := ((s.crew? k.ck).map fun c => c.core).getD 0

/-! ### The issuing path -/

/-- What an instruction's meaning sees: the bundle, the slot and path that issue, its grid and crew. -/
structure Cur where
  b    : Bundle
  slot : Bool
  p    : Path
  g    : Grid
  c    : Crew
  deriving DecidableEq, Repr

/-- The path of a slot. -/
def Arch.path (a : Arch) (slot : Bool) : Option Path := if slot then a.slot1 else a.slot0

/-- Put a path into a slot. -/
def Arch.setPath (a : Arch) (slot : Bool) (p : Option Path) : Arch :=
  if slot then { a with slot1 := p } else { a with slot0 := p }

/-- The issuer: the bundle and path of the focus, with a resident crew. -/
def State.cur (s : State) : Option Cur :=
  match s.focus with
  | none => none
  | some (k, slot) =>
    match s.bundle? k, s.crew? k.ck, s.grid? k.grid with
    | some b, some c, some g =>
      match b.arch.path slot with
      | some p => if b.live then some ⟨b, slot, p, g, c⟩ else none
      | none => none
    | _, _, _ => none

/-- Does a path wait at a join for a partner, the path in the other slot (R178)? -/
def Arch.atJoin (a : Arch) (slot : Bool) (p : Path) : Bool := p.waiting && p.held == some .join && (a.path (!slot)).isSome

/-- May the path issue at all: not held by a sibling in a handler (R195), not waiting at a join (R178, R346), not reclaimed, not parked, its crew resident? -/
def Cur.eligible (c : Cur) : Bool :=
  (c.b.arch.tdepth == 0 || c.b.arch.hslot == c.slot) && !c.b.arch.atJoin c.slot c.p && !c.b.reclaimed && c.b.parked.isNone && c.c.st == .resident

/-- The iterations that the sweep a path is in has complete; 0 outside one (R313). -/
def Path.swept (p : Path) : Nat := match p.held with | some (.sweep i _) => i | _ => 0

/-- May an entry stay at the head of a store queue for another party's sake (R83, R137, R460)? -/
def SqOp.mayStay : SqOp → Bool
  | .ringPost _ _ _ | .launch _ _ | .fmap _ _ _ _ => true
  | _ => false

/-- Does a path stand at a clause or sweep boundary with its crew to be saved (R162, R314)? While an entry at the head of one of the crew's store queues waits for another party, the crew's bundles go on, so that
the queues can become empty as R225 asks. (log 62, DEDUCED) -/
def State.saveStops (s : State) (c : Cur) : Bool :=
  c.c.save.isSome && (if c.p.clause.isNone then c.p.idx == 0 else c.p.swept != 0 && c.p.swept % 16 == 0)
    && !(s.crewBundles c.c.key).any fun b => match b.sq with | e :: _ => e.op.mayStay | [] => false

/-- Lanes [w − 1:0]. -/
def lanesOf (w : Nat) : Word := BitVec.ofNat 64 (2 ^ w - 1)

/-- The registers of a bundle as keys of its bank: s, m, then lanes of v. -/
def sKey (n : Nat) : Nat := n
def mKey (n : Nat) : Nat := 64 + n
def vKey (n lane : Nat) : Nat := 128 + 64 * n + lane

/-- A scalar register. -/
def Bundle.s (b : Bundle) (n : Nat) : Word := bankGet b.arch.regs b.fid (sKey n)

/-- A lane of a vector register. -/
def Bundle.v (b : Bundle) (n lane : Nat) : Lane := (bankGet b.arch.regs b.fid (vKey n lane)).truncate 32

/-- A mask register: m0 is the path's mask, with bits [63:w] 0 (R174). -/
def Cur.m (c : Cur) (n : Nat) : Word :=
  if n = 0 then c.p.mask &&& lanesOf c.g.width else bankGet c.b.arch.regs c.b.fid (mKey n)

/-- The active lanes of an instruction (R174), held to those of R197 after a return. -/
def Cur.active (c : Cur) (pred : Option (Fin 16)) : Word :=
  let m := c.m 0 &&& (match pred with | none => BitVec.allOnes 64 | some n => c.m n.val)
  match c.p.first with
  | none => m
  | some f => m &&& f

/-- Is a lane in a mask? -/
def inMask (m : Word) (l : Nat) : Bool := m.getLsbD l

/-- Lanes 0 to w − 1 that are in a mask. -/
def maskLanes (w : Nat) (m : Word) : List Nat := (List.range w).filter (inMask m)

/-- Is a register empty (R187)? -/
def Bundle.empty (b : Bundle) (r : Sel) : Bool := b.arch.awaits.any fun x => x.1 == r

/-- Change the architectural part of the issuing bundle. -/
def State.onArch (s : State) (k : BKey) (f : Arch → Arch) : State :=
  s.onBundle k fun b => { b with arch := f b.arch }

/-- Write one key of the register bank. -/
def Arch.put (a : Arch) (k : Nat) (v : Word) : Arch := { a with regs := mapPut a.regs k (.val v), bad := a.bad.filter fun x => x != k }

/-- A write fills an empty register, and the older result is discarded (R189). -/
def Arch.fill (a : Arch) (r : Sel) : Arch := { a with awaits := a.awaits.filter fun x => x.1 != r }

/-- A producer empties a register (R187). -/
def Arch.await (a : Arch) (r : Sel) (id : Nat) : Arch := { (a.fill r) with awaits := (r, id) :: (a.fill r).awaits }

/-- Write a whole scalar register. -/
def Arch.setS (a : Arch) (n : Nat) (v : Word) : Arch := (a.put (sKey n) v).fill (if h : n < 64 then .s ⟨n, h⟩ else .s 0)

/-- Write a whole mask register; a write to m0 changes the path's mask and ignores bits [63:w] (R174). -/
def Arch.setM (a : Arch) (slot : Bool) (w n : Nat) (v : Word) : Arch :=
  if n = 0 then
    match a.path slot with
    | some p => ({ a with bad := a.bad.filter fun x => x != mKey 0 }.setPath slot (some { p with mask := v &&& lanesOf w })).fill (.m 0)
    | none => a
  else (a.put (mKey n) v).fill (if h : n < 16 then .m ⟨n, h⟩ else .m 0)

/-- Write lanes of a vector register. -/
def Arch.setV (a : Arch) (n : Nat) : List (Nat × Lane) → Arch
  | [] => a
  | (l, v) :: r => (a.put (vKey n l) (v.zeroExtend 64)).setV n r

/-! ### Traps (R194 to R197) and halts (R280) -/

/-- Post the bundle-halted record of R281. -/
def State.haltRecord (s : State) (c : Cur) (cause source : Nat) (addr : Word) : State :=
  s.post c.g.tenant (wordOf [(56, 0x30), (48, cause), (44, source), (32, c.g.tenant), (0, c.g.tag)])
    (wordOf [(32, c.g.id), (24, c.b.key.idx), (0, c.c.key.crew)]) addr (c.c.core * 2 ^ 21)

/-- What an exited bundle keeps: its registers, its extended blocks too until its crew is retired (R138, R183), none of them empty. -/
def Arch.cleared (a : Arch) : Arch :=
  { a with slot0 := none, slot1 := none, stack := [], awaits := [], tdepth := 0, sup := false, progress := 0, bad := [] }

/-- An exit counts toward every generation of the crew's named barriers whose expected count is 0 (R417). -/
def barsOnExit (live : Nat) (bs : List Bar) : List Bar :=
  bs.map fun b => if b.expected = 0 ∧ b.arrived ≠ 0 ∧ live ≤ b.arrived then ⟨(b.gen + 1) % 2 ^ 32, 0, 0⟩ else b

/-- A bundle has exited (R179): it gives back its paths, and the crew's barriers count again. (log 36, DEDUCED) -/
def State.bundleExit (s : State) (k : BKey) : State :=
  let s := s.onBundle k fun b => { b with live := false, arch := b.arch.cleared, window := [], notes := [], results := [], hold := [], stopped := [], ready := none }
  s.onCrew k.ck fun c => { c with bars := barsOnExit (s.liveBundles k.ck) c.bars }

/-- HaltBundle (R280), with the source and the address of its record (R281). -/
def State.haltBundle (s : State) (c : Cur) (cause source : Nat) (addr : Word) : State :=
  let s := s.onBundle c.b.key fun b => { b with sq := [], pend := [], ackcnt := 0 }
  let s := s.bundleExit c.b.key
  let s := s.onCrew c.b.key.ck fun x => { x with abandoned := true }
  let s := s.setReg (offCoreRas c.c.core) (satAdd (s.reg (offCoreRas c.c.core)) 15 8 1)
  s.haltRecord c cause source addr

/-- The trap state before any trap (log 1, DESIGN CHOICE). -/
def TrapSt.none : TrapSt := ⟨0, 0, 0, 0, 0, [], 0, 0, false⟩

/-- Faulting addresses of the lanes of F (R195), those that are 0 not listed. -/
def tvalOf (w : Nat) (F : Word) (addr : Nat → Word) : List (Nat × Word) :=
  ((maskLanes w F).map fun l => (l, addr l)).filter fun x => x.2 != 0

/-- The path at the handler's first clause (R195). -/
def handlerPath (p : Path) (F : Word) : Path :=
  { p with pc := Config.handler, idx := 0, clause := none, mask := F, waiting := false, first := none, held := none, begun := false }

/-- What TakeTrap leaves in the bundle (R195): the saved trap state, the new one with the progress of the sweep that traps (R314), the mode, the path at the handler. -/
def Arch.trapped (a : Arch) (slot : Bool) (p : Path) (w : Nat) (cause tidx : Nat) (pc m0 F : Word) (addr : Nat → Word) : Arch :=
  let t : TrapSt := ⟨BitVec.ofNat 64 cause, pc, BitVec.ofNat 64 tidx, F, m0, tvalOf w F addr, p.swept, pc, p.begun || p.clause.isSome⟩
  let a := { a with trap1 := if a.tdepth = 1 then a.trap else a.trap1, trap := t, tdepth := a.tdepth + 1,
                    hslot := slot, sup := true, progress := 0 }
  a.setPath slot (some (handlerPath p F))

/-- A checkpoint of what stands before an issue (R190, R277); those past the horizon go. -/
def Bundle.checkpoint (b : Bundle) (now : Nat) : Bundle :=
  { b with window := (now, b.arch) :: b.window.filter fun x => decide (now < x.1 + Config.horizon) }

/-- TakeTrap (R195, R196) of the issuing path, for the lanes F with their faulting addresses, at a clause header and index. -/
def State.takeTrapAt (s : State) (c : Cur) (pc : Word) (idx cause : Nat) (F : Word) (addr : Nat → Word) : State :=
  if cause = 0x20 then s.haltBundle c 0x20 15 0
  else if c.b.arch.tdepth = 2 ∨ (c.b.arch.tdepth = 1 ∧ cause ≠ 0x10 ∧ cause ≠ 0x11) then s.haltBundle c 0x21 15 0
  else
    s.onBundle c.b.key fun b =>
      { b.checkpoint s.clock with notes := [], results := [], hold := [], arch := b.arch.trapped c.slot c.p c.g.width cause idx pc (c.m 0) F addr }

/-- TakeTrap at the issuing path's own instruction. -/
def State.takeTrap (s : State) (c : Cur) (cause : Nat) (F : Word) (addr : Nat → Word) : State :=
  s.takeTrapAt c c.p.pc c.p.idx cause F addr

/-- A trap for a cause that is no per-lane fault: F is every active lane, with no address (R195). -/
def State.trapAll (s : State) (c : Cur) (cause : Nat) (F : Word) : State := s.takeTrap c cause F fun _ => 0

/-! ### Advancing (R299) -/

/-- The number of instructions of a clause header (R296). -/
def hdrCount (h : Word) : Nat := fld h 59 56 + 1

/-- The class of a clause header, if it has one. -/
def hdrCls (h : Word) : Option Cls :=
  match fld h 63 60 with
  | 0 => some .s | 1 => some .v | 2 => some .m | 3 => some .t | 4 => some .x | _ => none

/-- The clause after a header: H + 8 × (count + 2), count being the field (R299). -/
def nextClause (pc hdr : Word) : Word := pc + BitVec.ofNat 64 (8 * (hdrCount hdr + 1))

/-- The path at a clause. -/
def Path.goto (p : Path) (pc : Word) : Path := { p with pc := pc, idx := 0, clause := none, first := none, held := none, begun := false }

/-- The path past its instruction (R299): the next one of the clause, or the next clause. -/
def Path.advance (p : Path) : Path :=
  match p.clause with
  | none => { p with first := none, held := none }
  | some cl =>
    if p.idx + 1 < hdrCount cl.hdr then { p with idx := p.idx + 1, first := none, held := none }
    else p.goto (nextClause p.pc cl.hdr)

/-- The path at the next clause. -/
def Path.nextClause (p : Path) : Path :=
  match p.clause with
  | none => p.advance
  | some cl => p.goto (Machine.nextClause p.pc cl.hdr)

/-- Change the path of the issuing slot. -/
def State.onPath (s : State) (c : Cur) (f : Path → Path) : State :=
  s.onArch c.b.key fun a => a.setPath c.slot ((a.path c.slot).map f)

/-- Move the issuing path past its instruction. -/
def State.advance (s : State) (c : Cur) : State := s.onPath c Path.advance

/-! ### Host-die harts (R115) -/

/-- A hart of the host die; one that has done nothing yet is in machine mode. (log 67, PRESUMED) -/
def HostHart.start : HostHart :=
  { x := [], f := [], v := [], pc := 0, mode := 3, virt := false, csrs := [], resv := none, eip := [], got := [], bad := false, fault := none, fences := 0 }
def State.host (s : State) (h : Nat) : HostHart := (mapGet s.hub.hosts h).getD HostHart.start
def State.onHost (s : State) (h : Nat) (f : HostHart → HostHart) : State :=
  let hub := { s.hub with hosts := mapPut s.hub.hosts h (f (s.host h)) }
  { s with hub := hub }

/-- The bits of mstatus that sstatus shows. -/
def sstatusBits : Word := 0x80000003000DE762

/-- Put a value into a register; x0 discards it. -/
def HostHart.put (h : HostHart) (bank : HostBank) (rd v : Nat) : HostHart :=
  match bank with
  | .x => if rd = 0 then h else { h with x := natsPut h.x (rd % 32) (v % 2 ^ 64) }
  | .f => { h with f := natsPut h.f (rd % 32) (v % 2 ^ 64) }
  | .v => { h with v := natsPut h.v (rd % 32) (v % 2 ^ 256) }

/-- The number under which an AMO's old value returns: register, 4 bytes or 8, acquire; and what it says. -/
def hostTag (rd : Nat) (word aq : Bool) : Nat := 4 * (rd % 32) + 2 * word.toNat + aq.toNat
def tagRd (n : Nat) : Nat := n / 4
def tagWord (n : Nat) : Bool := n / 2 % 2 == 1
def tagAq (n : Nat) : Bool := n % 2 == 1

end Sys2Proof.Machine
end

