-- ==== Sys2Proof/Machine/Operands.lean ====
section
/-! DEFINITION. Operands and the checks that every instruction passes before it has any effect (R302 to R305). -/

namespace Sys2Proof.Machine

/-- The clause literal (R296). -/
def Cur.lit (c : Cur) : BitVec 32 :=
  match c.p.clause with
  | some cl => cl.hdr.truncate 32
  | none => 0

/-- The address of the issuing path's clause header. -/
def Cur.H (c : Cur) : Word := c.p.pc

/-- The header of the issuing path's clause. -/
def Cur.hdr (c : Cur) : Word := match c.p.clause with | some cl => cl.hdr | none => 0

/-- The inline constant −16 to 15 (R303). -/
def constVal (k : Fin 32) : Word := (BitVec.ofNat 5 k.val).signExtend 64

/-- An operand read whole, under type none (R305). -/
def Cur.raw (c : Cur) : Sel → Word
  | .v n => (c.b.v n.val 0).zeroExtend 64
  | .s n => c.b.s n.val
  | .m n => c.m n.val
  | .litS => c.lit.signExtend 64
  | .litZ => c.lit.zeroExtend 64
  | .const k => constVal k

/-- The value an n-bit pattern has under a type (R331). -/
def tyVal (n : Nat) (signed : Bool) (v : Nat) : Int :=
  let v := v % 2 ^ n
  if signed && decide (2 ^ (n - 1) ≤ v) then (v : Int) - 2 ^ n else v

/-- Rd (R331): the integer an operand has under an integer type. -/
def Cur.rd (c : Cur) (ty : Ty) (x : Src) : Int := tyVal ty.bits ty.signed (c.raw x.sel).toNat

/-- Wr (R331): the 64 bits that an integer leaves in a scalar register. -/
def wrVal (ty : Ty) (r : Int) : Word := BitVec.ofInt 64 (tyVal ty.bits ty.signed (r % 2 ^ ty.bits).toNat)

/-- The pattern of a small integer converted exactly to a float type with so many exponent and fraction bits (R305). -/
def smallFloat (eb mb : Nat) (k : Int) : Nat :=
  let m := k.natAbs
  if m = 0 then 0
  else
    let e := Nat.log2 m
    (if k < 0 then 2 ^ (eb + mb) else 0) + (e + (2 ^ (eb - 1) - 1)) * 2 ^ mb + (m - 2 ^ e) * 2 ^ mb / 2 ^ e

/-- A binary32 pattern converted exactly to binary64 (R305). -/
def widen32 (v : Nat) : Nat :=
  let sg := v / 2 ^ 31 % 2 * 2 ^ 63
  let e := v / 2 ^ 23 % 256
  let f := v % 2 ^ 23
  if e = 255 then sg + 2047 * 2 ^ 52 + f * 2 ^ 29
  else if e ≠ 0 then sg + (e + 896) * 2 ^ 52 + f * 2 ^ 29
  else if f = 0 then sg
  else
    let k := Nat.log2 f
    sg + (k + 874) * 2 ^ 52 + (f - 2 ^ k) * 2 ^ (52 - k)

/-- The n-bit pattern of an inline constant under a type (R305). -/
def constBits (ty : Ty) (k : Fin 32) : Nat :=
  match ty with
  | .f16 => smallFloat 5 10 (constVal k).toInt
  | .bf16 => smallFloat 8 7 (constVal k).toInt
  | .f32 => smallFloat 8 23 (constVal k).toInt
  | .f64 => smallFloat 11 52 (constVal k).toInt
  | _ => (constVal k).toNat % 2 ^ ty.bits

/-- The n-bit pattern of the clause literal under a type (R305). -/
def litBits (ty : Ty) (lit : BitVec 32) (sext : Bool) : Nat :=
  match ty with
  | .f64 => widen32 lit.toNat
  | _ => (if sext then (lit.signExtend 64).toNat else lit.toNat) % 2 ^ ty.bits

/-- A lane's n-bit pattern of an operand under a type: a vector register or pair, a scalar register for every lane, or a constant (R305, R349, R372). -/
def Cur.lane (c : Cur) (ty : Ty) (x : Sel) (l : Nat) : Nat :=
  match x with
  | .v n => if ty.is64 then (c.b.v n.val l).toNat + (c.b.v (n.val + 1) l).toNat * 2 ^ 32 else (c.b.v n.val l).toNat % 2 ^ ty.bits
  | .litS => litBits ty c.lit true
  | .litZ => litBits ty c.lit false
  | .const k => constBits ty k
  | x => (c.raw x).toNat % 2 ^ ty.bits

/-! ### The checks of R302 -/

/-- What an instruction needs of the checks: its class; whether a role other than G may issue it (copies and fences in class M, sync in class X, R171);
whether a handler may issue it in any role (R414); whether it is privileged; whether its place in the clause is one it may not stand in (R299); whether it acts once for the path outside classes S and X; whether it acts lane by lane
and so has no effect with no active lane (R351, R371); whether it writes 0 to inactive lanes (R175); its predicate; the registers it reads with their trap bits; its destinations and whether each is written whole; the tile it names;
the plane cycles of its issue (R153). -/
structure Need where
  cls   : Cls
  sync  : Bool := false
  hand  : Bool := false
  sup   : Bool := false
  bad   : Bool := false
  once  : Bool := false
  lane  : Bool := false
  z     : Bool := false
  pred  : Option (Fin 16) := none
  srcs  : List (Src × Bool) := []
  dsts  : List (Sel × Bool × Bool) := []
  tile  : Option Nat := none
  cost  : Nat := 1

/-- May a role issue it (R171, R414)? Role 0 is G, 1 is C, 2 is M. -/
def roleOk (role tdepth : Nat) (n : Need) : Bool :=
  match n.cls with
  | .s => true
  | .v => role == 0
  | .m => role == 0 || (role == 1 && n.sync)
  | .t => role == 2
  | .x => role == 0 || n.sync || (n.hand && tdepth != 0)

/-- The vector registers a selector names. -/
def vRegs (x : Sel) (pair : Bool) : List Nat :=
  match x with
  | .v n => if pair then [n.val, n.val + 1] else [n.val]
  | _ => []

/-- The registers with a full/empty bit that a selector names. -/
def regsOf (x : Sel) (pair : Bool) : List Sel :=
  match x with
  | .v n => if pair then [.v n, .v (n + 1)] else [.v n]
  | .s n => [.s n]
  | .m n => [.m n]
  | _ => []

/-- The limit of the vector registers a bundle may name (R183). -/
def Cur.vLimit (c : Cur) : Nat := min 128 (8 * (c.g.regs + c.b.arch.ext))

/-- The outcome of the checks. -/
inductive Gate where
  | go
  | block
  | trap (cause : Nat)
  deriving DecidableEq, Repr

/-- Does a source read an empty register? -/
def Cur.srcEmpty (c : Cur) (x : Src × Bool) : Bool := (regsOf x.1.sel x.2).any c.b.empty

/-- Checks 1 to 5 of R302, in order; of check 1 the decoder leaves only the place in the clause (R299). A partial write waits for a full register (R189). (log 74, DESIGN CHOICE) -/
def gate (c : Cur) (n : Need) : Gate :=
  if n.bad then .trap 0x01
  else if !roleOk c.b.role c.b.arch.tdepth n then .trap 0x03
  else if n.sup && c.b.arch.tdepth == 0 then .trap 0x04
  else if (n.srcs.any fun x => (vRegs x.1.sel x.2).any fun v => decide (c.vLimit ≤ v))
      || (n.dsts.any fun x => (vRegs x.1 x.2.1).any fun v => decide (c.vLimit ≤ v))
      || (match n.tile with | some t => decide (c.g.acc ≤ t) | none => false) then .trap 0x05
  else if n.srcs.any fun x => x.1.trap && c.srcEmpty x then .trap 0x07
  else if (n.srcs.any c.srcEmpty) || (match n.pred with | some p => c.b.empty (.m p) | none => false)
      || (n.dsts.any fun x => !x.2.2 && (regsOf x.1 x.2.1).any c.b.empty) then .block
  else .go

/-! ### Issue: kills, the window, charges -/

/-- The keys of a killed register over w lanes. -/
def killKeys (w : Nat) (x : Src × Bool) : List Nat :=
  match x.1.sel with
  | .s n => [sKey n.val]
  | .m n => [mKey n.val]
  | .v n => (vRegs (.v n) x.2).flatMap fun r => (List.range w).map (vKey r)
  | _ => []

/-- The source fields with a kill mark on a register (R191). -/
def Need.kills (n : Need) : List (Src × Bool) := n.srcs.filter fun x => x.1.kill

/-- Kill marks leave free values in the registers they name (R191); a killed m0 leaves a free mask. -/
def Arch.killed (a : Arch) (slot : Bool) (w id : Nat) (ks : List (Src × Bool)) : Arch :=
  let a := { a with regs := (ks.flatMap (killKeys w)).foldl (fun r k => bankFree r k id) a.regs }
  if ks.any fun x => x.1.sel == .m 0 then
    a.setPath slot ((a.path slot).map fun p => { p with mask := Config.freeWord id (mKey 0) &&& lanesOf w })
  else a

/-- Where the charges that a core has seen in its present 1 ms stand among the charges (R155): the number of that ms plus one, and each tenant's. -/
def coreKey (core : Nat) : Nat := 64 + 65 * core
def coreTenantKey (core t : Nat) : Nat := coreKey core + 1 + t

/-- Note a charge in a core's present window of 1 ms; a new window starts empty (R155). -/
def State.noteCharge (s : State) (core t n : Nat) : State :=
  let ms := s.clock / (1000 * Config.cyclesPerUs) + 1
  let old := if natsGet s.charge (coreKey core) = ms then s.charge
    else (s.charge.filter fun x => decide (x.1 < coreKey core) || decide (coreKey core + 65 ≤ x.1))
  { s with charge := natsPut (natsPut old (coreKey core) ms) (coreTenantKey core t) (natsGet old (coreTenantKey core t) + n) }

/-- Charge plane cycles of a core to a tenant (R153, R154): whole units of 65,536 go into its consumed field. -/
def State.charged (s : State) (core t n : Nat) : State :=
  let s := s.noteCharge core t n
  let c := natsGet s.charge t + n
  let w := s.reg (0x400 + 8 * t)
  let s := { s with charge := natsPut s.charge t (c % 65536) }
  if c / 65536 = 0 then s else s.setReg (0x400 + 8 * t) (satAdd w 55 0 (c / 65536))

/-- What every issue does to its bundle (R190, R191, R277): a checkpoint of what stood before it, the kill marks, the spin detector's
note of a changed register (R156), the path that issued last (R163). -/
def Bundle.issued (b : Bundle) (slot : Bool) (w now id : Nat) (ks : List (Src × Bool)) : Bundle :=
  let m0 := fun (a : Arch) => (a.path slot).map fun p => p.mask
  let prev := match b.window with | x :: _ => x.2.regs != b.arch.regs || m0 x.2 != m0 b.arch | [] => false
  { b.checkpoint now with
    arch := b.arch.killed slot w id ks
    spin := { b.spin with changed := b.spin.changed || prev }
    notes := []
    last := slot
    yielded := false
    stopped := b.stopped.filter fun x => x != slot
    ready := none }

/-- The registers that an instruction kills, and those that it writes. -/
def Need.killed (n : Need) : List Sel := n.kills.flatMap fun x => regsOf x.1.sel x.2
def Need.writes (n : Need) : List Sel := n.dsts.flatMap fun x => regsOf x.1 x.2.1

/-- The forwarding window's results but for those that are no longer live once some registers are killed or written (R190). -/
def liveBut (l : List (Nat × List Sel)) (rs : List Sel) : List (Nat × List Sel) := l.map fun e => (e.1, e.2.filter fun r => !rs.contains r)

/-- Must an issue wait because the result that it would push out is live and not yet past the strike horizon (R190)? -/
def Bundle.windowFull (b : Bundle) (n : Need) (now : Nat) : Bool :=
  match (liveBut b.results n.killed)[7]? with
  | some e => !e.2.isEmpty && decide (now < e.1 + Config.horizon)
  | none => false

/-- The port of a class (R168). -/
def clsPort : Cls → Nat
  | .s | .x => 0
  | .v => 1
  | .m => 2
  | .t => 3

/-- A slot's clause holds a port's lane block from now on, or none. -/
def Bundle.setHold (b : Bundle) (slot : Bool) (port : Option Nat) : Bundle :=
  { b with hold := (b.hold.filter fun x => x.1 != slot) ++ port.toList.map fun k => (slot, k) }

/-- The first instruction of the path's clause has issued (R168). -/
def Bundle.begin (b : Bundle) (slot : Bool) : Bundle :=
  { b with arch := b.arch.setPath slot ((b.arch.path slot).map fun p => { p with begun := true }) }

/-- The instruction takes its place in the window (R190), and its clause, begun now, holds its port's lane block to its end (R168). -/
def Bundle.enter (b : Bundle) (c : Cur) (n : Need) (now : Nat) : Bundle :=
  let more := match c.p.clause with | some cl => decide (c.p.idx + 1 < hdrCount cl.hdr) | none => false
  (({ b with results := ((now, n.writes) :: liveBut b.results (n.killed ++ n.writes)).take 8 }).begin c.slot).setHold c.slot (if more then some (clsPort n.cls) else none)

/-- Does a bundle hold a port's lane block: that of a clause begun and not stopped, and of a sweep between two of its boundaries (R168, R314)? -/
def Bundle.holding (b : Bundle) (port : Nat) : Bool :=
  b.hold.any fun x => x.2 == port && (b.arch.path x.1).any fun p => p.clause.isSome && (p.idx != 0 || p.swept % 16 != 0)

/-- Do the lane blocks of two bundle contexts of some widths meet (R169)? A context's block is its number mod (64 / width). -/
def blocksMeet (w i v j : Nat) : Bool :=
  let a := w * (i % (64 / w))
  let b := v * (j % (64 / v))
  decide (a < b + v) && decide (b < a + w)

/-- Does another bundle of the core hold the lane block of a class's port (R168)? -/
def State.portHeld (s : State) (c : Cur) (cls : Cls) : Bool :=
  s.bundles.any fun b => b.holding (clsPort cls) && b.key != c.b.key && b.live &&
    (match s.crew? b.key.ck, s.grid? b.key.grid with
      | some k, some g => k.st == .resident && k.core == c.c.core && blocksMeet c.g.width c.b.ctxNo g.width b.ctxNo
      | _, _ => false)

/-- A slot's clause stops: it holds no lane block, and the slot is known to be blocked (R168). -/
def Bundle.stop (b : Bundle) (slot : Bool) : Bundle :=
  { b.setHold slot none with stopped := if b.stopped.contains slot then b.stopped else slot :: b.stopped }

/-- A clause stops at an instruction that blocks (R168). -/
def State.stopAt (s : State) (c : Cur) : State := s.onBundle c.b.key fun b => b.stop c.slot

/-- Does an instruction read a poisoned register, or lane, of those it is active in (R278, R279)? Every instruction reads m0. -/
def Cur.badSrc (c : Cur) (n : Need) : Bool :=
  !c.b.arch.bad.isEmpty &&
    (c.b.arch.bad.contains (mKey 0) || (match n.pred with | some p => c.b.arch.bad.contains (mKey p.val) | none => false) || n.srcs.any fun x => match x.1.sel with
      | .s k => c.b.arch.bad.contains (sKey k.val)
      | .m k => c.b.arch.bad.contains (mKey k.val)
      | q => (vRegs q x.2).any fun v => (maskLanes c.g.width (c.active n.pred)).any fun l => c.b.arch.bad.contains (vKey v l))

/-- The instruction issues: kills, checkpoint, its place in the window, its issue cycles charged (R153, R190). -/
def State.issued (s : State) (c : Cur) (n : Need) : State :=
  let id := s.free
  let s := { s with free := s.free + 1 }
  (s.onBundle c.b.key fun b => (b.issued c.slot c.g.width s.clock id n.kills).enter c n s.clock).charged c.c.core c.g.tenant n.cost

/-- Has an instruction no effect for want of active lanes: one of class S or X, or one that acts once for its path as they do, under a false predicate (R175); one that acts
lane by lane, where no lane is active and it writes no zeros (R351, R371)? (log 11, DEDUCED) -/
def Cur.ignored (c : Cur) (n : Need) : Bool :=
  c.active n.pred == 0 && (((n.once || n.cls == .s || n.cls == .x) && n.pred.isSome) || (n.lane && !n.z))

/-- What an instruction's own checks answer: go on, block, block with what it has done noted, trap in some lanes with their addresses, or another end that leaves the path where it is put. -/
inductive Own where
  | go
  | block
  | wait (t : State → State)
  | trap (cause : Nat) (F : Word) (addr : Nat → Word)
  | hold (t : State → State)

/-- The full and phase bits of a ring's stage (R423); unspecified once software has stored to stage words. -/
def Crew.stageBits (c : Crew) (free : Nat) (r : Ring) (st : Nat) : Nat :=
  if r.spoilt then (Config.freeWord free st).toNat % 4 else (bankGet c.win c.winFree (r.base + 8 * st)).toNat % 4

/-- Grids the device scheduler holds now (R137). -/
def State.gridCount (s : State) : Nat := (s.grids.filter fun g => g.st != .retired).length

/-- Is the grid table full (R137)? -/
def State.tableFull (s : State) : Bool := decide (65536 ≤ s.gridCount)

/-- Is the issuer not eligible for what stays at the head of its store queue past the horizon: a ring post that finds its stage full in a crew that is not abandoned (R424, R460), a launch that finds the
grid table full (R137)? -/
def State.queueBlocked (s : State) (c : Cur) : Bool :=
  match c.b.sq with
  | [] => false
  | e :: _ => decide (e.time + Config.horizon ≤ s.clock) && (match e.op with
    | .ringPost _ r st => !c.c.abandoned && (match mapGet c.c.rings r with
        | some d => (c.c.stageBits s.free d st).testBit 1
        | none => false)
    | .launch _ _ => s.tableFull
    | _ => false)

/-- Does a wait condition hold (R296, R297)? -/
def Cur.waitHolds (c : Cur) (w : Nat) : Bool :=
  match w / 64 with
  | 0 => true
  | 1 => !(c.b.arch.awaits.any fun x => x.1 == .s (Fin.ofNat 64 w))
  | 2 => match c.c.tiles[w % 64]? with | some t => t.full | none => true
  | _ => c.b.ackcnt == 0

/-- Must the first instruction of a clause, which has not issued, wait for the conditions of its header, broken since the header met them (R297)? -/
def Cur.unready (c : Cur) : Bool :=
  c.p.idx == 0 && !c.p.begun && c.p.held.isNone && (match c.p.clause with
    | some cl => !(c.waitHolds (fld cl.hdr 55 48) && c.waitHolds (fld cl.hdr 47 40))
    | none => false)

/-- Is the issue of an instruction held up: at a save (R162), behind the head of the store queue (R137, R460), by its header's conditions (R297), by another bundle's clause on the port (R168), by the
forwarding window (R190)? -/
def State.heldUp (s : State) (c : Cur) (n : Need) : Bool :=
  s.saveStops c || s.queueBlocked c || c.unready || s.portHeld c n.cls || c.b.windowFull n s.clock

/-- What an instruction that may not issue leaves: its clause has stopped behind the store queue, or stands at its header again. -/
def State.notIssued (s : State) (c : Cur) : State :=
  if !c.eligible then s
  else if s.queueBlocked c then s.stopAt c
  else if c.unready then s.onPath c fun p => { p with clause := none, waiting := true }
  else s

/-- Lanes that more than one path of a bundle holds: a path must not set in m0 a lane of its sibling or of a record on the divergence stack (R340). -/
def Arch.clash (a : Arch) : Word :=
  ((a.slot0.toList ++ a.slot1.toList ++ a.stack).foldl (fun r p => (r.1 ||| p.mask, r.2 ||| (r.1 &&& p.mask))) ((0 : Word), (0 : Word))).2

/-- Lanes of vector registers become unspecified. -/
def Arch.freeLanes (a : Arch) (id w : Nat) (lanes : Word) (vs : List Nat) : Arch :=
  { a with regs := (vs.flatMap fun v => (maskLanes w lanes).map (vKey v)).foldl (fun m k => bankFree m k id) a.regs }

/-- Bits of a mask register become unspecified; of m0 those of the path's mask. -/
def Arch.freeBits (a : Arch) (slot : Bool) (fid id w : Nat) (lanes : Word) (n : Nat) : Arch :=
  let mix := fun (v : Word) => (v &&& ~~~lanes) ||| (Config.freeWord id (mKey n) &&& lanes &&& lanesOf w)
  if n = 0 then a.setPath slot ((a.path slot).map fun p => { p with mask := mix p.mask })
  else { a with regs := mapPut a.regs (mKey n) (.val (mix (bankGet a.regs fid (mKey n)))) }

/-- The lanes that an instruction writes and another path holds too: its active lanes, or with the zeroing form all of its mask. -/
def Cur.clashLanes (c : Cur) (n : Need) : Word := c.b.arch.clash &&& (if n.z then c.m 0 else c.active n.pred)

/-- What a lane instruction writes of vector and mask registers in a lane that another path holds too is unspecified (R340). (log 116, DEDUCED) -/
def State.clashed (s : State) (c : Cur) (n : Need) : State :=
  if c.b.arch.clash = 0 then s
  else
    let l := c.clashLanes n
    let id := s.free
    let masks := n.dsts.filterMap fun (d : Sel × Bool × Bool) => match d.1 with | .m k => if n.cls = .v then some k.val else none | _ => none
    ({ s with free := id + 1 }).onBundle c.b.key fun b =>
      { b with arch := masks.foldl (fun a k => a.freeBits c.slot b.fid id c.g.width l k)
                 (b.arch.freeLanes id c.g.width l (n.dsts.flatMap fun (d : Sel × Bool × Bool) => vRegs d.1 d.2.1)) }

/-- Issue an instruction (R302): the checks, the predicate, poison in what it reads (R279), the instruction's own faults, then its effect on the state after kills,
which it must also move past the instruction. A path that may not issue, and a blocked instruction, change nothing but that the clause has stopped. (log 11, DEDUCED) (log 74, DESIGN CHOICE) -/
def State.issue (s : State) (need : Cur → Need) (own : Cur → Own) (skip : Path → Path) (body : Cur → State → State) : Res :=
  match s.cur with
  | none => .fault .noIssuer
  | some c =>
    if !c.eligible || s.heldUp c (need c) then .next (s.notIssued c)
    else match gate c (need c) with
      | .trap cause => .next (s.trapAll c cause (c.active (need c).pred))
      | .block => .next (s.stopAt c)
      | .go =>
        if c.ignored (need c) then .next ((s.issued c { cls := (need c).cls, cost := (need c).cost }).onPath c skip)
        else if c.badSrc (need c) then .next (s.haltBundle c 0x20 0 0)
        else match own c with
          | .block => .next (s.stopAt c)
          | .wait f => .next ((f s).stopAt c)
          | .hold f => .next (f s)
          | .trap cause F addr => .next (s.takeTrap c cause F addr)
          | .go => .next ((body c (s.issued c (need c))).clashed c (need c))

/-- Sources that are registers a scalar instruction reads: an unused field is not read (R304). -/
def srcsS (l : List Src) : List (Src × Bool) :=
  (l.filter fun x => match x.sel with | .v _ => false | _ => true).map fun x => (x, false)

/-- Write a whole scalar or mask destination (R332); other selectors are no destination. -/
def Arch.setDst (a : Arch) (slot : Bool) (w : Nat) (d : Sel) (v : Word) : Arch :=
  match d with
  | .s n => a.setS n.val v
  | .m n => a.setM slot w n.val v
  | _ => a

/-- Write the issuing bundle's scalar or mask destination. -/
def State.setDst (s : State) (c : Cur) (d : Sel) (v : Word) : State :=
  s.onArch c.b.key fun a => a.setDst c.slot c.g.width d v

/-- No faults of its own. -/
def ownNone (_ : Cur) : Own := .go

/-- The instructions of a clause that must be last in it (R299), or first, are traps of cause illegal-instruction elsewhere. -/
def Cur.lastInClause (c : Cur) : Bool :=
  match c.p.clause with
  | some cl => c.p.idx + 1 == hdrCount cl.hdr
  | none => true

end Sys2Proof.Machine
end

