-- ==== Sys2Proof/Machine/Flags.lean ====
section
/-! DEFINITION. Floating-point values, rounding and flags: every float operation, the element formats, expansion and drain conversions (R241 to R258, R353 to R362). -/

namespace Sys2Proof.Machine

/-! ### Formats (R243, R244) -/

/-- The special values of a format (R244). -/
inductive Specials where
  | none | nanOnly | ieee
  deriving DecidableEq, Repr

/-- A float format: exponent bits, mantissa bits, specials. -/
structure Fmt where
  eb : Nat
  mb : Nat
  sp : Specials
  deriving DecidableEq, Repr

def Fmt.bits (f : Fmt) : Nat := 1 + f.eb + f.mb
def Fmt.bias (f : Fmt) : Int := 2 ^ (f.eb - 1) - 1
/-- The exponent of the least normal number. -/
def Fmt.emin (f : Fmt) : Int := 1 - f.bias
/-- The code of the largest finite magnitude (R244). -/
def Fmt.maxCode (f : Fmt) : Nat :=
  match f.sp with
  | .ieee => (2 ^ f.eb - 1) * 2 ^ f.mb - 1
  | .nanOnly => 2 ^ (f.eb + f.mb) - 2
  | .none => 2 ^ (f.eb + f.mb) - 1
/-- The code of infinity. -/
def Fmt.infCode (f : Fmt) : Nat := (2 ^ f.eb - 1) * 2 ^ f.mb
/-- The canonical NaN (R244). -/
def Fmt.qnan (f : Fmt) : Nat :=
  match f.sp with
  | .nanOnly => 2 ^ (f.eb + f.mb) - 1
  | _ => f.infCode + 2 ^ (f.mb - 1)
def Fmt.sign (f : Fmt) (neg : Bool) : Nat := if neg then 2 ^ (f.eb + f.mb) else 0

def fmt32 : Fmt := ⟨8, 23, .ieee⟩
def fmt64 : Fmt := ⟨11, 52, .ieee⟩

/-- The format of a float type (R353). -/
def fmtOf : Ty → Fmt
  | .f16 => ⟨5, 10, .ieee⟩
  | .bf16 => ⟨8, 7, .ieee⟩
  | .f64 => fmt64
  | _ => fmt32

/-- A float: a NaN, an infinity, or (−1)^neg × m × 2^e exactly. -/
inductive FVal where
  | nan (signalling : Bool)
  | inf (neg : Bool)
  | fin (neg : Bool) (m : Nat) (e : Int)
  deriving DecidableEq, Repr

/-- The value of a code (R243, R244). -/
def Fmt.val (f : Fmt) (c : Nat) : FVal :=
  let neg := c / 2 ^ (f.eb + f.mb) % 2 == 1
  let e := c / 2 ^ f.mb % 2 ^ f.eb
  let m := c % 2 ^ f.mb
  let fin := if e = 0 then FVal.fin neg m (f.emin - f.mb) else .fin neg (m + 2 ^ f.mb) (f.emin - f.mb + e - 1)
  match f.sp with
  | .none => fin
  | .nanOnly => if e = 2 ^ f.eb - 1 ∧ m = 2 ^ f.mb - 1 then .nan false else fin
  | .ieee => if e = 2 ^ f.eb - 1 then (if m = 0 then .inf neg else .nan (m / 2 ^ (f.mb - 1) == 0)) else fin

/-! ### Flags (R193, R259): inexact, underflow, overflow, divide by zero, invalid -/

def flX : Nat := 1
def flU : Nat := 2
def flO : Nat := 4
def flZ : Nat := 8
def flV : Nat := 16

/-- A pattern with the flags its computation raised. -/
abbrev PF := Nat × Nat

/-! ### Rounding -/

/-- m / 2^k rounded to an integer under rnd (0 to even, 1 toward zero, 2 ties away), and whether it changed the value. -/
def shiftRound (rnd m k : Nat) : Nat × Bool :=
  let q := m / 2 ^ k
  let r := m % 2 ^ k
  let up := match rnd with
    | 0 => decide (2 ^ k < 2 * r) || (decide (2 * r = 2 ^ k) && q % 2 == 1)
    | 1 => false
    | _ => decide (2 ^ k ≤ 2 * r) && r != 0
  (if up then q + 1 else q, r != 0)

/-- m × 2^e rounded to a multiple of 2^q, in units of it. -/
def roundAt (rnd m : Nat) (e q : Int) : Nat × Bool :=
  if q ≤ e then (m * 2 ^ (e - q).toNat, false) else shiftRound rnd m (q - e).toNat

/-- (−1)^neg × m × 2^e rounded once to a format under rnd, with its flags (R353): gradual underflow, tininess after rounding. -/
def Fmt.round (f : Fmt) (rnd : Nat) (neg : Bool) (m : Nat) (e : Int) : PF :=
  if m = 0 then (f.sign neg, 0)
  else
    let lead := (Nat.log2 m : Int) + e
    let qmin := f.emin - f.mb
    let q := max (lead - f.mb) qmin
    let r := roundAt rnd m e q
    let code := (q - qmin).toNat * 2 ^ f.mb + r.1
    if f.maxCode < code then
      let c := if f.sp = .ieee ∧ rnd ≠ 1 then f.infCode else f.maxCode
      (f.sign neg + c, flO + flX)
    else
      let u := roundAt rnd m e (lead - f.mb)
      let tiny := decide (lead < f.emin) && !(decide (lead = f.emin - 1) && u.1 == 2 ^ (f.mb + 1))
      (f.sign neg + code, if r.2 then (if tiny then flX + flU else flX) else 0)

/-- Round a value to a format; a NaN becomes the canonical one, invalid if it signals. -/
def Fmt.ofVal (f : Fmt) (rnd : Nat) : FVal → PF
  | .nan s => (f.qnan, if s then flV else 0)
  | .inf n => (f.sign n + f.infCode, 0)
  | .fin n m e => f.round rnd n m e

/-- The invalid operation: a canonical NaN. -/
def Fmt.bad (f : Fmt) : PF := (f.qnan, flV)

/-- A result with more flags. -/
def withFlags (r : PF) (fl : Nat) : PF := (r.1, r.2 ||| fl)

def FVal.neg : FVal → FVal
  | .nan s => .nan s
  | .inf n => .inf (!n)
  | .fin n m e => .fin (!n) m e

def FVal.isSig : FVal → Bool
  | .nan s => s
  | _ => false

def FVal.isNan : FVal → Bool
  | .nan _ => true
  | _ => false

/-! ### Arithmetic -/

/-- The signed integer of a finite value in units of 2^q, q at most its exponent. -/
def scaled (n : Bool) (m : Nat) (e q : Int) : Int :=
  let v : Int := (m * 2 ^ (e - q).toNat : Nat)
  if n then -v else v

/-- The exact sum of two values; an exact zero from unlike signs is +0. No value where infinities of unlike signs meet. -/
def FVal.add (a b : FVal) : Option FVal :=
  match a, b with
  | .nan s, .nan t => some (.nan (s || t))
  | .nan s, _ => some (.nan s)
  | _, .nan t => some (.nan t)
  | .inf n, .inf k => if n = k then some (.inf n) else none
  | .inf n, _ => some (.inf n)
  | _, .inf k => some (.inf k)
  | .fin n m e, .fin k p d =>
    let q := min e d
    let v := scaled n m e q + scaled k p d q
    some (.fin (if v = 0 then n && k else decide (v < 0)) v.natAbs q)

/-- The exact product; no value for ∞ × 0. -/
def FVal.mul (a b : FVal) : Option FVal :=
  match a, b with
  | .nan s, .nan t => some (.nan (s || t))
  | .nan s, _ => some (.nan s)
  | _, .nan t => some (.nan t)
  | .inf n, .inf k => some (.inf (n != k))
  | .inf n, .fin k p _ => if p = 0 then none else some (.inf (n != k))
  | .fin n m _, .inf k => if m = 0 then none else some (.inf (n != k))
  | .fin n m e, .fin k p d => some (.fin (n != k) (m * p) (e + d))

def Fmt.addF (f : Fmt) (rnd : Nat) (a b : FVal) : PF :=
  match a.add b with
  | some v => f.ofVal rnd v
  | none => f.bad

def Fmt.mulF (f : Fmt) (rnd : Nat) (a b : FVal) : PF :=
  match a.mul b with
  | some v => f.ofVal rnd v
  | none => f.bad

/-- Fused multiply-add: one rounding; ∞ × 0 is invalid whatever c is (R355). -/
def Fmt.fmaF (f : Fmt) (rnd : Nat) (a b c : FVal) : PF :=
  match a.mul b with
  | none => f.bad
  | some p => match p.add c with
    | some v => f.ofVal rnd v
    | none => f.bad

/-- m × 2^e / d with at least 80 more bits than an integer needs, its lowest bit saying whether bits follow. -/
def jamDiv (m : Nat) (e : Int) (d : Nat) : Nat × Int :=
  let k := 80 + Nat.log2 d + e.toNat
  let n := m * 2 ^ k
  (n / d * 2 + (if n % d = 0 then 0 else 1), e - k - 1)

def Fmt.divF (f : Fmt) (rnd : Nat) (a b : FVal) : PF :=
  match a, b with
  | .nan s, .nan t => f.ofVal rnd (.nan (s || t))
  | .nan s, _ => f.ofVal rnd (.nan s)
  | _, .nan t => f.ofVal rnd (.nan t)
  | .inf _, .inf _ => f.bad
  | .inf n, .fin k _ _ => f.ofVal rnd (.inf (n != k))
  | .fin n _ _, .inf k => f.ofVal rnd (.fin (n != k) 0 0)
  | .fin n m e, .fin k p d =>
    if p = 0 then (if m = 0 then f.bad else (f.sign (n != k) + f.infCode, flZ))
    else
      let q := jamDiv m 0 p
      f.round rnd (n != k) q.1 (q.2 + e - d)

/-- The integer square root by its bits, from bit n − 1 down, above r. -/
def isqrtFrom (m : Nat) : Nat → Nat → Nat
  | 0, r => r
  | n + 1, r => if (r + 2 ^ n) * (r + 2 ^ n) ≤ m then isqrtFrom m n (r + 2 ^ n) else isqrtFrom m n r

def isqrt (m : Nat) : Nat := isqrtFrom m (Nat.log2 m / 2 + 1) 0

/-- An even exponent for a significand: (m', e') with m' × 2^(2e') the value and m' at least 2^140. -/
def evenExp (m : Nat) (e : Int) : Nat × Int :=
  let k : Nat := 140 + (if (e - 140) % 2 = 0 then 0 else 1)
  (m * 2 ^ k, (e - k) / 2)

def Fmt.sqrtF (f : Fmt) (rnd : Nat) : FVal → PF
  | .nan s => f.ofVal rnd (.nan s)
  | .inf n => if n then f.bad else (f.infCode, 0)
  | .fin n m e =>
    if m = 0 then (f.sign n, 0)
    else if n then f.bad
    else
      let x := evenExp m e
      let r := isqrt x.1
      f.round rnd false (2 * r + (if r * r = x.1 then 0 else 1)) (x.2 - 1)

def Fmt.rcpF (f : Fmt) (rnd : Nat) : FVal → PF
  | .nan s => f.ofVal rnd (.nan s)
  | .inf n => (f.sign n, 0)
  | .fin n m e =>
    if m = 0 then (f.sign n + f.infCode, flZ)
    else
      let q := jamDiv 1 0 m
      f.round rnd n q.1 (q.2 - e)

def Fmt.rsqrtF (f : Fmt) (rnd : Nat) : FVal → PF
  | .nan s => f.ofVal rnd (.nan s)
  | .inf n => if n then f.bad else (0, 0)
  | .fin n m e =>
    if m = 0 then (f.sign n + f.infCode, flZ)
    else if n then f.bad
    else
      let x := evenExp m e
      let k := 2 * (Nat.log2 x.1 + 80)
      let q := 2 ^ k / x.1
      let r := isqrt q
      let exact := decide (r * r = q) && 2 ^ k % x.1 == 0
      f.round rnd false (2 * r + (if exact then 0 else 1)) (-(x.2) - (k / 2 : Nat) - 1)

/-! ### exp2 and log2 (R356, log 12, UNVERIFIED): fixed point with 400 fraction bits -/

def fixP : Nat := 400

/-- Terms 2^P / (k 3^(2k+1)) of ln 2 = 2 atanh(1/3), from a power of 1/3 down. -/
def atanhSum (z2 : Nat) : Nat → Nat → Nat → Nat
  | 0, _, _ => 0
  | n + 1, p, k => p / k + atanhSum z2 n (p * z2 / 2 ^ fixP) (k + 2)

/-- 2 atanh(z) for z in fixed point: ln((1 + z)/(1 − z)). -/
def ln2Z (z : Nat) : Nat := 2 * atanhSum (z * z / 2 ^ fixP) 140 z 1

/-- ln 2 in fixed point. -/
def fixLn2 : Nat := ln2Z (2 ^ fixP / 3)

/-- Terms y^k / k! of the exponential. -/
def expSum (y : Nat) : Nat → Nat → Nat → Nat
  | 0, _, _ => 0
  | n + 1, t, k => t + expSum y n (t * y / 2 ^ fixP / k) (k + 1)

/-- 2^x for x in fixed point below 1, rounded down but for the last bits, with bits that follow. -/
def exp2Fix (x : Nat) : Nat := expSum (x * fixLn2 / 2 ^ fixP) 100 (2 ^ fixP) 1

def Fmt.exp2F (f : Fmt) (rnd : Nat) : FVal → PF
  | .nan s => f.ofVal rnd (.nan s)
  | .inf n => if n then (0, 0) else (f.infCode, 0)
  | .fin n m e =>
    if m = 0 then f.round rnd false 1 0
    else
      let lead := (Nat.log2 m : Int) + e
      if 14 ≤ lead then f.round rnd false 1 (if n then -20000 else 20000)
      else if lead < -250 then f.round rnd false (if n then 2 ^ 400 - 1 else 2 ^ 400 + 1) (-400)
      else
        let v : Int := if 0 ≤ e + fixP then m * 2 ^ (e + fixP).toNat else (m / 2 ^ (-(e + fixP)).toNat : Nat)
        let v := if n then -v else v
        let i := Int.fdiv v (2 ^ fixP)
        let x := (v - i * 2 ^ fixP).toNat
        if x = 0 then f.round rnd false 1 i
        else f.round rnd false (2 * exp2Fix x + 1) (i - fixP - 1)

def Fmt.log2F (f : Fmt) (rnd : Nat) : FVal → PF
  | .nan s => f.ofVal rnd (.nan s)
  | .inf n => if n then f.bad else (f.infCode, 0)
  | .fin n m e =>
    if m = 0 then (f.sign true + f.infCode, flZ)
    else if n then f.bad
    else
      let k := Nat.log2 m
      let i := (k : Int) + e
      if m = 2 ^ k then f.round rnd (decide (i < 0)) i.natAbs 0
      else
        let z := (m - 2 ^ k) * 2 ^ fixP / (m + 2 ^ k)
        let v := i * 2 ^ fixP + ((ln2Z z * 2 ^ fixP / fixLn2 : Nat) : Int)
        f.round rnd (decide (v < 0)) (2 * v.natAbs + 1) (-(fixP : Int) - 1)

/-! ### Other float functions (R355, R357, R359) -/

/-- frnd (R357). -/
def Fmt.frndF (f : Fmt) (rnd : Nat) (v : FVal) : PF :=
  match v with
  | .fin n m e =>
    let r := roundAt rnd m e 0
    let q := f.round 1 n r.1 0
    (q.1, if r.2 then flX else 0)
  | v => f.ofVal rnd v

/-- fract (R357): a − Floor(a) toward zero. -/
def Fmt.fractF (f : Fmt) (v : FVal) : PF :=
  match v with
  | .nan s => f.ofVal 1 (.nan s)
  | .inf _ => f.bad
  | .fin n m e =>
    if 0 ≤ e then (0, 0)
    else
      let k := (-e).toNat
      let r := m % 2 ^ k
      let r := if n ∧ r ≠ 0 then 2 ^ k - r else r
      f.round 1 false r e

/-- The class of a code, one-hot (R357). -/
def Fmt.classOf (f : Fmt) (c : Nat) : Nat :=
  let sub := c / 2 ^ f.mb % 2 ^ f.eb == 0
  match f.val c with
  | .nan s => if s then 256 else 512
  | .inf n => if n then 1 else 128
  | .fin n m _ => if m = 0 then (if n then 8 else 16) else if sub then (if n then 4 else 32) else (if n then 2 else 64)

/-- ldexp (R355): exponents beyond ±20,000 round as those do. -/
def Fmt.ldexpF (f : Fmt) (rnd : Nat) (v : FVal) (b : Int) : PF :=
  match v with
  | .fin n m e => f.round rnd n m (e + max (-20000) (min 20000 b))
  | v => f.ofVal rnd v

/-- Is a less than b, neither a NaN? −0 and +0 compare equal. -/
def FVal.lt (a b : FVal) : Bool :=
  match a, b with
  | .inf n, .inf k => n && !k
  | .inf n, .fin _ _ _ => n
  | .fin _ _ _, .inf k => !k
  | .fin n m e, .fin k p d => decide (scaled n m e (min e d) < scaled k p d (min e d))
  | _, _ => false

/-- The sign bit of a value that is no NaN. -/
def FVal.signBit : FVal → Bool
  | .nan _ => false
  | .inf n => n
  | .fin n _ _ => n

/-- minimumNumber or maximumNumber (R270, R355), on patterns. -/
def Fmt.minmax (f : Fmt) (mx : Bool) (a b : Nat) : PF :=
  let x := f.val a
  let y := f.val b
  let fl := if x.isSig || y.isSig then flV else 0
  if x.isNan then (if y.isNan then f.qnan else b, fl)
  else if y.isNan then (a, fl)
  else
    let less := if x.lt y then true else if y.lt x then false else x.signBit && !y.signBit
    (if less != mx then a else b, fl)

/-- The condition codes on floats (R319, R359), with the flags. -/
def Fmt.cmp (f : Fmt) (cc a b : Nat) : PF :=
  let x := f.val a
  let y := f.val b
  let sig := x.isSig || y.isSig
  if x.isNan || y.isNan then
    match cc with
    | 0 | 7 => (0, if sig then flV else 0)
    | 1 | 6 => (1, if sig then flV else 0)
    | _ => (0, flV)
  else
    let lt := x.lt y
    let gt := y.lt x
    let r := match cc with
      | 0 => !lt && !gt
      | 1 => lt || gt
      | 2 => lt
      | 3 => !gt
      | 4 => gt
      | 5 => !lt
      | 6 => false
      | _ => true
    (r.toNat, 0)

/-- The ends of the range of an integer type. -/
def tyMin (ty : Ty) : Int := if ty.signed then -(2 ^ (ty.bits - 1)) else 0
def tyMax (ty : Ty) : Int := if ty.signed then 2 ^ (ty.bits - 1) - 1 else 2 ^ ty.bits - 1

/-- The n-bit pattern of an integer. -/
def patOf (n : Nat) (v : Int) : Nat := (v % 2 ^ n).toNat

def clampI (lo hi v : Int) : Int := if v < lo then lo else if hi < v then hi else v

/-- cvt (R361). -/
def cvtVal (src ty : Ty) (rnd a : Nat) : PF :=
  match src.isInt, ty.isInt with
  | true, true => (patOf ty.bits (tyVal src.bits src.signed a), 0)
  | true, false =>
    let v := tyVal src.bits src.signed a
    (fmtOf ty).round rnd (decide (v < 0)) v.natAbs 0
  | false, false => (fmtOf ty).ofVal rnd ((fmtOf src).val a)
  | false, true =>
    match (fmtOf src).val a with
    | .nan _ => (0, flV)
    | .inf n => (patOf ty.bits (if n then tyMin ty else tyMax ty), flV)
    | .fin n m e =>
      let r := roundAt rnd m e 0
      let v : Int := if n then -(r.1 : Int) else r.1
      if v < tyMin ty ∨ tyMax ty < v then (patOf ty.bits (clampI (tyMin ty) (tyMax ty) v), flV)
      else (patOf ty.bits v, if r.2 then flX else 0)

/-! ### Element formats (R241, R242) -/

/-- Kinds of element format. -/
inductive EKind where
  | int (signed : Bool) (n : Nat)
  | bin | sgn | trn
  | float (f : Fmt)
  deriving DecidableEq, Repr

/-- An element format by its code: container bits and kind (R241, R243). -/
def elemFmt (code : Nat) : Nat × EKind :=
  match code with
  | 0 => (2, .int true 2) | 1 => (2, .int false 2) | 2 => (4, .int true 4) | 3 => (4, .int false 4)
  | 4 => (8, .int true 6) | 5 => (8, .int false 6) | 6 => (8, .int true 8) | 7 => (8, .int false 8)
  | 8 => (16, .int true 12) | 9 => (16, .int true 16) | 10 => (16, .int false 16) | 11 => (32, .int true 24)
  | 12 => (1, .bin) | 13 => (1, .sgn) | 14 => (2, .trn)
  | 15 => (4, .float ⟨3, 0, .none⟩) | 16 => (4, .float ⟨2, 1, .none⟩) | 17 => (4, .float ⟨1, 2, .none⟩)
  | 18 => (8, .float ⟨3, 2, .none⟩) | 19 => (8, .float ⟨2, 3, .none⟩)
  | 20 => (8, .float ⟨4, 3, .nanOnly⟩) | 21 => (8, .float ⟨5, 2, .ieee⟩)
  | 22 => (8, .float ⟨3, 4, .nanOnly⟩) | 23 => (8, .float ⟨2, 5, .nanOnly⟩)
  | 24 => (16, .float ⟨5, 6, .ieee⟩) | 25 => (16, .float ⟨6, 5, .ieee⟩)
  | 26 => (16, .float ⟨5, 10, .ieee⟩) | 27 => (16, .float ⟨8, 7, .ieee⟩)
  | 28 => (32, .float ⟨8, 10, .ieee⟩) | 29 => (32, .float fmt32) | 30 => (64, .float fmt64)
  | _ => (32, .int true 32)

/-- Container bits of a format. -/
def contBits (code : Nat) : Nat := (elemFmt code).1

/-- Has the format special codes? -/
def EKind.isFloat : EKind → Bool
  | .float _ => true
  | _ => false

/-- BIN, SGN and TRN have width 1 in every block (R249). -/
def EKind.unit : EKind → Bool
  | .bin | .sgn | .trn => true
  | _ => false

/-- The value of an integer or special code (R241). -/
def EKind.intVal (k : EKind) (c : Nat) : Int :=
  match k with
  | .int s n => tyVal n s c
  | .bin => c % 2
  | .sgn => if c % 2 = 1 then -1 else 1
  | .trn => if c % 4 = 1 then 1 else if c % 4 = 3 then -1 else 0
  | .float _ => 0

/-- Flags of the tile beyond those of IEEE 754 (R259). -/
def flTail : Nat := 32
def flCode : Nat := 64

/-! ### Scales (R245) -/

/-- The factor of a scale in force: 256ths and an exponent, with its sign; none is the factor 1. -/
structure Scale where
  neg : Bool
  e   : Nat
  m   : Nat
  deriving DecidableEq, Repr

def scaleOf (w : Nat) : Scale := ⟨w / 2 ^ 15 % 2 == 1, w / 256 % 128, w % 256⟩

/-! ### Drain conversion (R257) -/

/-- An exact quotient x / scale in the form of a value, its lowest bit saying whether bits follow. -/
def scaleDown (x : FVal) (sc : Option Scale) : FVal :=
  match sc, x with
  | some s, .fin n m e =>
    let q := jamDiv m (e + 8) (256 + s.m)
    .fin (n != s.neg) q.1 (q.2 + 63 - s.e)
  | some s, .inf n => .inf (n != s.neg)
  | _, x => x

/-- Round a value to a signed integer under rnd, and whether it changed. -/
def toInt (rnd : Nat) (n : Bool) (m : Nat) (e : Int) : Int × Bool :=
  let r := roundAt rnd m e 0
  (if n then -(r.1 : Int) else r.1, r.2)

/-- Is a value exactly an integer k? -/
def FVal.isInt (x : FVal) (k : Int) : Bool :=
  match x with
  | .fin n m e => let r := toInt 1 n m e; !r.2 && r.1 == k
  | _ => false

/-- The clamped integer of a value, which may be infinite. -/
def clampVal (rnd : Nat) (lo hi : Int) : FVal → Int
  | .nan _ => 0
  | .inf n => if n then lo else hi
  | .fin n m e => clampI lo hi (toInt rnd n m e).1

/-- R257: an accumulator value into an element of a format. -/
def drainElem (code : Nat) (x : FVal) (sc : Option Scale) (zp : Int) (rmode : Nat) : PF :=
  let k := (elemFmt code).2
  let zeroScale := match sc with | some s => s.e == 0 | none => false
  if (match sc with | some s => s.e == 127 | none => false) then (0, flCode)
  else if zeroScale then
    match k with
    | .float f => (if f.sp = .none then 0 else f.qnan, flV)
    | _ => (0, flV)
  else
    let q := scaleDown x sc
    match k, q with
    | .float f, .nan s => if f.sp = .none then (0, flV) else (f.qnan, if s then flV else 0)
    | _, .nan _ => (0, flV)
    | .float f, .inf n => if f.sp = .ieee then (f.sign n + f.infCode, 0) else (f.sign n + f.maxCode, flO)
    | .float f, .fin n m e => f.round rmode n m e
    | .int s n, q =>
      let lo : Int := if s then -(2 ^ (n - 1)) else 0
      let hi : Int := if s then 2 ^ (n - 1) - 1 else 2 ^ n - 1
      match q with
      | .fin g m e =>
        let r := toInt rmode g m e
        let v := r.1 + zp
        let c := clampI lo hi v
        (patOf n c, (if r.2 then flX else 0) + (if c = v then 0 else flV))
      | q => (patOf n (clampVal rmode lo hi q), flV)
    | .trn, q =>
      let v := clampVal rmode (-1) 1 q
      (patOf 2 v, if q.isInt (-1) || q.isInt 0 || q.isInt 1 then 0 else flX)
    | .bin, q => (patOf 1 (clampVal rmode 0 1 q), if q.isInt 0 || q.isInt 1 then 0 else flX)
    | .sgn, q => (q.signBit.toNat, if q.isInt (-1) || q.isInt 1 then 0 else flX)

/-! ### Pack and unpack (R362) -/

/-- The slot's code for a 32-bit source. -/
def packElem (code a : Nat) : PF :=
  match (elemFmt code).2 with
  | .float _ => drainElem code (fmt32.val a) none 0 0
  | _ =>
    let v := tyVal 32 true a
    drainElem code (.fin (decide (v < 0)) v.natAbs 0) none 0 0

/-- A 32-bit lane with slot j replaced. -/
def packLane (code old a j : Nat) : PF :=
  let c := contBits code
  let j := j % (32 / c)
  let r := packElem code a
  (old - old / 2 ^ (c * j) % 2 ^ c * 2 ^ (c * j) + r.1 % 2 ^ c * 2 ^ (c * j), r.2)

/-- The exact value of slot j, as 32 bits. -/
def unpackLane (code a j : Nat) : PF :=
  let c := contBits code
  let x := a / 2 ^ (c * (j % (32 / c))) % 2 ^ c
  match (elemFmt code).2 with
  | .float f => fmt32.ofVal 0 (f.val x)
  | .trn => (patOf 32 (EKind.intVal .trn x), if x = 2 then flV else 0)
  | k => (patOf 32 (k.intVal x), 0)

end Sys2Proof.Machine
end

