-- ==== Sys2Proof/Machine/Translate.lean ====
section
/-! DEFINITION. Address translation: the Sv57 walk, the checks of R69, TLB lookups, misses, gathered marks (R66 to R87). -/

namespace Sys2Proof.Machine

/-! ### Leaves (R68) -/

def leafV (l : Word) : Bool := l.getLsbD 0
def leafR (l : Word) : Bool := l.getLsbD 1
def leafW (l : Word) : Bool := l.getLsbD 2
def leafX (l : Word) : Bool := l.getLsbD 3
def leafU (l : Word) : Bool := l.getLsbD 4
def leafD (l : Word) : Bool := l.getLsbD 7
def leafPpn (l : Word) : Nat := fld l 53 10
def leafReloc (l : Word) : Bool := l.getLsbD 54
def leafAppend (l : Word) : Bool := l.getLsbD 55
def leafTier (l : Word) : Nat := fld l 57 56
def leafIlv (l : Word) : Nat := fld l 60 58
def leafPbmt (l : Word) : Nat := fld l 62 61
def leafN (l : Word) : Bool := l.getLsbD 63

/-- An entry that is no pointer to a table: any of R, W and X set, W without R among them, which Sv57 reserves. -/
def isLeaf (l : Word) : Bool := leafR l || leafW l || leafX l

/-- A canonical virtual address (R66). -/
def canonical (va : Word) : Bool := fld va 63 56 == 0 || fld va 63 56 == 255

/-- The 4 KiB page number of a virtual address. -/
def vpnOf (va : Word) : Nat := fld va 56 12

/-- 4 KiB pages of a leaf at a level (R68). -/
def leafPages (lvl : Nat) (l : Word) : Nat := if lvl = 0 && leafN l then 16 else 512 ^ lvl

/-- The first physical page of a leaf. -/
def leafBase (lvl : Nat) (l : Word) : Nat := leafPpn l / leafPages lvl l * leafPages lvl l

/-- The physical address of a byte through a leaf of so many pages. -/
def leafPa (pages : Nat) (l : Word) (va : Word) : Nat :=
  leafPpn l / pages * pages * 4096 + va.toNat % (pages * 4096)

/-- Ranges of R67. -/
def inHbm (pa : Nat) : Bool := decide (pa < Config.hbmEnd)
def inLp (pa : Nat) : Bool := decide (Config.lpBase ≤ pa ∧ pa < Config.lpEnd)
def inFlash (pa : Nat) : Bool := decide (Config.flashBase ≤ pa ∧ pa < Config.flashEnd)
def inPcie (pa : Nat) : Bool := decide (Config.pcieBase ≤ pa ∧ pa < Config.pcieEnd)
def inRegs (pa : Nat) : Bool := decide (Config.regBase ≤ pa ∧ pa < Config.regEnd)
def populated (pa : Nat) : Bool := inHbm pa || inLp pa || inFlash pa || inPcie pa || inRegs pa

/-- Is a frame one of those that firmware has reserved (R67, R70)? -/
def State.frameReserved (s : State) (f : Nat) : Bool := s.xl.reserved.any fun r => decide (r.1 ≤ f ∧ f < r.1 + r.2)

/-- The recorded scheme of the frame of an HBM4E address (R70), if it is recorded: 0 for a reserved one. -/
def State.scheme (s : State) (pa : Nat) : Option Nat :=
  match natsGet s.xl.frames (pa / Config.frameBytes) with
  | 0 => if s.frameReserved (pa / Config.frameBytes) then some 0 else none
  | n + 1 => some n

/-- Do R, W, X and U allow the access, under the Sv57 rules as R69 applies them? W without R allows nothing; W = 0 of a flash leaf leaves a store to the check of its tier,
the flash-store fault of R89 (log 91, DEDUCED). -/
def leafAllows (sup : Bool) (acc : Acc) (l : Word) : Bool :=
  (match acc with
    | .load => leafR l
    | .store | .atomic => leafTier l == 2 || (leafW l && leafR l)
    | .fetch => leafX l) &&
  !(leafW l && !leafR l) && (if sup then !(acc == .fetch && leafU l) else leafU l)

/-- The checks of R69 on a leaf found at a level, for the physical address it gives; the cause of the first that fails. (log 21, DEDUCED) -/
def State.leafCheck (s : State) (sup : Bool) (acc : Acc) (lvl : Nat) (l : Word) (pa : Nat) : Option Nat :=
  let tier := leafTier l
  let pbmt := leafPbmt l
  let ilv := leafIlv l
  if pbmt == 3 || (leafN l && leafPpn l % 16 != 8) || (leafN l && lvl != 0) then some 0x11
  else if !leafAllows sup acc l || (!(leafN l) && leafPpn l % leafPages lvl l != 0) then some 0x11
  else if tier == 2 && (acc == .store || acc == .atomic) then some 0x12
  else if 3 ≤ lvl then some 0x13
  else if pbmt != 2 && !(match tier with | 0 => inHbm pa | 1 => inLp pa | 2 => inFlash pa | _ => inHbm pa || inLp pa) then some 0x13
  else if pbmt == 2 && (tier != 0 || ilv != 0 || leafAppend l || leafReloc l || !(inPcie pa || inRegs pa)) then some 0x13
  else if tier == 2 && (!leafAppend l || leafW l || decide (leafPages lvl l < 16) || pbmt != 0 || ilv != 0) then some 0x13
  else if tier != 2 && (leafAppend l || leafReloc l) then some 0x13
  else if (tier == 1 || tier == 3) && ilv != 0 && inLp pa then some 0x13
  else if tier == 0 && pbmt != 2 && s.scheme pa != some ilv then some 0x13
  else if !populated pa || (inRegs pa && !sup) then some 0x14
  else none

/-- What a walk of the tables finds: a fault, or an entry with its place and level. -/
inductive Walked where
  | fault (cause : Nat)
  | entry (pte : Nat) (l : Word) (lvl : Nat)
  deriving DecidableEq, Repr

/-- The address of a table's entry for an address at a level; the root of the second stage has 2,048 entries (Sv57, Sv57x4, R68). -/
def pteAt (two : Bool) (table lvl a : Nat) : Nat := table * 4096 + 8 * (a / 2 ^ (12 + 9 * lvl) % (if two && lvl == 4 then 2048 else 512))

/-- The non-leaf entries that a walk takes from elsewhere than memory, by stage, level and page number. -/
abbrev Look := Bool → Nat → Nat → Option Word

/-- Nothing is taken from elsewhere. -/
def noLook : Look := fun _ _ _ => none

/-- Where a table's entry lies in memory: the address itself, or what the second stage makes of it; a cause where that fails. -/
abbrev Place := Nat → Except Nat Nat

/-- The entry of a table at a level: a non-leaf one may come from the page-walk cache. -/
def State.entryAt (s : State) (look : Look) (two : Bool) (lvl a pte : Nat) : Word := (look two lvl (a / 4096)).getD (s.rd64 pte)

/-- The walk below a table: the entry for the address at each level, down to a leaf (Sv57, R68, R69). (log 21, DEDUCED) -/
def State.walkFrom (s : State) (look : Look) (place : Place) (two : Bool) (a : Nat) : Nat → Nat → Walked
  | lvl, table =>
    match place (pteAt two table lvl a) with
    | .error k => .fault k
    | .ok pte =>
      if !(inHbm pte || inLp pte) then .fault 0x14
      else
        match lvl with
        | 0 => let l := s.rd64 pte; if leafV l && isLeaf l then .entry pte l 0 else .fault 0x10
        | lvl' + 1 =>
          let l := s.entryAt look two (lvl' + 1) a pte
          if !leafV l then .fault 0x10
          else if isLeaf l then .entry pte l (lvl' + 1)
          else if fld l 63 54 != 0 then .fault 0x11
          else s.walkFrom look place two a lvl' (leafPpn l)

/-- The entries that a walk reads: level, the address that its table gives, where it lies, the entry. -/
def State.walkPath (s : State) (look : Look) (place : Place) (two : Bool) (a : Nat) : Nat → Nat → List (Nat × Nat × Nat × Word)
  | lvl, table =>
    match place (pteAt two table lvl a) with
    | .error _ => []
    | .ok pte =>
      let l := s.entryAt look two lvl a pte
      (lvl, pteAt two table lvl a, pte, l) :: (match lvl with
        | 0 => []
        | lvl' + 1 => if (inHbm pte || inLp pte) && leafV l && !isLeaf l && fld l 63 54 == 0 then s.walkPath look place two a lvl' (leafPpn l) else [])

/-- The non-leaf entries that a walk reads, by level. -/
def pointersOf (path : List (Nat × Nat × Nat × Word)) : List (Nat × Word) :=
  (path.filter fun x => x.1 != 0 && (inHbm x.2.2.1 || inLp x.2.2.1) && leafV x.2.2.2 && !isLeaf x.2.2.2 && fld x.2.2.2 63 54 == 0).map fun x => (x.1, x.2.2.2)

/-- The context of a number, if it is bound (R73). -/
def State.ctx? (s : State) (n : Nat) : Option Ctx := s.xl.ctxs.find? fun c => c.num == n

/-- What a walk and its checks answer (R69): a leaf with the physical address, a tier-3 leaf, a flash deferral, or a fault. -/
inductive Walk where
  | ok (pte : Nat) (l : Word) (lvl pa : Nat)
  | tier3 (pte : Nat) (l : Word) (lvl : Nat)
  | defer (pa : Nat)
  | fault (cause : Nat)
  deriving DecidableEq, Repr

/-! ### Two stages (R68, R73) -/

/-- The table of the second stage that a context's guest has, if it has one. (log 14, PRESUMED) -/
def State.guestRoot (s : State) (c : Ctx) : Option Nat := match natsGet s.xl.guests c.guest with | 0 => none | n + 1 => some n

/-- Where the second stage puts an entry of a table of the first: a read at user level, with the checks of R69. (log 14, PRESUMED) -/
def State.guestPlace (s : State) (look : Look) (root : Nat) : Place := fun gpa =>
  match s.walkFrom look .ok true gpa 4 root with
  | .fault k => .error k
  | .entry _ l lvl =>
    let pa := leafPa (leafPages lvl l) l (BitVec.ofNat 64 gpa)
    match s.leafCheck false .load lvl l pa with
    | some k => .error k
    | none => if leafTier l == 3 || leafReloc l then .error 0x10 else .ok pa

/-- The checks of R69 that a leaf of the first stage, over a guest's address, is held to: its form, the access, its size. (log 14, PRESUMED) -/
def guestLeafCheck (sup : Bool) (acc : Acc) (lvl : Nat) (l : Word) : Option Nat :=
  if leafPbmt l == 3 || (leafN l && (leafPpn l % 16 != 8 || lvl != 0)) then some 0x11
  else if !leafAllows sup acc l || (!(leafN l) && leafPpn l % leafPages lvl l != 0) then some 0x11
  else if 3 ≤ lvl then some 0x13
  else none

/-- The one leaf that two leaves make: the attributes of the second stage's, what both allow at the level of the first, the smaller page. (log 14, PRESUMED) -/
def bothLeaf (l1 : Word) (lvl1 : Nat) (l2 : Word) (lvl2 pa : Nat) : Word × Nat :=
  let p1 := leafPages lvl1 l1
  let l := setFld (setFld l2 3 1 (fld l1 3 1 &&& fld l2 3 1)) 4 4 (fld l1 4 4)
  if leafPages lvl2 l2 ≤ p1 then (l, lvl2)
  else (setFld (setFld l 63 63 (if p1 = 16 then 1 else 0)) 53 10 (pa / 4096 / p1 * p1 + (if p1 = 16 then 8 else 0)), lvl1)

/-- What the tables of a context hold for an address: the leaf that gives the frame with its place, the leaf that serves the access with its physical address, and the leaves of both stages where there are two. -/
structure Found where
  pte  : Nat
  l    : Word
  lvl  : Nat
  eff  : Word
  elvl : Nat
  pa   : Nat
  also : List (Nat × Nat)

/-- The tables of a context for an access: Sv57, under the guest's Sv57x4 where it has that (R68). (log 14, PRESUMED) -/
def State.found (s : State) (look : Look) (c : Ctx) (sup : Bool) (acc : Acc) (va : Word) : Except Nat Found :=
  match s.guestRoot c with
  | none => (match s.walkFrom look .ok false (fld va 56 0) 4 c.root with
    | .fault k => .error k
    | .entry pte l lvl => .ok ⟨pte, l, lvl, l, lvl, leafPa (leafPages lvl l) l va, []⟩)
  | some r => (match s.walkFrom look (s.guestPlace look r) false (fld va 56 0) 4 c.root with
    | .fault k => .error k
    | .entry pte l lvl =>
      match guestLeafCheck sup acc lvl l with
      | some k => .error k
      | none =>
        let gpa := leafPa (leafPages lvl l) l va
        match s.walkFrom look .ok true gpa 4 r with
        | .fault k => .error k
        | .entry pte2 l2 lvl2 =>
          let pa := leafPa (leafPages lvl2 l2) l2 (BitVec.ofNat 64 gpa)
          match s.leafCheck false acc lvl2 l2 pa with
          | some k => .error k
          | none =>
            let e := bothLeaf l lvl l2 lvl2 pa
            .ok ⟨pte2, l2, lvl2, e.1, e.2, pa, [(pte2, leafPpn l2), (pte, leafPpn l)]⟩)

/-- A walk of a context's tables for an access, with the checks of R69. An access in a context that is not bound finds no page (log 97, DESIGN CHOICE). (log 14, PRESUMED) -/
def State.walkBy (s : State) (look : Look) (ctx : Nat) (sup : Bool) (acc : Acc) (va : Word) : Walk :=
  if !canonical va then .fault 0x11
  else match s.ctx? ctx with
    | none => .fault 0x10
    | some c =>
      match s.found look c sup acc va with
      | .error k => .fault k
      | .ok x =>
        match s.leafCheck sup acc x.elvl x.eff x.pa with
        | some k => .fault k
        | none =>
          if leafTier x.eff == 3 then .tier3 x.pte x.l x.lvl
          else if leafTier x.eff == 2 && leafReloc x.eff && acc == .load then .defer x.pa
          else .ok x.pte x.eff x.elvl x.pa

/-- A walk by a party without a page-walk cache: a host-die hart, the IOMMU. -/
def State.walk (s : State) : Nat → Bool → Acc → Word → Walk := s.walkBy noLook

/-- The leaves of both stages behind a translation that a context with two has. -/
def State.alsoLeaves (s : State) (ctx : Nat) (va : Word) (pte : Nat) : List (Nat × Nat) :=
  match s.ctx? ctx with
  | none => []
  | some c => match s.guestRoot c with
    | none => []
    | some r => (pte, leafPpn (s.rd64 pte)) :: (match s.walkFrom noLook (s.guestPlace noLook r) false (fld va 56 0) 4 c.root with
      | .entry p l _ => [(p, leafPpn l)]
      | .fault _ => [])

/-- The entries that a walk of a context's tables for an address reads: those of the first stage, and those of the second for each of their places and for the address itself. -/
def State.paths (s : State) (look : Look) (c : Ctx) (va : Word) : List (Nat × Nat × Nat × Word) × List (Nat × List (Nat × Nat × Nat × Word)) :=
  match s.guestRoot c with
  | none => (s.walkPath look .ok false (fld va 56 0) 4 c.root, [])
  | some r =>
    let one := s.walkPath look (s.guestPlace look r) false (fld va 56 0) 4 c.root
    let last := (one.getLast?.toList.filter fun x => isLeaf x.2.2.2).map fun x => leafPa (leafPages x.1 x.2.2.2) x.2.2.2 va
    (one, (one.map (fun x => x.2.1) ++ last).map fun a => (a, s.walkPath look .ok true a 4 r))

/-- The entries of a grove's page-walk cache that a walk meets (R73). (log 100, DESIGN CHOICE) -/
def State.look (s : State) (grove ctx : Nat) : Look := fun two lvl page =>
  (s.xl.pwc.find? fun e => e.grove == grove && e.ctx == ctx && e.two == two && e.lvl == lvl && e.tag == page / 512 ^ lvl).map fun e => e.entry

/-- A walk by a grove's walker (R73, R74). -/
def State.gwalk (s : State) (grove ctx : Nat) (sup : Bool) (acc : Acc) (va : Word) : Walk := s.walkBy (s.look grove ctx) ctx sup acc va

/-- A grove's page-walk cache after a walk: 512 non-leaf entries of both stages, the new ones first; which one leaves is not architectural (log 100, DESIGN CHOICE). -/
def State.pwFill (s : State) (grove ctx : Nat) (va : Word) : State :=
  match s.ctx? ctx with
  | none => s
  | some c =>
    let p := s.paths (s.look grove ctx) c va
    let make := fun (two : Bool) (a : Nat) (x : Nat × Word) => (⟨grove, ctx, two, x.1, a / 4096 / 512 ^ x.1, x.2⟩ : Pwc)
    let new := ((pointersOf p.1).map (make false (fld va 56 0)) ++ p.2.flatMap fun q => (pointersOf q.2).map (make true q.1)).eraseDups
    let old := s.xl.pwc.filter fun e => !new.contains e
    let pwc := (new ++ old.filter fun e => e.grove == grove).take 512 ++ old.filter fun e => e.grove != grove
    let xl := { s.xl with pwc := pwc }
    { s with xl := xl }

/-! ### TLBs -/

/-- Does an entry serve a page of a context? -/
def TlbEnt.covers (e : TlbEnt) (ctx vpn : Nat) : Bool :=
  e.ctx == ctx && decide (e.vpn ≤ vpn ∧ vpn < e.vpn + e.pages)

/-- The level of an entry's page size. -/
def TlbEnt.lvl (e : TlbEnt) : Nat := if e.pages ≤ 16 then 0 else if e.pages = 512 then 1 else 2

/-- May a core's access use an entry held there: its own TLB of the kind, or its grove's? -/
def TlbAt.serves (place : TlbAt) (core : Nat) (fetch : Bool) : Bool :=
  match place with
  | .core c => !fetch && c == core
  | .inst c => fetch && c == core
  | .grove g => g == groveOf core

/-- The TLB entry that serves an access of a core, one that passes the checks of R69 (log 9, DEDUCED). -/
def State.tlbHit (s : State) (core ctx : Nat) (sup : Bool) (acc : Acc) (va : Word) : Option TlbEnt :=
  (s.xl.tlb.find? fun x => x.1.serves core (acc == .fetch) && x.2.covers ctx (vpnOf va) &&
    (s.leafCheck sup acc x.2.lvl x.2.leaf (leafPa x.2.pages x.2.leaf va)).isNone).map fun x => x.2

/-- Is any translation of an address held in a core's TLB or its grove's (R383, R384)? -/
def State.tlbHeld (s : State) (core ctx : Nat) (va : Word) : Option TlbEnt :=
  (s.xl.tlb.find? fun x => x.1.serves core false && x.2.covers ctx (vpnOf va)).map fun x => x.2

/-- The answer to one access of a bundle. -/
inductive XRes where
  | ok (pa pbmt tier pages : Nat)
  | fault (cause : Nat)
  | defer (pa : Nat)
  | miss
  deriving DecidableEq, Repr

/-- Translate an access of a bundle (R66, R69, R73): its notes first, then the TLBs. (log 9, DEDUCED) -/
def State.xlate (s : State) (c : Cur) (acc : Acc) (va : Word) : XRes :=
  if !canonical va then .fault 0x11
  else
    match c.b.notes.find? fun n => n.vpn == vpnOf va && n.acc == acc with
    | some ⟨_, _, .fault k⟩ => .fault k
    | some ⟨_, _, .defer pa⟩ => .defer pa
    | _ =>
      match s.tlbHit c.c.core c.g.ctx (c.b.arch.tdepth != 0) acc va with
      | some e => .ok (leafPa e.pages e.leaf va) (leafPbmt e.leaf) (leafTier e.leaf) e.pages
      | none => .miss

/-- Has a miss a key of its grove and context (R74)? -/
def Miss.isFor (m : Miss) (g ctx vpn : Nat) : Bool := m.grove == g && m.ctx == ctx && m.vpn == vpn

/-- A party joins a miss as a waiter, one of at most 64 (R74). -/
def Miss.join (m : Miss) (w : Waiter) : Miss :=
  if m.waiters.any (fun x => x.who == w.who && x.acc == w.acc) || decide (64 ≤ m.waiters.length) then m else { m with waiters := m.waiters ++ [w] }

/-- Wait on the walk for a key, joining one that is wanted or in progress already (R74). -/
def State.wantWalk (s : State) (grove ctx tenant : Nat) (w : Waiter) : State :=
  let ms := s.xl.misses
  let ms :=
    if ms.any (fun m => m.isFor grove ctx (vpnOf w.va)) then ms.map (fun m => if m.isFor grove ctx (vpnOf w.va) then m.join w else m)
    else ms ++ [⟨grove, ctx, vpnOf w.va, tenant, [w], false, false, false⟩]
  { s with xl := { s.xl with misses := ms } }

/-- A miss of a bundle. -/
def State.addMiss (s : State) (c : Cur) (acc : Acc) (va : Word) : State :=
  s.wantWalk (groveOf c.c.core) c.g.ctx c.g.tenant ⟨some c.b.key, c.b.arch.tdepth != 0, acc, va⟩

/-- A store through an entry sets the entry's gathered marks (R77): where its leaf had D = 1 as it was read too, since software may clear D after the shoot-down
that the store came after (R78, log 90, DEDUCED). -/
def TlbEnt.dirty (e : TlbEnt) : TlbEnt := { e with a := true, d := true }

/-- The first store through an entry gathers D there (R77). -/
def State.gatherD (s : State) (core ctx : Nat) (va : Word) : State :=
  let tlb := s.xl.tlb.map fun x => if x.1.serves core false && x.2.covers ctx (vpnOf va) then (x.1, x.2.dirty) else x
  { s with xl := { s.xl with tlb := tlb } }

/-- The leaves that an entry's marks go to, each as its place and the ppn that it had: one, or one of each stage. -/
def TlbEnt.homes (e : TlbEnt) : List (Nat × Nat) := if e.also.isEmpty then [(e.pte, leafPpn e.leaf)] else e.also

/-- Harvest an entry (R77): OR A and D into its leaf, if that still has V = 1 and the same ppn. -/
def State.harvest (s : State) (e : TlbEnt) : State :=
  if !(e.a || e.d) then s
  else e.homes.foldl (fun t h =>
    let l := t.rd64 h.1
    if leafV l && leafPpn l == h.2 then
      t.put64 h.1 (l ||| (if e.a then 0x40 else 0) ||| (if e.d then 0x80 else 0))
    else t) s

/-- Harvest the entries that a test picks, clearing their marks and keeping them. -/
def State.harvestAll (s : State) (pick : TlbAt × TlbEnt → Bool) : State :=
  let t := (s.xl.tlb.filter pick).foldl (fun t x => t.harvest x.2) s
  let tlb := t.xl.tlb.map fun x => if pick x then (x.1, { x.2 with a := false, d := false }) else x
  { t with xl := { t.xl with tlb := tlb } }

/-- Set A in a leaf by an atomic OR (R74). -/
def State.setA (s : State) (pte : Nat) : State := s.put64 pte (s.rd64 pte ||| 0x40)

/-- The entries of a TLB that a new one competes with: all of a core's, those of the set in a grove's (R73, log 98, DESIGN CHOICE). -/
def State.tlbRivals (s : State) (p : TlbAt) (vpn : Nat) : List (TlbAt × TlbEnt) :=
  let mine := s.xl.tlb.filter fun x => x.1 == p
  match p with
  | .grove _ => if mine.length < 8 then mine else mine.filter fun x => Config.setIndex 0 x.2.vpn % 1024 == Config.setIndex 0 vpn % 1024
  | _ => mine

/-- Entries that compete for one place: 128, 32, or 8 ways (R73). -/
def tlbRoom : TlbAt → Nat
  | .core _ => 128
  | .inst _ => 32
  | .grove _ => 8

/-- Put an entry into a TLB: those of the same page leave, and one that is not architectural when there is no room; what leaves is harvested (R73, R77). (log 98, DESIGN CHOICE) -/
def State.tlbPut (s : State) (e : TlbEnt) (p : TlbAt) : State :=
  let same := fun (x : TlbAt × TlbEnt) => x.1 == p && x.2.covers e.ctx e.vpn
  let rivals := (s.tlbRivals p e.vpn).filter fun x => !same x
  let out := s.xl.tlb.filter same ++ (if rivals.length < tlbRoom p then [] else (rivals[(Config.freeWord s.free 0).toNat % rivals.length]?).toList)
  let t := out.foldl (fun t x => t.harvest x.2) s
  let xl := { t.xl with tlb := (p, e) :: t.xl.tlb.filter fun x => !out.contains x }
  { t with xl := xl, free := if rivals.length < tlbRoom p then s.free else s.free + 1 }

/-- Install a leaf in TLBs, the access that it serves gathered in A (R77); with two stages A is set in the other leaf too. (log 98, DESIGN CHOICE) -/
def State.install (s : State) (places : List TlbAt) (ctx : Nat) (va : Word) (pte : Nat) (l : Word) (lvl : Nat) (d : Bool) : State :=
  let pages := leafPages lvl l
  let also := s.alsoLeaves ctx va pte
  places.foldl (fun t p => t.tlbPut ⟨ctx, vpnOf va / pages * pages, pages, l ||| 0x40, pte, true, d, also⟩ p) (also.foldl (fun t h => t.setA h.1) s)

/-! ### Where a line lives (R71, R72) -/

/-- The sub-channel number of a byte of a frame under a scheme, and the unit's place in that sub-channel's slice of the frame (R71). -/
def unitPlace (scheme o : Nat) : Nat × Nat :=
  let u := o / 256
  match scheme with
  | 0 => (128 * (u % 12) + u / 12 % 128, u / 1536)
  | 1 => let g := u / 4; (128 * (g % 12) + g / 12 % 128, 4 * (g / 1536) + u % 4)
  | 2 => let g := u / 16; (128 * (g % 12) + g / 12, u % 16)
  | 3 => let v := u % 8192; (128 * (4 * (u / 8192) + v % 4) + v / 4 % 128, v / 512)
  | 4 => let v := u % 2048; (128 * (u / 2048) + v % 128, v / 128)
  | 5 => let v := u % 2048; (128 * (u / 2048) + v / 16, v % 16)
  | 6 => let g := u / 16; let i := u % 16; (4 * (g / 4) + i % 4, 4 * (g % 4) + i / 4)
  | _ => let g := u / 16; let i := u % 16; (4 * (g / 4) + i / 4, 4 * (g % 4) + i % 4)

/-- Where a byte of HBM4E lies: its stack, channel and sub-channel, and its offset in the sub-channel (R71). -/
structure HbmPlace where
  stack   : Nat
  channel : Nat
  sub     : Nat
  offset  : Nat
  deriving DecidableEq, Repr

/-- The place of an HBM4E address under a scheme (R71). -/
def hbmPlace (scheme pa : Nat) : HbmPlace :=
  let p := unitPlace scheme (pa % Config.frameBytes)
  ⟨p.1 / 128, p.1 % 128 / 4, p.1 % 4, 4096 * (pa / Config.frameBytes) + 256 * p.2 + pa % Config.frameBytes % 256⟩

/-- The place of an HBM4E address; in a frame whose scheme is not recorded, that of scheme 0 (log 94, DESIGN CHOICE). -/
def State.placeIn (s : State) (pa : Nat) : HbmPlace := hbmPlace ((s.scheme pa).getD 0) pa

/-- The channel of LPDDR-6 that holds a 256-byte unit (R72). -/
def lpChannel (pa : Nat) : Nat := natBits pa 11 8

/-- Grove and slice of the home slice of a physical address (R72); an HBM4E address counts under its frame's recorded scheme. -/
def State.homeOf (s : State) (pa : Nat) : Nat × Nat :=
  if inHbm pa then
    let p := s.placeIn pa
    (p.stack, p.channel)
  else (natBits pa 42 31 % 12, (natBits pa 18 7 ^^^ natBits pa 30 19) % 32)

/-- Is a line of HBM4E in a row whose remap is under way (R21)? (log 78, DESIGN CHOICE) -/
def State.rowBusy (s : State) (pa : Nat) : Bool :=
  !s.phys.remaps.isEmpty && inHbm pa &&
    (let p := s.placeIn pa
     let r := Config.rowOf (4 * p.channel + p.sub) p.offset
     s.phys.remaps.contains ⟨p.stack, r.1, r.2⟩)

/-! ### Walks for engines (R74, R75) -/

def offWalk (g t : Nat) : Nat := 0x10000400 + 0x100000 * g + 8 * t

/-- Walks of a tenant in progress on a grove (R75). -/
def State.walking (s : State) (grove tenant : Nat) : Nat :=
  (s.xl.misses.filter fun m => m.walking && m.grove == grove && m.tenant == tenant).length

/-- Has a grove's walker room for a walk of a tenant: the tenant's quota, 128 walks at once (R73, R74)? -/
def State.walkRoom (s : State) (grove tenant : Nat) : Bool :=
  decide (s.walking grove tenant < fld (s.reg (offWalk grove tenant)) 7 0) && decide ((s.xl.misses.filter fun m => m.walking && m.grove == grove).length < 128)

/-- The tenant of a context. -/
def State.ctxOwner (s : State) (n : Nat) : Nat := ((s.ctx? n).map fun c => c.tenant).getD 0

/-- The entry of a grove's TLB that serves an engine's access. -/
def State.groveHit (s : State) (grove ctx : Nat) (acc : Acc) (va : Word) : Option TlbEnt :=
  (s.xl.tlb.find? fun x => x.1 == .grove grove && x.2.covers ctx (vpnOf va) &&
    (s.leafCheck false acc x.2.lvl x.2.leaf (leafPa x.2.pages x.2.leaf va)).isNone).map fun x => x.2

/-- Does a walk for an address read an entry of a row whose remap is under way (R21)? -/
def State.walkHeld (s : State) (ctx : Nat) (va : Word) : Bool :=
  !s.phys.remaps.isEmpty && (match s.ctx? ctx with
    | none => false
    | some c => let p := s.paths noLook c va; (p.1 ++ p.2.flatMap fun q => q.2).any fun x => s.rowBusy x.2.2.1)

/-- Must a miss wait: a walk of its key is wanted or in progress, which it joins; earlier misses wait for the quota; the walker has no room (R74); a table's row is being remapped (R21)? -/
def State.missWaits (s : State) (grove ctx : Nat) (va : Word) : Bool :=
  (s.xl.misses.any fun m => m.isFor grove ctx (vpnOf va) || (m.grove == grove && m.tenant == s.ctxOwner ctx && m.waited && !m.walking))
    || !s.walkRoom grove (s.ctxOwner ctx) || s.walkHeld ctx va

/-- An engine's access (a copy, a tile operand, a send): through its grove's TLB, or by a walk that begins and ends in this step, with A set; D is gathered on a write
(R74, R77). Where the walk cannot begin the access waits as a miss does, and none is answered. (log 18, DEDUCED) (log 99, DESIGN CHOICE) -/
def State.engineXlate (s : State) (grove ctx : Nat) (acc : Acc) (va : Word) : State × Option Walk :=
  match (if canonical va then s.groveHit grove ctx acc va else none) with
  | some e =>
    let tlb := s.xl.tlb.map fun x => if acc != .load && x.1 == .grove grove && x.2 == e then (x.1, x.2.dirty) else x
    ({ s with xl := { s.xl with tlb := tlb } }, some (.ok e.pte e.leaf e.lvl (leafPa e.pages e.leaf va)))
  | none =>
    if s.missWaits grove ctx va then (s.wantWalk grove ctx (s.ctxOwner ctx) ⟨none, false, acc, va⟩, none)
    else match s.gwalk grove ctx false acc va with
      | .ok pte l lvl pa => (((s.pwFill grove ctx va).setA pte).install [.grove grove] ctx va pte l lvl (acc != .load), some (.ok pte l lvl pa))
      | w => (s.pwFill grove ctx va, some w)

end Sys2Proof.Machine
end

