-- ==== Sys2Proof/Machine/Pool.lean ====
section
/-! DEFINITION. Page pools, escalation, and the mapping that fmap makes (R80, R82 to R84, R438, R457). -/

namespace Sys2Proof.Machine

/-- A page pool's ring: base address, entry count, head and tail (R82). -/
def State.poolBase (s : State) (n : Nat) : Word := s.reg (offPool n)
def State.poolPtr (s : State) (n : Nat) : Word := s.reg (offPool n + 8)
def State.poolSize (s : State) (n : Nat) : Nat := let k := fld (s.poolBase n) 4 0; if k = 0 then 0 else 2 ^ k

/-- Is a pool empty (R82)? -/
def State.poolEmpty (s : State) (n : Nat) : Bool := s.poolSize n == 0 || fld (s.poolPtr n) 63 48 == fld (s.poolPtr n) 47 32

/-- 4 KiB pages of a page size z. -/
def zPages (z : Nat) : Nat := match z with | 0 => 1 | 1 => 16 | 2 => 512 | _ => 262144

/-- Is a descriptor malformed (R82)? -/
def State.descBad (s : State) (z : Nat) (d : Word) : Bool :=
  let ppn := fld d 55 12
  fld d 60 56 != 0 || fld d 11 0 != 0 || ppn % zPages z != 0 || !inHbm (4096 * ppn) || !inHbm (4096 * (ppn + zPages z) - 1)
    || s.scheme (4096 * ppn) != some (fld d 63 61)

/-- Post the pool-low record (R84) when what is left falls to the mark. -/
def State.poolLow (s : State) (n : Nat) : State :=
  let p := s.poolPtr n
  let size := s.poolSize n
  let left := (fld p 47 32 + size - fld p 63 48) % size
  if left = fld p 31 16 then
    s.post (n / 3) (wordOf [(56, 0x11), (54, n % 3), (32, n / 3)]) (wordOf [(48, fld p 63 48), (32, fld p 47 32), (16, fld p 31 16)]) 0 0
  else s

/-- Consume descriptors of a pool until a well-formed one comes, or the pool is empty: its scheme and first page. -/
def State.takeDesc (s : State) (n : Nat) : Nat → State × Option (Nat × Nat)
  | 0 => (s, none)
  | fuel + 1 =>
    if s.poolEmpty n then (s, none)
    else
      let p := s.poolPtr n
      let size := s.poolSize n
      let head := fld p 63 48 % size
      let d := s.rd64 (fld (s.poolBase n) 55 12 * 4096 + 8 * head)
      let s1 := (s.setReg (offPool n + 8) (setFld p 63 48 ((head + 1) % size))).poolLow n
      if s.descBad (n % 3) d then
        let s2 := s1.setReg (offPool n + 8) (satAdd (s1.poolPtr n) 15 8 1)
        s2.takeDesc n fuel
      else (s1, some (fld d 63 61, fld d 55 12))

/-- The next frame of a tenant's size: one kept from a failed compare-and-swap, else a descriptor (R80). -/
def State.takeFrame (s : State) (t z : Nat) : State × Option (Nat × Nat) :=
  match s.xl.kept.find? fun k => k.1 == t && k.2.1 == z with
  | some k =>
    let kept := s.xl.kept.erase k
    let xl := { s.xl with kept := kept }
    ({ s with xl := xl }, some (k.2.2.1, k.2.2.2))
  | none => s.takeDesc (3 * t + z) (s.poolSize (3 * t + z))

/-- Keep a frame as the next allocation of its size. -/
def State.keepFrame (s : State) (t z : Nat) (f : Nat × Nat) : State :=
  let kept := s.xl.kept ++ [(t, z, f.1, f.2)]
  let xl := { s.xl with kept := kept }
  { s with xl := xl }

/-- Post an escalation record (R84). -/
def State.escalate (s : State) (t ctx reason tag size : Nat) (va : Word) : State :=
  s.post t (wordOf [(56, 0x12), (48, reason), (38, ctx), (32, t), (0, tag)]) va (wordOf [(62, size)]) 0

/-- The entry for an address at a target level (R438): its place, or the status of what stops the walk: 3 a missing non-leaf, 4 a valid leaf above. -/
def State.fmapWalk (s : State) (place : Place) (va : Word) (target : Nat) : Nat → Nat → Except Nat Nat
  | lvl, table =>
    match place (pteAt false table lvl (fld va 56 0)) with
    | .error _ => .error 3
    | .ok pte =>
      if !(inHbm pte || inLp pte) then .error 3
      else if lvl = target then .ok pte
      else match lvl with
        | 0 => .error 3
        | lvl' + 1 =>
          let l := s.rd64 pte
          if !leafV l then .error 3 else if isLeaf l then .error 4 else s.fmapWalk place va target lvl' (leafPpn l)

/-- What fmap finds before it takes a descriptor: a status, or the entry's place (R438). -/
def State.fmapPlan (s : State) (ctx z : Nat) (va attr : Word) : Except Nat Nat :=
  match s.ctx? ctx with
  | none => .error 3
  | some c =>
    match s.fmapWalk (match s.guestRoot c with | none => .ok | some r => s.guestPlace noLook r) va (if z = 2 then 1 else 0) 4 c.root with
    | .error k => .error k
    | .ok pte =>
      if leafV (s.rd64 pte) then .error 4
      else if fld attr 63 8 ≠ 0 ∨ (attr.getLsbD 2 ∧ !attr.getLsbD 1) then .error 2
      else .ok pte

/-- A tier-0 leaf over a frame (R68, R80, R438): scheme, first page, Svnapot form for 64 KiB, the low eight bits. -/
def newLeaf (z : Nat) (f : Nat × Nat) (low : Nat) : Word :=
  wordOf [(63, if z = 1 then 1 else 0), (58, f.1), (10, if z = 1 then f.2 + 8 else f.2), (0, low)]

/-- Write a leaf: one entry, or the sixteen of a 64 KiB page in one line. -/
def State.putLeaf (s : State) (z pte : Nat) (l : Word) : State :=
  if z = 1 then (List.range 16).foldl (fun s i => s.put64 (pte / 128 * 128 + 8 * i) l) s else s.put64 pte l

/-- Can a tenant's pool give a frame of a size? -/
def State.hasFrame (s : State) (t z : Nat) : Bool := (s.takeFrame t z).2.isSome

/-! ### Migrations (R79, R80, R83) -/

/-- The entries of a leaf: one, or the sixteen of a 64 KiB page in one line (R68). -/
def leafEntries (pte : Nat) (l : Word) : List Nat := if leafN l then (List.range 16).map fun i => pte / 128 * 128 + 8 * i else [pte]

/-- The size of a page of so many 4 KiB pages: 0 to 3. -/
def pageSize (pages : Nat) : Nat := if pages = 1 then 0 else if pages = 16 then 1 else if pages = 512 then 2 else 3

/-- The virtual address of a page number, canonical (R66). -/
def vpnVa (vpn : Nat) : Word := (BitVec.ofNat 57 (4096 * vpn)).signExtend 64

/-- Step 1 of a migration: the next descriptor of its size, or the escalation of R83 when there is none or the page is of 1 GiB. -/
def State.migFrame (s : State) (m : Mig) : State × Mig :=
  if m.size = 3 then (s.escalate m.tenant m.ctx 3 m.tag 3 m.va, { m with escalated := true })
  else match s.takeFrame m.tenant m.size with
    | (t, some f) => (t, { m with frame := some f, escalated := false })
    | (t, none) => (t.escalate m.tenant m.ctx 1 m.tag m.size m.va, { m with escalated := true })

/-- Put the migrations. -/
def State.setMigs (s : State) (l : List Mig) : State :=
  let xl := { s.xl with migs := l }
  { s with xl := xl }

/-- Start a migration of a tier-3 page, or join the one in progress (R80, R83). -/
def State.wantMig (s : State) (tenant ctx : Nat) (va : Word) (pte : Nat) (l : Word) (lvl tag : Nat) (w : Option BKey) : State :=
  let pages := leafPages lvl l
  let vpn := vpnOf va / pages * pages
  let add := fun (m : Mig) => if m.ctx = ctx ∧ m.vpn = vpn then { m with waiters := m.waiters ++ w.toList.filter fun x => !m.waiters.contains x } else m
  if s.xl.migs.any fun m => m.ctx == ctx && m.vpn == vpn then s.setMigs (s.xl.migs.map add)
  else
    let m : Mig :=
      { tenant := tenant, ctx := ctx, vpn := vpn, va := va, size := pageSize pages, leaf := (leafEntries pte l).map s.rd64, pte := pte, frame := none, tag := tag,
        waiters := w.toList, escalated := false }
    let r := s.migFrame m
    r.1.setMigs (r.1.xl.migs ++ [r.2])

end Sys2Proof.Machine
end

