-- ==== Sys2Proof/Machine/Sched.lean ====
section
/-! DEFINITION. Launch records, resources, placement of crews and entry of grids (R123, R124, R137 to R150, R210). -/

namespace Sys2Proof.Machine

/-! ### Launch records (R123, R124) -/

/-- Word i of a record. -/
def recW (r : List Word) (i : Nat) : Word := r.getD i 0

/-- The fields of a launch record (R123); tenant, context, priority, depth and parent come from the source of the launch. -/
def gridOf (r : List Word) : Grid :=
  { id := 0, tenant := 0, ctx := fld (recW r 7) 49 40, prio := fld (recW r 5) 52 51, depth := 1, parent := none,
    entry := recW r 0, args := recW r 1, ncrews := fld (recW r 2) 63 40, bundles := fld (recW r 2) 39 32,
    width := 8 * 2 ^ fld (recW r 2) 31 30, dstack := fld (recW r 2) 29 24, regs := fld (recW r 2) 23 16, acc := fld (recW r 2) 15 12,
    scratch := fld (recW r 3) 63 54, vault := fld (recW r 5) 47 32, roles := recW r 4, minDies := fld (recW r 5) 63 59,
    maxDies := fld (recW r 5) 58 54, coop := (recW r 5).getLsbD 53, done := recW r 6, tag := fld (recW r 5) 31 0,
    limiting := 0, order := 0, st := .waiting, dies := [], announce := none, oldDies := none }

/-- The role of bundle b (R123). -/
def roleBits (roles : Word) (b : Nat) : Nat := roles.toNat / 4 ^ b % 4

/-- Is any role field wrong (R124 reason 5)? -/
def rolesBad (roles : Word) (bundles : Nat) : Bool :=
  (List.range 32).any fun b => if b < bundles then roleBits roles b == 3 else roleBits roles b != 0

/-- Reasons 1 to 7 of R124: the first check of a record that fails. -/
def recReason (r : List Word) : Option Nat :=
  let g := gridOf r
  if fld (recW r 7) 7 0 ≠ 1 then some 1
  else if fld (recW r 0) 63 57 ≠ 0 ∨ fld (recW r 1) 63 57 ≠ 0 ∨ fld (recW r 2) 11 0 ≠ 0 ∨ fld (recW r 3) 53 0 ≠ 0
      ∨ fld (recW r 5) 50 48 ≠ 0 ∨ fld (recW r 6) 63 57 ≠ 0 ∨ fld (recW r 7) 63 50 ≠ 0 ∨ fld (recW r 7) 39 8 ≠ 0 then some 2
  else if (recW r 0).getLsbD 56 ∨ fld (recW r 0) 2 0 ≠ 0 ∨ (recW r 1).getLsbD 56 ∨ (recW r 6).getLsbD 56 ∨ fld (recW r 6) 2 0 ≠ 0 then some 3
  else if g.ncrews = 0 ∨ g.bundles = 0 ∨ 32 < g.bundles ∨ g.regs = 0 ∨ 16 < g.regs ∨ 32 < g.dstack ∨ 8 < g.acc
      ∨ 512 < g.scratch ∨ 32768 < g.vault then some 4
  else if rolesBad g.roles g.bundles then some 5
  else if 2048 < g.bundles * g.regs * 8 then some 6
  else if g.minDies = 0 ∨ 24 < g.minDies ∨ g.maxDies < g.minDies ∨ 24 < g.maxDies then some 7
  else none

/-! ### Resources (R143 to R145) -/

/-- Scratchpad granules of a crew, its divergence stacks included (R143). -/
def Grid.scratchNeed (g : Grid) : Nat := g.scratch + (g.bundles * g.dstack * 32 + 4095) / 4096

/-- The needs of a crew for the five resources, in order (R143). -/
def Grid.needs (g : Grid) : List Nat := [1, g.bundles, g.bundles * g.regs, g.scratchNeed, g.acc]

/-- Capacities of a core with all banks scratchpad (R144). -/
def capFull : List Nat := [32, 64, 256, 512, 8]

/-- The limiting resource (R144): the index of the smallest quotient, ties to the earlier. -/
def limitFrom : Nat → Option (Nat × Nat) → List (Nat × Nat) → Option (Nat × Nat)
  | _, best, [] => best
  | i, best, (cap, need) :: r =>
    let best := if need = 0 then best else match best with
      | some (q, j) => if cap / need < q then some (cap / need, i) else some (q, j)
      | none => some (cap / need, i)
    limitFrom (i + 1) best r

/-- Quotient and index of a grid's limiting resource. -/
def Grid.limit (g : Grid) : Nat × Nat := (limitFrom 0 none (capFull.zip g.needs)).getD (0, 0)

/-- The role field of a bank (R201). -/
def State.bankRole (s : State) (core bank : Nat) : Nat := fld (s.reg (0x20000000 + 0x1000 * core)) (2 * bank + 1) (2 * bank)

/-- Has a bank a role change that is not in effect yet (R202)? -/
def State.bankPending (s : State) (core bank : Nat) : Bool := natsGet s.parts.oldRoles (32 * core + bank) != 0

/-- The role of a bank that is in effect (R202): the old one while a change is pending. -/
def State.bankEff (s : State) (core bank : Nat) : Nat :=
  match natsGet s.parts.oldRoles (32 * core + bank) with
  | 0 => s.bankRole core bank
  | n + 1 => n

/-- Has a core a cache bank (R202)? -/
def State.hasCache (s : State) (core : Nat) : Bool := (List.range 32).any fun b => s.bankEff core b == 0

/-- Granules of the scratchpad banks in effect (R143, R202). -/
def State.scratchCap (s : State) (core : Nat) : Nat :=
  16 * ((List.range 32).filter fun b => s.bankRole core b == 1 && !s.bankPending core b).length

/-- The crews resident on a core. -/
def State.residents (s : State) (core : Nat) : List Crew := s.crews.filter fun c => c.core == core && c.st == .resident

/-- Extended granules that a core's bundles hold (R183). -/
def State.extHeld (s : State) (core : Nat) : Nat :=
  ((s.residents core).map fun c => ((s.crewBundles c.key).map fun b => if b.reclaimed then 0 else b.arch.ext).sum).sum

/-- What a core's residents use of the five resources. -/
def State.used (s : State) (core : Nat) : List Nat :=
  let gs := (s.residents core).filterMap fun c => s.grid? c.key.grid
  let base := gs.foldl (fun u g => u.zipWith (· + ·) g.needs) [0, 0, 0, 0, 0]
  base.zipWith (· + ·) [0, 0, s.extHeld core, 0, 0]

/-- Free amounts of a core under its present bank roles (R145). -/
def State.freeAmounts (s : State) (core : Nat) : List Nat :=
  ([32, 64, 256, s.scratchCap core, 8]).zipWith (· - ·) (s.used core)

/-- Is a column hot (R215, R216)? -/
def State.colHot (s : State) (grove col : Nat) : Bool := (s.reg (0x10000600 + 0x100000 * grove + 8 * col)).getLsbD 0

/-- Granules of a grove's vault pool: 1,024 a column, without those whose vault link is down (R143, R16). -/
def State.vaultCap (s : State) (grove : Nat) : Nat :=
  1024 * ((List.range 32).filter fun c => !s.parts.downVaults.contains (grove, c)).length

/-- Vault granules of a column in use. -/
def State.vaultUsed (s : State) (grove col : Nat) : Nat :=
  (s.crews.map fun c => if c.grove = some grove then (c.backing.filter fun x => x == col).length else 0).sum

/-- Free granules of a grove. -/
def State.vaultFree (s : State) (grove : Nat) : Nat :=
  s.vaultCap grove - ((s.crews.map fun c => if c.grove = some grove then c.backing.length else 0).sum)

/-- The partitions of a tenant: die and core mask (R141, R142). -/
def State.partsOf (s : State) (t : Nat) : List (Nat × Word) :=
  (List.range 256).filterMap fun n =>
    let w := s.reg (0x1000 + 8 * n)
    if w.getLsbD 0 && fld w 55 50 == t then some (fld w 44 40, s.reg (0x1800 + 8 * n)) else none

/-- May a tenant's crews run on a core (R141 to R145)? -/
def State.coreAllowed (s : State) (t core : Nat) : Bool :=
  let ps := s.partsOf t
  decide (core < Config.cores) && !s.parts.retiredCores.contains core && !s.parts.sparing.contains core && !s.parts.retiredCols.contains (groveOf core, columnOf core)
    && (ps.isEmpty || ps.any fun p => p.1 == dieOf core && p.2.getLsbD (core % 64))

/-- The first granule of a crew's vault allocation in its view (R210), in granules. -/
def vaultBase (g : Grid) (crew : Nat) : Nat := crew * g.vault % 32768

/-- The view granules of a crew, in order. -/
def vaultGranules (g : Grid) (crew : Nat) : List Nat := (List.range g.vault).map fun i => (vaultBase g crew + i) % 32768

/-- Do two crews of one grid own an overlapping granule (R210)? Both allocations have the same length. -/
def vaultClash (g : Grid) (a b : Nat) : Bool :=
  let d := (vaultBase g a + 32768 - vaultBase g b) % 32768
  g.vault != 0 && (decide (d < g.vault) || decide (32768 - d < g.vault))

/-- Is a crew's allocation free of clashes on a grove (R210)? -/
def State.vaultOk (s : State) (g : Grid) (crew grove : Nat) : Bool :=
  !s.crews.any fun c => c.key.grid == g.id && c.key.crew != crew && c.grove == some grove && vaultClash g c.key.crew crew

/-- Can a core take a crew of a grid (R145, R210, R216)? A restore needs no new vault where the allocation stays backed. -/
def State.canTake (s : State) (g : Grid) (crew core : Nat) (needVault : Bool) : Bool :=
  s.coreAllowed g.tenant core && !s.colHot (groveOf core) (columnOf core)
    && ((s.freeAmounts core).zip g.needs).all (fun x => decide (x.2 ≤ x.1))
    && (!needVault || (decide (g.vault ≤ s.vaultFree (groveOf core)) && s.vaultOk g crew (groveOf core)))

/-- Free units of a grid's limiting resource on a core. -/
def State.freeLimit (s : State) (g : Grid) (core : Nat) : Nat := (s.freeAmounts core).getD g.limiting 0

/-- The cores of a die in order. -/
def dieCores (die : Nat) : List Nat := (List.range 64).map fun k => 64 * die + k

/-- The best of some cores for a crew (R148): the most free units of the limiting resource, ties to the lowest coreid. -/
def State.bestCore (s : State) (g : Grid) (crew : Nat) (needVault : Bool) (cores : List Nat) : Option Nat :=
  (cores.filter fun k => s.canTake g crew k needVault).foldl
    (fun best k => match best with
      | none => some k
      | some j => if s.freeLimit g j < s.freeLimit g k then some k else some j) none

/-! ### Placement (R140, R147, R148, R210) -/

/-- The path a bundle starts with (R140). -/
def startPath (g : Grid) : Path := ⟨g.entry, 0, none, lanesOf g.width, Config.noTarget, false, none, none, false⟩

/-- The registers a bundle starts with (R140): s0 and s1; the others hold free values. -/
def Arch.start (g : Grid) : Arch :=
  { slot0 := some (startPath g), slot1 := none, stack := [],
    regs := [(0, .val g.args), (1, .val (BitVec.ofNat 64 g.ncrews))],
    awaits := [], fpflags := [], sup := false, hslot := false, tdepth := 0, trap := .none, trap1 := .none,
    scratch := [0, 0, 0, 0], progress := 0, ext := 0, bad := [] }

/-- A bundle at its start. -/
def Bundle.start (g : Grid) (k : BKey) (fid : Nat) : Bundle :=
  { key := k, role := roleBits g.roles k.idx, fid := fid, live := true, arch := .start g, window := [], pend := [], sq := [], ackcnt := 0,
    notes := [], spin := ⟨0, 0, [], false, none⟩, last := false, yielded := false, reclaimed := false, extAt := 0,
    children := [], parked := none, drains := 0, colls := [], ctxNo := 0, results := [], grans := [], hold := [], stopped := [], ready := none }

/-- A tile at its crew's placement (R187, R252, R412). -/
def Tile.start (fid : Nat) : Tile :=
  { mode := none, ents := [], fid := fid, flags := 0, full := true, poisoned := false, owed := [], busy := none, queue := [], undo := [], lastEnd := 0, wp := .free fid, unread := [] }

/-- The columns that back a crew's granules, in the order of R210: its own, its vault die nearest first, then the other die. -/
def columnOrder (col : Nat) : List Nat :=
  let near := fun (base : Nat) =>
    (List.range 16).flatMap fun d =>
      if d = 0 then [base + col % 16]
      else (if d ≤ col % 16 then [base + col % 16 - d] else []) ++ (if col % 16 + d < 16 then [base + col % 16 + d] else [])
  near (col / 16 * 16) ++ near ((1 - col / 16) * 16)

/-- Take n granules from columns in order, each with its free count. -/
def takeGranules (free : Nat → Nat) : Nat → List Nat → List Nat
  | _, [] => []
  | n, c :: r =>
    let k := min n (free c)
    List.replicate k c ++ takeGranules free (n - k) r

/-- The columns that back an allocation of n granules for a core (R210). -/
def State.backingFor (s : State) (core n : Nat) : List Nat :=
  let g := groveOf core
  takeGranules (fun c => if s.parts.downVaults.contains (g, c) then 0 else 1024 - s.vaultUsed g c) n (columnOrder (columnOf core))

/-- The lowest free slot number of a core, of 32. -/
def State.freeSlot (s : State) (core : Nat) : Nat :=
  ((List.range 32).find? fun i => !(s.residents core).any fun c => c.slot == i).getD 0

/-! ### Places that pass between tenants (R185, R203, R210) -/

/-- The places of a core: its 256 register granules, 64 contexts of scalar and mask registers, 8 tiles, 512 scratchpad granules; the vault granules of a grove. -/
def regPlace (core n : Nat) : Nat := 4096 * core + n
def ctxPlace (core n : Nat) : Nat := 4096 * core + 256 + n
def tilePlace (core n : Nat) : Nat := 4096 * core + 320 + n
def padPlace (core n : Nat) : Nat := 4096 * core + 512 + n
def vaultPlace (grove n : Nat) : Nat := 16777216 + 32768 * grove + n

/-- Does a place pass to a tenant from another one that last wrote it, so that it is cleared to 0? One that no tenant wrote is clear too. (log 105, DESIGN CHOICE) -/
def State.passes (s : State) (t place : Nat) : Bool := natsGet s.parts.last place != t + 1

/-- A tenant is given some places. -/
def State.took (s : State) (t : Nat) (places : List Nat) : State :=
  { s with parts := { s.parts with last := places.foldl (fun m p => natsPut m p (t + 1)) s.parts.last } }

/-- Words that are cleared. -/
def clearKeys (m : Bank) (keys : List Nat) : Bank := keys.foldl (fun m k => mapPut m k (.val 0)) m

/-- What stands in places that are given, each as whether it was cleared and the keys of the words in it: the number of the free values there, 0 where all was cleared, and the words cleared elsewhere. -/
def givenVals (f : Nat) (parts : List (Bool × List Nat)) : Nat × Bank :=
  if parts.all fun x => x.1 then (0, []) else (f, (parts.filter fun x => x.1).foldl (fun m x => clearKeys m x.2) [])

/-- The first n numbers below a bound that are not held. -/
def firstFree (bound : Nat) (held : List Nat) (n : Nat) : List Nat := ((List.range bound).filter fun i => !held.contains i).take n

/-- Free register granules of a core, those of the lowest numbers (R143, R183). (log 107, DESIGN CHOICE) -/
def State.freeRegGrans (s : State) (core n : Nat) : List Nat :=
  firstFree 256 ((s.residents core).flatMap fun c => (s.crewBundles c.key).flatMap fun b => b.grans) n

/-- Free tiles of a core (R143). (log 107, DESIGN CHOICE) -/
def State.freeTiles (s : State) (core n : Nat) : List Nat := firstFree 8 ((s.residents core).flatMap fun c => c.tileAt) n

/-- Free vault granules of a grove in the columns that back an allocation. (log 107, DESIGN CHOICE) -/
def State.freePlaces (s : State) (grove : Nat) (backing : List Nat) : List Nat :=
  let held := (s.crews.filter fun c => c.grove == some grove).flatMap fun c => c.places
  backing.eraseDups.flatMap fun col =>
    (firstFree 1024 ((held.filter fun x => x / 1024 == col).map fun x => x % 1024) (backing.filter fun x => x == col).length).map fun i => 1024 * col + i

/-- The keys of the eight vector registers of a bundle's granule number j. -/
def granKeys (j : Nat) : List Nat := (List.range 8).flatMap fun i => (List.range 64).map (vKey (8 * j + i))

/-- The keys of the scalar and mask registers. -/
def ctxKeys : List Nat := (List.range 64).map sKey ++ (List.range 15).map fun i => mKey (i + 1)

/-- The first n scratchpad granules of a core that no crew holds, in banks whose role is scratchpad and stays it (R202, R203). (log 107, DESIGN CHOICE) -/
def State.freeGrans (s : State) (core n : Nat) : List Nat :=
  let held := (s.residents core).flatMap fun c => c.grans
  let banks := (List.range 32).filter fun b => s.bankRole core b == 1 && !s.bankPending core b
  ((banks.flatMap fun b => (List.range 16).map fun i => 16 * b + i).filter fun x => !held.contains x).take n

/-- The first n bundle contexts of a core's 64 that are free (R169). (log 107, DESIGN CHOICE) -/
def State.freeCtxs (s : State) (core n : Nat) : List Nat :=
  let held := (s.residents core).flatMap fun c => (s.crewBundles c.key).map fun b => b.ctxNo
  ((List.range 64).filter fun i => !held.contains i).take n

/-- Where a crew's vault allocation is in its view, granule by granule, with the place that backs each. -/
def vaultBacked (g : Grid) (crew : Nat) (places : List Nat) : List (Nat × Nat) := (vaultGranules g crew).zip places

/-- A new bundle with its context and its register granules: what passes from another tenant is 0, the rest unspecified (R140, R185). -/
def State.newBundle (s : State) (g : Grid) (k : BKey) (core fid ctx : Nat) (grans : List Nat) : Bundle :=
  let v := givenVals fid ((s.passes g.tenant (ctxPlace core ctx), ctxKeys) :: grans.mapIdx fun j x => (s.passes g.tenant (regPlace core x), granKeys j))
  let b := Bundle.start g k v.1
  { b with arch := { b.arch with regs := b.arch.regs.foldl (fun m x => mapPut m x.1 x.2) v.2 }, ctxNo := ctx, grans := grans }

/-- The places of a crew and its bundles. -/
def Crew.allPlaces (c : Crew) (bs : List Bundle) : List Nat :=
  (bs.flatMap fun b => ctxPlace c.core b.ctxNo :: b.grans.map (regPlace c.core)) ++ c.tileAt.map (tilePlace c.core) ++ c.grans.map (padPlace c.core)
    ++ c.places.map (vaultPlace (groveOf c.core))

/-- Place a crew of a grid on a core, all its bundles at their start (R140, R148). What passes to its tenant from another is cleared (R185, R203, R210), and no stale line is left in
the core's L1, so that its first instruction sees the writes of R139 and R160. (log 105, DESIGN CHOICE) (log 106, DEDUCED) -/
def State.placeCrew (s : State) (g : Grid) (crew core : Nat) : State :=
  let f := s.free
  let grans := s.freeGrans core g.scratchNeed
  let tiles := s.freeTiles core g.acc
  let backing := s.backingFor core g.vault
  let places := s.freePlaces (groveOf core) backing
  let w := givenVals f (grans.mapIdx fun j x => (s.passes g.tenant (padPlace core x), List.range' (4096 * j) 4096))
  let v := givenVals (f + 1) ((vaultBacked g crew places).map fun x => (s.passes g.tenant (vaultPlace (groveOf core) x.2), List.range' (65536 * x.1) 65536))
  let c : Crew :=
    { key := ⟨g.id, crew⟩, die := dieOf core, core := core, slot := s.freeSlot core, st := .resident, order := s.hub.nextOrder, win := w.2, winFree := w.1,
      bars := List.replicate 16 ⟨0, 0, 0⟩, rings := [], copies := [[], [], [], []], copyHold := false, abandoned := false, plgen := 0,
      since := s.clock, save := none, area := 0, areaBad := false, restFault := false, vlt := v.2, vltFree := v.1,
      backing := backing, grove := if g.vault = 0 then none else some (groveOf core), record := false,
      tiles := (List.range g.acc).map (fun i => Tile.start (if s.passes g.tenant (tilePlace core (tiles.getD i 0)) then 0 else f + 2 + i)), bad := [], mended := [],
      grans := grans, tileAt := tiles, places := places, fence := none }
  let nos := s.freeCtxs core g.bundles
  let regs := s.freeRegGrans core (g.bundles * g.regs)
  let bs := (List.range g.bundles).map fun i =>
    s.newBundle g ⟨g.id, crew, i⟩ core (f + 2 + g.acc + i) (nos.getD i 0) ((regs.drop (i * g.regs)).take g.regs)
  let s := s.took g.tenant (c.allPlaces bs)
  { s with crews := s.crews ++ [c], bundles := s.bundles ++ bs, free := f + 2 + g.acc + g.bundles, l1 := s.l1.filter fun l => l.core != core,
           hub := { s.hub with nextOrder := s.hub.nextOrder + 1 } }

/-- The crews of the die of rank j among n (R147). -/
def blockOf (crews n j : Nat) : Nat × Nat := (j * crews / n, (j + 1) * crews / n)

/-- The rank of a crew's die in a division over n dies. -/
def rankOfCrew (crews n crew : Nat) : Nat :=
  ((List.range n).find? fun j => decide ((blockOf crews n j).1 ≤ crew ∧ crew < (blockOf crews n j).2)).getD 0

/-- The first crew from lo up that has no record yet, looking at no more than fuel numbers. -/
def State.firstNew (s : State) (g : Nat) : Nat → Nat → Nat
  | 0, lo => lo
  | n + 1, lo => if (s.crew? ⟨g, lo⟩).isSome then s.firstNew g n (lo + 1) else lo

/-- The next crew of a grid that waits for its first placement on a die. -/
def State.nextCrew (s : State) (g : Grid) (die : Nat) : Option Nat :=
  match g.dies.findIdx? fun d => d == die with
  | none => none
  | some j =>
    let b := blockOf g.ncrews g.dies.length j
    let k := s.firstNew g.id (s.crews.length + 1) b.1
    if k < b.2 then some k else none

/-- The dies that can take at least one crew of a grid, the most free core first, ties to the lower dieid (R146). -/
def State.dieOrder (s : State) (g : Grid) : List Nat :=
  let best := fun d => (s.bestCore g 0 true (dieCores d)).map fun k => s.freeLimit g k
  let ds := (List.range Config.dies).filterMap fun d => (best d).map fun f => (d, f)
  let ins := fun (l : List (Nat × Nat)) (x : Nat × Nat) => (l.takeWhile fun y => decide (x.2 ≤ y.2)) ++ [x] ++ (l.dropWhile fun y => decide (x.2 ≤ y.2))
  (ds.foldl ins []).map fun x => x.1

/-- Crews of a grid that an empty core holds (R150). -/
def State.coreHolds (s : State) (g : Grid) (core : Nat) : Nat :=
  if s.coreAllowed g.tenant core then
    ((([32, 64, 256, s.scratchCap core, 8] : List Nat).zip g.needs).map fun x => if x.2 = 0 then 64 else x.1 / x.2).foldl min 64
  else 0

/-- Crews that the empty dies of a grove hold, one die at most or both: the dies share the grove's vaults, in which no two allocations of the grid may overlap (R150, R210). -/
def State.groveHolds (s : State) (g : Grid) (grove : Nat) : Nat × Nat :=
  let on := fun (die : Nat) => ((dieCores die).map (s.coreHolds g)).sum
  let cap := fun (n : Nat) => if g.vault = 0 then n else min n (s.vaultCap grove / g.vault)
  (cap (max (on (2 * grove)) (on (2 * grove + 1))), cap (on (2 * grove) + on (2 * grove + 1)))

/-- The most crews that 0 to 24 dies hold, with one more grove to choose from. -/
def moreDies (best : List Nat) (x : Nat × Nat) : List Nat :=
  (List.range 25).map fun k =>
    let one := if 1 ≤ k then best.getD (k - 1) 0 + x.1 else 0
    let two := if 2 ≤ k then best.getD (k - 2) 0 + x.2 else 0
    max (best.getD k 0) (max one two)

/-- Would all crews of a cooperative grid fit on max_dies empty dies (R150)? -/
def State.coopFits (s : State) (g : Grid) : Bool :=
  let best := ((List.range Config.groves).map (s.groveHolds g)).foldl moreDies (List.replicate 25 0)
  decide (g.ncrews ≤ best.getD g.maxDies 0)

/-! ### Entry of grids (R124, R137, R144, R150) -/

/-- Is a tenant resetting (R126)? -/
def State.resetting (s : State) (t : Nat) : Bool := (s.reg (0x1000070 + 0x10000 * t)).getLsbD 0

/-- Why a launch is rejected: reasons 1 to 7; 8 and 9 for a record that names its own context; a limiting quotient of 0 as 4; 10 for a cooperative grid that can never fit. -/
def State.launchReason (s : State) (r : List Word) (g : Grid) (own : Bool) : Option Nat :=
  match recReason r with
  | some k => some k
  | none =>
    if own && !(s.xl.ctxs.any fun c => c.num == g.ctx && c.tenant == g.tenant) then some 8
    else if own && s.resetting g.tenant then some 9
    else if g.limit.1 = 0 then some 4
    else if g.coop && !s.coopFits g then some 10
    else none

/-- A grid enters the device scheduler's table under a new number (R137); its context has a launch now (R73). -/
def State.gridEnter (s : State) (g : Grid) : State × Nat :=
  let id := s.hub.nextGrid
  let g := { g with id := id, limiting := g.limit.2, order := s.hub.nextOrder }
  let hub := { s.hub with nextGrid := (id + 1) % 2 ^ 32, nextOrder := s.hub.nextOrder + 1 }
  let ctxs := s.xl.ctxs.map fun c => if c.num == g.ctx then { c with last := s.clock } else c
  ({ s with grids := s.grids ++ [g], hub := hub, xl := { s.xl with ctxs := ctxs } }, id)

/-- Post the launch-rejected or queue-full record (R122, R124, R125). -/
def State.postReject (s : State) (t q cause reason tag : Nat) : State :=
  s.post t (wordOf [(56, cause), (48, reason), (40, q), (32, t), (0, tag)]) 0 0 0

/-- A launch of depth 1 by an armed receive or an event-counter action (R63, R138, R426): args given, or the record's. -/
def State.launchArmed (s : State) (t : Nat) (r : List Word) (args : Option Word) : State :=
  let g := { gridOf r with tenant := t, args := args.getD (recW r 1) }
  match s.launchReason r g true with
  | some k => s.postReject t 0xFF 0x20 k g.tag
  | none => (s.gridEnter g).1

end Sys2Proof.Machine
end

