-- ==== Sys2Proof/Machine/Fabric.lean ====
section
/-! DEFINITION. What reads return and what happens as a write becomes visible at its home slice (R90, R121, R122, R158 to R160, R205, R206, R223, R419 to R422, R450). -/

namespace Sys2Proof.Machine

/-! ### Flash reads (R88 to R90, R97, R98) -/

def offRegion (n : Nat) : Nat := 0x30010000 + 8 * n
def offRegionEnd (n : Nat) : Nat := 0x30030000 + 8 * n
def offWear (s : Nat) : Nat := 0x30000000 + 8 * s

/-- The flash unit of a physical address (R88). -/
def unitOf (pa : Nat) : Nat := (pa - Config.flashBase) / 65536

/-- The numbers of the region registers that were ever written. -/
def State.regionNums (s : State) : List Nat :=
  s.regs.filterMap fun x => if 0x30010000 ≤ x.1 ∧ x.1 < 0x30030000 then some ((x.1 - 0x30010000) / 8) else none

/-- The region that holds a unit, among those granted or read-only (R97). -/
def State.regionOf (s : State) (u : Nat) : Option Nat :=
  s.regionNums.find? fun n =>
    let w := s.reg (offRegion n)
    (fld w 63 62 == 1 || fld w 63 62 == 2) && decide (fld w 49 24 ≤ u ∧ u < fld w 49 24 + fld w 23 0)

/-- A region's first byte and sealed end. -/
def State.regionBase (s : State) (n : Nat) : Nat := Config.flashBase + 65536 * fld (s.reg (offRegion n)) 49 24
def State.sealedEnd (s : State) (n : Nat) : Nat := fld (s.reg (offRegionEnd n)) 39 0

/-- A byte of flash as a tenant's load returns it (R90). -/
def State.flashByte (s : State) (tenant pa : Nat) : Byte :=
  match s.regionOf (unitOf pa) with
  | none => 0
  | some n =>
    if fld (s.reg (offRegion n)) 61 56 == tenant && decide (pa < s.regionBase n + s.sealedEnd n) then s.byte pa else 0

/-- Is a flash load foreign (R90, R112)? -/
def State.flashForeign (s : State) (tenant pa : Nat) : Bool :=
  match s.regionOf (unitOf pa) with
  | none => true
  | some n => fld (s.reg (offRegion n)) 61 56 != tenant

/-- Count a read of a foreign or unowned flash unit (R90, R112). -/
def State.countForeign (s : State) (tenant pa : Nat) : State :=
  if inFlash pa ∧ s.flashForeign tenant pa then
    let o := offWear (unitOf pa / 16777216)
    s.setReg o (satAdd (s.reg o) 47 40 1)
  else s

/-- Does a flash line lie wholly below the sealed end (R90)? -/
def State.flashAlloc (s : State) (pa : Nat) : Bool :=
  match s.regionOf (unitOf pa) with
  | none => false
  | some n => decide (lineOf pa + 128 ≤ s.regionBase n + s.sealedEnd n)

/-- Does the home slice of a line hold it (R206)? (log 8, DEDUCED) (log 98, DESIGN CHOICE) -/
def State.l2Has (s : State) (pa : Nat) : Bool := s.flash.l2.any fun x => x.1 == lineOf pa && Config.l2Keeps x.1 x.2 s.clock

/-- The lines that the home slices hold once there is room for one more (R206): a slice has 3,072 sets of 16 ways, and which line of a full set goes is not given. (log 98, DESIGN CHOICE) -/
def State.l2Room (s : State) (line : Nat) : List (Nat × Nat) :=
  let l := s.flash.l2.filter fun x => x.1 != line
  if l.length < 16 then l
  else
    let set := fun (a : Nat) => (s.homeOf a, Config.setIndex 2 (a / 128) % 3072)
    let mates := l.filter fun x => set x.1 == set line
    if mates.length < 16 then l
    else match mates[(Config.freeWord s.free 0).toNat % mates.length]? with
      | some out => l.erase out
      | none => l

/-- A line that is read comes to its home slice, one of flash when the controller returns it allocatable (R90, R206). -/
def State.l2Fill (s : State) (pa : Nat) : State :=
  if (inFlash pa && !s.flashAlloc pa) || !(inFlash pa || inHbm pa || inLp pa) || s.l2Has pa then s
  else
    let flash := { s.flash with l2 := s.l2Room (lineOf pa) ++ [(lineOf pa, s.clock)] }
    { s with flash := flash, free := s.free + 1 }

/-- May a flash line at its home slice be brought into an L1 for a tenant (R383)? -/
def State.flashCached (s : State) (tenant pa : Nat) : Bool := inFlash pa && !s.flashForeign tenant pa && s.flashAlloc pa && s.l2Has pa

/-- Does a tenant's read of a byte meet poison? A byte of flash that it does not get is 0 whatever the line holds (R90, R278). -/
def State.poisonAt (s : State) (tenant pa : Nat) : Bool :=
  s.poison.contains (lineOf pa) && (!inFlash pa || (match s.regionOf (unitOf pa) with
    | some n => !s.flashForeign tenant pa && decide (pa < s.regionBase n + s.sealedEnd n)
    | none => false))

/-- Is the flash die or the unit of an address not ready (R93)? -/
def State.flashHeld (s : State) (pa : Nat) : Bool :=
  inFlash pa && (s.flash.switching.contains (unitOf pa) || s.flash.busy.contains (unitOf pa))

/-- A byte at its home slice, for a tenant. -/
def State.homeByte (s : State) (tenant pa : Nat) : Byte := if inFlash pa then s.flashByte tenant pa else s.byte pa

/-! ### What a core sees (R205, R223, R224) -/

/-- The byte that the youngest of some queued stores puts at a place. -/
def sqByte (q : List SqEntry) (sp : Space) (a : Nat) : Option Byte :=
  q.foldl (fun r e => match e.op with
    | .store _ parts => parts.foldl (fun r p =>
        if p.1.space = sp ∧ p.1.addr ≤ a ∧ a < p.1.addr + p.2.length then p.2[a - p.1.addr]? else r) r
    | .ringInit _ parts => parts.foldl (fun r p =>
        if p.1.space = sp ∧ p.1.addr ≤ a ∧ a < p.1.addr + p.2.length then p.2[a - p.1.addr]? else r) r
    | .aboInit x d => if sp = .mem ∧ x.addr ≤ a ∧ a < x.addr + d.length then d[a - x.addr]? else r
    | _ => r) none

/-- The byte that a core's writes in flight put at an address, the latest. -/
def flightByte (fl : List Flight) (core a : Nat) : Option Byte :=
  fl.foldl (fun r f => if f.core = some core then
      (match f.op with
        | .bytes _ parts => parts.foldl (fun r p => if p.1 = a then some p.2 else r) r
        | .aboInit pa d => if pa ≤ a ∧ a < pa + d.length then d[a - pa]? else r
        | _ => r)
    else r) none

/-- Is a write of a flight a read-modify-write? -/
def FlightOp.rmw : FlightOp → Bool
  | .bytes _ _ | .aboInit _ _ | .io _ _ | .vlt _ _ _ => false
  | _ => true

/-- The L1 line of a core that holds an address. -/
def State.l1Line (s : State) (core a : Nat) : Option L1Line := s.l1.find? fun l => l.core == core && l.line == lineOf a

/-- A byte past the core's L1: its own writes in flight, then the home slice (R224). -/
def State.pastL1 (s : State) (core tenant a : Nat) : Byte := (flightByte s.inflight core a).getD (s.homeByte tenant a)

/-- The L1 line that a tenant's read of a page type hits: none for a flash unit of another tenant, whose bytes read 0 (R90, R205, R229). -/
def State.l1Hit (s : State) (core tenant pbmt a : Nat) : Option L1Line :=
  if pbmt = 0 && !(inFlash a && s.flashForeign tenant a) then s.l1Line core a else none

/-- A byte that a core reads: through its L1 where the page's type lets it (R205, R229). -/
def State.coreByte (s : State) (core tenant pbmt a : Nat) : Byte :=
  match s.l1Hit core tenant pbmt a with
  | some l => (l.data[a - l.line]?).getD 0
  | none => s.pastL1 core tenant a

/-- A byte that a bundle reads in virtual memory: its own youngest queued store first (R223). -/
def State.bundleByte (s : State) (b : Bundle) (core tenant pbmt a : Nat) : Byte :=
  (sqByte b.sq .mem a).getD (s.coreByte core tenant pbmt a)

/-- The sets of a core's L1: each cache bank holds 64 KiB, in lines of 128 bytes and 8 ways (R201, R205). -/
def State.l1Sets (s : State) (core : Nat) : Nat := 64 * ((List.range 32).filter fun b => s.bankEff core b == 0).length

/-- Make room for a line in its set: one of eight lines goes, an invalid way first; the manual does not say which (R205). (log 98, DESIGN CHOICE) -/
def State.l1Room (s : State) (core a : Nat) : State :=
  if (s.l1.filter fun l => l.core == core).length < 8 then s
  else
    let set := fun (line : Nat) => Config.setIndex 1 (line / 128) % s.l1Sets core
    let mates := s.l1.filter fun l => l.core == core && set l.line == set (lineOf a)
    if mates.length < 8 then s
    else
      let out := mates[(Config.freeWord s.free 0).toNat % mates.length]?
      { s with l1 := s.l1.filter fun l => out != some l, free := s.free + 1 }

/-- Bring a line into a core's L1 (R205), unless a read-modify-write of the core to it is on its way: the old bytes must not outlive it there (R224, R225). (log 109, DEDUCED) -/
def State.l1Fill (s : State) (core tenant a : Nat) : State :=
  if (s.l1Line core a).isSome || s.inflight.any fun f => f.core == some core && f.op.rmw && f.line == lineOf a then s
  else
    let t := s.l1Room core a
    { t with l1 := ⟨core, lineOf a, bytesFrom (t.pastL1 core tenant) (lineOf a) 128⟩ :: t.l1 }

/-- Drop lines from L1s. -/
def State.l1Drop (s : State) (pick : L1Line → Bool) : State := { s with l1 := s.l1.filter fun l => !pick l }

/-- The lines of a core's L1 all go. -/
def State.l1DropCore (s : State) (core : Nat) : State := s.l1Drop fun l => l.core == core

/-- Put a byte into a line's copy. -/
def lineSet (d : List Byte) (i : Nat) (b : Byte) : List Byte := d.set i b

/-- A store updates the line of its own core if it is there (R205). -/
def State.l1Store (s : State) (core : Nat) (parts : List (Nat × Byte)) : State :=
  let upd := fun (l : L1Line) =>
    if l.core = core then
      { l with data := parts.foldl (fun d p => if lineOf p.1 = l.line then lineSet d (p.1 - l.line) p.2 else d) l.data }
    else l
  { s with l1 := s.l1.map upd }

/-! ### The crew's window and the vault (R203, R209 to R211) -/

/-- A byte of a crew's window. -/
def Crew.winByte (c : Crew) (a : Nat) : Byte := (bankGet c.win c.winFree a).truncate 8

/-- Write a byte of a crew's window. -/
def Crew.setWin (c : Crew) (a : Nat) (b : Byte) : Crew := { c with win := mapPut c.win a (.val (b.zeroExtend 64)) }

/-- The crew of a grid that owns a granule of the view with a backing on a grove (R210, R211). -/
def State.vaultOwner (s : State) (grid grove gran : Nat) : Option Crew :=
  s.crews.find? fun c => c.key.grid == grid && c.grove == some grove &&
    (match s.grid? grid with
      | some g => decide ((gran + 32768 - vaultBase g c.key.crew) % 32768 < g.vault)
      | none => false)

/-- A byte of a vault view. -/
def State.vaultByte (s : State) (grid grove a : Nat) : Byte :=
  match s.vaultOwner grid grove (a / 65536) with
  | some c => (bankGet c.vlt c.vltFree a).truncate 8
  | none => 0

/-- Write a byte of a vault view. -/
def State.setVault (s : State) (grid grove a : Nat) (b : Byte) : State :=
  match s.vaultOwner grid grove (a / 65536) with
  | some c => s.putCrew { c with vlt := mapPut c.vlt a (.val (b.zeroExtend 64)) }
  | none => s

/-- The offending address of an extent of the window, if any (R203): the first byte at or beyond the limit. -/
def winBad (limit a n : Nat) : Option Nat := if a + n ≤ limit then none else some (max a limit)

/-- The first address of an extent of a vault view that is outside it or not owned (R209, R211), granule by granule. -/
def State.vaultBad (s : State) (grid grove : Nat) : Nat → Nat → Nat → Option Nat
  | 0, _, _ => none
  | fuel + 1, a, n =>
    if n = 0 then none
    else if 2 ^ 31 ≤ a then some a
    else if (s.vaultOwner grid grove (a / 65536)).isNone then some a
    else
      let k := 65536 - a % 65536
      if n ≤ k then none else s.vaultBad grid grove fuel (a + k) (n - k)

/-! ### Barrier objects (R419 to R422, R450) -/

/-- Has a phase passed a ticket's (R418, R422)? -/
def passed (phase g : Nat) : Bool :=
  let d := (phase + 2 ^ 32 - g % 2 ^ 32) % 2 ^ 32
  decide (1 ≤ d ∧ d < 2 ^ 31)

/-- The result word of abo.wait and abo.test (R422). -/
def aboResult (w0 w1 : Word) (done : Bool) : Word :=
  wordOf [(32, fld w0 63 32), (16, done.toNat), (8, fld w1 55 48), (0, fld w1 4 0)]

/-- The two words of an object after n arrivals with a status and flags (R421). -/
def aboArrived (w0 w1 : Word) (n st fl : Nat) : Word × Word :=
  let cs := if st ≠ 0 ∧ fld w1 63 56 = 0 then st else fld w1 63 56
  let cf := fld w1 9 5 ||| fl
  if fld w0 15 0 ≤ n then
    (wordOf [(32, (fld w0 63 32 + 1) % 2 ^ 32), (16, fld w0 31 16), (0, fld w0 31 16)],
      setFld (setFld (setFld (setFld w1 63 56 0) 55 48 cs) 9 5 0) 4 0 cf)
  else (setFld w0 15 0 (fld w0 15 0 - n), setFld (setFld w1 63 56 cs) 9 5 cf)

/-- Wake the waiters on an object whose tickets its new phase satisfies, each with the result word of that moment (R450). -/
def State.aboWake (s : State) (pa : Nat) (w0 w1 : Word) : State :=
  let wakeP := fun (x : Path) => match x.held with
    | some (.abo p g none) => if p = pa ∧ passed (fld w0 63 32) g then { x with held := some (.abo p g (some (aboResult w0 w1 true))) } else x
    | _ => x
  let wake := fun (b : Bundle) => { b with arch := { b.arch with slot0 := b.arch.slot0.map wakeP, slot1 := b.arch.slot1.map wakeP } }
  { s with bundles := s.bundles.map wake }

/-! ### Visible writes -/

/-- Lines that a party other than a bundle writes restore the bundles that watch them (R156). -/
def State.watchHit (s : State) (writer : Option BKey) (lines : List Nat) : State :=
  let hit := fun (b : Bundle) =>
    if b.spin.demoted.isSome && writer != some b.key && b.spin.watch.any (fun w => w.1 == Space.mem && lines.contains w.2) then
      { b with spin := { b.spin with demoted := none, takings := 0 } }
    else b
  { s with bundles := s.bundles.map hit }

/-- Writes to a window or a vault view restore the demoted bundles that watch them (R156). -/
def State.watchLocal (s : State) (writer : Option BKey) (crew : CKey) (sp : Space) (addrs : List Nat) : State :=
  let near := fun (b : Bundle) => match sp with | .ls => b.key.ck == crew | _ => b.key.grid == crew.grid
  let words := addrs.map fun a => a / 4 * 4
  let hit := fun (b : Bundle) =>
    if b.spin.demoted.isSome && writer != some b.key && near b && b.spin.watch.any (fun w => w.1 == sp && words.contains w.2) then
      { b with spin := { b.spin with demoted := none, takings := 0 } }
    else b
  { s with bundles := s.bundles.map hit }

/-- The lines of some bytes, without repeats. -/
def linesOf (l : List Nat) : List Nat := (l.map lineOf).eraseDups

/-- The places in a line that some bytes take, a bit for each. -/
def lineBits (addrs : List Nat) (l : Nat) : Nat := addrs.foldl (fun m a => if lineOf a = l then m ||| 2 ^ (a - l) else m) 0

/-- Every place of a line. -/
def wholeLine : Nat := 2 ^ 128 - 1

/-- Poison after a write of bytes (R33, R206, R278): a poisoned write poisons its lines; a clean one mends the bytes that it writes, and a line whose bytes have all been overwritten loses its poison. -/
def State.poisonWrite (s : State) (addrs : List Nat) (bad : Bool) : State :=
  let ls := linesOf addrs
  if bad then { s with poison := ls.filter (fun l => !s.poison.contains l) ++ s.poison, mended := ls.foldl mapDel s.mended, poisonBy := ls.foldl mapDel s.poisonBy }
  else if s.poison.isEmpty then s
  else
    let now := fun (l : Nat) => natsGet s.mended l ||| lineBits addrs l
    let hit := ls.filter s.poison.contains
    { s with poison := s.poison.filter fun l => !(hit.contains l && now l == wholeLine)
             mended := hit.foldl (fun m l => natsPut m l (if now l = wholeLine then 0 else now l)) s.mended }

/-- A line is poisoned at its home slice until all of it has been overwritten (R206). -/
def State.poisonLine (s : State) (line : Nat) : State :=
  { s with poison := if s.poison.contains line then s.poison else line :: s.poison, mended := mapDel s.mended line, poisonBy := mapDel s.poisonBy line }

/-- A line is poisoned by a source of R281 that is not where it lies: 3 L2, 7 a link. -/
def State.poisonFrom (s : State) (line source : Nat) : State :=
  let t := s.poisonLine line
  { t with poisonBy := natsPut t.poisonBy line (source + 1) }

/-- Where the poison of a line was met (R281): the source it is from, else where the line lies. -/
def State.poisonSource (s : State) (pa : Nat) : Nat :=
  match natsGet s.poisonBy (lineOf pa) with
  | n + 1 => n
  | 0 => if inHbm pa then 4 else if inLp pa then 5 else if inFlash pa then 6 else 7

/-- The bytes of a write stand at the home slice. -/
def State.putParts (s : State) : List (Nat × Byte) → State
  | [] => s
  | (a, b) :: r => (s.setByte a b).putParts r

/-- The records of a launch queue. -/
def State.queue (s : State) (n : Nat) : List (List Word) := (mapGet s.hub.queues n).getD []

/-- Set a launch queue. -/
def State.setQueue (s : State) (n : Nat) (q : List (List Word)) : State :=
  { s with hub := { s.hub with queues := if q.isEmpty then mapDel s.hub.queues n else mapPut s.hub.queues n q } }

/-- The eight words at an address. -/
def State.record (s : State) (pa : Nat) : List Word := (List.range 8).map fun i => s.rd64 (pa + 8 * i)

/-- A queue's head stands at a record from now on (R132). -/
def State.headMoved (s : State) (n : Nat) (now : Bool) : State :=
  let cp := { s.cp with headAt := natsPut s.cp.headAt n s.clock }
  if now then { s with cp := cp } else s

/-- A write to an enabled window page (R122): exactly 64 bytes aligned to 64 in one transaction are a submission; anything else is dropped and counted,
as is all that comes while its tenant resets (R127). (log 50, DEDUCED) -/
def State.submit (s : State) (n pa : Nat) (whole : Bool) : State :=
  if !whole || s.resetting (n / 4) then s.winDrop n 1
  else if 64 ≤ (s.queue n).length then (s.winDrop n 1).postReject (n / 4) n 0x21 0 0
  else (s.setQueue n (s.queue n ++ [s.record pa])).headMoved n (s.queue n).isEmpty

/-- Are these the bytes of one aligned 64-byte block? -/
def wholeBlock (addrs : List Nat) : Bool :=
  match addrs with
  | [] => false
  | a :: _ => addrs.eraseDups.length == 64 && addrs.all fun x => x / 64 == a / 64

/-- Actions that a counter's value fires, in increasing threshold, ties in arming order (R159). -/
def firing (armed : List Armed) (pa v : Nat) : List Armed :=
  let hit := armed.filter fun a => !a.waits && a.pa == pa && decide (a.thr ≤ v)
  hit.foldl (fun l x => (l.takeWhile fun y => decide (y.thr ≤ x.thr)) ++ [x] ++ (l.dropWhile fun y => decide (y.thr ≤ x.thr))) []

/-- Take the actions that the counters at some addresses fire now. -/
def State.takeFired (s : State) (pas : List Nat) : State × List Armed :=
  let f := pas.flatMap fun pa => firing s.armed pa (s.rd64 pa).toNat
  ({ s with armed := s.armed.filter fun a => !f.contains a }, f)

/-- The record of cause 0x13 for an event-counter action (R213, R426). -/
def State.postActionFault (s : State) (a : Armed) (cause va : Nat) : State :=
  s.post a.tenant (wordOf [(56, 0x13), (48, cause), (44, 3), (32, a.tenant), (0, a.tag)]) (BitVec.ofNat 64 va) (BitVec.ofNat 64 a.va) 0

/-- Does a unit work on bytes that software must leave alone: a send, an armed receive, an append to a stream, a copy, a collective, a tile unit under an operand-ready fence? -/
def State.noting (s : State) : Bool :=
  !s.net.sends.isEmpty || !s.net.narms.isEmpty || !s.flash.reqs.isEmpty || s.flash.streams.any (fun f => !f.2.extents.isEmpty)
    || !s.coll.recs.isEmpty || s.crews.any (fun c => (c.copies.any fun q => !q.isEmpty) || (c.fence.isSome && c.st != .retired)) || s.bundles.any fun b => b.sq.any fun e => match e.op with
      | .send _ _ _ _ _ | .narm _ _ _ | .stream _ _ _ _ _ _ | .coll _ _ _ _ _ => true
      | _ => false

/-- Note a write, while some unit works on such bytes; the notes go when none does. Reservations end. -/
def State.noteWrite (s : State) (place : Option (Space × CKey)) (addrs : List Nat) (writer : Option BKey) : State :=
  let hub := { s.hub with wrote := if s.noting then s.hub.wrote ++ [⟨place, addrs, s.clock, writer⟩] else []
                          hosts := if place.isNone then unreserve (linesOf addrs).contains s.hub.hosts else s.hub.hosts }
  { s with hub := hub }

/-- Was a byte written since a time, by a party of a kind? -/
def State.wroteSince (s : State) (place : Option (Space × CKey)) (since : Nat) (who : Option BKey → Bool) (a : Nat) : Bool :=
  s.hub.wrote.any fun w => w.place == place && decide (since ≤ w.time) && who w.writer && w.addrs.contains a

/-- What a virtual address stands for in memory now: a page that is there, or the source of a page that is to migrate. -/
def State.placeOf (s : State) (ctx va : Nat) : Option Nat :=
  match s.walk ctx false .store (BitVec.ofNat 64 va) with
  | .ok _ l _ pa => if leafPbmt l = 2 then none else some pa
  | .tier3 _ l lvl => some (leafPa (leafPages lvl l) l (BitVec.ofNat 64 va))
  | _ => none

/-- An extent cut at page boundaries: address and length of each piece. -/
def pageCuts (va n : Nat) : List (Nat × Nat) :=
  ((List.range (n / 4096 + 2)).map fun i =>
    let a := max va ((va / 4096 + i) * 4096)
    (a, min (va + n) ((va / 4096 + i + 1) * 4096) - a)).filter fun x => x.2 != 0

/-- Was any byte of an extent written since a time? -/
def State.touchedVa (s : State) (ctx va n since : Nat) : Bool :=
  !s.hub.wrote.isEmpty && (pageCuts va n).any fun x => match s.placeOf ctx x.1 with
    | some pa => s.hub.wrote.any fun w => w.place.isNone && decide (since ≤ w.time) && w.addrs.any fun a => decide (pa ≤ a ∧ a < pa + x.2)
    | none => false

/-- Was any byte of some segments of a space written since a time? A grove and a crew say which window and which part of the vault. -/
def State.segsTouched (s : State) (ctx grove : Nat) (k : CKey) (sp : Space) (since : Nat) (l : List (Nat × Nat)) : Bool :=
  !s.hub.wrote.isEmpty && l.any fun x => match sp with
    | .mem => s.touchedVa ctx x.1 x.2 since
    | .ls => s.hub.wrote.any fun w => w.place == some (.ls, k) && decide (since ≤ w.time) && w.addrs.any fun a => decide (x.1 ≤ a ∧ a < x.1 + x.2)
    | .vlt => s.hub.wrote.any fun w => decide (since ≤ w.time) && w.addrs.any fun a => decide (x.1 ≤ a ∧ a < x.1 + x.2)
        && w.place == (s.vaultOwner k.grid grove (a / 65536)).map fun c => (Space.vlt, c.key)

/-- The frame that a virtual address stands for, whatever its page allows; none in I/O space or flash. -/
def State.frameOf (s : State) (ctx va : Nat) : Option Nat :=
  (s.ctx? ctx).bind fun c => match s.found noLook c true .load (BitVec.ofNat 64 va) with
    | .ok x => if leafPbmt x.eff = 2 ∨ inFlash x.pa then none else some x.pa
    | .error _ => none

/-- Does a byte lie in the buffer of an armed receive (R63)? -/
def State.armedAt (s : State) (pa : Nat) : Bool :=
  s.net.narms.any fun a => (pageCuts a.buf a.len).any fun x => (s.frameOf a.ctx x.1).any fun p => decide (p ≤ pa ∧ pa < p + x.2)

/-- What a write leaves: bytes in the buffer of an armed receive are unspecified until it completes (R63). (log 125, DEDUCED) -/
def State.veiled (s : State) (parts : List (Nat × Byte)) : List (Nat × Byte) :=
  if s.net.narms.isEmpty then parts else parts.map fun p => if s.armedAt p.1 then (p.1, Config.freeByte s.free p.1) else p

/-- The bytes of a write that become visible, without what they set off. -/
def State.landed (s : State) (writer : Option BKey) (block : Bool) (parts : List (Nat × Byte)) (bad : Bool) : State :=
  let addrs := parts.map fun p => p.1
  let s := (s.putParts (s.veiled parts)).noteWrite none addrs writer
  let s := s.poisonWrite addrs bad
  let s := s.watchHit writer (linesOf addrs)
  match addrs with
  | a :: _ => match s.windowOf a with
    | some n => s.submit n a (block && wholeBlock addrs)
    | none => s
  | [] => s

/-- The bytes of two words from an address up. -/
def wordParts (pa : Nat) (w0 w1 : Word) : List (Nat × Byte) :=
  (List.range 16).map fun i => (pa + i, BitVec.ofNat 8 ((if i < 8 then w0.toNat else w1.toNat) / 256 ^ (i % 8)))

/-- Is the state of a barrier object unspecified (R419)? -/
def State.objSpoilt (s : State) (pa : Nat) : Bool := s.hub.objs.contains (pa, true)

/-- Word i of a barrier object as its operations read it (R419). (log 115, DEDUCED) -/
def State.objWord (s : State) (pa i : Nat) : Word := if s.objSpoilt pa then Config.freeWord s.free i else s.rd64 (pa + 8 * i)

/-- An ordinary write leaves the state of the barrier objects that it meets unspecified (R419). -/
def State.spoil (s : State) (addrs : List Nat) : State :=
  if s.hub.objs.isEmpty then s
  else
    let hub := { s.hub with objs := s.hub.objs.map fun o => (o.1, o.2 || addrs.any fun a => decide (o.1 ≤ a ∧ a < o.1 + 32)) }
    { s with hub := hub }

/-- A barrier object is as an init wrote it (R420). -/
def State.newObj (s : State) (pa : Nat) : State :=
  let hub := { s.hub with objs := (pa, false) :: s.hub.objs.filter fun o => o.1 != pa }
  { s with hub := hub }

/-- An arrival takes effect at the object's home slice, as a write of its words. -/
def State.aboArriveAt (s : State) (writer : Option BKey) (pa n st fl : Nat) : State :=
  let w := aboArrived (s.objWord pa 0) (s.objWord pa 1) n st fl
  let s := if s.objSpoilt pa then { s with free := s.free + 1 } else s
  (s.landed writer false (wordParts pa w.1 w.2) false).aboWake pa w.1 w.2

/-- Run fired actions one after another (R160, R426). Each goes through the hub's translation, that of grove 0 (log 18, DEDUCED);
a target in a tier-3 page, a walk that finds no room, or a launch that finds the grid table full (R137), holds the action and those after it. -/
def State.fire : Nat → List Armed → State → State
  | 0, _, s => s
  | _, [], s => s
  | n + 1, a :: rest, s =>
    let hold := fun (t : State) => ({ t with armed := ((a :: rest).map fun x => { x with waits := true }) ++ t.armed }, [], true)
    let access := fun (va : Nat) (k : State → Nat → State × List Nat) =>
      match s.engineXlate 0 a.ctx .atomic (BitVec.ofNat 64 va) with
      | (t, none) => hold t
      | (t, some (.ok _ l _ pa)) =>
        if leafPbmt l = 2 then (s.postActionFault a 0x14 va, [], false)
        else if t.rowBusy pa then hold t
        else
          let r := k t pa
          (r.1, r.2, false)
      | (t, some (.tier3 pte l lvl)) => hold (t.wantMig a.tenant a.ctx (BitVec.ofNat 64 va) pte l lvl a.tag none)
      | (t, some (.defer _)) => (t.postActionFault a 0x12 va, [], false)
      | (t, some (.fault k)) => (t.postActionFault a k va, [], false)
    let r := match a.fx with
      | .launch rec => if s.tableFull then hold s else (s.launchArmed a.tenant rec none, [], false)
      | .arrive va => access va fun t pa => (t.aboArriveAt none pa 1 0 0, [pa, pa + 8])
      | .store va v => access va fun t pa =>
          ((t.spoil ((List.range 8).map fun i => pa + i)).landed none false ((List.range 8).map fun i => (pa + i, BitVec.ofNat 8 (v.toNat / 256 ^ i))) false, [pa])
    if r.2.2 then r.1
    else
      let t := r.1.takeFired r.2.1
      State.fire n (rest ++ t.2) t.1

/-- A write becomes visible at its home slice (R206), and the armed actions of the counters it changed fire (R159). -/
def State.shown (s : State) (writer : Option BKey) (block : Bool) (parts : List (Nat × Byte)) (bad : Bool) : State :=
  let s := s.landed writer block parts bad
  let t := s.takeFired ((parts.map fun p => p.1 / 8 * 8).eraseDups)
  State.fire (t.1.armed.length + t.2.length + 1) t.2 t.1

/-- An ordinary write becomes visible: a store, a copy, a write of a unit (R206, R419). -/
def State.visible (s : State) (writer : Option BKey) (block : Bool) (parts : List (Nat × Byte)) (bad : Bool) : State :=
  (s.spoil (parts.map fun p => p.1)).shown writer block parts bad

/-- Actions whose counters another write than these has brought to their thresholds fire (R159): a record posted, a leaf written. -/
def State.settleArmed (s : State) : State :=
  let due := ((s.armed.filter fun a => !a.waits && decide (a.thr ≤ (s.rd64 a.pa).toNat)).map fun a => a.pa).eraseDups
  let t := s.takeFired due
  State.fire (t.1.armed.length + t.2.length + 1) t.2 t.1

/-- An event counter is written (R425). -/
def State.counterAdd (s : State) (writer : Option BKey) (pa : Nat) (v : Word) : State :=
  let n := (s.rd64 pa).toNat + v.toNat
  s.shown writer false ((List.range 8).map fun i => (pa + i, BitVec.ofNat 8 (n / 256 ^ i))) false

end Sys2Proof.Machine
end

