-- ==== Sys2Proof/Machine/Memory.lean ====
section
/-! DEFINITION. Class M: loads, stores, atomics, fences, prefetch and L1 maintenance at issue (R369 to R384); what they set off is in the pipeline's events. -/

namespace Sys2Proof.Machine

/-! ### When a release may issue (R222, R373) -/

/-- Is an outstanding load still to be performed? A deferred one counts as performed (R222); a token is no access. -/
def Pend.unperformed (p : Pend) : Bool :=
  match p.kind with
  | .token => false
  | .load _ => p.lanes.any fun l => !l.defer
  | .atom _ => decide (p.got.length < p.want)

/-- Does a write of the bundle fly? -/
def State.flies (s : State) (k : BKey) : Bool := s.inflight.any fun f => f.owner == .bundle k

/-- Does a write that has left a core fly? A bundle of the core may have read it (R224). -/
def State.coreFlies (s : State) (core : Nat) : Bool := s.inflight.any fun f => f.core == some core

/-- Is an entry of a store queue a write to memory, the window or the vault? -/
def SqOp.writes : SqOp → Bool
  | .store _ _ | .atom _ _ _ _ | .aboInit _ _ | .aboArrive _ _ _ | .evAdd _ _ _ | .evArm _ _ _ _ _ _ _ | .hist _ _ _ | .ringInit _ _ | .ringPost _ _ _ | .ringFree _ _ => true
  | _ => false

/-- Does an entry write memory at a place bytes that it reads first (R225)? -/
def SqOp.rmwAt (o : SqOp) (sp : Space) (a : Nat) : Bool :=
  match o with
  | .atom _ _ _ lanes => lanes.any fun l => l.acc.space == sp && lineOf l.acc.addr == lineOf a
  | .aboArrive _ x _ => sp == .mem && lineOf x.addr == lineOf a
  | .evAdd _ x _ => sp == .mem && lineOf x.addr == lineOf a
  | .hist x _ _ => sp == .mem && lineOf x.addr == lineOf a
  | _ => false

/-- Have the writes of a bundle, and those of its core that it may have observed, left the core and become visible where they go (R222, R227)? (log 118, DEDUCED) -/
def State.shownAll (s : State) (b : Bundle) : Bool := !(b.sq.any fun e => e.op.writes) && !s.flies b.key && !s.coreFlies (s.coreOfB b.key)

/-- Is every earlier access of a bundle performed in the sense of a scope (R222, R409)? -/
def State.performed (s : State) (b : Bundle) (sc : Scope) : Bool :=
  !(b.pend.any Pend.unperformed) && b.drains == 0 &&
  (match sc with
    | .crew | .core => true
    | .grove | .device => s.shownAll b
    | .system => s.shownAll b && b.ackcnt == 0)

/-- An acquire that is still to be performed holds back every later access (R221, R222). -/
def Bundle.acquiring (b : Bundle) : Bool := b.pend.any fun p => p.acq.isSome && p.unperformed

/-- Does an acquire at a scope drop the core's L1 (R222)? -/
def dropsL1 : Scope → Bool
  | .crew => false
  | _ => true

/-- An acquire takes effect at the moment its access is performed, a deferred load included (R222). -/
def State.acqDone (s : State) (k : BKey) (pid : Nat) : State :=
  match (s.bundle? k).bind fun b => b.pend.find? fun p => p.id == pid && p.acq.isSome && !p.unperformed with
  | none => s
  | some p =>
    let t := if p.acq.any dropsL1 then s.l1DropCore (s.coreOfB k) else s
    t.onBundle k fun b => { b with pend := b.pend.map fun q => if q.id = pid then { q with acq := none } else q }

/-! ### Lanes and their checks (R370, R376) -/

/-- The index of a lane: a vector index sign-extended from 32 bits, or the operand read whole (R309). -/
def Cur.index (c : Cur) (x : Src) (l : Nat) : Word :=
  match x.sel with
  | .v n => (c.b.v n.val l).signExtend 64
  | q => c.raw q

/-- Shapes of access: a gather or scatter, a bundle block, a scalar. -/
inductive Shape where
  | lanes | block | scalar
  deriving DecidableEq, Repr

/-- The address of a lane (R376). -/
def Cur.addr (c : Cur) (x : MArgs) (sh : Shape) (l : Nat) : Word :=
  match sh with
  | .block => c.raw x.base.sel + c.index x.index l + BitVec.ofNat 64 (x.ty.bytes * l)
  | _ => c.raw x.base.sel + c.index x.index l

/-- What one lane's checks answer. -/
inductive LaneRes where
  | ok (a : LaneAcc)
  | fault (cause : Nat)
  | miss
  deriving DecidableEq, Repr

/-- The checks of a lane's address, in the order of R370. -/
def State.laneCheck (s : State) (c : Cur) (acc : Acc) (sp : Space) (e : Nat) (l : Nat) (va : Word) : LaneRes :=
  let a := va.toNat
  if a % e ≠ 0 then .fault 0x09
  else match sp with
    | .ls => if a + e ≤ 4096 * c.g.scratch then .ok ⟨l, .ls, a, a, 0, 0, false, 1⟩ else .fault 0x14
    | .vlt =>
      match s.vaultBad c.g.id (groveOf c.c.core) 2 a e with
      | some _ => .fault 0x14
      | none => .ok ⟨l, .vlt, a, a, 0, 0, false, 1⟩
    | .mem =>
      match s.xlate c acc va with
      | .fault k => .fault k
      | .miss => .miss
      | .defer pa => .ok ⟨l, .mem, pa, a, 0, 2, true, 1⟩
      | .ok pa pbmt tier pages => if acc = .atomic ∧ pbmt = 2 then .fault 0x14 else .ok ⟨l, .mem, pa, a, pbmt, tier, false, pages⟩

/-- The lanes that a memory instruction runs: its active lanes, or lane 0 for a scalar form with some active lane. -/
def Cur.memLanes (c : Cur) (x : MArgs) (sh : Shape) : List Nat :=
  let act := maskLanes c.g.width (c.active x.pred)
  match sh with
  | .scalar => if act.isEmpty then [] else [0]
  | _ => act

/-- Every lane with what its checks answer. -/
def State.laneChecks (s : State) (c : Cur) (x : MArgs) (sh : Shape) (acc : Acc) : List (Nat × LaneRes) :=
  (c.memLanes x sh).map fun l => (l, s.laneCheck c acc x.space x.ty.bytes l (c.addr x sh l))

/-- The accesses that passed. -/
def passedLanes (r : List (Nat × LaneRes)) : List LaneAcc :=
  r.filterMap fun x => match x.2 with | .ok a => some a | _ => none

/-- The lowest cause among the lanes that fault (R195). -/
def lowestCause (r : List (Nat × LaneRes)) : Option Nat :=
  r.foldl (fun b x => match x.2, b with
    | .fault k, some j => some (min k j)
    | .fault k, none => some k
    | _, b => b) none

/-- The mask of the faulting lanes; a scalar access faults in every active lane. -/
def faultMask (c : Cur) (x : MArgs) (sh : Shape) (r : List (Nat × LaneRes)) : Word :=
  match sh with
  | .scalar => c.active x.pred
  | _ => BitVec.ofNat 64 ((r.filterMap fun y => match y.2 with | .fault _ => some (2 ^ y.1) | _ => none).sum)

/-- A lane that waits on a walk (R74). -/
def missLane (r : List (Nat × LaneRes)) : Option Nat :=
  (r.find? fun x => x.2 == .miss).map fun x => x.1

/-- Lines of virtual memory that some accesses touch (R32). -/
def accLines (l : List LaneAcc) : List Nat := ((l.filter fun a => a.space == .mem).map fun a => lineOf a.addr).eraseDups

/-- Note what a loop's loads touch (R156): lines of memory, words of the other spaces. -/
def Spin.touch (sp : Spin) (l : List LaneAcc) : Spin :=
  { sp with watch := (sp.watch ++ l.map fun a => (a.space, if a.space = .mem then lineOf a.addr else a.addr / 4 * 4)).eraseDups }

/-- Does an order release, or acquire? -/
def orderRel : Order → Bool
  | .release | .acqRel => true
  | _ => false
def orderAcq : Order → Bool
  | .acquire | .acqRel => true
  | _ => false

/-- The scope of an acquire, if the order has one. -/
def acqScope (x : MArgs) : Option Scope := if orderAcq x.order then some x.scope else none

/-! ### Issue of a memory instruction -/

/-- A memory instruction's own checks and waits (R370 to R377): each lane's checks; a miss waits for its walk; a release waits (R222), a write waits for the
acknowledgement counter (R32), everything waits for an outstanding acquire; lanes that fault trap after the others have had their effect. -/
def State.memOwn (s : State) (x : MArgs) (sh : Shape) (acc : Acc) (need : Cur → Need) (eff : Cur → List LaneAcc → State → State) (c : Cur) : Own :=
  let r := s.laneChecks c x sh acc
  if r.isEmpty then .go
  else match missLane r with
    | some l => .wait fun t => t.addMiss c acc (c.addr x sh l)
    | none =>
      let ok := passedLanes r
      if c.b.acquiring then .block
      else if orderRel x.order && !s.performed c.b x.scope then .block
      else if acc != .load && decide (512 < c.b.ackcnt + (accLines ok).length) then .block
      else match lowestCause r with
        | none => .go
        | some k => .hold fun t =>
            let t := t.issued c { (need c) with srcs := [] }
            (eff c ok t).takeTrap c k (faultMask c x sh r) (c.addr x sh)

/-- Issue a memory instruction whose effect is given on the lanes that passed. -/
def State.memIssue (s : State) (x : MArgs) (sh : Shape) (acc : Acc) (need : Cur → Need) (eff : Cur → List LaneAcc → State → State) : Res :=
  s.issue need (s.memOwn x sh acc need eff) Path.advance fun c t =>
    (eff c (passedLanes (s.laneChecks c x sh acc)) t).advance c

/-- The sources of a memory instruction, with pairs for 64-bit data (R349, R372). -/
def memSrcs (x : MArgs) (data : Bool) : List (Src × Bool) :=
  (if data then [(x.data, x.ty.is64)] else []) ++ [(x.base, false), (x.index, false)]

/-- Are all lanes of the bundle active (R371)? -/
def Cur.allActive (c : Cur) (pred : Option (Fin 16)) : Bool := c.active pred &&& lanesOf c.g.width == lanesOf c.g.width

/-- Empty the registers of a destination for a result on its way (R187). -/
def Arch.awaitAll (a : Arch) (rs : List Sel) (id : Nat) : Arch := rs.foldl (fun a r => a.await r id) a

/-- Give a destination to a result on its way, which will not pass the window (R187): the bundle's new outstanding entry, the registers empty, the number used up. -/
def State.addPend (s : State) (c : Cur) (kind : PendKind) (ty : Ty) (dst : Sel) (pair : Bool) (lanes : List LaneAcc) (want : Nat) (acq : Option Scope) : State :=
  let id := s.free
  let p : Pend := ⟨id, kind, ty, dst, lanes, want, [], acq, s.clock, none, c.slot⟩
  let s := { s with free := id + 1 }
  s.onBundle c.b.key fun b =>
    { b with pend := b.pend ++ [p], arch := b.arch.awaitAll (regsOf dst pair) id, results := match b.results with | e :: r => (e.1, []) :: r | [] => [] }

/-- Accesses that a grove's fault unit holds (R94); those of a saved crew lie in its context (R96). -/
def State.deferrals (s : State) (grove : Nat) : List Deferral :=
  s.flash.deferred.filter fun d => d.grove == grove && (s.crew? d.owner.ck).all fun c => c.st != .saved

/-- The fault unit records a deferred access, if it has room (R94); GRV_DEFER_STAT counts it (R452); the clause of its path has stopped (R168). -/
def State.deferOne (s : State) (d : Deferral) : State :=
  if 4096 ≤ (s.deferrals d.grove).length then s
  else
    let flash := { s.flash with deferred := s.flash.deferred ++ [d] }
    let o := 0x10000700 + 0x100000 * d.grove
    (({ s with flash := flash }).setReg o (satAdd (s.reg o) 63 48 1)).onBundle d.owner fun b =>
      match b.pend.find? fun (p : Pend) => p.id == d.pid with
      | some p => b.setHold p.slot none
      | none => b

/-- The lanes of a load that its walks deferred (R93, R94). One whose leaf has lost its reloc bit since is no longer deferred: it goes to the address that the leaf gives. -/
def State.deferLanes (s : State) (c : Cur) (pid : Nat) (ok : List LaneAcc) : State :=
  ok.foldl (fun t a =>
    if a.defer then
      let out := fun (u : Nat) => t.deferOne ⟨c.b.key, pid, a.lane, groveOf c.c.core, t.clock, a.va, none, u, none⟩
      match t.walk c.g.ctx (c.b.arch.tdepth != 0) .load (BitVec.ofNat 64 a.va) with
      | .defer pa => out (unitOf pa)
      | .ok _ l lvl pa => t.onBundle c.b.key fun b => { b with pend := b.pend.map fun p =>
          if p.id = pid then { p with lanes := p.lanes.map fun x => if x.lane = a.lane then { x with defer := false, addr := pa, pbmt := leafPbmt l, pages := leafPages lvl l } else x } else p }
      | _ => out (unitOf a.addr)
    else t) s

/-! ### Loads (R375 to R377) -/

def needLoad (x : MArgs) (sh : Shape) (c : Cur) : Need :=
  { cls := .m, lane := true, pred := x.pred, srcs := memSrcs x false,
    dsts := [(x.dst, x.ty.is64 && sh != .scalar, sh == .scalar || c.allActive x.pred || c.active x.pred == 0)] }

/-- The effect of a load at issue: its destination goes empty (R187). -/
def loadEff (x : MArgs) (sh : Shape) (c : Cur) (ok : List LaneAcc) (t : State) : State :=
  if ok.isEmpty then t
  else
    let t := t.onBundle c.b.key fun b => { b with spin := b.spin.touch ok }
    let pid := t.free
    let t := t.addPend c (.load (x.mx.val == 1)) x.ty x.dst (x.ty.is64 && sh != .scalar) ok ok.length (acqScope x)
    (t.deferLanes c pid ok).acqDone c.b.key pid

def runLoad (x : MArgs) (sh : Shape) (s : State) : Res := s.memIssue x sh .load (needLoad x sh) (loadEff x sh)

def execLd (x : MArgs) : State → Res := runLoad x .lanes
def execLdb (x : MArgs) : State → Res := runLoad x .block
def execLds (x : MArgs) : State → Res := runLoad x .scalar

/-! ### Stores (R375 to R377) -/

def needStore (x : MArgs) (_ : Cur) : Need := { cls := .m, lane := true, pred := x.pred, srcs := memSrcs x true }

/-- Append an entry to the bundle's store queue; what it counts goes onto the acknowledgement counter (R32, R223). -/
def State.pushSq (s : State) (c : Cur) (op : SqOp) (lines : Nat) : State :=
  s.onBundle c.b.key fun b => { b with sq := b.sq ++ [⟨s.clock, op, lines⟩], ackcnt := b.ackcnt + lines }

/-- Gather D for the pages that some accesses write (R77). -/
def State.gatherAll (s : State) (c : Cur) (l : List LaneAcc) : State :=
  l.foldl (fun t a => if a.space = .mem then t.gatherD c.c.core c.g.ctx (BitVec.ofNat 64 a.va) else t) s

/-- The effect of a store at issue: it enters the store queue (R223). -/
def storeEff (x : MArgs) (sh : Shape) (c : Cur) (ok : List LaneAcc) (t : State) : State :=
  if ok.isEmpty then t
  else
    let parts := ok.map fun a => (a, leBytes x.ty.bytes (c.lane x.ty x.data.sel a.lane))
    (t.gatherAll c ok).pushSq c (.store (sh == .block) parts) (accLines ok).length

def runStore (x : MArgs) (sh : Shape) (s : State) : Res := s.memIssue x sh .store (needStore x) (storeEff x sh)

def execSt (x : MArgs) : State → Res := runStore x .lanes
def execStb (x : MArgs) : State → Res := runStore x .block
def execSts (x : MArgs) : State → Res := runStore x .scalar

/-! ### Atomics and reductions (R378 to R381) -/

/-- cas reads its comparand from its destination, which must be full (R380). -/
def needAtom (x : MArgs) (op : AtomOp) (c : Cur) : Need :=
  { cls := .m, lane := true, pred := x.pred, srcs := memSrcs x true,
    dsts := [(x.dst, x.ty.is64, op != .cas && (c.allActive x.pred || c.active x.pred == 0))] }

/-- The operands of each lane of an atomic, read at issue. -/
def atomLanes (x : MArgs) (op : AtomOp) (c : Cur) (ok : List LaneAcc) : List AtomLane :=
  ok.map fun a => ⟨a, BitVec.ofNat 64 (c.lane x.ty x.data.sel a.lane), if op = .cas then BitVec.ofNat 64 (c.lane x.ty x.dst a.lane) else 0⟩

/-- The effect of an atomic with return at issue: it waits in the store queue, its destination goes empty (R187, R276). -/
def atomEff (x : MArgs) (op : AtomOp) (c : Cur) (ok : List LaneAcc) (t : State) : State :=
  if ok.isEmpty then t
  else
    let t := (t.gatherAll c ok).pushSq c (.atom (some t.free) op x.ty (atomLanes x op c ok)) (accLines ok).length
    t.addPend c (.atom x.ty) x.ty x.dst x.ty.is64 [] ok.length (acqScope x)

def runAtom (x : MArgs) (op : AtomOp) (s : State) : Res := s.memIssue x .lanes .atomic (needAtom x op) (atomEff x op)

def execAtomAdd (x : MArgs) : State → Res := runAtom x .add
def execAtomMin (x : MArgs) : State → Res := runAtom x .min
def execAtomMax (x : MArgs) : State → Res := runAtom x .max
def execAtomAnd (x : MArgs) : State → Res := runAtom x .and
def execAtomOr (x : MArgs) : State → Res := runAtom x .or
def execAtomXor (x : MArgs) : State → Res := runAtom x .xor
def execAtomXchg (x : MArgs) : State → Res := runAtom x .xchg
def execCas (x : MArgs) : State → Res := runAtom x .cas

/-- The effect of a reduction at issue: it waits in the store queue and returns nothing. -/
def redEff (x : MArgs) (op : AtomOp) (c : Cur) (ok : List LaneAcc) (t : State) : State :=
  if ok.isEmpty then t
  else (t.gatherAll c ok).pushSq c (.atom none op x.ty (atomLanes x op c ok)) (accLines ok).length

def runRed (x : MArgs) (op : AtomOp) (s : State) : Res := s.memIssue x .lanes .atomic (needStore x) (redEff x op)

def execRedAdd (x : MArgs) : State → Res := runRed x .add
def execRedMin (x : MArgs) : State → Res := runRed x .min
def execRedMax (x : MArgs) : State → Res := runRed x .max
def execRedAnd (x : MArgs) : State → Res := runRed x .and
def execRedOr (x : MArgs) : State → Res := runRed x .or
def execRedXor (x : MArgs) : State → Res := runRed x .xor

/-! ### Fences, prefetch, L1 maintenance (R382 to R384) -/

/-- R382: waits until every earlier access is performed at its scope, then acquires. -/
def execFence (x : MArgs) (s : State) : Res :=
  s.issue (fun _ => { cls := .m, sync := true, pred := x.pred })
    (fun c => if c.b.acquiring || !s.performed c.b x.scope then .block else .go) Path.advance
    fun c t => (if dropsL1 x.scope then t.l1DropCore c.c.core else t).advance c

/-- The address a prefetch or cinv lane names, by the translation its core or grove holds. -/
def State.heldPa (s : State) (c : Cur) (va : Word) : Option (Nat × Nat) :=
  (s.tlbHeld c.c.core c.g.ctx va).map fun e => (leafPa e.pages e.leaf va, leafPbmt e.leaf)

/-- The line that a prefetch lane brings into the L1, if it is not dropped: one of flash only where it is held at its home slice and lies below the sealed end (R279, R383). -/
def State.prefetchLine (s : State) (c : Cur) (x : MArgs) (l : Nat) : Option Nat :=
  match s.heldPa c (c.addr x .lanes l) with
  | some (pa, pbmt) =>
    if x.mx.val = 0 ∧ s.hasCache c.c.core ∧ pbmt = 0 ∧ (inHbm pa ∨ inLp pa ∨ s.flashCached c.g.tenant pa) ∧ !s.poison.contains (lineOf pa) then some pa else none
  | none => none

def execPf (x : MArgs) (s : State) : Res :=
  s.issue (fun _ => { cls := .m, lane := true, pred := x.pred, srcs := memSrcs x false }) ownNone Path.advance
    fun c t =>
      let pas := (maskLanes c.g.width (c.active x.pred)).filterMap (t.prefetchLine c x)
      (pas.foldl (fun t pa => t.l1Fill c.c.core c.g.tenant pa) t).advance c

def execCinv (x : MArgs) (s : State) : Res :=
  s.issue (fun _ => { cls := .m, lane := true, pred := x.pred, srcs := memSrcs x false }) ownNone Path.advance
    fun c t =>
      let held := (maskLanes c.g.width (c.active x.pred)).map fun l => t.heldPa c (c.addr x .lanes l)
      let t := if held.any Option.isNone then t.l1DropCore c.c.core
        else t.l1Drop fun l => l.core == c.c.core && held.any fun h => match h with | some (pa, _) => lineOf pa == l.line | none => false
      t.advance c

def execCinvall (x : MArgs) (s : State) : Res :=
  s.issue (fun _ => { cls := .m, lane := true, pred := x.pred }) ownNone Path.advance
    fun c t => (t.l1DropCore c.c.core).advance c

end Sys2Proof.Machine
end

