-- ==== Sys2Proof/Machine/Copy.lean ====
section
/-! DEFINITION. Class M: asynchronous copies and stream instructions at issue; tokens; tensor entries and their segments (R212, R213, R385 to R391, R397, R435). -/

namespace Sys2Proof.Machine

/-! ### Results that arrive (R187, R189) -/

/-- A result arrives for the registers that still wait for it: each gets its value and goes full. -/
def Arch.arrive (a : Arch) (id : Nat) (put : Arch → Sel → Arch) : Arch :=
  (a.awaits.filter fun x => x.2 == id).foldl (fun a x => (put a x.1).fill x.1) a

/-- A result arrives in a bundle, and in the checkpoints that a rollback may restore (R277). -/
def Bundle.arrive (b : Bundle) (id : Nat) (put : Arch → Sel → Arch) : Bundle :=
  { b with
    pend := b.pend.filter fun p => p.id != id
    arch := b.arch.arrive id put
    window := b.window.map fun x => (x.1, x.2.arrive id put)
    spin := { b.spin with changed := b.spin.changed || (b.arch.arrive id put).regs != b.arch.regs }
    stopped := [] }

/-- Put a whole value into a scalar register. -/
def putScalar (v : Word) (a : Arch) (r : Sel) : Arch :=
  match r with
  | .s n => a.put (sKey n.val) v
  | .m n => a.put (mKey n.val) v
  | _ => a

/-- Write a token (R187): it is discarded where its register waits no longer. -/
def State.token (s : State) (k : BKey) (pid : Nat) (v : Word) : State := s.onBundle k fun b => b.arrive pid (putScalar v)

/-! ### Tensors (R387, R397, R435) -/

/-- An entry that was never set reads as zeros (R435). -/
def Tensor.zero : Tensor := ⟨0, 0, 0, 0, 0, 0, 0, 0, 0, 0, []⟩

/-- A tenant's tensor format table entry. -/
def State.tensor (s : State) (tenant n : Nat) : Tensor := (mapGet s.tft (256 * tenant + n % 256)).getD Tensor.zero

/-- The space of an entry's location. -/
def Tensor.space (t : Tensor) : Space := match t.location with | 0 => .mem | 1 => .ls | _ => .vlt

/-- Container bits of a tensor. -/
def Tensor.c (t : Tensor) : Nat := contBits t.format

/-- The address of the byte that holds bit 0 of element (i, j), and that bit (R435). -/
def Tensor.elemAt (t : Tensor) (i j : Nat) : Nat × Nat := ((t.base.toNat + i * t.pitch + t.c * j / 8) % 2 ^ 64, t.c * j % 8)

/-- Rows from r0 and columns from c0 that exist among so many. -/
def existing (ext o n : Nat) : Nat := min n (ext - o)

/-- The byte segments, first address and length, of rows [r0, r0 + rn) and columns [c0, c0 + cn). -/
def Tensor.segs (t : Tensor) (r0 rn c0 cn : Nat) : List (Nat × Nat) :=
  if cn = 0 then []
  else (List.range rn).map fun i =>
    let a := t.elemAt (r0 + i) c0
    (a.1, (a.2 + t.c * cn + 7) / 8)

/-- The first address of an extent of the window or the vault view that may not be accessed (R203, R209, R211). -/
def State.spaceBad (s : State) (c : Cur) (sp : Space) (a n : Nat) : Option Nat :=
  match sp with
  | .mem => none
  | .ls => winBad (4096 * c.g.scratch) a n
  | .vlt => s.vaultBad c.g.id (groveOf c.c.core) (n / 65536 + 2) a n

/-- The first offending address of some segments. -/
def State.segsBad (s : State) (c : Cur) (sp : Space) (l : List (Nat × Nat)) : Option Nat := l.findSome? fun x => s.spaceBad c sp x.1 x.2

/-- A trap of cause access with one address in every lane. -/
def accessTrap (c : Cur) (pred : Option (Fin 16)) (a : Nat) : Own := .trap 0x14 (c.active pred) fun _ => BitVec.ofNat 64 a

/-! ### Copies (R386 to R389) -/

/-- Copies act once for the path (log 15, DEDUCED); roles G and C issue them (R171). -/
def needCopy (x : RArgs) (_ : Cur) : Need :=
  { cls := .m, sync := true, once := true, pred := x.pred, srcs := [(x.a, false), (x.b, false), (x.c, false)], dsts := [(x.dst, false, true)] }

def spaceNo (n : Nat) : Space := match n with | 0 => .mem | 1 => .ls | _ => .vlt

/-- Every earlier write of the bundle is performed at device scope (R234), those of its stage rings among them. -/
def State.writesDone (s : State) (b : Bundle) : Bool :=
  !(b.sq.any fun e => e.op.writes) && !s.flies b.key && b.drains == 0

/-- The waits of a copy: an outstanding acquire, earlier writes, a migration of its crew (R216, R389), a full queue. -/
def State.copyWaits (s : State) (c : Cur) (q : Nat) : Bool :=
  c.b.acquiring || !s.writesDone c.b || c.c.copyHold || decide (16 ≤ ((c.c.copies[q]?).getD []).length)

/-- The extents of a copy command in spaces 1 and 2: local store first, the destination first (R386). -/
def State.extentsBad (s : State) (c : Cur) (l : List (Space × List (Nat × Nat))) : Option Nat :=
  let of := fun (sp : Space) => l.findSome? fun x => if x.1 = sp then s.segsBad c sp x.2 else none
  match of .ls with
  | some a => some a
  | none => of .vlt

/-- Append a command to a queue of the crew. -/
def State.pushCopy (s : State) (c : Cur) (q : Nat) (m : CopyCmd) : State :=
  s.onCrew c.c.key fun k => { k with copies := k.copies.modify q fun l => l ++ [m] }

/-- Queue a copy: its token goes empty (R187). -/
def copyEff (x : RArgs) (q : Nat) (kind : CopyKind) (len : Nat) (c : Cur) (t : State) : State :=
  let m : CopyCmd := ⟨c.b.key, t.free, t.clock, kind, len, 0, false, none, []⟩
  let t := t.pushCopy c q m
  (t.addPend c .token .n64 x.dst false [] 1 none).advance c

/-- What cp moves. -/
def cpKind (x : RArgs) (c : Cur) : CopyKind :=
  .bytes (spaceNo (x.md.val / 4 % 4)) (spaceNo (x.md.val / 16 % 4)) (c.raw x.a.sel).toNat (c.raw x.b.sel).toNat

def ownCp (x : RArgs) (s : State) (c : Cur) : Own :=
  let len := (c.raw x.c.sel).toNat
  if len = 0 ∨ 16777216 < len then accessTrap c x.pred len
  else match s.extentsBad c [(spaceNo (x.md.val / 4 % 4), [((c.raw x.a.sel).toNat, len)]), (spaceNo (x.md.val / 16 % 4), [((c.raw x.b.sel).toNat, len)])] with
    | some a => accessTrap c x.pred a
    | none => if s.copyWaits c (x.md.val % 4) then .block else .go

def execCp (x : RArgs) (s : State) : Res :=
  s.issue (needCopy x) (ownCp x s) Path.advance fun c t => copyEff x (x.md.val % 4) (cpKind x c) (c.raw x.c.sel).toNat c t

/-- The tensor, origin and address of cpt (R387). -/
def Cur.cptTensor (c : Cur) (s : State) (x : RArgs) : Tensor := s.tensor c.g.tenant (fld (c.raw x.a.sel) 7 0)
def Cur.row0 (c : Cur) (x : Src) : Nat := fld (c.raw x.sel) 63 32
def Cur.col0 (c : Cur) (x : Src) : Nat := fld (c.raw x.sel) 31 0

/-- The segments of a tile that exist in a tensor. -/
def Tensor.tileSegs (t : Tensor) (r0 c0 : Nat) : List (Nat × Nat) := t.segs r0 (existing t.rows r0 64) c0 (existing t.cols c0 64)

/-- The bytes a cpt writes: the whole image, or the tensor's part. -/
def Tensor.cptLen (t : Tensor) (r0 c0 : Nat) (back : Bool) : Nat :=
  if back then ((t.tileSegs r0 c0).map fun x => x.2).sum else 512 * t.c

def ownCpt (x : RArgs) (s : State) (c : Cur) : Own :=
  let t := c.cptTensor s x
  let r0 := c.row0 x.b
  let c0 := c.col0 x.b
  let asp := spaceNo (x.md.val / 4 % 4)
  let img := (asp, [((c.raw x.c.sel).toNat, 512 * t.c)])
  let ten := (t.space, t.tileSegs r0 c0)
  if c0 * t.c % 8 ≠ 0 then .trap 0x09 (c.active x.pred) fun _ => BitVec.ofNat 64 (t.elemAt r0 c0).1
  else match s.extentsBad c (if x.md.val / 16 % 2 = 1 then [ten, img] else [img, ten]) with
    | some a => accessTrap c x.pred a
    | none => if s.copyWaits c (x.md.val % 4) then .block else .go

def execCpt (x : RArgs) (s : State) : Res :=
  s.issue (needCopy x) (ownCpt x s) Path.advance fun c t =>
    let ten := c.cptTensor s x
    let back := x.md.val / 16 % 2 == 1
    let kind := .tile ten (c.row0 x.b) (c.col0 x.b) (spaceNo (x.md.val / 4 % 4)) (c.raw x.c.sel).toNat back
    copyEff x (x.md.val % 4) kind (ten.cptLen (c.row0 x.b) (c.col0 x.b) back) c t

/-- A copy's token value (R213). -/
def copyToken (bytes status : Nat) : Word := wordOf [(8, bytes), (0, status)]

/-! ### Streams (R390, R391) -/

def needStream (x : RArgs) (n : Nat) (_ : Cur) : Need :=
  { cls := .m, once := true, pred := x.pred, srcs := ([(x.a, false), (x.b, false), (x.c, false)]).take n, dsts := [(x.dst, false, true)] }

/-- Send a stream request: it leaves through the store queue (R276), its token empty. -/
def streamEff (x : RArgs) (op : Nat) (sp : Space) (src len : Nat) (c : Cur) (t : State) : State :=
  let t := t.pushSq c (.stream t.free op (c.raw x.a.sel) sp src len) 0
  (t.addPend c .token .n64 x.dst false [] 1 none).advance c

def runStream (op : Nat) (x : RArgs) (s : State) : Res :=
  s.issue (needStream x 1) ownNone Path.advance (streamEff x op .mem 0 0)

def execAppOpen (x : RArgs) : State → Res := runStream 0 x
def execAppSeal (x : RArgs) : State → Res := runStream 2 x
def execAppSync (x : RArgs) : State → Res := runStream 3 x
def execAppClose (x : RArgs) : State → Res := runStream 4 x

/-- Is an entry a store to the window or the vault? -/
def SqOp.local : SqOp → Bool
  | .store _ parts => parts.any fun p => p.1.space != .mem
  | .atom _ _ _ lanes => lanes.any fun l => l.acc.space != .mem
  | .ringInit _ _ => true
  | _ => false

/-- Does a write of the bundle to the vault fly (R232)? -/
def State.vaultFlies (s : State) (k : BKey) : Bool := s.inflight.any fun f => f.owner == .bundle k && match f.op with | .vlt _ _ _ => true | _ => false

def ownAppWr (x : RArgs) (s : State) (c : Cur) : Own :=
  let sp := if x.md.val % 2 = 0 then Space.ls else .vlt
  let len := (c.raw x.c.sel).toNat
  let bad := if 1 ≤ len ∧ len ≤ 4096 then s.spaceBad c sp (c.raw x.b.sel).toNat len else none
  match bad with
  | some a => accessTrap c x.pred a
  | none => if c.b.acquiring || (c.b.sq.any fun e => e.op.local) || s.vaultFlies c.b.key then .block else .go

def execAppWr (x : RArgs) (s : State) : Res :=
  s.issue (needStream x 3) (ownAppWr x s) Path.advance fun c t =>
    streamEff x 1 (if x.md.val % 2 = 0 then .ls else .vlt) (c.raw x.b.sel).toNat (c.raw x.c.sel).toNat c t

/-! ### Operands of tile instructions (R397, R407) -/

/-- A tensor operand: its entry, direction and origin. -/
structure Opnd where
  t  : Tensor
  d  : Bool
  r0 : Nat
  c0 : Nat
  deriving DecidableEq, Repr

/-- An operand from its entry, direction and coordinate value. -/
def opnd (t : Tensor) (d : Bool) (co : Word) : Opnd := ⟨t, d, fld co 63 32, fld co 31 0⟩

/-- Positions that exist along o, at most 64, and along k (R397). -/
def Opnd.oext (x : Opnd) : Nat := min 64 (if x.d then x.t.cols - x.c0 else x.t.rows - x.r0)
def Opnd.kext (x : Opnd) : Nat := if x.d then x.t.rows - x.r0 else x.t.cols - x.c0

/-- Tensor row and column of element (o, k). -/
def Opnd.at (x : Opnd) (o k : Nat) : Nat × Nat := if x.d then (x.r0 + k, x.c0 + o) else (x.r0 + o, x.c0 + k)

/-- The segments of positions o < on, k in [k0, k0 + kn). -/
def Opnd.segs (x : Opnd) (on k0 kn : Nat) : List (Nat × Nat) :=
  if x.d then (if on = 0 then [] else x.t.segs (x.r0 + k0) kn x.c0 on) else x.t.segs x.r0 on (x.c0 + k0) kn

/-- The index of an element's scale (R246); K runs along the columns unless kRows. -/
def Tensor.scaleIdx (t : Tensor) (kRows : Bool) (i j : Nat) : Nat :=
  match t.scaleMode with
  | 0 | 1 => 0
  | 2 => i
  | 3 => j
  | m =>
    let b := 2 ^ m
    if kRows then j * ((t.rows + b - 1) / b) + i / b else i * ((t.cols + b - 1) / b) + j / b

/-- The segment of an element's scale, if the entry has scales (R245). -/
def Tensor.scaleSeg (t : Tensor) (kRows : Bool) (i j : Nat) : List (Nat × Nat) :=
  if t.scaleMode = 0 then [] else [((t.scaleBase.toNat + 2 * t.scaleIdx kRows i j) % 2 ^ 64, 2)]

/-- The scale segments of positions o < on, k in [k0, k0 + kn), without repeats. (log 29, DEDUCED) -/
def Opnd.scaleSegs (x : Opnd) (on k0 kn : Nat) : List (Nat × Nat) :=
  if x.t.scaleMode = 0 then []
  else ((List.range on).flatMap fun o => (List.range kn).flatMap fun k =>
    let p := x.at o (k0 + k)
    x.t.scaleSeg x.d p.1 p.2).eraseDups

/-- K positions of a matrix product and of a matrix-vector product (R406, R407). -/
def mmSpan (a b : Opnd) : Nat := min (min a.kext b.kext) 4096
def mmvSpan (a b : Opnd) : Nat := min (min a.kext b.kext) 131072

/-- Length of a segment of mmv, and its blocks (R407). -/
def mmvSeg (span : Nat) : Nat := 32 * ((span + 2047) / 2048)

/-- The vector of mmv as an operand: only its positions along k are used (R407). -/
def Opnd.kOnly (x : Opnd) : Nat := if x.d then x.t.rows - x.r0 else x.t.cols - x.c0

/-- The tile an instruction names. -/
def Cur.tile (c : Cur) (n : Fin 8) : Option Tile := c.c.tiles[n.val]?

/-- Change a tile of the issuing crew. -/
def State.onTile (s : State) (k : CKey) (n : Nat) (f : Tile → Tile) : State :=
  s.onCrew k fun c => { c with tiles := c.tiles.modify n f }

/-! ### Operands that were written (R235, R398, R399) -/

/-- The extents that a tile instruction reads, scales among them. -/
def TileOp.reads : TileOp → List (Space × List (Nat × Nat))
  | .mm a b da db ca cb =>
    let x := opnd a da ca
    let y := opnd b db cb
    let n := mmSpan x y
    [(a.space, x.segs x.oext 0 n ++ x.scaleSegs x.oext 0 n), (b.space, y.segs y.oext 0 n ++ y.scaleSegs y.oext 0 n)]
  | .mmv a b da db ca cb =>
    let x := opnd a da ca
    let y := opnd b db cb
    let n := mmvSpan x y
    [(a.space, x.segs x.oext 0 n ++ x.scaleSegs x.oext 0 n), (b.space, y.segs 1 0 n ++ y.scaleSegs 1 0 n)]
  | .load _ a da ca =>
    let x := opnd a da ca
    [(a.space, x.segs x.oext 0 (min 64 x.kext) ++ x.scaleSegs x.oext 0 (min 64 x.kext))]
  | _ => []

/-- The entries that a tile instruction changes. -/
def TileOp.keys (o : TileOp) : List Nat :=
  let grid := fun (n : Nat) (l : List Nat) => (List.range n).flatMap fun i => l.map fun j => 64 * i + j
  match o with
  | .mm a b da db ca cb => grid (opnd a da ca).oext (List.range (opnd b db cb).oext)
  | .mmv a b da db ca cb =>
    let n := mmvSpan (opnd a da ca) (opnd b db cb)
    grid (opnd a da ca).oext ((List.range 64).filter fun j => decide (j * mmvSeg n < n))
  | .load _ a da ca => grid (opnd a da ca).oext (List.range (min 64 (opnd a da ca).kext))
  | _ => []

/-- Was an operand of a tile instruction written since the operand-ready fence it stands under (R235, R398, R399)? Without a fence it reads unspecified operands. (log 114, DESIGN CHOICE) -/
def State.stale (s : State) (ctx grove : Nat) (m : TileCmd) : Bool :=
  m.op.reads.any fun y => !y.2.isEmpty && match m.since with
    | none => true
    | some t => s.segsTouched ctx grove m.owner.ck y.1 t y.2

/-- What some instructions left in a tile is unspecified (R235). -/
def Tile.spoil (t : Tile) (id : Nat) (ms : List TileCmd) : Tile :=
  { t with ents := (ms.flatMap fun m => m.op.keys).foldl (fun e k => bankFree e k id) t.ents, flags := (Config.freeWord id 4096).toNat % 128 &&& 0x77 }

/-- A tile of a crew as it stands. -/
def State.tileNow (s : State) (k : CKey) (n : Nat) : Option Tile := (s.crew? k).bind fun c => c.tiles[n]?

/-- Spoil what some instructions left in a tile, if there are any. -/
def State.spoilTile (s : State) (k : CKey) (n : Nat) (ms : List TileCmd) : State :=
  if ms.isEmpty then s else let id := s.free; ({ s with free := id + 1 }).onTile k n fun t => t.spoil id ms

/-- The instructions of a tile that have not reached their release points and whose operands were written meanwhile (R399). -/
def State.staleIn (s : State) (ctx : Nat) (c : Crew) (t : Tile) : List TileCmd := t.unread.filter (s.stale ctx (groveOf c.core))

/-- The instructions of a bundle in a tile have reached their release points (R399). -/
def Tile.seen (t : Tile) (k : BKey) : Tile := { t with unread := t.unread.filter fun m => m.owner != k }

/-- A bundle observes some tiles full or idle: the operand-release point of the instructions it issued there, judged by the state s (R399). -/
def State.observe (u s : State) (c : Cur) (ts : List Nat) : State :=
  ts.foldl (fun u n => match u.tileNow c.c.key n with
    | some t => if t.unread.isEmpty then u else (u.spoilTile c.c.key n (s.staleIn c.g.ctx c.c t)).onTile c.c.key n fun t => t.seen c.b.key
    | none => u) u

end Sys2Proof.Machine
end

