-- ==== Sys2Proof/Machine/Scalar.lean ====
section
/-! DEFINITION. Class S: integer, address and mask instructions (R330 to R340). -/

namespace Sys2Proof.Machine

/-- What the checks need of a register-format scalar instruction. -/
def needS (x : RArgs) (_ : Cur) : Need :=
  { cls := .s, pred := x.pred, srcs := srcsS [x.a, x.b, x.c], dsts := [(x.dst, false, true)] }

/-- An instruction that writes one scalar or mask register from the values its bundle held at issue (R332). -/
def runS (x : RArgs) (val : Cur → Word) (s : State) : Res :=
  s.issue (needS x) ownNone Path.advance fun c t => (t.setDst c x.dst (val c)).advance c

/-- The same in the immediate format. -/
def runSI (x : IArgs) (val : Cur → Word) (s : State) : Res :=
  s.issue (fun _ => { cls := .s, pred := x.pred, srcs := srcsS [x.a], dsts := [(x.dst, false, true)] }) ownNone Path.advance
    fun c t => (t.setDst c x.dst (val c)).advance c

/-- An integer function of two operands under the type (R333). -/
def int2 (x : RArgs) (f : Int → Int → Int) (c : Cur) : Word := wrVal x.ty (f (c.rd x.ty x.a) (c.rd x.ty x.b))

/-- A function of two n-bit patterns under the type. -/
def pat2 (x : RArgs) (f : Nat → Nat → Nat) (c : Cur) : Word :=
  wrVal x.ty (f ((c.raw x.a.sel).toNat % 2 ^ x.ty.bits) ((c.raw x.b.sel).toNat % 2 ^ x.ty.bits))

/-- A function of one n-bit pattern, written whole (R333). -/
def pat1 (x : RArgs) (f : Nat → Nat) (c : Cur) : Word := BitVec.ofNat 64 (f ((c.raw x.a.sel).toNat % 2 ^ x.ty.bits))

/-- The shift distance b[log2 n − 1 : 0] (R333). -/
def shiftK (n b : Nat) : Nat := b % n

def rotl (n a k : Nat) : Nat := (a * 2 ^ (k % n) + a / 2 ^ (n - k % n)) % 2 ^ n
def rotr (n a k : Nat) : Nat := rotl n a (n - k % n)

/-- Leading zero bits of an n-bit pattern. -/
def clz (n a : Nat) : Nat := n - (if a % 2 ^ n = 0 then 0 else Nat.log2 (a % 2 ^ n) + 1)

/-- Trailing zero bits of an n-bit pattern, counted from bit 0 up. -/
def ctz : Nat → Nat → Nat
  | 0, _ => 0
  | n + 1, a => if a % 2 = 1 then 0 else 1 + ctz n (a / 2)

/-- Set bits among the low n. -/
def popc : Nat → Nat → Nat
  | 0, _ => 0
  | n + 1, a => a % 2 + popc n (a / 2)

/-- R334: truncating division, with the results it defines for a zero divisor. -/
def sdiv (a b : Int) : Int := if b = 0 then -1 else Int.tdiv a b
def srem (a b : Int) : Int := if b = 0 then a else Int.tmod a b

/-- The condition codes 0 to 5 on integers (R319). -/
def condInt (cc : Nat) (a b : Int) : Bool :=
  match cc with
  | 0 => a == b
  | 1 => a != b
  | 2 => decide (a < b)
  | 3 => decide (a ≤ b)
  | 4 => decide (b < a)
  | _ => decide (b ≤ a)

/-- Position and length of a field descriptor, held to n bits (R336). -/
def fieldOf (n : Nat) (f : Word) : Nat × Nat :=
  let p := fld f 5 0
  (p, min (fld f 14 8) (n - p))

/-- R336: the extracted field as an integer. -/
def bfxVal (n : Nat) (signed : Bool) (a : Nat) (f : Word) : Int :=
  let q := fieldOf n f
  if q.2 = 0 then 0 else tyVal q.2 signed (a % 2 ^ n / 2 ^ q.1)

/-- R336: b with the low bits of a in the field. -/
def bfiVal (n a b : Nat) (f : Word) : Nat :=
  let q := fieldOf n f
  let b := b % 2 ^ n
  b - b / 2 ^ q.1 % 2 ^ q.2 * 2 ^ q.1 + a % 2 ^ q.2 * 2 ^ q.1

def execSAdd (x : RArgs) : State → Res := runS x (int2 x fun a b => a + b)
def execSSub (x : RArgs) : State → Res := runS x (int2 x fun a b => a - b)
def execSMul (x : RArgs) : State → Res := runS x (int2 x fun a b => a * b)
def execSMulh (x : RArgs) : State → Res := runS x (int2 x fun a b => Int.fdiv (a * b) (2 ^ x.ty.bits))
def execSDiv (x : RArgs) : State → Res := runS x (int2 x sdiv)
def execSRem (x : RArgs) : State → Res := runS x (int2 x srem)
def execSAbs (x : RArgs) : State → Res := runS x fun c => wrVal x.ty (c.rd x.ty x.a).natAbs
def execSMin (x : RArgs) : State → Res := runS x (int2 x fun a b => if a < b then a else b)
def execSMax (x : RArgs) : State → Res := runS x (int2 x fun a b => if b < a then a else b)
def execSAnd (x : RArgs) : State → Res := runS x (pat2 x fun a b => a &&& b)
def execSOr (x : RArgs) : State → Res := runS x (pat2 x fun a b => a ||| b)
def execSXor (x : RArgs) : State → Res := runS x (pat2 x fun a b => a ^^^ b)
def execSAndn (x : RArgs) : State → Res := runS x (pat2 x fun a b => a &&& (2 ^ x.ty.bits - 1 - b))
def execSShl (x : RArgs) : State → Res := runS x (pat2 x fun a b => a * 2 ^ shiftK x.ty.bits b)
def execSShr (x : RArgs) : State → Res :=
  runS x fun c => wrVal x.ty (Int.fdiv (c.rd x.ty x.a) (2 ^ shiftK x.ty.bits (c.raw x.b.sel).toNat))
def execSRotl (x : RArgs) : State → Res := runS x (pat2 x fun a b => rotl x.ty.bits a (shiftK x.ty.bits b))
def execSRotr (x : RArgs) : State → Res := runS x (pat2 x fun a b => rotr x.ty.bits a (shiftK x.ty.bits b))
def execSCmp (x : RArgs) : State → Res :=
  runS x fun c => if condInt (x.md.val % 16) (c.rd x.ty x.a) (c.rd x.ty x.b) then 1 else 0
def execSSel (x : RArgs) : State → Res :=
  runS x fun c => wrVal x.ty (if c.rd x.ty x.c = 0 then c.rd x.ty x.b else c.rd x.ty x.a)

/-- Is a selector a mask register? -/
def Sel.isM : Sel → Bool
  | .m _ => true
  | _ => false

/-- R335: with a mask operand all 64 bits are copied; else Wr of Rd. -/
def execSMov (x : RArgs) : State → Res :=
  runS x fun c => if Sel.isM x.dst || Sel.isM x.a.sel then c.raw x.a.sel else wrVal x.ty (c.rd x.ty x.a)

def execSClz (x : RArgs) : State → Res := runS x (pat1 x (clz x.ty.bits))
def execSCtz (x : RArgs) : State → Res := runS x (pat1 x (ctz x.ty.bits))
def execSPopc (x : RArgs) : State → Res := runS x (pat1 x (popc x.ty.bits))
def execSBfx (x : RArgs) : State → Res :=
  runS x fun c => wrVal x.ty (bfxVal x.ty.bits x.ty.signed (c.raw x.a.sel).toNat (c.raw x.b.sel))
def execSBfi (x : RArgs) : State → Res :=
  runS x fun c => wrVal x.ty (bfiVal x.ty.bits (c.raw x.a.sel).toNat (c.raw x.b.sel).toNat (c.raw x.c.sel))

/-- R337: A whole plus the index times 2^K. -/
def execLea (x : RArgs) : State → Res :=
  runS x fun c => c.raw x.a.sel + BitVec.ofInt 64 (c.rd x.ty x.b * 2 ^ (x.md.val % 8))

/-- R337: extend from bit k = Rd(b) mod 64, then Wr. -/
def execSext (x : RArgs) : State → Res :=
  runS x fun c => wrVal x.ty (tyVal ((c.rd x.ty x.b % 64).toNat + 1) x.ty.signed (c.raw x.a.sel).toNat)

def execMand (x : RArgs) : State → Res := runS x fun c => c.raw x.a.sel &&& c.raw x.b.sel
def execMor (x : RArgs) : State → Res := runS x fun c => c.raw x.a.sel ||| c.raw x.b.sel
def execMxor (x : RArgs) : State → Res := runS x fun c => c.raw x.a.sel ^^^ c.raw x.b.sel
def execMandn (x : RArgs) : State → Res := runS x fun c => c.raw x.a.sel &&& ~~~ c.raw x.b.sel
def execMnot (x : RArgs) : State → Res := runS x fun c => ~~~ c.raw x.a.sel
def execMmov (x : RArgs) : State → Res := runS x fun c => c.raw x.a.sel
def execMpop (x : RArgs) : State → Res := runS x fun c => BitVec.ofNat 64 (popc 64 (c.raw x.a.sel).toNat)
def execMfirst (x : RArgs) : State → Res := runS x fun c => BitVec.ofNat 64 (ctz 64 (c.raw x.a.sel).toNat)
def execMlow (x : RArgs) : State → Res := runS x fun c => lanesOf (min (c.raw x.a.sel).toNat 64)

/-- R338. -/
def execMovi (x : IArgs) : State → Res := runSI x fun _ => x.imm.signExtend 64
def execAddi (x : IArgs) : State → Res := runSI x fun c => wrVal x.ty (c.rd x.ty x.a + x.imm.toInt)
def execMovhi (x : IArgs) : State → Res :=
  runSI x fun c => BitVec.ofNat 64 (x.imm.toNat * 2 ^ 42 + fld (c.raw x.a.sel) 41 0)

end Sys2Proof.Machine
end

