-- ==== Sys2Proof/Machine/Control.lean ====
section
/-! DEFINITION. Clause headers and transfers of control: branches, calls, split and join, exit, halt, trap, brk, sret (R176 to R181, R195 to R198, R296 to R299, R341 to R346). -/

namespace Sys2Proof.Machine

/-! ### Clause headers (R296 to R299) -/

/-- A 64-bit word fetched through the issuing path's translation. -/
inductive Fetched where
  | word (w : Word)
  | fault (cause : Nat) (va : Word)
  | miss (va : Word)
  | held (va : Word)
  deriving DecidableEq, Repr

/-- Eight bytes at their home slice, for a tenant (R90). -/
def State.homeWord (s : State) (tenant pa : Nat) : Word := if inFlash pa then BitVec.ofNat 64 (leNat (bytesFrom (s.homeByte tenant) pa 8)) else s.rd64 pa

/-- Fetch one word of instructions (R341): a multiple of 8, so it lies in one page. A row that is being remapped and flash that is not ready hold it (R21, R93). -/
def State.fetch (s : State) (c : Cur) (va : Word) : Fetched :=
  match s.xlate c .fetch va with
  | .ok pa _ _ _ => if s.rowBusy pa || (s.flashHeld pa && !s.l2Has pa) then .held va else .word (s.homeWord c.g.tenant pa)
  | .fault k => .fault k va
  | .defer _ => .miss va
  | .miss => .miss va

/-- The words under a header, or what stops their fetch. (log 10, DEDUCED) -/
def State.fetchWords (s : State) (c : Cur) : Nat → Word → Except Fetched (List Word)
  | 0, _ => .ok []
  | n + 1, va =>
    match s.fetch c va with
    | .word w => match s.fetchWords c n (va + 8) with
      | .ok ws => .ok (w :: ws)
      | .error e => .error e
    | e => .error e

/-- The words of a clause were fetched: a line of flash that is not the tenant's is counted (R90, R112). -/
def State.countFetch (s : State) (c : Cur) (n : Nat) : State :=
  let line := fun (i : Nat) => match s.xlate c .fetch (c.p.pc + BitVec.ofNat 64 (8 * i)) with
    | .ok pa _ _ _ => if inFlash pa then [lineOf pa] else []
    | _ => []
  ((List.range n).flatMap line).eraseDups.foldl (fun t l => t.countForeign c.g.tenant l) s

/-- The tile a wait condition names. -/
def waitTile (w : Nat) : List Nat := if w / 64 = 2 then [w % 64] else []

/-- The tiles whose empty bit a path has met at the header that it stands at (R260). -/
def Path.metEmpty (p : Path) : List Nat := match p.held with | some (.tiles l) => l | _ => []

/-- The path with the clause in hand. -/
def Path.enter (p : Path) (cl : Clause) : Path :=
  { p with clause := some cl, waiting := false, held := match p.held with | some (.tiles _) => none | h => h }

/-- The path waits at a header whose conditions do not hold, having met these tiles empty (R260, R297). -/
def Path.waitAt (p : Path) (empty : List Nat) : Path := { p with waiting := true, held := some (.tiles (p.metEmpty ++ empty).eraseDups) }

/-- OR flags into fpflags of lanes (R193). -/
def Arch.orFlags (a : Arch) : List (Nat × Nat) → Arch
  | [] => a
  | (l, f) :: r => ({ a with fpflags := natsPut a.fpflags l (natsGet a.fpflags l ||| f) }).orFlags r

/-- Merge tile flags into the active lanes (R260). -/
def State.mergeTiles (s : State) (c : Cur) (ts : List Nat) (act : Word) : State :=
  let f := ts.foldl (fun f i => f ||| (match s.tileNow c.c.key i with | some t => t.flags % 32 | none => 0)) 0
  s.onArch c.b.key fun a => a.orFlags ((maskLanes c.g.width act).map fun l => (l, f))

/-- The lanes a fault of the clause's fetch or header takes: those a return named, else the path's mask (R197, R298). -/
def Cur.fetchLanes (c : Cur) : Word := match c.p.first with | some f => f | none => c.m 0

/-- A trap of the clause at the path's own header (R197, R298, R341); a fault in fetching the handler halts the bundle (R195). -/
def State.clauseTrap (s : State) (c : Cur) (cause : Nat) (va : Word) : State :=
  if c.b.arch.tdepth ≠ 0 ∧ c.p.pc = Config.handler ∧ cause ≠ 0x02 then s.haltBundle c 0x21 15 0
  else s.takeTrapAt c c.p.pc c.p.idx cause c.fetchLanes fun _ => if c.p.first.isSome then c.p.pc else va

/-- A bundle reaches a clause header (R296 to R299): the header is checked, the clause is fetched whole (R181), and its wait conditions are evaluated, unless its first instruction has issued (R168); where
they hold, that is the release point of tile instructions (R399), the bundle that poison was read for consumes it (R401), and the flags of the tiles that it found empty here are merged (R260). After a return, idx is the index
of the handler, and the clause's count continues at the next clause (R197). (log 10, DEDUCED) (log 24, DEDUCED) -/
def execClauseHeader (w : Word) (s : State) : Res :=
  match s.cur with
  | none => .fault .noIssuer
  | some c =>
    if !c.eligible || c.p.clause.isSome || s.saveStops c || s.queueBlocked c then .next s
    else if c.p.pc.toNat % 8 ≠ 0 then .next (s.clauseTrap c 0x09 c.p.pc)
    else match decodeHeader c.g.acc w with
      | .error _ => .next (s.clauseTrap c 0x02 0)
      | .ok h =>
        if h.count + 1 < c.p.idx then .next (s.clauseTrap c 0x02 0)
        else if c.p.idx = h.count + 1 then
          .next (s.onPath c fun p => { p with pc := nextClause p.pc w, idx := 0, begun := false })
        else match s.fetchWords c (h.count + 1) (c.p.pc + 8) with
          | .error (.fault k va) => .next (s.clauseTrap c k va)
          | .error (.miss va) => .next ((s.addMiss c .fetch va).stopAt c)
          | .error (.held _) => .next (s.stopAt c)
          | .error (.word _) => .next s
          | .ok ws =>
            let ts := waitTile h.wait0 ++ waitTile h.wait1
            if c.p.idx ≠ 0 ∨ c.p.begun = true then .next ((s.countFetch c (h.count + 2)).onPath c fun p => p.enter ⟨w, ws⟩)
            else if !(c.waitHolds h.wait0 && c.waitHolds h.wait1) then
              .next (s.onPath c fun p => p.waitAt (ts.filter fun i => !c.waitHolds (128 + i)))
            else if ts.any fun i => match c.c.tiles[i]? with | some t => t.owed.contains c.b.key | none => false then
              .next (s.haltBundle c 0x20 9 0)
            else
              .next ((((s.countFetch c (h.count + 2)).observe s c ts).mergeTiles c (ts.filter fun i => c.p.metEmpty.contains i) (c.m 0)).onPath c fun p => p.enter ⟨w, ws⟩)

/-! ### Branches (R341 to R344) -/

/-- What the checks need of a branch-format instruction: it must be last in its clause (R299). -/
def needB (x : BArgs) (c : Cur) : Need :=
  { cls := .s, bad := !c.lastInClause, pred := x.pred, srcs := srcsS [x.a] }

/-- H + 8 × SignExtend(off) (R311). -/
def relTarget (c : Cur) (off : BitVec 24) : Word := c.H + 8 * off.signExtend 64

/-- Clauses from an address to a header, counted up to a limit by the headers that stand there (R344). -/
def State.clausesTo (s : State) (c : Cur) (h : Word) : Nat → Word → Nat
  | 0, _ => 1
  | n + 1, a =>
    if a = h then 1
    else match s.walk c.g.ctx (c.b.arch.tdepth != 0) .fetch a with
      | .ok _ _ _ pa => 1 + s.clausesTo c h n (nextClause a (s.rd64 pa))
      | _ => n + 2

/-- The spin detector at a backward branch (R156, R344): takings in a row of one branch between which no register changed; the eighth demotes
a bundle whose loop is at most four clauses with at most eight lines watched. (log 22, DEDUCED) -/
def Spin.take (sp : Spin) (br : Word) (short : Bool) (now : Nat) : Spin :=
  let same := sp.branch == br && !sp.changed && sp.takings != 0
  let n := if same then sp.takings + 1 else 1
  { sp with branch := br, takings := n, changed := false, watch := if same then sp.watch else [],
            demoted := if n ≥ 8 ∧ short ∧ sp.watch.length ≤ 8 then (match sp.demoted with | some t => some t | none => some now) else sp.demoted }

/-- Take a transfer to a target; a backward one counts for the spin detector (R344). -/
def State.jumpTo (s : State) (c : Cur) (target : Word) (counts : Bool) : State :=
  let s := if counts && decide (target ≤ c.H) then
      let short := decide (s.clausesTo c c.H 4 target ≤ 4)
      s.onBundle c.b.key fun b => { b with spin := b.spin.take c.H short s.clock }
    else s
  s.onPath c fun p => p.goto target

/-- A transfer that is not taken goes on at the next clause; its own takings in a row end (R341, R156). -/
def State.fallThrough (s : State) (c : Cur) : State :=
  (s.onBundle c.b.key fun b => if b.spin.branch = c.H then { b with spin := { b.spin with takings := 0 } } else b).onPath c Path.nextClause

/-- A conditional branch (R342). -/
def branchIf (x : BArgs) (cond : Cur → Bool) (s : State) : Res :=
  s.issue (needB x) ownNone Path.nextClause fun c t =>
    if cond c then t.jumpTo c (relTarget c x.off) true else t.fallThrough c

def execBr (x : BArgs) : State → Res := branchIf x fun c => condInt x.cond.val (c.raw x.a.sel).toInt 0
def execBmz (x : BArgs) : State → Res := branchIf x fun c => c.raw x.a.sel &&& lanesOf c.g.width == 0
def execBmnz (x : BArgs) : State → Res := branchIf x fun c => c.raw x.a.sel &&& lanesOf c.g.width != 0
def execJump (x : BArgs) : State → Res := branchIf x fun _ => true

/-- A register target must be a multiple of 8 (R341). -/
def ownTarget (x : BArgs) (c : Cur) : Own :=
  let t := c.raw x.a.sel
  if t.toNat % 8 = 0 then .go else .trap 0x09 (c.active x.pred) fun _ => t

/-- The address of the clause after the instruction's own (R343). -/
def Cur.returnAddr (c : Cur) : Word := nextClause c.H c.hdr

def execJumpR (x : BArgs) (s : State) : Res :=
  s.issue (needB x) (ownTarget x) Path.nextClause fun c t => t.jumpTo c (c.raw x.a.sel) false
def execRet (x : BArgs) (s : State) : Res :=
  s.issue (needB x) (ownTarget x) Path.nextClause fun c t => t.jumpTo c (c.raw x.a.sel) false

/-- A call writes the return address into its link register (R343). -/
def needCall (x : BArgs) (c : Cur) : Need := { needB x c with dsts := [(.s x.link, false, true)] }

def execCall (x : BArgs) (s : State) : Res :=
  s.issue (needCall x) ownNone Path.nextClause fun c t =>
    (t.setDst c (.s x.link) c.returnAddr).jumpTo c (relTarget c x.off) false
def execCallR (x : BArgs) (s : State) : Res :=
  s.issue (needCall x) (ownTarget x) Path.nextClause fun c t =>
    (t.setDst c (.s x.link) c.returnAddr).jumpTo c (c.raw x.a.sel) false

/-! ### Split and join (R177, R178, R345, R346) -/

/-- The join target of a split: H + 8 × SignExtend(literal) (R311). -/
def splitJ (c : Cur) : Word := c.H + 8 * c.lit.signExtend 64

/-- T and F of a split (R177). -/
def splitT (x : BArgs) (c : Cur) : Word := c.m 0 &&& c.raw x.a.sel &&& lanesOf c.g.width
def splitF (x : BArgs) (c : Cur) : Word := c.m 0 &&& ~~~(c.raw x.a.sel &&& lanesOf c.g.width)

/-- No split in a handler (R180); none when both slots are live and the declared depth is used (R177). -/
def ownSplit (x : BArgs) (c : Cur) : Own :=
  if c.b.arch.tdepth ≠ 0 then .trap 0x01 (c.active x.pred) fun _ => 0
  else if splitT x c ≠ 0 ∧ splitF x c ≠ 0 ∧ (c.b.arch.path (!c.slot)).isSome ∧ c.b.arch.stack.length = c.g.dstack then
    .trap 0x08 (c.active x.pred) fun _ => 0
  else .go

/-- R177: the outer target into s(D), then one way or two paths, the other slot's path pushed. -/
def execSplit (x : BArgs) (s : State) : Res :=
  s.issue (fun c => { needB x c with dsts := [(.s x.link, false, true)] }) (ownSplit x) Path.nextClause fun c t =>
    let J := splitJ c
    let T := splitT x c
    let F := splitF x c
    let t := t.setDst c (.s x.link) c.p.jt
    if T = 0 ∨ F = 0 then
      t.onPath c fun p => { (if T = 0 then p.nextClause else p.goto (relTarget c x.off)) with jt := J }
    else
      t.onArch c.b.key fun a =>
        let a := match a.path (!c.slot) with
          | some q => { a with stack := q :: a.stack }
          | none => a
        let p := match a.path c.slot with | some p => p | none => c.p
        let a := a.setPath c.slot (some { p.goto (relTarget c x.off) with mask := T, jt := J })
        a.setPath (!c.slot) (some { p.nextClause with mask := F, jt := J, first := none, waiting := false, held := none, begun := false })

/-- A slot that becomes empty takes the top of the divergence stack (R179). -/
def Arch.popInto (a : Arch) (slot : Bool) : Arch :=
  match a.stack with
  | [] => a.setPath slot none
  | q :: r => { (a.setPath slot (some q)) with stack := r }

/-- How a join meets its sibling (R178). -/
inductive JoinCase where
  | ignored | waits | merges (q : Path) | alone
  deriving DecidableEq, Repr

def joinCase (c : Cur) : JoinCase :=
  if c.p.jt ≠ c.H then .ignored
  else match c.b.arch.path (!c.slot) with
    | none => .alone
    | some q =>
      if q.jt = c.H then (if q.pc = c.H ∧ q.waiting ∧ q.clause.isSome then .merges q else .waits) else .alone

/-- sA is read only when the join takes effect (R346). A path that has waited at the join executes it without reading its predicate anew (R178, R179). -/
def needJoin (x : BArgs) (c : Cur) : Need :=
  { cls := .s, bad := c.p.idx != 0, pred := if c.p.held == some .join then none else x.pred,
    srcs := match joinCase c with | .merges _ | .alone => srcsS [x.a] | _ => [] }

def ownJoin (x : BArgs) (c : Cur) : Own :=
  if c.b.arch.tdepth ≠ 0 then .trap 0x01 (c.active x.pred) fun _ => 0 else .go

/-- R178. A path that waits stands on the join and is not eligible until its partner comes, or has exited (R179). -/
def execJoin (x : BArgs) (s : State) : Res :=
  s.issue (needJoin x) (ownJoin x) Path.advance fun c t =>
    match joinCase c with
    | .ignored => t.advance c
    | .waits => t.onPath c fun p => { p with waiting := true, held := some .join }
    | .alone => t.onPath c fun p => { p.advance with jt := c.raw x.a.sel, waiting := false }
    | .merges q =>
      let t := t.onPath c fun p => { p.advance with jt := c.raw x.a.sel, mask := p.mask ||| q.mask, waiting := false }
      t.onArch c.b.key fun a => a.popInto (!c.slot)

/-! ### Exit, halt, traps, return (R179, R195 to R198, R441, R442) -/

/-- What the checks need of trap and brk: last in the clause (R299). -/
def needX0 (pred : Option (Fin 16)) (ctl : Bool) (c : Cur) : Need :=
  { cls := .x, sync := true, bad := ctl && !c.lastInClause, pred := pred }

/-- What the checks need of sret, exit, halt, yield and nop: zero in every field but the opcode, the predicate's too (R442, log 16, DEDUCED). -/
def needX1 (pred : Option (Fin 16)) (ctl : Bool) (c : Cur) : Need :=
  { needX0 none ctl c with bad := (ctl && !c.lastInClause) || pred.isSome }

/-- An arch without its path in a slot: trap state gone and the sibling released (R198), the stack popped; a sibling that waits at a join executes it again (R179). -/
def Arch.endPath (a : Arch) (slot : Bool) : Arch :=
  let wake := fun (p : Path) => if p.held = some .join then { p with waiting := false } else p
  let a := { a with tdepth := 0, sup := false, progress := ((a.path (!slot)).map Path.swept).getD 0 }
  (a.setPath (!slot) ((a.path (!slot)).map wake)).popInto slot

/-- An arch with no path left (R442). -/
def Arch.halted (a : Arch) : Arch := { a with slot0 := none, slot1 := none, stack := [], tdepth := 0, sup := false, progress := 0 }

/-- A bundle exits when both slots are empty and the stack is too (R179): its exit waits in the store queue, so that a strike can undo it (R276, R277). (log 36, DEDUCED) -/
def State.settleExit (s : State) (c : Cur) : State :=
  match s.bundle? c.b.key with
  | some b => if b.arch.slot0.isNone ∧ b.arch.slot1.isNone then s.pushSq c .exit 0 else s
  | none => s

def execExit (x : RArgs) (s : State) : Res :=
  s.issue (needX1 x.pred true) ownNone Path.nextClause fun c t => (t.onArch c.b.key fun a => a.endPath c.slot).settleExit c

def execHalt (x : RArgs) (s : State) : Res :=
  s.issue (needX1 x.pred true) ownNone Path.nextClause fun c t => (t.onArch c.b.key Arch.halted).settleExit c

def execNop (x : RArgs) (s : State) : Res :=
  s.issue (needX1 x.pred false) ownNone Path.advance fun c t => t.advance c

/-- R442: ranked last for the next issue; the taking count ends (R156). -/
def execYield (x : RArgs) (s : State) : Res :=
  s.issue (needX1 x.pred false) ownNone Path.advance fun c t =>
    (t.onBundle c.b.key fun b => { b with yielded := true, spin := { b.spin with takings := 0 } }).advance c

/-- trap and brk (R441): the trap of R195 in the active lanes, tval holding imm; its issue cycle is charged (R153). -/
def softTrap (x : IArgs) (cause : Nat) (s : State) : Res :=
  s.issue (needX0 x.pred true)
    (fun c => .hold fun t => (t.charged c.c.core c.g.tenant 1).takeTrap c cause (c.active x.pred) fun _ => x.imm.zeroExtend 64)
    Path.nextClause fun _ t => t

def execTrap (x : IArgs) : State → Res := softTrap x 0x0D
def execBrk (x : IArgs) : State → Res := softTrap x 0x0E

/-- What sret leaves in the bundle (R197): the mask, the depth's trap state restored, the mode, the path at tpc and tidx, held to tmask for its first
instruction; the progress of a sweep only on a return to its own clause with index 0, which resumes the sweep (R314); the waits of the clause that trapped are met (R168). -/
def Arch.returned (a : Arch) (slot : Bool) (p : Path) (w : Nat) : Arch :=
  let t := a.trap
  let d := a.tdepth - 1
  let sweeps := t.tidx == 0 && t.tpc == t.origin
  let held := if sweeps && t.progress != 0 then some (Held.sweep t.progress none) else none
  let a := { a with
    tdepth := d
    trap := if d = 1 then a.trap1 else t
    sup := d != 0
    progress := if sweeps then t.progress else 0 }
  a.setPath slot (some { p with pc := t.tpc, idx := t.tidx.toNat, clause := none, mask := t.tm0 &&& lanesOf w, first := some t.tmask, waiting := false, held := held, begun := t.begun && t.tpc == t.origin })

/-- sret (R197). The header of the clause at tpc is fetched next, as for a taken transfer. (log 24, DEDUCED) -/
def execSret (x : RArgs) (s : State) : Res :=
  s.issue (fun c => { needX1 x.pred true c with sync := false, hand := true, sup := true }) ownNone Path.nextClause fun c t =>
    t.onBundle c.b.key fun b => { b with notes := [], arch := b.arch.returned c.slot c.p c.g.width }

end Sys2Proof.Machine
end

