-- ==== Sys2Proof/Machine/Matrix.lean ====
section
/-! DEFINITION. Class T at issue: tile queues, width pairs, waits and status (R392 to R412). What the tile unit does is in the tile events. -/

namespace Sys2Proof.Machine

/-! ### Width pairs (R250) -/

/-- A width pair's value with its zero fields. -/
def wpMask : Word := 0xF0003F3F
def Tile.wpWord (t : Tile) (n : Nat) : Word :=
  match t.wp with
  | .val v => v
  | .free k => Config.freeWord k (1024 + n) &&& wpMask

/-- A value a width pair accepts: zero fields 0, rmode not 3. -/
def wpOk (v : Word) : Bool := v &&& ~~~wpMask == 0 && fld v 31 30 != 3

/-! ### Issue -/

/-- What the checks need of a tile-acting instruction. -/
def needT (x : TArgs) (srcs : List Src) (cost : Nat) (c : Cur) : Need :=
  { cls := .t, lane := true, pred := x.pred, srcs := srcs.map fun y => (y, false), tile := some x.tile.val, cost := if c.active x.pred = 0 then 1 else cost }

/-- The mask check of a tile-acting instruction (R393): none active is ignored, some but not all a trap. -/
def tileMask (x : TArgs) (c : Cur) (k : Own) : Own :=
  if c.active x.pred = 0 then .go
  else if c.allActive x.pred then k
  else .trap 0x0A (c.active x.pred) fun _ => 0

/-- At most four instructions wait behind the one in progress (R394). -/
def Tile.roomy (t : Tile) : Bool := decide (t.queue.length + t.busy.toList.length < 5)

/-- Segments of an operand that are checked at issue: those in the window or the vault view (R396). -/
def placed (t : Tensor) (l : List (Nat × Nat)) : List (Space × List (Nat × Nat)) := if t.space = .mem then [] else [(t.space, l)]

/-- The first offending address over operands in the order named. -/
def State.operandsBad (s : State) (c : Cur) (l : List (Space × List (Nat × Nat))) : Option Nat := l.findSome? fun x => s.segsBad c x.1 x.2

/-- The checks and waits of a queued tile instruction (R394, R396, R398). (log 29, DEDUCED) -/
def tileOwn (x : TArgs) (s : State) (rdy : Bool) (segs : List (Space × List (Nat × Nat))) (c : Cur) : Own :=
  tileMask x c <|
    match s.operandsBad c segs with
    | some a => accessTrap c x.pred a
    | none =>
      if rdy && !s.performed c.b .device then .block
      else match c.tile x.tile with
        | some t => if t.roomy then .go else .block
        | none => .block

/-- Queue a tile instruction with the width pair latched; all but a drain mark the tile empty (R394); with .rdy it stands under a new operand-ready fence (R398). -/
def tileEff (x : TArgs) (op : TileOp) (rdy drain : Bool) (c : Cur) (t : State) : State :=
  let t := if c.active x.pred = 0 then t else
    let now := t.clock
    let since := if rdy then some now else c.c.fence
    let t := t.onCrew c.c.key fun y => { y with
      fence := since
      tiles := y.tiles.modify x.tile.val fun k =>
        { k with queue := k.queue ++ [⟨c.b.key, now, op, k.wp, 0, 0, none, 0, since⟩], full := if drain then k.full else false } }
    if drain then t.onBundle c.b.key fun b => { b with drains := b.drains + 1 } else t
  t.advance c

/-- A tensor operand of the instruction. -/
def Cur.opA (c : Cur) (s : State) (x : TArgs) : Opnd := opnd (s.tensor c.g.tenant x.tfa.val) x.dira (c.raw x.crda.sel)
def Cur.opB (c : Cur) (s : State) (x : TArgs) : Opnd := opnd (s.tensor c.g.tenant x.tfb.val) x.dirb (c.raw x.crdb.sel)

def execMz (x : TArgs) (s : State) : Res :=
  s.issue (needT x [] 1) (tileOwn x s false []) Path.advance (tileEff x (.zero (x.md.val % 4)) false false)

/-- Segments of operands whole: elements, then scales. -/
def mmSegs (a b : Opnd) (bn span : Nat) : List (Space × List (Nat × Nat)) :=
  placed a.t (a.segs a.oext 0 span ++ a.scaleSegs a.oext 0 span) ++ placed b.t (b.segs bn 0 span ++ b.scaleSegs bn 0 span)

def execMm (x : TArgs) (s : State) : Res :=
  s.issue (needT x [x.crda, x.crdb] 0)
    (fun c =>
      let a := c.opA s x
      let b := c.opB s x
      tileOwn x s (x.md.val % 2 == 1) (mmSegs a b b.oext (mmSpan a b)) c)
    Path.advance
    fun c t => tileEff x (.mm (c.opA s x).t (c.opB s x).t x.dira x.dirb (c.raw x.crda.sel) (c.raw x.crdb.sel)) (x.md.val % 2 == 1) false c t

def execMmv (x : TArgs) (s : State) : Res :=
  s.issue (needT x [x.crda, x.crdb] 0)
    (fun c =>
      let a := c.opA s x
      let b := c.opB s x
      tileOwn x s (x.md.val % 2 == 1) (mmSegs a b 1 (mmvSpan a b)) c)
    Path.advance
    fun c t => tileEff x (.mmv (c.opA s x).t (c.opB s x).t x.dira x.dirb (c.raw x.crda.sel) (c.raw x.crdb.sel)) (x.md.val % 2 == 1) false c t

/-- The segments of a whole tile of a tensor, with its scales. -/
def Opnd.tileSegs (a : Opnd) : List (Space × List (Nat × Nat)) :=
  placed a.t (a.segs a.oext 0 (min 64 a.kext) ++ a.scaleSegs a.oext 0 (min 64 a.kext))

def execMld (x : TArgs) (s : State) : Res :=
  s.issue (needT x [x.crda] 64) (fun c => tileOwn x s (x.md.val / 4 % 2 == 1) (c.opA s x).tileSegs c) Path.advance
    fun c t => tileEff x (.load (x.md.val % 4) (c.opA s x).t x.dira (c.raw x.crda.sel)) (x.md.val / 4 % 2 == 1) false c t

/-- The 128-byte lines of some segments, without repeats. -/
def segLines (l : List (Nat × Nat)) : List Nat :=
  (l.flatMap fun x => (List.range ((x.1 % 128 + x.2 + 127) / 128)).map fun i => lineOf x.1 + 128 * i).eraseDups

/-- The elements of the output of a drain; the lines in virtual memory that count on the acknowledgement counter (R32, R409). -/
def Opnd.outSegs (b : Opnd) : List (Nat × Nat) := b.segs b.oext 0 (min 64 b.kext)
/-- The scales of a drain's output: its K is always the column dimension (R246). -/
def Opnd.outScales (b : Opnd) : List (Nat × Nat) :=
  if b.t.scaleMode = 0 then []
  else ((List.range b.oext).flatMap fun o => (List.range (min 64 b.kext)).flatMap fun k =>
    let p := b.at o k
    b.t.scaleSeg false p.1 p.2).eraseDups

def Opnd.outLines (b : Opnd) : List Nat := if b.t.space = .mem then segLines b.outSegs else []

def execMdrain (x : TArgs) (s : State) : Res :=
  s.issue (needT x [x.crdb] 64)
    (fun c =>
      let b := c.opB s x
      tileMask x c <|
        if b.c0 * b.t.c % 8 ≠ 0 then .trap 0x09 (c.active x.pred) fun _ => BitVec.ofNat 64 (b.t.elemAt b.r0 b.c0).1
        else match tileOwn x s false (placed b.t (b.outSegs ++ b.outScales)) c with
          | .go => if 512 < c.b.ackcnt + b.outLines.length then .block else .go
          | o => o)
    Path.advance
    fun c t =>
      let b := c.opB s x
      let lines := if c.active x.pred = 0 then 0 else b.outLines.length
      let t := t.onBundle c.b.key fun k => { k with ackcnt := k.ackcnt + lines }
      tileEff x (.drain b.t x.tfb.val x.dirb (c.raw x.crdb.sel)) false true c t

/-- mwp (R410): the value checks of R250, then the pair at issue. -/
def execMwp (x : TArgs) (s : State) : Res :=
  s.issue (needT x [x.crda] 1)
    (fun c => tileMask x c <| if wpOk (c.raw x.crda.sel) then .go else .trap 0x01 (c.active x.pred) fun _ => 0)
    Path.advance
    fun c t =>
      let v := c.raw x.crda.sel
      let t := if c.active x.pred = 0 then t else t.onTile c.c.key x.tile.val fun k => { k with wp := .val v }
      t.advance c

/-- What the checks need of a reading instruction: it acts once for the path (R393). -/
def needRead (x : TArgs) (dst : Bool) (_ : Cur) : Need :=
  { cls := .t, once := true, pred := x.pred, tile := some x.tile.val, dsts := if dst then [(x.crdb.sel, false, true)] else [] }

def execMwpr (x : TArgs) (s : State) : Res :=
  s.issue (needRead x true) ownNone Path.advance fun c t =>
    (t.setDst c x.crdb.sel (match c.tile x.tile with | some k => k.wpWord x.tile.val | none => 0)).advance c

/-- mwait and mflag wait until the tile is full with nothing queued, the release point of what the bundle issued there (R399); the bundle consumes poison that was read for it (R279, R401, R411). -/
def ownMwait (x : TArgs) (c : Cur) : Own :=
  match c.tile x.tile with
  | some k =>
    if !(k.full && k.queue.isEmpty && k.busy.isNone) then .block
    else if k.owed.contains c.b.key then .hold fun t => t.haltBundle c 0x20 9 0
    else .go
  | none => .block

def execMwait (x : TArgs) (s : State) : Res :=
  s.issue (needRead x false) (ownMwait x) Path.advance fun c t =>
    ((t.observe s c [x.tile.val]).mergeTiles c [x.tile.val] (c.active x.pred)).advance c

def execMflag (x : TArgs) (s : State) : Res :=
  s.issue (needRead x true) (ownMwait x) Path.advance fun c t =>
    let t := (t.observe s c [x.tile.val]).mergeTiles c [x.tile.val] (c.active x.pred)
    let t := t.setDst c x.crdb.sel (match t.tileNow c.c.key x.tile.val with | some k => BitVec.ofNat 64 k.flags | none => 0)
    let now := t.clock
    let clear := fun (k : Tile) => { k with flags := 0, undo := k.undo ++ [⟨now, k.ents, k.fid, k.flags, k.poisoned, k.owed, 0⟩] }
    let t := if x.md.val = 1 then t.onTile c.c.key x.tile.val clear else t
    t.advance c

/-- The opcode of a tile operation (R326). -/
def TileOp.code : TileOp → Nat
  | .zero _ => 0
  | .mm _ _ _ _ _ _ => 1
  | .mmv _ _ _ _ _ _ => 2
  | .load _ _ _ _ => 3
  | .drain _ _ _ _ => 4

/-- The row-progress register (R412). -/
def Tile.progress (t : Tile) : Word :=
  match t.busy with
  | none => wordOf [(63, (!t.queue.isEmpty).toNat), (40, 0xFF), (32, min 4 t.queue.length)]
  | some m => wordOf [(63, 1), (62, m.stopped.isSome.toNat), (48, (m.stopped.getD (0, 0)).1), (40, m.op.code), (32, min 4 t.queue.length), (8, m.block), (0, m.row)]

def execMprog (x : TArgs) (s : State) : Res :=
  s.issue (needRead x true) ownNone Path.advance fun c t =>
    (t.setDst c x.crdb.sel (match c.tile x.tile with | some k => k.progress | none => 0)).advance c

end Sys2Proof.Machine
end

