-- ==== Sys2Proof/Machine/Sync.lean ====
section
/-! DEFINITION. Class X at issue: named barriers, barrier objects, stage rings, event counters, launch, child wait, step, register blocks (R413 to R434). -/

namespace Sys2Proof.Machine

/-! ### Rules of every X instruction (R413 to R415) -/

/-- What the checks need of a register-format X instruction that reads its first n sources. -/
def needX (x : RArgs) (sync : Bool) (n : Nat) (_ : Cur) : Need :=
  { cls := .x, sync := sync, pred := x.pred, srcs := srcsS ([x.a, x.b, x.c].take n),
    dsts := match x.dst with | .s _ | .m _ => [(x.dst, false, true)] | _ => [] }

/-- A trap of an X instruction: every active lane with one address (R415). -/
def xTrap (c : Cur) (pred : Option (Fin 16)) (cause : Nat) (va : Word) : Own := .trap cause (c.active pred) fun _ => va

/-- A record read that flash holds back (R93, R94): recorded once in the grove's fault unit, as lane 64 of its instruction, which waits until the read is issued again. Without room it waits for that. (log 119, DEDUCED) -/
def State.recWait (s : State) (c : Cur) (va : Word) (pa : Option Nat) (unit : Nat) : Own :=
  let recorded := match c.p.held with | some (.deferred id) => s.flash.deferred.any fun d => d.owner == c.b.key && d.pid == id | _ => false
  if recorded || decide (4096 ≤ (s.deferrals (groveOf c.c.core)).length) then .block
  else .wait fun t =>
    let id := t.free
    ((({ t with free := id + 1 }).deferOne ⟨c.b.key, id, 64, groveOf c.c.core, t.clock, va.toNat, pa, unit, none⟩).onPath c fun p => { p with held := some (.deferred id) }).onBundle c.b.key
      fun b => { b with notes := [] }

/-- The access of an X instruction to global memory with its alignment (R370, R415); a deferred page is walked again. -/
def State.xAccess (s : State) (c : Cur) (acc : Acc) (pred : Option (Fin 16)) (align : Nat) (va : Word) : Except Own LaneAcc :=
  match s.laneCheck c acc .mem align 0 va with
  | .ok a => if a.defer then .error (s.recWait c va none (unitOf a.addr)) else .ok a
  | .fault k => .error (xTrap c pred k va)
  | .miss => .error (.wait fun t => t.addMiss c acc va)

/-- Does a read of the bundle reach the flash controller while its unit or die is not ready (R93)? -/
def State.recHeld (s : State) (c : Cur) (a : LaneAcc) : Bool :=
  s.flashHeld a.addr && (s.l1Hit c.c.core c.g.tenant a.pbmt a.addr).isNone && !s.l2Has a.addr

/-- A read of a record by the bundle, a load of it (R415): its access; the loads and acquires before it (R221, R224), its own writes to the line (R223, R225), and a remapped row (R21) hold it back, and so does flash that is not
ready (R93); then poison. (log 28, DEDUCED) -/
def State.xRead (s : State) (c : Cur) (pred : Option (Fin 16)) (align : Nat) (va : Word) : Except Own LaneAcc :=
  match s.xAccess c .load pred align va with
  | .error o => .error o
  | .ok a =>
    if c.b.acquiring || (c.b.pend.any Pend.unperformed) || (c.b.sq.any fun e => e.op.rmwAt .mem a.addr) || (s.inflight.any fun f => f.owner == .bundle c.b.key && f.op.rmw && f.line == lineOf a.addr)
        || s.rowBusy a.addr then .error .block
    else if s.recHeld c a then .error (s.recWait c va (some a.addr) (unitOf a.addr))
    else if s.poisonAt c.g.tenant a.addr && (s.l1Hit c.c.core c.g.tenant a.pbmt a.addr).isNone then .error (.hold fun t => t.haltBundle c 0x20 (t.poisonSource a.addr) (BitVec.ofNat 64 (lineOf a.va)))
    else .ok a

/-- What a read of a record leaves beside its words: a foreign read of flash is counted (R90, R112). -/
def State.recRead (t : State) (c : Cur) (a : LaneAcc) : State := t.countForeign c.g.tenant a.addr

/-- n words of a record, as the bundle's loads return them. -/
def State.readRec (s : State) (c : Cur) (a : LaneAcc) (n : Nat) : List Word :=
  (List.range n).map fun i => BitVec.ofNat 64 (leNat (bytesFrom (s.bundleByte c.b c.c.core c.g.tenant a.pbmt) (a.addr + 8 * i) 8))

/-- Turn an access into an instruction's own check, with what it waits for. (log 28, DEDUCED) -/
def ownAcc (r : Except Own LaneAcc) (waits : Bool) : Own :=
  match r with
  | .error o => o
  | .ok _ => if waits then .block else .go

/-- The effect on an access that passed. -/
def onAcc (r : Except Own LaneAcc) (t : State) (f : LaneAcc → State) : State :=
  match r with
  | .ok a => f a
  | .error _ => t

/-- Write a destination and move on. -/
def State.done (t : State) (c : Cur) (d : Sel) (v : Word) : State := (t.setDst c d v).advance c

/-- Does a write of the bundle to a line wait or fly (R225)? -/
def SqOp.touches (o : SqOp) (line : Nat) : Bool :=
  match o with
  | .store _ parts => parts.any fun p => p.1.space == .mem && lineOf p.1.addr == line
  | .atom _ _ _ lanes => lanes.any fun l => l.acc.space == .mem && lineOf l.acc.addr == line
  | .aboInit a _ => lineOf a.addr == line
  | .aboArrive _ a _ => lineOf a.addr == line
  | .evAdd _ a _ => lineOf a.addr == line
  | .evArm _ a _ _ _ _ _ => lineOf a.addr == line
  | .hist a _ _ => lineOf a.addr == line
  | _ => false
def State.lineBusy (s : State) (b : Bundle) (pa : Nat) : Bool :=
  (b.sq.any fun e => e.op.touches (lineOf pa)) || s.inflight.any fun f => f.owner == .bundle b.key && f.line == lineOf pa

/-! ### Named barriers (R417, R418) -/

/-- A barrier after one more arrival with a count, and the status of the ticket (R417). -/
def barArrived (live : Nat) (b : Bar) (n : Nat) : Bar × Nat :=
  let e := if b.arrived = 0 then n else b.expected
  let a := b.arrived + 1
  let b' : Bar := if (if e = 0 then live else e) ≤ a then ⟨(b.gen + 1) % 2 ^ 32, e, 0⟩ else ⟨b.gen, e, a⟩
  (b', if n = e then 0 else 2)

/-- A count above 32 is treated as 0 (R417). -/
def barCount (v : Word) : Nat := if 32 < v.toNat then 0 else v.toNat

/-- A barrier of the issuer's crew as it stands. -/
def Cur.bar (c : Cur) (b : Nat) : Bar := (c.c.bars[b]?).getD ⟨0, 0, 0⟩

/-- A barrier number of 16 or more (R417). -/
def ownBar (x : RArgs) (c : Cur) (k : Own) : Own :=
  if 16 ≤ (c.raw x.a.sel).toNat then xTrap c x.pred 0x14 (c.raw x.a.sel) else k

/-- bar.arrive (R417): the arrival waits in the store queue, behind the bundle's earlier writes (R276); sD goes full with the ticket when it takes effect. (log 23, DEDUCED) -/
def execBarArrive (x : RArgs) (s : State) : Res :=
  s.issue (needX x true 2) (fun c => ownBar x c (if c.c.abandoned || s.performed c.b .crew then .go else .block)) Path.advance fun c t =>
    if c.c.abandoned then t.done c x.dst 1
    else
      let t := t.pushSq c (.barArrive t.free (c.raw x.a.sel).toNat (barCount (c.raw x.b.sel))) 0
      (t.addPend c .token .n64 x.dst false [] 1 none).advance c

def execBarWait (x : RArgs) (s : State) : Res :=
  s.issue (needX x true 2)
    (fun c => ownBar x c (if c.c.abandoned || passed (c.bar (c.raw x.a.sel).toNat).gen (fld (c.raw x.b.sel) 63 32) then .go else .block))
    Path.advance fun c t => t.done c x.dst (if c.c.abandoned then 1 else 0)

/-- bar.sync reads its operands once, for the arrival. -/
def needSync (x : RArgs) (c : Cur) : Need :=
  match c.p.held with
  | some (.barSync _ _ _) => { needX x true 2 c with srcs := [] }
  | _ => needX x true 2 c

/-- bar.sync arrives once, through the store queue as bar.arrive does, then waits on the ticket of its arrival (R418). -/
def ownSync (x : RArgs) (s : State) (c : Cur) : Own :=
  match c.p.held with
  | some (.barSync b _ ticket) => if c.c.abandoned || ticket.any fun k => passed (c.bar b).gen k.1 then .go else .block
  | _ => ownBar x c <|
    if c.c.abandoned then .go
    else if !s.performed c.b .crew then .block
    else .hold fun t =>
      let t := t.issued c { needX x true 2 c with dsts := [] }
      let id := t.free
      let b := (c.raw x.a.sel).toNat
      (({ t with free := id + 1 }).pushSq c (.barArrive id b (barCount (c.raw x.b.sel))) 0).onPath c fun p => { p with held := some (.barSync b id none) }

def execBarSync (x : RArgs) (s : State) : Res :=
  s.issue (needSync x) (ownSync x s) Path.advance fun c t =>
    t.done c x.dst (if c.c.abandoned then 1 else match c.p.held with | some (.barSync _ _ (some k)) => BitVec.ofNat 64 k.2 | _ => 0)

/-! ### Barrier objects (R419 to R422) -/

/-- A count from 1 to 65,535. -/
def aboCountBad (v : Word) : Bool := v == 0 || decide (65535 < v.toNat)

/-- The 32 bytes of a new object (R420). -/
def aboBytes (n scope grid crew : Nat) : List Byte :=
  leBytes 8 (wordOf [(16, n), (0, n)]).toNat ++ leBytes 8 (wordOf [(45, scope)]).toNat ++ leBytes 8 (wordOf [(32, grid), (0, crew)]).toNat ++ leBytes 8 0

def execAboInit (x : RArgs) (s : State) : Res :=
  let acc := fun (c : Cur) => s.xAccess c .atomic x.pred 32 (c.raw x.a.sel)
  s.issue (needX x true 2)
    (fun c => if aboCountBad (c.raw x.b.sel) then xTrap c x.pred 0x14 (c.raw x.b.sel)
      else ownAcc (acc c) (c.b.acquiring || decide (512 ≤ c.b.ackcnt)))
    Path.advance fun c t => onAcc (acc c) (t.advance c) fun a =>
      ((t.gatherAll c [a]).pushSq c (.aboInit a (aboBytes (c.raw x.b.sel).toNat x.md.val c.g.id c.c.key.crew)) 1).advance c

/-- The scope of a number (R309); larger ones count as system. -/
def scopeNo : Nat → Scope
  | 0 => .crew | 1 => .core | 2 => .grove | 3 => .device | _ => .system

/-- The scope fixed in an object (R419). -/
def State.aboScope (s : State) (pa : Nat) : Scope := scopeNo (fld (s.objWord pa 1) 47 45)

def execAboArrive (x : RArgs) (s : State) : Res :=
  let acc := fun (c : Cur) => s.xAccess c .atomic x.pred 32 (c.raw x.a.sel)
  s.issue (needX x true 2)
    (fun c => if aboCountBad (c.raw x.b.sel) then xTrap c x.pred 0x14 (c.raw x.b.sel)
      else match acc c with
        | .error o => o
        | .ok a => if c.b.acquiring || s.lineBusy c.b a.addr || !s.performed c.b (s.aboScope a.addr) || decide (512 ≤ c.b.ackcnt) then .block else .go)
    Path.advance fun c t => onAcc (acc c) (t.advance c) fun a =>
      let t := (t.gatherAll c [a]).pushSq c (.aboArrive t.free a (c.raw x.b.sel).toNat) 1
      (t.addPend c .token .n64 x.dst false [] 1 none).advance c

/-- Does an object name the issuer's abandoned crew as its creator (R422)? -/
def State.aboAbandoned (s : State) (c : Cur) (pa : Nat) : Bool :=
  let w := s.objWord pa 2
  c.c.abandoned && fld w 63 32 == c.g.id && fld w 23 0 == c.c.key.crew

/-- The result word of an object that its crew abandoned: done, status 0xFF (R422). -/
def State.aboLost (s : State) (pa : Nat) : Word := setFld (aboResult (s.objWord pa 0) (s.objWord pa 1) true) 15 8 0xFF

/-- A wait or test completes with a result word: what it has read of the object at its home leaves no older copy in the L1 (R225); when done it acquires at the object's scope and merges the flags. -/
def State.aboDone (t : State) (c : Cur) (x : RArgs) (pa : Nat) (r : Word) (lost : Bool) : State :=
  let t := t.l1Drop fun l => l.core == c.c.core && l.line == lineOf pa
  let t := if fld r 16 16 = 1 ∧ !lost then
      let t := if dropsL1 (t.aboScope pa) then t.l1DropCore c.c.core else t
      t.onArch c.b.key fun a => a.orFlags ((maskLanes c.g.width (c.active x.pred)).map fun l => (l, fld r 4 0))
    else t
  t.done c x.dst r

/-- Must the read of a barrier object wait: for an acquire, for the loads before it (R224), for the bundle's own writes to the line (R225)? -/
def State.aboHeld (s : State) (b : Bundle) (pa : Nat) : Bool := b.acquiring || b.pend.any Pend.unperformed || s.lineBusy b pa

/-- The word a wait completes with now: captured at its wake, lost, or read with its phase passed (R422, R450). -/
def State.aboReady (s : State) (c : Cur) (x : RArgs) (pa : Nat) : Option (Word × Bool) :=
  match c.p.held with
  | some (.abo _ _ (some r)) => some (r, false)
  | _ =>
    if s.aboAbandoned c pa then some (s.aboLost pa, true)
    else if passed (fld (s.objWord pa 0) 63 32) (fld (c.raw x.b.sel) 63 32) then some (aboResult (s.objWord pa 0) (s.objWord pa 1) true, false)
    else none

def execAboWait (x : RArgs) (s : State) : Res :=
  let acc := fun (c : Cur) => s.xAccess c .atomic x.pred 32 (c.raw x.a.sel)
  s.issue (needX x true 2)
    (fun c => match acc c with
      | .error o => o
      | .ok a =>
        if s.aboHeld c.b a.addr then .block
        else match s.aboReady c x a.addr with
          | some _ => .go
          | none => .wait fun t => t.onPath c fun p => { p with held := some (.abo a.addr (fld (c.raw x.b.sel) 63 32) none) })
    Path.advance fun c t => onAcc (acc c) (t.advance c) fun a =>
      match s.aboReady c x a.addr with
      | some r => t.aboDone c x a.addr r.1 r.2
      | none => t.advance c

def execAboTest (x : RArgs) (s : State) : Res :=
  let acc := fun (c : Cur) => s.xAccess c .atomic x.pred 32 (c.raw x.a.sel)
  s.issue (needX x true 2)
    (fun c => match acc c with
      | .error o => o
      | .ok a => if s.aboHeld c.b a.addr then .block else .go)
    Path.advance fun c t => onAcc (acc c) (t.advance c) fun a =>
      match s.aboReady c x a.addr with
      | some r => t.aboDone c x a.addr r.1 r.2
      | none => t.aboDone c x a.addr (aboResult (s.objWord a.addr 0) (s.objWord a.addr 1) false) false

/-! ### Stage rings (R173, R423, R424, R460) -/

/-- Is a ring.init refused (R423)? -/
def ringBad (limit : Nat) (r base desc : Word) : Bool :=
  let size := fld desc 19 8
  let n := fld desc 4 0
  decide (16 ≤ r.toNat) || fld desc 63 20 != 0 || fld desc 7 5 != 0 || size == 0 || decide (1024 < size) || n == 0 || decide (16 < n)
    || base.toNat % 128 != 0 || decide (limit < base.toNat + 128 + n * (64 * size))

def execRingInit (x : RArgs) (s : State) : Res :=
  s.issue (needX x true 3)
    (fun c => if ringBad (4096 * c.g.scratch) (c.raw x.a.sel) (c.raw x.b.sel) (c.raw x.c.sel) then xTrap c x.pred 0x14 (c.raw x.b.sel) else .go)
    Path.advance fun c t =>
      let base := (c.raw x.b.sel).toNat
      let desc := c.raw x.c.sel
      let ring : Ring := ⟨base, 64 * fld desc 19 8, fld desc 4 0, false⟩
      let t := t.onCrew c.c.key fun k => { k with rings := mapPut k.rings (c.raw x.a.sel).toNat ring }
      let parts := (List.range ring.count).map fun i => ((⟨i, .ls, base + 8 * i, base + 8 * i, 0, 0, false, 1⟩ : LaneAcc), leBytes 8 0)
      (t.pushSq c (.ringInit (c.raw x.a.sel).toNat parts) 0).advance c

/-- The ring and stage of an operation, or its trap (R423, R424). -/
def ownRing (x : RArgs) (c : Cur) (k : Ring → Nat → Own) : Own :=
  match mapGet c.c.rings (c.raw x.a.sel).toNat with
  | none => xTrap c x.pred 0x01 0
  | some r =>
    let st := (c.raw x.b.sel).toNat
    if r.count ≤ st then xTrap c x.pred 0x14 (BitVec.ofNat 64 (r.base + 8 * st)) else k r st

/-- ring.post (R460): it enters the store queue; sD goes full when it takes effect. In an abandoned crew a full stage ends it at once. -/
def execRingPost (x : RArgs) (s : State) : Res :=
  s.issue (needX x true 2) (fun c => ownRing x c fun _ _ => if s.performed c.b .crew then .go else .block) Path.advance fun c t =>
    let t := t.pushSq c (.ringPost t.free (c.raw x.a.sel).toNat (c.raw x.b.sel).toNat) 0
    (t.addPend c .token .n64 x.dst false [] 1 none).advance c

def execRingFree (x : RArgs) (s : State) : Res :=
  s.issue (needX x true 2) (fun c => ownRing x c fun _ _ => if s.performed c.b .crew then .go else .block) Path.advance fun c t =>
    (t.pushSq c (.ringFree (c.raw x.a.sel).toNat (c.raw x.b.sel).toNat) 0).advance c

/-- Does the store queue hold an operation or a store on a stage word? -/
def SqOp.onStage (o : SqOp) (r st a : Nat) : Bool :=
  match o with
  | .ringPost _ r' st' => r' == r && st' == st
  | .ringFree r' st' => r' == r && st' == st
  | .ringInit _ parts => parts.any fun p => decide (p.1.addr ≤ a + 7 ∧ a < p.1.addr + p.2.length)
  | .store _ parts => parts.any fun p => p.1.space == .ls && decide (p.1.addr ≤ a + 7 ∧ a < p.1.addr + p.2.length)
  | _ => false

/-- Is a stage full with the phase awaited? -/
def State.stageReady (s : State) (c : Cur) (r : Ring) (st : Nat) (p : Word) : Bool :=
  let b := c.c.stageBits s.free r st
  b.testBit 1 && b.testBit 0 == p.getLsbD 0

def execRingWait (x : RArgs) (s : State) : Res :=
  s.issue (needX x true 3)
    (fun c => ownRing x c fun r st =>
      if c.b.acquiring || c.b.sq.any fun e => e.op.onStage (c.raw x.a.sel).toNat st (r.base + 8 * st) then .block
      else if s.stageReady c r st (c.raw x.c.sel) || c.c.abandoned then .go else .block)
    Path.advance fun c t =>
      let ok := match mapGet c.c.rings (c.raw x.a.sel).toNat with
        | some r => s.stageReady c r (c.raw x.b.sel).toNat (c.raw x.c.sel)
        | none => false
      t.done c x.dst (if ok then 0 else 1)

/-! ### Event counters (R425, R426) -/

def execEvAdd (x : RArgs) (s : State) : Res :=
  let acc := fun (c : Cur) => s.xAccess c .atomic x.pred 8 (c.raw x.a.sel)
  s.issue (needX x true 2)
    (fun c => ownAcc (acc c) (c.b.acquiring || (x.md.val == 1 && !s.performed c.b .system) || decide (512 ≤ c.b.ackcnt)))
    Path.advance fun c t => onAcc (acc c) (t.advance c) fun a =>
      let t := (t.gatherAll c [a]).pushSq c (.evAdd t.free a (c.raw x.b.sel)) 1
      (t.addPend c .token .n64 x.dst false [] 1 none).advance c

/-- Alignment of the argument of an arming (R426). -/
def armAlign (kind : Nat) : Nat := match kind with | 0 => 64 | 1 => 32 | _ => 8

/-- For .store, sD is read at issue as the value (R426). -/
def needArm (x : RArgs) (c : Cur) : Need :=
  let n := needX x true 3 c
  if x.md.val = 2 then { n with srcs := n.srcs ++ [(⟨x.dst, false, false⟩, false)] } else n

/-- The record of a .launch arming; other kinds read none. -/
def State.armRecord (s : State) (c : Cur) (x : RArgs) : Except Own (List Word) :=
  if x.md.val = 0 then
    match s.xRead c x.pred 64 (c.raw x.c.sel) with
    | .error o => .error o
    | .ok a => .ok (s.readRec c a 8)
  else .ok []

def ownArm (x : RArgs) (s : State) (c : Cur) : Own :=
  if (c.raw x.a.sel).toNat % 8 ≠ 0 then xTrap c x.pred 0x09 (c.raw x.a.sel)
  else if (c.raw x.c.sel).toNat % armAlign x.md.val ≠ 0 then xTrap c x.pred 0x09 (c.raw x.c.sel)
  else match s.xAccess c .atomic x.pred 8 (c.raw x.a.sel) with
    | .error o => o
    | .ok _ => match s.armRecord c x with
      | .error o => o
      | .ok _ => if c.b.acquiring || decide (512 ≤ c.b.ackcnt) then .block else .go

def execEvArm (x : RArgs) (s : State) : Res :=
  s.issue (needArm x) (ownArm x s) Path.advance fun c t =>
    onAcc (s.xAccess c .atomic x.pred 8 (c.raw x.a.sel)) (t.advance c) fun a =>
      let rcd := match s.armRecord c x with | .ok r => r | .error _ => []
      let t := if x.md.val = 0 then onAcc (s.xRead c x.pred 64 (c.raw x.c.sel)) t (t.recRead c) else t
      let t := (t.gatherAll c [a]).pushSq c
        (.evArm t.free a x.md.val (c.raw x.b.sel) (c.raw x.c.sel) (c.raw x.dst) rcd) 1
      (t.addPend c .token .n64 x.dst false [] 1 none).advance c

/-! ### Launch, child wait, step (R427 to R429) -/

def ownLaunch (x : RArgs) (s : State) (c : Cur) : Own :=
  if 10 ≤ c.g.depth then xTrap c x.pred 0x0B 0
  else ownAcc (s.xRead c x.pred 64 (c.raw x.a.sel)) (c.b.acquiring || !s.performed c.b .device || s.tableFull)

def execLaunch (x : RArgs) (s : State) : Res :=
  s.issue (needX x false 1) (ownLaunch x s) Path.advance fun c t =>
    onAcc (s.xRead c x.pred 64 (c.raw x.a.sel)) (t.advance c) fun a =>
      let t := (t.recRead c a).pushSq c (.launch t.free (s.readRec c a 8)) 0
      (t.addPend c .token .n64 x.dst false [] 1 none).advance c

/-- Does the bundle have a launch on its way? -/
def Bundle.launching (b : Bundle) : Bool := b.sq.any fun e => match e.op with | .launch _ _ => true | _ => false

/-- cwait (R428): every child, or one; a wait that has begun completes with 0. A gridid has 32 bits (log 20, DEDUCED). -/
def ownCwait (x : RArgs) (c : Cur) : Own :=
  let g := (c.raw x.a.sel).toNat % 2 ^ 32
  if g = 0xFFFFFFFF then (if c.b.children.isEmpty && !c.b.launching then .go else .block)
  else if c.b.children.contains g then
    (if c.p.held.isSome then .block else .wait fun t => t.onPath c fun p => { p with held := some (.child g) })
  else if c.b.launching && c.p.held.isNone then .block
  else .go

def execCwait (x : RArgs) (s : State) : Res :=
  s.issue (needX x false 1) (ownCwait x) Path.advance fun c t =>
    let waited := (c.raw x.a.sel).toNat % 2 ^ 32 = 0xFFFFFFFF ∨ c.p.held.isSome
    if waited then (t.l1DropCore c.c.core).done c x.dst 0 else t.done c x.dst 1

/-- step (R151, R429): it blocks while a change of the die set is announced, until the change is made and releases it (R152); its issue is charged once. -/
def execStep (x : RArgs) (s : State) : Res :=
  s.issue (needX x true 0)
    (fun c =>
      if c.p.held == some .step then .block
      else if c.g.announce.isSome then .wait fun t => (t.charged c.c.core c.g.tenant 1).onPath c fun p => { p with held := some .step }
      else .go)
    Path.advance fun c t => t.advance c

/-! ### Register blocks (R183, R184, R434) -/

/-- The order of a path's racq, if it waits in one. -/
def Path.racq (p : Path) : Option (Nat × Nat) := match p.held with | some (.racq n o _) => some (n, o) | _ => none

/-- The racq requests that a bundle's paths wait in: granules and order. -/
def Bundle.racqs (b : Bundle) : List (Nat × Nat) := (b.arch.slot0.toList ++ b.arch.slot1.toList).filterMap Path.racq

/-- The requests that are pending on a core; a reclaimed bundle that asks for none waits for the return of its blocks in the place of its last acquisition (R164). (log 36, DEDUCED) -/
def State.pendingRacq (s : State) (core : Nat) : List (Nat × Nat) :=
  (s.bundles.filter fun b => b.live && (s.residents core).any fun c => c.key == b.key.ck).flatMap fun b =>
    if b.reclaimed && b.racqs.isEmpty then [(0, b.extAt)] else b.racqs

/-- Free register granules of a core. -/
def State.freeRegs (s : State) (core : Nat) : Nat := (s.freeAmounts core).getD 2 0

/-- Extended granules a bundle asks for; the range of R183. -/
def racqBad (c : Cur) (n : Word) : Bool := decide (16 < c.g.regs + c.b.arch.ext + n.toNat)

/-- Grant extended granules: a granule that passes from another tenant is 0, the registers of the others hold unspecified values (R183, R185). (log 105, DESIGN CHOICE) -/
def State.grant (t : State) (c : Cur) (n : Nat) : State :=
  let id := t.free
  let lo := c.g.regs + c.b.arch.ext
  let order := t.hub.nextOrder
  let hub := { t.hub with nextOrder := order + 1 }
  let grans := t.freeRegGrans c.c.core n
  let fill := fun (m : Bank) (x : Nat × Nat) =>
    let keys := granKeys (lo + x.1)
    if t.passes c.g.tenant (regPlace c.c.core x.2) then clearKeys m keys else keys.foldl (fun m k => bankFree m k id) m
  let keys := (List.range n).flatMap fun j => granKeys (lo + j)
  (({ t with free := id + 1, hub := hub }).took c.g.tenant (grans.map (regPlace c.c.core))).onBundle c.b.key fun b =>
    { b with extAt := if n = 0 then b.extAt else order
             grans := b.grans ++ grans
             arch := { b.arch with ext := b.arch.ext + n, bad := b.arch.bad.filter fun k => !keys.contains k, regs := (grans.mapIdx fun j x => (j, x)).foldl fill b.arch.regs } }

def execRacq (x : RArgs) (s : State) : Res :=
  s.issue (needX x false 1)
    (fun c =>
      let n := c.raw x.a.sel
      if n = 0 then .go
      else if racqBad c n then xTrap c x.pred 0x05 0
      else match c.p.racq with
        | none =>
          if (s.pendingRacq c.c.core).isEmpty && decide (n.toNat ≤ s.freeRegs c.c.core) then .go
          else .wait fun t =>
            let order := t.hub.nextOrder
            let hub := { t.hub with nextOrder := order + 1 }
            ({ t with hub := hub }).onPath c fun p => { p with held := some (.racq n.toNat order order) }
        | some (k, o) =>
          if ((s.pendingRacq c.c.core).any fun y => decide (y.2 < o)) || decide (s.freeRegs c.c.core < k) then .block else .go)
    Path.advance fun c t => (t.grant c (c.raw x.a.sel).toNat).advance c

def execRtry (x : RArgs) (s : State) : Res :=
  s.issue (needX x false 1) (fun c => if racqBad c (c.raw x.a.sel) then xTrap c x.pred 0x05 0 else .go) Path.advance fun c t =>
    let n := (c.raw x.a.sel).toNat
    if n ≤ s.freeRegs c.c.core ∧ (s.pendingRacq c.c.core).isEmpty then (t.grant c n).done c x.dst (lanesOf c.g.width)
    else t.done c x.dst 0

/-- rrel gives granules back from the top: their registers' contents are lost (R183). -/
def execRrel (x : RArgs) (s : State) : Res :=
  s.issue (needX x false 1) ownNone Path.advance fun c t =>
    (t.onBundle c.b.key fun b =>
      let e := b.arch.ext - min (c.raw x.a.sel).toNat b.arch.ext
      { b with grans := b.grans.take (c.g.regs + e)
               arch := { b.arch with ext := e, awaits := b.arch.awaits.filter fun y => match y.1 with | .v n => decide (n.val < 8 * (c.g.regs + e)) | _ => true } }).advance c

end Sys2Proof.Machine
end

