-- ==== Sys2Proof/Machine/Message.lean ====
section
/-! DEFINITION. Class X at issue: send, narm, the cancelling narm, coll (R267, R268, R430 to R433). What they set in motion is in the network and collective events. -/

namespace Sys2Proof.Machine

/-! ### Messages (R50, R430 to R432) -/

/-- Is a code profile valid (R50)? -/
def profileOk (p : Word) : Bool :=
  decide (1 ≤ fld p 19 14) && decide (fld p 19 14 ≤ 32) && decide (fld p 23 20 ≤ 8) && decide (fld p 19 14 + fld p 23 20 ≤ fld p 31 26)

/-- A code profile as its register reads: valid is computed from the other fields (R50). -/
def State.profile (s : State) (tenant n : Nat) : Word :=
  let p := s.reg (0x4000 + 8 * (16 * tenant + n % 16))
  setFld p 0 0 (profileOk p).toNat

/-- The greatest message length (R45). -/
def maxMessage : Nat := 67108864

def ownSend (x : RArgs) (s : State) (c : Cur) : Own :=
  if !(s.profile c.g.tenant x.md.val).getLsbD 0 then xTrap c x.pred 0x0C 0
  else if maxMessage < (c.raw x.b.sel).toNat then xTrap c x.pred 0x14 (c.raw x.b.sel)
  else if c.b.acquiring || !s.writesDone c.b || decide (512 ≤ c.b.ackcnt) then .block else .go

/-- send (R430): the profile is latched at issue, the token goes empty, ackcnt counts one; the message leaves through the store queue (R276). -/
def execSend (x : RArgs) (s : State) : Res :=
  s.issue (needX x false 3) (ownSend x s) Path.advance fun c t =>
    let t := t.pushSq c (.send t.free (s.profile c.g.tenant x.md.val) (c.raw x.a.sel) (c.raw x.b.sel).toNat (c.raw x.c.sel)) 1
    (t.addPend c .token .n64 x.dst false [] 1 none).advance c

/-- Is a receive descriptor malformed (R431)? -/
def descMalformed (w : List Word) : Bool :=
  fld (w.getD 0 0) 63 57 != 0 || decide (maxMessage < (w.getD 1 0).toNat) || fld (w.getD 2 0) 63 57 != 0 || fld (w.getD 3 0) 63 32 != 0
    || fld (w.getD 4 0) 63 57 != 0 || fld (w.getD 4 0) 5 0 != 0 || w.getD 5 0 != 0 || w.getD 6 0 != 0 || w.getD 7 0 != 0

/-- The descriptor and the launch record that a narm reads at issue, in that order (R431). -/
def State.narmWords (s : State) (c : Cur) (x : RArgs) : Except Own (List Word × List Word) :=
  match s.xRead c x.pred 64 (c.raw x.a.sel) with
  | .error o => .error o
  | .ok a =>
    let w := s.readRec c a 8
    if descMalformed w ∨ w.getD 4 0 = 0 then .ok (w, [])
    else match s.xRead c x.pred 64 (w.getD 4 0) with
      | .error o => .error o
      | .ok b => .ok (w, s.readRec c b 8)

/-- The records that a narm reads. -/
def State.narmReads (s : State) (c : Cur) (x : RArgs) : List LaneAcc :=
  match s.xRead c x.pred 64 (c.raw x.a.sel), s.narmWords c x with
  | .ok a, .ok (w, _ :: _) => match s.xRead c x.pred 64 (w.getD 4 0) with | .ok b => [a, b] | .error _ => [a]
  | .ok a, _ => [a]
  | .error _, _ => []

/-- h is read only where desc is 0 (R432). -/
def needNarm (x : RArgs) (c : Cur) : Need := needX x false (if c.raw x.a.sel = 0 then 2 else 1) c

def ownNarm (x : RArgs) (s : State) (c : Cur) : Own :=
  if c.raw x.a.sel = 0 then .go
  else match s.narmWords c x with
    | .error o => o
    | .ok _ => if c.b.acquiring then .block else .go

/-- narm (R431, R432): an arming or, where desc is 0, a cancelling; either reaches the hub through the store queue (R276). -/
def runNarm (x : RArgs) (s : State) : Res :=
  s.issue (needNarm x) (ownNarm x s) Path.advance fun c t =>
    let op := if c.raw x.a.sel = 0 then SqOp.narmCancel t.free (c.raw x.b.sel)
      else match s.narmWords c x with
        | .ok r => .narm t.free r.1 r.2
        | .error _ => .narm t.free [] []
    let t := (if c.raw x.a.sel = 0 then t else (s.narmReads c x).foldl (fun t a => t.recRead c a) t).pushSq c op 0
    (t.addPend c .token .n64 x.dst false [] 1 none).advance c

def execNarm (x : RArgs) (s : State) : Res := runNarm x s
def execNarmCancel (x : RArgs) (s : State) : Res := runNarm x s

/-! ### Collectives (R267, R268, R433) -/

/-- Collectives of a communicator that a bundle has issued, those still in its store queue included. -/
def Bundle.collCount (b : Bundle) (n : Nat) : Nat :=
  natsGet b.colls n + (b.sq.filter fun e => match e.op with | .coll _ sel _ _ _ => fld sel 7 0 == n | _ => false).length

/-- A crew's collectives of a communicator in flight. -/
def State.collsOf (s : State) (k : CKey) (n : Nat) : List CollRec := s.coll.recs.filter fun r => r.crew == k && r.comm == n

/-- A crew's collectives of a communicator in flight, by their numbers in the crew: those that have left a store queue and those that still stand in one. -/
def State.collNos (s : State) (k : CKey) (n : Nat) : List Nat :=
  ((s.collsOf k n).map (fun r => r.nth) ++ (s.crewBundles k).flatMap fun b => (List.range (b.collCount n - natsGet b.colls n)).map fun i => natsGet b.colls n + i).eraseDups

/-- Does a further collective wait for one to complete (R268)? One that another bundle of the crew has begun does not. -/
def State.collFull (s : State) (c : Cur) (n : Nat) : Bool :=
  let nos := s.collNos c.c.key n
  decide (16 ≤ nos.length) && !nos.contains (c.b.collCount n)

def execColl (x : RArgs) (s : State) : Res :=
  s.issue (needX x true 3)
    (fun c => if c.b.acquiring || !s.performed c.b .system || s.collFull c (fld (c.raw x.a.sel) 7 0) then .block else .go)
    Path.advance fun c t =>
      let sel := c.raw x.a.sel
      (t.pushSq c (.coll x.md.val sel (c.raw x.b.sel) (c.raw x.c.sel) (s.tensor c.g.tenant (fld sel 15 8))) 0).advance c

end Sys2Proof.Machine
end

