-- ==== Sys2Proof/Machine/System.lean ====
section
/-! DEFINITION. Class X at issue: the tensor format table, fmap, tlbh, special registers (R193, R435 to R440). -/

namespace Sys2Proof.Machine

/-! ### The tensor format table (R435 to R437) -/

/-- The entry an image describes. -/
def tensorOf (w : List Word) (hist : Nats) : Tensor :=
  let w0 := w.getD 0 0
  { format := fld w0 63 59, scaleMode := fld w0 58 56, zeroPoint := fld w0 55 48, histBase := fld w0 47 40, location := fld w0 39 38,
    base := w.getD 1 0, rows := fld (w.getD 2 0) 63 32, cols := fld (w.getD 2 0) 31 0, pitch := fld (w.getD 3 0) 39 0,
    scaleBase := w.getD 4 0, hist := hist }

/-- Is an image refused: location 3 or a nonzero zero field (R436)? -/
def imageBad (w : List Word) : Bool :=
  fld (w.getD 0 0) 39 38 == 3 || fld (w.getD 0 0) 37 1 != 0 || fld (w.getD 3 0) 63 40 != 0 || w.getD 5 0 != 0 || w.getD 6 0 != 0 || w.getD 7 0 != 0

/-- The image of an entry, clear_hist 0. -/
def Tensor.image (t : Tensor) : List Word :=
  [wordOf [(59, t.format), (56, t.scaleMode), (48, t.zeroPoint), (40, t.histBase), (38, t.location)], t.base,
   wordOf [(32, t.rows), (0, t.cols)], wordOf [(0, t.pitch)], t.scaleBase, 0, 0, 0]

/-- Set a tenant's entry. -/
def State.setTensor (s : State) (tenant n : Nat) (t : Tensor) : State := { s with tft := mapPut s.tft (256 * tenant + n) t }

/-- Does an entry of a store queue read a histogram? -/
def SqOp.isHist : SqOp → Bool
  | .hist _ _ _ => true
  | _ => false

/-- tft.set (R436): the image is read at issue, the entry replaced and sD written in the same step, once the bundle's earlier reads of histograms have taken effect. (log 26, DESIGN CHOICE) -/
def execTftSet (x : RArgs) (s : State) : Res :=
  s.issue (needX x false 2) (fun c => ownAcc (s.xRead c x.pred 64 (c.raw x.b.sel)) (c.b.sq.any fun e => e.op.isHist)) Path.advance fun c t =>
    onAcc (s.xRead c x.pred 64 (c.raw x.b.sel)) (t.advance c) fun a =>
      let t := t.recRead c a
      let w := s.readRec c a 8
      let n := fld (c.raw x.a.sel) 7 0
      if imageBad w then t.done c x.dst 1
      else
        let hist := if (w.getD 0 0).getLsbD 0 then [] else (s.tensor c.g.tenant n).hist
        (t.setTensor c.g.tenant n (tensorOf w hist)).done c x.dst 0

/-- Store some bytes through the store queue at an access (R437). -/
def State.storeAt (t : State) (c : Cur) (a : LaneAcc) (b : List Byte) : State := (t.gatherAll c [a]).pushSq c (.store false [(a, b)]) 1

def execTftGet (x : RArgs) (s : State) : Res :=
  let acc := fun (c : Cur) => s.xAccess c .store x.pred 64 (c.raw x.b.sel)
  s.issue (needX x false 2) (fun c => ownAcc (acc c) (c.b.acquiring || decide (512 ≤ c.b.ackcnt))) Path.advance fun c t =>
    onAcc (acc c) (t.advance c) fun a =>
      (t.storeAt c a ((s.tensor c.g.tenant (fld (c.raw x.a.sel) 7 0)).image.flatMap fun w => leBytes 8 w.toNat)).advance c

/-- tft.hist (R437): the counters are read, stored and cleared in one step as it leaves the store queue (R276, R277). -/
def execTftHist (x : RArgs) (s : State) : Res :=
  let acc := fun (c : Cur) => s.xAccess c .store x.pred 128 (c.raw x.b.sel)
  s.issue (needX x false 3) (fun c => ownAcc (acc c) (c.b.acquiring || decide (512 ≤ c.b.ackcnt))) Path.advance fun c t =>
    onAcc (acc c) (t.advance c) fun a =>
      ((t.gatherAll c [a]).pushSq c (.hist a (fld (c.raw x.a.sel) 7 0) ((c.raw x.c.sel).getLsbD 0)) 1).advance c

/-! ### Translation (R438, R439) -/

/-- fmap parks its bundle on an empty pool with the escalation record of R83; else it waits past the strike horizon in the store queue (R276). -/
def ownFmap (x : RArgs) (s : State) (c : Cur) : Own :=
  let z := x.md.val
  match s.fmapPlan c.g.ctx z (c.raw x.a.sel) (c.raw x.b.sel) with
  | .error _ => .go
  | .ok _ =>
    if s.hasFrame c.g.tenant z then .go
    else .wait fun t =>
      (t.onBundle c.b.key fun b => { b with parked := some (3 * c.g.tenant + z) }).escalate c.g.tenant c.g.ctx 2 c.g.tag z (c.raw x.a.sel)

def execFmap (x : RArgs) (s : State) : Res :=
  s.issue (fun c => { needX x false 2 c with hand := true, sup := true }) (ownFmap x s) Path.advance fun c t =>
    let t := t.pushSq c (.fmap t.free x.md.val (c.raw x.a.sel) (c.raw x.b.sel)) 0
    (t.addPend c .token .n64 x.dst false [] 1 none).advance c

/-- tlbh (R439): every gathered mark of the grid's context reaches its leaf, then sD. -/
def execTlbh (x : RArgs) (s : State) : Res :=
  s.issue (needX x false 0) ownNone Path.advance fun c t => (t.harvestAll fun y => y.2.ctx == c.g.ctx).done c x.dst 0

/-! ### Special registers (R193, R440) -/

/-- The value of a special register that is not per lane. -/
def Cur.sys (c : Cur) (s : State) (n : Nat) : Word :=
  let nat := BitVec.ofNat 64
  match n with
  | 0x01 => nat c.b.key.idx
  | 0x02 => nat c.b.key.crew
  | 0x03 => nat c.b.key.grid
  | 0x04 => nat c.c.core
  | 0x05 => nat (columnOf c.c.core)
  | 0x06 => nat (groveOf c.c.core)
  | 0x07 => nat (dieOf c.c.core)
  | 0x08 => nat (c.g.oldDies.getD c.g.dies).length
  | 0x09 => nat (((c.g.oldDies.getD c.g.dies).findIdx? fun d => d == if c.g.oldDies.isSome then dieOf c.c.core else c.c.die).getD 0)
  | 0x0A => nat c.c.plgen
  | 0x0B => nat s.clock
  | 0x0C => nat c.b.ackcnt
  | 0x0D => nat c.g.tenant
  | 0x0E => nat c.g.depth
  | 0x10 => nat c.g.width
  | 0x11 => nat c.b.arch.stack.length
  | 0x12 => c.p.jt
  | 0x20 => c.b.arch.trap.tcause
  | 0x21 => c.b.arch.trap.tpc
  | 0x22 => c.b.arch.trap.tidx
  | 0x23 => c.b.arch.trap.tmask
  | 0x24 => c.b.arch.trap.tm0
  | 0x25 => nat c.b.arch.tdepth
  | n => (c.b.arch.scratch[n - 0x28]?).getD 0

/-- The faulting address of a lane. -/
def TrapSt.tvalOf (t : TrapSt) (l : Nat) : Word := ((t.tval.find? fun x => x.1 == l).map fun x => x.2).getD 0

/-- A lane of a per-lane special register. -/
def Cur.sysLane (c : Cur) (n l : Nat) : Lane :=
  match n with
  | 0x00 => BitVec.ofNat 32 l
  | 0x0F => BitVec.ofNat 32 (natsGet c.b.arch.fpflags l)
  | 0x26 => (c.b.arch.trap.tvalOf l).truncate 32
  | _ => ((c.b.arch.trap.tvalOf l) >>> 32).truncate 32

def needSysr (x : IArgs) (c : Cur) : Need :=
  { cls := .x, sync := true, sup := sysSuper (fld (x.imm.zeroExtend 64) 7 0), pred := x.pred,
    dsts := [(x.dst, false, match x.dst with | .v _ => c.allActive x.pred || c.active x.pred == 0 | _ => true)] }

def execSysr (x : IArgs) (s : State) : Res :=
  s.issue (needSysr x) ownNone Path.advance fun c t =>
    let n := fld (x.imm.zeroExtend 64) 7 0
    let t := match x.dst with
      | .v d =>
        let act := maskLanes c.g.width (c.active x.pred)
        if act.isEmpty then t else
          t.onArch c.b.key fun a => (a.setV d.val (act.map fun l => (l, c.sysLane n l))).fill x.dst
      | d => t.setDst c d (c.sys s n)
    t.advance c

/-- Write a special register that is not per lane (R193). -/
def Arch.setSys (a : Arch) (n : Nat) (v : Word) : Arch :=
  let t := a.trap
  match n with
  | 0x21 => { a with trap := { t with tpc := v } }
  | 0x22 => { a with trap := { t with tidx := v } }
  | 0x23 => { a with trap := { t with tmask := v } }
  | 0x24 => { a with trap := { t with tm0 := v } }
  | n => { a with scratch := a.scratch.set (n - 0x28) v }

/-- Write lanes of fpflags: bits [31:5] are written 0. -/
def Arch.setFlags (a : Arch) (l : List (Nat × Lane)) : Arch :=
  { a with fpflags := l.foldl (fun f x => natsPut f x.1 (x.2.toNat % 32)) a.fpflags }

def execSysw (x : IArgs) (s : State) : Res :=
  s.issue
    (fun _ => { cls := .x, hand := true, sup := sysSuper (fld (x.imm.zeroExtend 64) 7 0), pred := x.pred, srcs := [(x.a, false)] })
    ownNone Path.advance fun c t =>
      let n := fld (x.imm.zeroExtend 64) 7 0
      let t := match x.a.sel with
        | .v r => t.onArch c.b.key fun a => a.setFlags ((maskLanes c.g.width (c.active x.pred)).map fun l => (l, c.b.v r.val l))
        | q => t.onArch c.b.key fun a => a.setSys n (c.raw q)
      t.advance c

end Sys2Proof.Machine
end

