-- ==== Sys2Proof/Machine/Vector.lean ====
section
/-! DEFINITION. Class V: the per-lane and cross-lane operations, their register form and their sweep form (R312 to R314, R348 to R368). -/

namespace Sys2Proof.Machine

/-! ### Types of operands (R350, R358, R361, R368) -/

/-- The type of a field descriptor: a whole 32-bit lane, or 64 bits under a 64-bit type. -/
def descTy (ty : Ty) : Ty := if ty.is64 then .n64 else .n32

/-- The types an operation reads its sources a, b, c under, and writes its destination under. -/
def vTypes (o : VOp) (ty : Ty) (md : Nat) : Ty × Ty × Ty × Ty :=
  match o with
  | .cvt => ((Ty.ofCode (md % 16)).getD .i8, ty, ty, ty)
  | .pack | .unpack | .vote => (.n32, .n32, .n32, .n32)
  | .perm | .bcast | .ldexp => (ty, .n32, ty, ty)
  | .shfl => (ty, .n32, .n32, ty)
  | .bfx => (ty, descTy ty, ty, ty)
  | .bfi => (ty, ty, descTy ty, ty)
  | .cls => (ty, ty, ty, .n32)
  | _ => (ty, ty, ty, ty)

/-! ### One lane (R355 to R362) -/

/-- The result of an operation in one lane from its n-bit patterns, and its flags. -/
def vLane (o : VOp) (ty : Ty) (md a b c old : Nat) : PF :=
  let n := ty.bits
  let A := tyVal n ty.signed a
  let B := tyVal n ty.signed b
  let C := tyVal n ty.signed c
  let f := fmtOf ty
  let x := f.val a
  let y := f.val b
  let rnd := md / 16 % 4
  let int := fun (v : Int) => ((patOf n v, 0) : PF)
  let k := shiftK n b
  if ty.isInt then
    match o with
    | .add => int (A + B)
    | .sub => int (A - B)
    | .mul => int (A * B)
    | .mulh => int (Int.fdiv (A * B) (2 ^ n))
    | .fma => int (A * B + C)
    | .div => int (sdiv A B)
    | .min => int (if A < B then A else B)
    | .max => int (if B < A then A else B)
    | .abs => int A.natAbs
    | .neg => int (-A)
    | .addsat => int (clampI (tyMin ty) (tyMax ty) (A + B))
    | .subsat => int (clampI (tyMin ty) (tyMax ty) (A - B))
    | .and => (a &&& b, 0)
    | .or => (a ||| b, 0)
    | .xor => (a ^^^ b, 0)
    | .not => (2 ^ n - 1 - a % 2 ^ n, 0)
    | .shl => int (A * 2 ^ k)
    | .shr => int (Int.fdiv A (2 ^ k))
    | .cmp => ((condInt (md % 16) A B).toNat, 0)
    | .sel => (if c = 0 then b else a, 0)
    | .clz => (clz n a, 0)
    | .popc => (popc n a, 0)
    | .cvt => cvtVal ((Ty.ofCode (md % 16)).getD .i8) ty rnd a
    | .pack => packLane (md % 32) old a b
    | .unpack => unpackLane (md % 32) a b
    | .bfx => int (bfxVal n ty.signed a (BitVec.ofNat 64 b))
    | .bfi => (bfiVal n a b (BitVec.ofNat 64 c), 0)
    | _ => (a, 0)
  else
    match o with
    | .add => f.addF rnd x y
    | .sub => f.addF rnd x y.neg
    | .mul => f.mulF rnd x y
    | .fma => f.fmaF rnd x y (f.val c)
    | .div => f.divF rnd x y
    | .min => f.minmax false a b
    | .max => f.minmax true a b
    | .abs => (a % 2 ^ (n - 1), 0)
    | .neg => (a ^^^ 2 ^ (n - 1), 0)
    | .sqrt => f.sqrtF rnd x
    | .rcp => f.rcpF rnd x
    | .rsqrt => f.rsqrtF rnd x
    | .exp2 => f.exp2F rnd x
    | .log2 => f.log2F rnd x
    | .cmp => f.cmp (md % 16) a b
    | .sel => (if c = 0 then b else a, 0)
    | .cvt => cvtVal ((Ty.ofCode (md % 16)).getD .i8) ty rnd a
    | .frnd => f.frndF rnd x
    | .cls => (f.classOf a, 0)
    | .copysign => (a % 2 ^ (n - 1) + b / 2 ^ (n - 1) * 2 ^ (n - 1), 0)
    | .ldexp => f.ldexpF rnd x (tyVal 32 true b)
    | .fract => f.fractF x
    | _ => (a, 0)

/-! ### Across lanes (R363 to R367) -/

/-- Largest power of two at most a number, among 2^6 down to 1. -/
def pow2Le : Nat → Nat → Nat
  | 0, _ => 1
  | k + 1, x => if 2 ^ (k + 1) ≤ x then 2 ^ (k + 1) else pow2Le k x

/-- The source lane of shfl (R364). -/
def shflLane (mode w l b c : Nat) : Nat :=
  let s := pow2Le 6 (min (max c 1) w)
  let base := l - l % s
  match mode with
  | 0 => base + b % s
  | 1 => if base + b ≤ l then l - b else l
  | 2 => if l + b < base + s then l + b else l
  | _ => l ^^^ (b % s)

/-- The operator of rdx and scan (R321, R355) on two patterns. -/
def redOp (op : Nat) (ty : Ty) (rnd u v : Nat) : PF :=
  match op with
  | 0 => vLane .add ty (rnd * 16) u v 0 0
  | 1 => vLane .min ty 0 u v 0 0
  | 2 => vLane .max ty 0 u v 0 0
  | 3 => (u &&& v, 0)
  | 4 => (u ||| v, 0)
  | _ => (u ^^^ v, 0)

/-- The operator with absent operands (R365). -/
def redOpt (op : Nat) (ty : Ty) (rnd : Nat) (u v : Option Nat) : Option Nat × Nat :=
  match u, v with
  | some u, some v => let r := redOp op ty rnd u v; (some r.1, r.2)
  | some u, none => (some u, 0)
  | none, v => (v, 0)

/-- One level of the tree: neighbours combine. -/
def redPairs (op : Nat) (ty : Ty) (rnd : Nat) : List (Option Nat) → List (Option Nat) × Nat
  | a :: b :: r =>
    let x := redOpt op ty rnd a b
    let y := redPairs op ty rnd r
    (x.1 :: y.1, x.2 ||| y.2)
  | l => (l, 0)

/-- The tree of R365 over at most 2^n lanes. -/
def redTree (op : Nat) (ty : Ty) (rnd : Nat) : Nat → List (Option Nat) → Nat → Option Nat × Nat
  | 0, l, fl => ((l.head?).join, fl)
  | n + 1, l, fl => let x := redPairs op ty rnd l; redTree op ty rnd n x.1 (fl ||| x.2)

/-- The identity of an operator (R366). -/
def redIdentity (op : Nat) (ty : Ty) : Nat :=
  match op with
  | 1 => if ty.isInt then patOf ty.bits (tyMax ty) else (fmtOf ty).infCode
  | 2 => if ty.isInt then patOf ty.bits (tyMin ty) else (fmtOf ty).sign true + (fmtOf ty).infCode
  | 3 => 2 ^ ty.bits - 1
  | _ => 0

/-- The prefixes of R366 over the active lanes in order. -/
def scanFrom (op : Nat) (ty : Ty) (rnd : Nat) (excl : Bool) (a : Nat → Nat) : Option Nat → List Nat → List (Nat × PF)
  | _, [] => []
  | acc, l :: r =>
    let x := redOpt op ty rnd acc (some (a l))
    let d := if excl then acc.getD (redIdentity op ty) else x.1.getD 0
    (l, (d, x.2)) :: scanFrom op ty rnd excl a x.1 r

/-- The result and the flags in each active lane, from the sources of all lanes. -/
def vEval (o : VOp) (ty : Ty) (md w : Nat) (act : List Nat) (a b c old : Nat → Nat) : List (Nat × PF) :=
  match o with
  | .perm => act.map fun l => (l, (a (b l % w), 0))
  | .shfl => act.map fun l => (l, (a (shflLane (md % 4) w l (b l) (c l)), 0))
  | .bcast => act.map fun l => (l, (a (b l % w), 0))
  | .rdx =>
    let xs := (List.range w).map fun l => if act.contains l then some (a l) else none
    let r := redTree (md % 8) ty (md / 16 % 4) 6 xs 0
    act.map fun l => (l, (r.1.getD 0, r.2))
  | .scan => scanFrom (md % 8) ty (md / 16 % 4) (md / 8 % 2 == 1) a none act
  | .vote =>
    let r := if md % 4 = 0 then act.any fun l => a l != 0 else act.all fun l => a l != 0
    act.map fun l => (l, (if md % 4 = 2 then (a l != 0).toNat else r.toNat, 0))
  | o => act.map fun l => (l, vLane o ty md (a l) (b l) (c l) (old l))

/-! ### Issue cycles (R153, R354) -/

def vCycles (o : VOp) (ty : Ty) (w : Nat) : Nat :=
  match o with
  | .div => if ty.is64 then 16 else if ty.isInt then 8 else 4
  | .mul | .mulh | .fma => if ty.isInt && ty.is64 then 2 else 1
  | .sqrt | .rcp | .rsqrt | .exp2 | .log2 => if ty.is64 then 16 else 4
  | .rdx => if ty.isFloat then Nat.log2 w else 1
  | .scan => if ty.isFloat then w / 8 else 1
  | _ => 1

/-! ### The register form (R307, R350, R351) -/

/-- Does the operation write a mask? -/
def vMask : VOp → Bool
  | .cmp | .vote => true
  | _ => false

/-- The sources an operation reads, with pairs. -/
def vSrcs (o : VOp) (x : RArgs) : List (Src × Bool) :=
  let t := vTypes o x.ty x.md.val
  let u := o.uses
  (if u.1 then [(x.a, t.1.is64)] else []) ++ (if u.2.1 then [(x.b, t.2.1.is64)] else []) ++ (if u.2.2 then [(x.c, t.2.2.1.is64)] else [])

/-- Is a V destination written whole (R351)? A pack never is. -/
def vWhole (o : VOp) (x : RArgs) (c : Cur) : Bool :=
  match x.dst with
  | .s _ => true
  | _ => o != .pack && (c.allActive x.pred || x.z)

def needV (o : VOp) (x : RArgs) (c : Cur) : Need :=
  { cls := .v, lane := true, z := x.z, pred := x.pred, srcs := vSrcs o x, cost := vCycles o x.ty c.g.width,
    dsts := [(x.dst, (vTypes o x.ty x.md.val).2.2.2.is64, vWhole o x c)] }

/-- The values of the active lanes that the register form computes. -/
def vResults (o : VOp) (x : RArgs) (c : Cur) : List (Nat × PF) :=
  let t := vTypes o x.ty x.md.val
  let selBit := fun l => (inMask (c.raw x.c.sel) l).toNat
  vEval o (if o = .pack ∨ o = .unpack ∨ o = .vote then .n32 else x.ty) x.md.val c.g.width (maskLanes c.g.width (c.active x.pred))
    (c.lane t.1 x.a.sel) (c.lane t.2.1 x.b.sel) (if o = .sel then selBit else c.lane t.2.2.1 x.c.sel) (c.lane .n32 x.dst)

/-- Write n-bit patterns to lanes of a vector register or pair (R348, R349). -/
def Arch.putLanes (a : Arch) (n : Nat) (ty : Ty) (l : List (Nat × Nat)) : Arch :=
  if ty.is64 then
    (a.setV n (l.map fun x => (x.1, BitVec.ofNat 32 x.2))).setV (n + 1) (l.map fun x => (x.1, BitVec.ofNat 32 (x.2 / 2 ^ 32)))
  else a.setV n (l.map fun x => (x.1, BitVec.ofInt 32 (tyVal ty.bits ty.signed x.2)))

/-- The mask register's bits after a write of some lanes (R351). -/
def maskWith (old : Word) (l : List (Nat × Nat)) : Word :=
  l.foldl (fun m x => if x.2 = 0 then m &&& ~~~(BitVec.ofNat 64 (2 ^ x.1)) else m ||| BitVec.ofNat 64 (2 ^ x.1)) old

/-- Write the results of the register form to its destination (R351, R365). -/
def Arch.vWrite (a : Arch) (x : RArgs) (ty : Ty) (c : Cur) (oldM : Word) (res : List (Nat × Nat)) : Arch :=
  let act := c.active x.pred
  let zero := if x.z then ((List.range c.g.width).filter fun l => !inMask act l).map fun l => (l, 0) else []
  if res.isEmpty && zero.isEmpty then a
  else match x.dst with
    | .v n => (regsOf x.dst ty.is64).foldl (fun a r => a.fill r) (a.putLanes n.val ty (zero ++ res))
    | .m n => a.setM c.slot c.g.width n.val (maskWith oldM (zero ++ res))
    | .s n => a.setS n.val (match res with
        | y :: _ => if ty.isInt then wrVal ty (tyVal ty.bits ty.signed y.2) else BitVec.ofNat 64 y.2
        | [] => 0)
    | _ => a

/-- The mask a V instruction's mask destination holds at its write. -/
def Cur.oldMask (c : Cur) (t : State) (d : Sel) : Word :=
  match d with
  | .m n => if n = 0 then (match t.cur with | some k => k.m 0 | none => c.m 0)
      else (match t.bundle? c.b.key with | some b => bankGet b.arch.regs b.fid (mKey n.val) | none => c.m n.val)
  | _ => 0

/-- A V instruction in its register form. -/
def runV (o : VOp) (x : RArgs) (s : State) : Res :=
  s.issue (needV o x) ownNone Path.advance fun c t =>
    let r := vResults o x c
    let dty := (vTypes o x.ty x.md.val).2.2.2
    let old := c.oldMask t x.dst
    let t := t.onArch c.b.key fun a =>
      (a.vWrite x dty c old (r.map fun y => (y.1, y.2.1))).orFlags (r.map fun y => (y.1, y.2.2))
    t.advance c

/-! ### The sweep form (R312 to R314, R322, R368) -/

/-- The stream fields an operation uses, with the type of each: sources a, b, c. -/
def sweepFields (x : SweepArgs) : List (SwF × Ty) :=
  let t := vTypes x.op x.ty x.md.val
  let u := x.op.uses
  (if u.1 then [(x.fa, t.1)] else []) ++ (if u.2.1 then [(x.fb, t.2.1)] else []) ++ (if u.2.2 then [(x.fc, t.2.2.1)] else [])

/-- The scalar pair of a stream. -/
def swRegs : SwF → List (Src × Bool)
  | .stream n => [(⟨.s ⟨2 * n.val, by omega⟩, false, false⟩, false), (⟨.s ⟨2 * n.val + 1, by omega⟩, false, false⟩, false)]
  | .lit => []

/-- The pairs are read once: an iteration after the first needs no register (R313). -/
def needSweep (x : SweepArgs) (c : Cur) : Need :=
  { cls := .v, pred := x.pred, cost := vCycles x.op x.ty c.g.width,
    srcs := match c.p.held with
      | some (.sweep _ (some _)) => []
      | _ => (sweepFields x).flatMap (fun f => swRegs f.1) ++ swRegs x.fd }

/-- The registers of the pairs that a sweep latches as it begins. -/
def latchPairs (x : SweepArgs) (c : Cur) : List (Nat × Word) :=
  (((sweepFields x).map fun f => f.1) ++ [x.fd]).flatMap fun f => match f with
    | .stream n => [(2 * n.val, c.b.s (2 * n.val)), (2 * n.val + 1, c.b.s (2 * n.val + 1))]
    | .lit => []

/-- A register of a pair as the sweep has read it (R313). -/
def Cur.pairReg (c : Cur) (n : Nat) : Word :=
  match c.p.held with
  | some (.sweep _ (some l)) => ((l.find? fun y => y.1 == n).map fun y => y.2).getD (c.b.s n)
  | _ => c.b.s n

/-- The window address of a lane's element in iteration i (R313). -/
def Cur.segment (c : Cur) (f : SwF) (i : Nat) (e l : Nat) : Nat :=
  match f with
  | .stream n =>
    let step := ((c.pairReg (2 * n.val + 1)).truncate 32 : BitVec 32).toInt
    (c.pairReg (2 * n.val) + BitVec.ofInt 64 (step * i) + BitVec.ofNat 64 (e * l)).toNat
  | .lit => 0

/-- What is wrong with an element: its cause (R313). -/
def Cur.elemBad (c : Cur) (f : SwF) (e a : Nat) : Option Nat :=
  match f with
  | .lit => none
  | .stream _ => if a % e ≠ 0 then some 0x09 else if a + e ≤ 4096 * c.g.scratch then none else some 0x14

/-- A byte of the window as the bundle sees it. -/
def Cur.winSeen (c : Cur) (a : Nat) : Byte := (sqByte c.b.sq .ls a).getD (c.c.winByte a)

/-- A lane's source element in iteration i. One that is not there supplies 0 in an inactive lane (R368), and an unspecified value in an active one, whose fault leaves the others to complete (log 25, DEDUCED). -/
def Cur.element (c : Cur) (pred : Option (Fin 16)) (id : Nat) (f : SwF) (ty : Ty) (i l : Nat) : Nat :=
  match f with
  | .lit => litBits ty c.lit true
  | .stream _ =>
    let a := c.segment f i ty.bytes l
    if (c.elemBad f ty.bytes a).isSome then (if inMask (c.active pred) l then (Config.freeWord id a).toNat % 2 ^ ty.bits else 0) else leNat (bytesFrom c.winSeen a ty.bytes)

/-- The fault of an active lane in iteration i, with its address: its sources in order, then its destination. -/
def Cur.sweepFault (c : Cur) (x : SweepArgs) (i l : Nat) : Option (Nat × Nat) :=
  let d := (vTypes x.op x.ty x.md.val).2.2.2
  (sweepFields x ++ [(x.fd, d)]).findSome? fun f =>
    let a := c.segment f.1 i f.2.bytes l
    (c.elemBad f.1 f.2.bytes a).map fun k => (k, a)

/-- The element values that one iteration computes in its active lanes: lane and pattern, with flags. -/
def sweepResults (x : SweepArgs) (c : Cur) (id i : Nat) : List (Nat × PF) :=
  let t := vTypes x.op x.ty x.md.val
  let act := maskLanes c.g.width (c.active x.pred)
  let elem := c.element x.pred id
  let at0 := fun (o : Bool) (f : SwF) (ty : Ty) (l : Nat) => elem f ty i (if o then act.headD 0 else l)
  let r := vEval x.op (if x.op = .pack ∨ x.op = .unpack ∨ x.op = .vote then .n32 else x.ty) x.md.val c.g.width act
    (elem x.fa t.1 i) (at0 (x.op == .bcast) x.fb t.2.1) (at0 (x.op == .shfl) x.fc t.2.2.1) (elem x.fd .n32 i)
  if vMask x.op then r.map fun y => (y.1, (if y.2.1 = 0 then 0 else 2 ^ t.2.2.2.bits - 1, y.2.2)) else r

/-- The lanes that the zeroing form of a sweep writes 0 to in iteration i: the inactive ones, not those that a return leaves done (R197, R313). -/
def Cur.sweepIdle (c : Cur) (x : SweepArgs) (i : Nat) : List Nat :=
  let d := (vTypes x.op x.ty x.md.val).2.2.2
  let act := c.m 0 &&& (match x.pred with | none => BitVec.allOnes 64 | some n => c.m n.val)
  if x.md.val / 64 = 1 then (List.range c.g.width).filter fun l => !inMask act l && (c.elemBad x.fd d.bytes (c.segment x.fd i d.bytes l)).isNone else []

/-- One iteration of a sweep: its element stores and flags in the lanes that do not fault (R313, R314). -/
def sweepIter (x : SweepArgs) (c : Cur) (id i : Nat) (bad : Nat → Bool) (t : State) : State :=
  let d := (vTypes x.op x.ty x.md.val).2.2.2
  let r := (sweepResults x c id i).filter fun y => !bad y.1
  let part := fun (l v : Nat) =>
    let a := c.segment x.fd i d.bytes l
    ((⟨l, .ls, a, a, 0, 0, false, 1⟩ : LaneAcc), leBytes d.bytes v)
  let parts := (r.map fun y => part y.1 y.2.1) ++ (c.sweepIdle x i).map fun l => part l 0
  let t := if parts.isEmpty then t else
    t.onBundle c.b.key fun b => { b with sq := b.sq ++ [⟨t.clock, .store false parts, 0⟩] }
  t.onArch c.b.key fun a => a.orFlags (r.map fun y => (y.1, y.2.2))

/-- The active lanes of a sweep that fault in iteration i. -/
def Cur.sweepFaults (c : Cur) (x : SweepArgs) (i : Nat) : List (Nat × Nat × Nat) :=
  (maskLanes c.g.width (c.active x.pred)).filterMap fun l => (c.sweepFault x i l).map fun f => (l, f)

/-- Must a sweep's reads of the window wait: for an acquire (R221, R222), for an earlier load of the bundle (R224), for an earlier read-modify-write of it there that waits in its store queue (R225)? -/
def Bundle.windowWaits (b : Bundle) : Bool :=
  b.acquiring || b.pend.any Pend.unperformed || b.sq.any fun e => match e.op with | .atom _ _ _ lanes => lanes.any fun l => l.acc.space == .ls | _ => false

/-- A faulting iteration of a sweep completes in its other lanes, then traps (R314). -/
def ownSweep (x : SweepArgs) (s : State) (c : Cur) : Own :=
  let i := c.p.swept
  if c.b.windowWaits then .block
  else match c.sweepFaults x i with
    | [] => .go
    | f :: fs => .hold fun t =>
        let fl := f :: fs
        let t := sweepIter x c s.free i (fun l => fl.any fun y => y.1 == l) (t.issued c (needSweep x c))
        let F := BitVec.ofNat 64 (fl.map fun y => 2 ^ y.1).sum
        t.takeTrap c (fl.foldl (fun k y => min k y.2.1) f.2.1) F
          fun l => BitVec.ofNat 64 (((fl.find? fun y => y.1 == l).map fun y => y.2.2).getD 0)

/-- The sweep goes on with an iteration: those complete are counted, the pairs it has read are kept, the port's lane block is held up to the next sweep boundary (R313, R314). -/
def State.sweepOn (t : State) (c : Cur) (x : SweepArgs) (done : Nat) : State :=
  let pairs := match c.p.held with | some (.sweep _ (some l)) => l | _ => latchPairs x c
  (t.onBundle c.b.key fun b => { b.setHold c.slot (some (clsPort .v)) with arch := { b.arch with progress := done } }).onPath c fun p =>
    { p with first := none, held := some (.sweep done (some pairs)) }

/-- A sweep (R313), one iteration a step: progress counts those complete, and the path moves on after the last. (log 25, DEDUCED) -/
def execSweep (x : SweepArgs) (s : State) : Res :=
  s.issue (needSweep x) (ownSweep x s) Path.advance fun c t =>
    let i := c.p.swept
    let t := sweepIter x c s.free i (fun _ => false) t
    if i + 1 < x.count.val then t.sweepOn c x (i + 1)
    else (t.onBundle c.b.key fun b => { b with arch := { b.arch with progress := 0 } }).advance c

def execVAdd (x : RArgs) : State → Res := runV .add x
def execVSub (x : RArgs) : State → Res := runV .sub x
def execVMul (x : RArgs) : State → Res := runV .mul x
def execVMulh (x : RArgs) : State → Res := runV .mulh x
def execVFma (x : RArgs) : State → Res := runV .fma x
def execVDiv (x : RArgs) : State → Res := runV .div x
def execVMin (x : RArgs) : State → Res := runV .min x
def execVMax (x : RArgs) : State → Res := runV .max x
def execVAbs (x : RArgs) : State → Res := runV .abs x
def execVNeg (x : RArgs) : State → Res := runV .neg x
def execVSqrt (x : RArgs) : State → Res := runV .sqrt x
def execVRcp (x : RArgs) : State → Res := runV .rcp x
def execVRsqrt (x : RArgs) : State → Res := runV .rsqrt x
def execVExp2 (x : RArgs) : State → Res := runV .exp2 x
def execVLog2 (x : RArgs) : State → Res := runV .log2 x
def execVAddsat (x : RArgs) : State → Res := runV .addsat x
def execVSubsat (x : RArgs) : State → Res := runV .subsat x
def execVAnd (x : RArgs) : State → Res := runV .and x
def execVOr (x : RArgs) : State → Res := runV .or x
def execVXor (x : RArgs) : State → Res := runV .xor x
def execVNot (x : RArgs) : State → Res := runV .not x
def execVShl (x : RArgs) : State → Res := runV .shl x
def execVShr (x : RArgs) : State → Res := runV .shr x
def execVCmp (x : RArgs) : State → Res := runV .cmp x
def execVSel (x : RArgs) : State → Res := runV .sel x
def execVMov (x : RArgs) : State → Res := runV .mov x
def execVClz (x : RArgs) : State → Res := runV .clz x
def execVPopc (x : RArgs) : State → Res := runV .popc x
def execCvt (x : RArgs) : State → Res := runV .cvt x
def execPack (x : RArgs) : State → Res := runV .pack x
def execUnpack (x : RArgs) : State → Res := runV .unpack x
def execPerm (x : RArgs) : State → Res := runV .perm x
def execShfl (x : RArgs) : State → Res := runV .shfl x
def execBcast (x : RArgs) : State → Res := runV .bcast x
def execRdx (x : RArgs) : State → Res := runV .rdx x
def execScan (x : RArgs) : State → Res := runV .scan x
def execVote (x : RArgs) : State → Res := runV .vote x
def execFrnd (x : RArgs) : State → Res := runV .frnd x
def execClass (x : RArgs) : State → Res := runV .cls x
def execCopysign (x : RArgs) : State → Res := runV .copysign x
def execVBfx (x : RArgs) : State → Res := runV .bfx x
def execVBfi (x : RArgs) : State → Res := runV .bfi x
def execLdexp (x : RArgs) : State → Res := runV .ldexp x
def execFract (x : RArgs) : State → Res := runV .fract x

end Sys2Proof.Machine
end

