-- ==== Sys2Proof/Machine/Engine.lean ====
section
/-! DEFINITION. Accesses of the device's engines: translation page by page, bytes of the three spaces, poison, and the records of cause 0x13 (R85, R207, R213, R234, R278, R279, R454, R458). -/

namespace Sys2Proof.Machine

/-- Who accesses: the grove whose walker serves it, the core, the context and tenant, the crew whose window and view it means, its grid's tag. -/
structure Eng where
  grove  : Nat
  core   : Nat
  ctx    : Nat
  tenant : Nat
  crew   : CKey
  tag    : Nat
  deriving DecidableEq, Repr

/-- What stops an engine's access: a fault, a tier-3 page, a flash deferral, or a walker without room. -/
inductive EngStop where
  | busy (s : State) (va : Nat)
  | fault (cause va : Nat)
  | tier3 (va pte : Nat) (l : Word) (lvl : Nat)
  | defer (va pa : Nat)
  deriving DecidableEq, Repr

/-- The virtual address where an access stopped. -/
def EngStop.va : EngStop → Nat
  | .busy _ va => va
  | .fault _ va => va
  | .tier3 va _ _ _ => va
  | .defer va _ => va

/-- HUB_PCIE_CTL_n; link_state of a port (R39, R40). -/
def offPcie (port : Nat) : Nat := 0x100 + 0x10 * port
def State.linkState (s : State) (port : Nat) : Nat := fld (s.reg (offPcie port + 8)) 1 0

/-- Does a port receive and send transactions (R463)? -/
def State.portUp (s : State) (port : Nat) : Bool := decide (2 ≤ s.linkState port)

/-- Does an address lie behind a port that is down? -/
def State.portDown (s : State) (pa : Nat) : Bool := inPcie pa && !s.portUp (if pa < Config.pcie1Base then 0 else 1)

/-- The port whose space holds a physical address (R67). -/
def portOf (pa : Nat) : Nat := if pa < Config.pcie1Base then 0 else 1

/-- The transactions of some bytes: none longer than a payload of 512 bytes (R34). -/
def payloads : Nat → Nat → List Byte → List (Nat × List Byte)
  | 0, _, _ => []
  | fuel + 1, a, d => if d.isEmpty then [] else (a, d.take 512) :: payloads fuel (a + 512) (d.drop 512)

/-- A write enters its port's posted queue (R36). (log 17, DESIGN CHOICE) -/
def State.postPcie (s : State) (a : Nat) (d : List Byte) : State :=
  let hub := { s.hub with posted := s.hub.posted ++ (payloads (d.length + 1) a d).map fun p => (portOf a, p.1, p.2) }
  { s with hub := hub }

/-- A read enters its port's non-posted queue, in requests of no more than 4,096 bytes (R34, R36). -/
def State.askPcie (s : State) (a n : Nat) : State :=
  let asks := (List.range ((n + 4095) / 4096)).map fun i => (portOf a, a + 4096 * i, min 4096 (n - 4096 * i))
  let hub := { s.hub with nonPosted := s.hub.nonPosted ++ asks }
  { s with hub := hub }

/-- The lines that n bytes from an address touch. -/
def linesIn (a n : Nat) : List Nat := if n = 0 then [] else (List.range ((a % 128 + n + 127) / 128)).map fun i => lineOf a + 128 * i

/-- A piece of an access within one page: physical address, length, memory type. -/
structure Piece where
  pa   : Nat
  len  : Nat
  pbmt : Nat
  deriving DecidableEq, Repr

/-- Translate an extent page by page (R74); the first page that stops the access is answered. -/
def State.pieces (e : Eng) (acc : Acc) : Nat → Nat → Nat → State → Except EngStop (State × List Piece)
  | 0, _, _, s => .ok (s, [])
  | fuel + 1, va, n, s =>
    if n = 0 then .ok (s, [])
    else
      let k := min n (4096 - va % 4096)
      match s.engineXlate e.grove e.ctx acc (BitVec.ofNat 64 va) with
      | (t, none) => .error (.busy t va)
      | (_, some (.fault c)) => .error (.fault c va)
      | (_, some (.tier3 pte l lvl)) => .error (.tier3 va pte l lvl)
      | (_, some (.defer pa)) => .error (.defer va pa)
      | (t, some (.ok _ l _ pa)) =>
        if acc = .load ∧ ((t.flashHeld pa && !t.l2Has pa) || t.portDown pa) ∨ ((linesIn pa k).any t.rowBusy) = true then .error (.defer va pa)
        else match t.pieces e acc fuel ((va + k) % 2 ^ 64) (n - k) with
          | .error x => .error x
          | .ok (u, ps) => .ok (u, ⟨pa, k, leafPbmt l⟩ :: ps)

/-- The pieces of an extent. -/
def State.extent (s : State) (e : Eng) (acc : Acc) (va n : Nat) : Except EngStop (State × List Piece) :=
  s.pieces e acc (n / 4096 + 2) va n

/-- The bytes of a piece as an engine reads them at their home slices (R454); what a PCI Express device answers is free. -/
def State.pieceBytes (s : State) (tenant : Nat) (p : Piece) : List Byte :=
  if inPcie p.pa then (List.range p.len).map fun i => Config.freeByte s.free (p.pa + i)
  else bytesFrom (s.homeByte tenant) p.pa p.len

/-- Does a piece meet poison (R279)? (log 58, DEDUCED) -/
def State.piecePoison (s : State) (tenant : Nat) (p : Piece) : Bool := (linesIn p.pa p.len).any fun l => s.poisonAt tenant l

/-- A crew of an engine's access. -/
def State.engCrew (s : State) (e : Eng) : Option Crew := s.crew? e.crew

/-- Poisoned lines of a window or of a vault view. -/
def State.localPoison (s : State) (e : Eng) (sp : Space) (a n : Nat) : Bool :=
  (linesIn a n).any fun l =>
    match sp with
    | .ls => (match s.engCrew e with | some c => c.bad.contains (.ls, l) | none => false)
    | _ => (match s.vaultOwner e.crew.grid e.grove (l / 65536) with | some c => c.bad.contains (.vlt, l) | none => false)

/-- Read an extent of a space: the bytes, and whether poison was met. (log 59, DEDUCED) -/
def State.engRead (s : State) (e : Eng) (sp : Space) (a n : Nat) : Except EngStop (State × List Byte × Bool) :=
  match sp with
  | .ls => .ok (s, (match s.engCrew e with | some c => bytesFrom c.winByte a n | none => List.replicate n 0), s.localPoison e .ls a n)
  | .vlt => .ok (s, bytesFrom (s.vaultByte e.crew.grid e.grove) a n, s.localPoison e .vlt a n)
  | .mem =>
    match s.extent e .load a n with
    | .error x => .error x
    | .ok (t, ps) =>
      let data := ps.flatMap (t.pieceBytes e.tenant)
      let u := (ps.flatMap fun p => linesIn p.pa p.len).foldl (fun u l => u.countForeign e.tenant l) t
      let u := ps.foldl (fun u p => if inPcie p.pa then u.askPcie p.pa p.len else u) u
      .ok ({ u with free := u.free + 1 }, data, ps.any (t.piecePoison e.tenant))

/-- Poison of a crew's lines of the window or the vault after a write of bytes, as at a home slice (R278). -/
def Crew.poisonWrite (c : Crew) (sp : Space) (addrs : List Nat) (bad : Bool) : Crew :=
  let ls := linesOf addrs
  let key := fun (l : Nat) => 2 * l + if sp = .vlt then 1 else 0
  if bad then { c with bad := (ls.filter fun l => !c.bad.contains (sp, l)).map (fun l => (sp, l)) ++ c.bad, mended := ls.foldl (fun m l => mapDel m (key l)) c.mended }
  else if c.bad.isEmpty then c
  else
    let now := fun (l : Nat) => natsGet c.mended (key l) ||| lineBits addrs l
    let hit := ls.filter fun l => c.bad.contains (sp, l)
    { c with bad := c.bad.filter fun x => !(x.1 == sp && hit.contains x.2 && now x.2 == wholeLine)
             mended := hit.foldl (fun m l => natsPut m (key l) (if now l = wholeLine then 0 else now l)) c.mended }

/-- Bytes with their addresses from one up. -/
def partsFrom (a : Nat) (d : List Byte) : List (Nat × Byte) := (List.range d.length).zip d |>.map fun x => (a + x.1, x.2)

/-- Write the bytes of pieces: into a posted queue, or at their home slices. -/
def State.writePieces (bad block : Bool) : List Piece → List Byte → State → State
  | [], _, s => s
  | p :: r, d, s =>
    let parts := partsFrom p.pa (d.take p.len)
    let s := if inPcie p.pa then s.postPcie p.pa (d.take p.len) else if inRegs p.pa then s else s.visible none block parts bad
    State.writePieces bad block r (d.drop p.len) s

/-- n addresses from one up. -/
def addrsFrom (a n : Nat) : List Nat := (List.range n).map fun i => a + i

/-- Write the bytes of a window. -/
def Crew.setWins (c : Crew) (a : Nat) (d : List Byte) : Crew := (partsFrom a d).foldl (fun c p => c.setWin p.1 p.2) c

/-- A ring after a write of some bytes of the window: one of its stage words leaves its state unspecified (R423). (log 115, DEDUCED) -/
def Ring.met (r : Ring) (a n : Nat) : Ring := if a < r.base + 8 * r.count ∧ r.base < a + n then { r with spoilt := true } else r

/-- Write parts into a crew's window: bytes, poison, the rings whose stage words they meet. -/
def Crew.putWindow (c : Crew) (parts : List (Nat × List Byte)) (addrs : List Nat) (bad : Bool) : Crew :=
  { ((parts.foldl (fun c p => c.setWins p.1 p.2) c).poisonWrite .ls addrs bad) with
    rings := c.rings.map fun r => (r.1, parts.foldl (fun r p => r.met p.1 p.2.length) r.2) }

/-- Poison and the notes of a write to lines of a vault view, each at the crew that owns it. -/
def State.vaultWrote (s : State) (writer : Option BKey) (e : Eng) (addrs : List Nat) (bad : Bool) : State :=
  (linesOf addrs).foldl (fun (t : State) l => match t.vaultOwner e.crew.grid e.grove (l / 65536) with
    | some c =>
      let mine := addrs.filter fun a => lineOf a == l
      (t.putCrew (c.poisonWrite .vlt mine bad)).noteWrite (some (.vlt, c.key)) mine writer
    | none => t) s

/-- One write of bytes of a window or a vault view, in one part or several: its bytes, poison, what was written, the bundles that watch (R156). -/
def State.putLocal (s : State) (writer : Option BKey) (e : Eng) (sp : Space) (parts : List (Nat × List Byte)) (bad : Bool) : State :=
  let addrs := parts.flatMap fun p => addrsFrom p.1 p.2.length
  let t : State := match sp with
    | .vlt =>
      (parts.foldl (fun (t : State) p => (partsFrom p.1 p.2).foldl (fun (t : State) q => t.setVault e.crew.grid e.grove q.1 q.2) t) s).vaultWrote writer e addrs bad
    | _ => (s.onCrew e.crew fun c => c.putWindow parts addrs bad).noteWrite (some (.ls, e.crew)) addrs writer
  t.watchLocal writer e.crew sp addrs

/-- Write an extent of a space. Global lines leave the issuing core's L1 as they are acknowledged (R205). -/
def State.engWrite (s : State) (e : Eng) (sp : Space) (a : Nat) (d : List Byte) (bad block : Bool) : Except EngStop State :=
  match sp with
  | .ls => .ok (s.putLocal none e .ls [(a, d)] bad)
  | .vlt => .ok (s.putLocal none e .vlt [(a, d)] bad)
  | .mem =>
    match s.extent e .store a d.length with
    | .error x => .error x
    | .ok (t, ps) =>
      let t := State.writePieces bad block ps d t
      let ls := ps.flatMap fun p => linesIn p.pa p.len
      .ok (t.l1Drop fun l => l.core == e.core && ls.contains l.line)

/-- Can an extent be written now? -/
def State.engCanWrite (s : State) (e : Eng) (sp : Space) (a n : Nat) : Except EngStop State :=
  match sp with
  | .mem => match s.extent e .store a n with
    | .error x => .error x
    | .ok (t, _) => .ok t
  | _ => .ok s

/-- Post a record of cause 0x13 (R213). -/
def State.engRecord (s : State) (tenant cause source tag : Nat) (w1 w2 : Word) : State :=
  s.post tenant (wordOf [(56, 0x13), (48, cause), (44, source), (32, tenant), (0, tag)]) w1 w2 0

/-- Grove, core within the grove and crew slot, as word 2 of R213 has them. -/
def whereWord (core slot : Nat) : List (Nat × Nat) := [(60, groveOf core), (53, core % 128), (48, slot)]

/-- What an access that stopped sets off: a migration, a wait, or the record its rule names (R85, R401, R430). -/
def State.engStopped (s : State) (e : Eng) (x : EngStop) (rcd : Nat → Nat → State → State) : State :=
  match x with
  | .fault c va => rcd c va s
  | .tier3 va pte l lvl => s.wantMig e.tenant e.ctx (BitVec.ofNat 64 va) pte l lvl e.tag none
  | .defer _ _ => s
  | .busy t _ => { s with xl := t.xl }

/-- The cause an access waits on, 0 where it waits without a record. -/
def EngStop.cause : EngStop → Nat
  | .fault c _ => c
  | _ => 0

/-- The engine accesses of a crew's bundles. -/
def engOf (g : Grid) (c : Crew) : Eng := ⟨groveOf c.core, c.core, g.ctx, g.tenant, c.key, g.tag⟩

/-- An access of the hub by a tenant's context (R124, R430): its walks are those of grove 0 (log 18, DEDUCED). -/
def hubEng (tenant ctx tag : Nat) : Eng := ⟨0, Config.cores, ctx, tenant, ⟨0, 0⟩, tag⟩

/-! ### Arrivals and increments by the hub (R124, R421, R432, R433) -/

/-- Make an effect of the hub at an address; a tier-3 page holds it until it is migrated, a walker without room until it has some, a row until it is remapped (R21), any other fault loses it with a record. -/
def State.hubDo (s : State) (x : HubFx) : State :=
  let lost := fun (c : Nat) => s.engRecord x.tenant c x.source x.tag (BitVec.ofNat 64 x.va) x.word2
  let align := match x.fx with | .arrive _ _ => 32 | .count => 8
  if x.va % align ≠ 0 then lost 0x09
  else match s.engineXlate 0 x.ctx .atomic (BitVec.ofNat 64 x.va) with
    | (t, none) => { t with hubFx := t.hubFx ++ [x] }
    | (_, some (.fault c)) => lost c
    | (_, some (.defer _)) => lost 0x12
    | (t, some (.tier3 pte l lvl)) =>
      { (t.wantMig x.tenant x.ctx (BitVec.ofNat 64 x.va) pte l lvl x.tag none) with hubFx := t.hubFx ++ [x] }
    | (t, some (.ok _ l _ pa)) =>
      if leafPbmt l = 2 then lost 0x14
      else if t.rowBusy pa then { t with hubFx := t.hubFx ++ [x] }
      else match x.fx with
        | .arrive st fl => t.aboArriveAt none pa 1 st fl
        | .count => t.counterAdd none pa 1

/-- Effects that waited on a migration are tried again. -/
def State.hubRetry (s : State) : State := s.hubFx.foldl (fun t x => t.hubDo x) { s with hubFx := [] }

end Sys2Proof.Machine
end

