-- ==== Sys2Proof/Machine/RegRead.lean ====
section
/-! DEFINITION. What a device register reads as (R18, R40, R50, R75, R98 to R100, R117, R136, R201, R286, R452). -/

namespace Sys2Proof.Machine

/-- A link half as it stands; one never touched is up (R18). -/
def Link.fresh (id : LinkId) : Link :=
  { id := id, next := 0, unacked := [], expect := 0, testing := false, queued := false, replayEnd := 0, spared := [], broken := [], crcErrors := 0,
    replays := 0, state := 0, width := 0, got := [] }
def State.link (s : State) (id : LinkId) : Link := (s.links.find? fun l => l.id == id).getD (Link.fresh id)

/-- GRV_VLINK_STATUS_n (R18); the first unrepaired group is the first that was found. (log 81, DESIGN CHOICE) -/
def Link.status (l : Link) : Word :=
  wordOf [(48, l.crcErrors), (32, l.replays), (16, l.spared.length), (8, l.broken.head?.getD 0xFF), (2, l.width), (0, l.state)]

/-- Banks whose new role has not taken effect (R201). -/
def State.pendBanks (s : State) (core : Nat) : Nat := ((List.range 32).map fun b => if s.bankPending core b then 2 ^ b else 0).sum

/-- A stream in a slot. -/
def State.fstream (s : State) (h : Nat) : Option FStream := mapGet s.flash.streams h

/-- Accepted writes of a stream not yet in staging; those no completed seal covers; seals complete and not committed (R100). -/
def FStream.inflight (f : FStream) : Nat := (f.extents.filter fun x => !x.2.staged).length
def FStream.unsealed (f : FStream) : Nat := f.count - f.sealed
def FStream.uncommitted (f : FStream) : Nat := (f.seals.filter fun x => x.done && !x.committed).length

/-- SKD_STREAM_STAT_n (R100, R455): refusals is stored, the others count the stream's work, of which each field shows the low 16 bits. (log 108, DESIGN CHOICE) -/
def State.streamStat (s : State) (h : Nat) : Word :=
  let r := setFld (s.reg (0x30050800 + 8 * h)) 63 16 0
  match s.fstream h with
  | some f => r + wordOf [(48, f.inflight % 65536), (32, f.unsealed % 65536), (16, f.uncommitted % 65536)]
  | none => r

/-- Does a register occupy an offset (R136)? -/
def regExists (o : Nat) : Bool :=
  if o % 8 ≠ 0 then false
  else if o < 0x1000000 then
    decide (o < 0x30) || decide (0x30 ≤ o ∧ o < 0x58) || decide (0x100 ≤ o ∧ o < 0x120) || decide (0x200 ≤ o ∧ o < 0x230) || decide (0x400 ≤ o ∧ o < 0x600)
      || decide (0x800 ≤ o ∧ o < 0x800 + 8 * 208) || decide (0x1000 ≤ o ∧ o < 0x3000) || decide (0x4000 ≤ o ∧ o < 0x6200)
  else if o < 0x1000000 + 0x10000 * 64 then decide (o % 0x10000 < 0x78)
  else if o < 0x10000000 then false
  else if o < 0x10000000 + 0x100000 * Config.groves then
    let k := o % 0x100000
    decide (k < 0x708) || decide (0x800 ≤ k ∧ k < 0xA00)
  else if o < 0x20000000 then false
  else if o < 0x20000000 + 0x1000 * Config.cores then
    let k := o % 0x1000
    decide (k < 0x18) || decide (0x100 ≤ k ∧ k < 0x300)
  else if o < 0x30000000 then false
  else decide (o < 0x30000020) || decide (0x30010000 ≤ o ∧ o < 0x30051000)

/-- Is it a stall counter of a cause that the manual names (R286)? (log 3, DESIGN CHOICE) -/
def stallCause (o : Nat) : Bool :=
  if o < 0x1000000 then decide (0x800 ≤ o ∧ o < 0x800 + 8 * 208 ∧ (o / 8) % 16 < 4)
  else if o < 0x20000000 then decide (0x10000000 ≤ o ∧ 0x800 ≤ o % 0x100000 ∧ o % 0x100000 < 0x980 ∧ (o / 8) % 16 < 5)
  else decide (o < 0x30000000 ∧ 0x100 ≤ o % 0x1000 ∧ o % 0x1000 < 0x300 ∧ (o / 8) % 16 < 15)

/-- The value of the register at an offset; fields that report work in progress are computed (R136); life_used of SAW_WEAR_s, which counts what is not modelled, is free (R112). (log 108, DESIGN CHOICE) -/
def State.regRead (s : State) (o : Nat) : Word :=
  if !regExists o then 0
  else if stallCause o then (if s.clock = 0 then 0 else Config.stallCycles o s.clock)
  else if o = 0x108 ∨ o = 0x118 then setFld (s.reg o) 63 48 ((s.pcie.held.filter fun h => h.port.val == (o - 0x108) / 0x10 && h.tx.isWrite).length)
  else if 0x4000 ≤ o ∧ o < 0x6000 then setFld (s.reg o) 0 0 (profileOk (s.reg o)).toNat
  else if 0x10000000 ≤ o ∧ o < 0x20000000 then
    let g := (o - 0x10000000) / 0x100000
    let k := o % 0x100000
    if k < 0x400 then (s.link (.vlink g (k / 8))).status
    else if k < 0x600 then setFld (s.reg o) 23 16 (s.walking g ((k - 0x400) / 8))
    else if k = 0x700 then setFld (s.reg o) 12 0 (s.deferrals g).length
    else s.reg o
  else if 0x20000000 ≤ o ∧ o < 0x30000000 then
    if o % 0x1000 = 8 then BitVec.ofNat 64 (s.pendBanks ((o - 0x20000000) / 0x1000)) else s.reg o
  else if 0x30000000 ≤ o ∧ o < 0x30000020 then setFld (s.reg o) 63 56 (Config.freeWord s.free o).toNat
  else if 0x30050800 ≤ o ∧ o < 0x30051000 then s.streamStat ((o - 0x30050800) / 8)
  else s.reg o

/-- The bytes of an access of n bytes to the register range: an aligned one of 8 reads its register, any other reads 0 (R136). -/
def State.regBytes (s : State) (pa n : Nat) : List Byte :=
  if n = 8 ∧ pa % 8 = 0 then leBytes 8 (s.regRead (pa - Config.regBase)).toNat else List.replicate n 0

end Sys2Proof.Machine
end

