-- ==== Sys2Proof/Machine/Loads.lean ====
section
/-! DEFINITION. Loads and atomics at their targets: values, poison, arrival in registers, deferral and replay (R93, R94, R187, R207, R224, R225, R279, R372, R377, R379, R451, R459). -/

namespace Sys2Proof.Machine

/-! ### Values -/

/-- The new value and the flags of an atomic on one lane's operands (R379). -/
def atomValue (op : AtomOp) (ty : Ty) (x b cmp : Nat) : Nat × Nat :=
  let n := ty.bits
  let iv := fun (v : Nat) => tyVal n ty.signed v
  match op with
  | .add => if ty.isInt then ((x + b) % 2 ^ n, 0) else (fmtOf ty).addF 0 ((fmtOf ty).val x) ((fmtOf ty).val b)
  | .min => if ty.isInt then (if iv b < iv x then b else x, 0) else (fmtOf ty).minmax false x b
  | .max => if ty.isInt then (if iv x < iv b then b else x, 0) else (fmtOf ty).minmax true x b
  | .and => (x &&& b, 0)
  | .or => (x ||| b, 0)
  | .xor => (x ^^^ b, 0)
  | .xchg => (b, 0)
  | .cas => (if x = cmp then b else x, 0)

/-- A bundle with the part of its store queue that a load issued at a time follows (R223). -/
def Bundle.asOf (b : Bundle) (t : Nat) : Bundle := { b with sq := b.sq.filter fun e => decide (e.time ≤ t) }

/-- The byte that a bundle's latest write in flight to the vault puts at a place: its accesses to one line keep their order (R211). -/
def State.vaultFlight (s : State) (k : BKey) (a : Nat) : Option Byte :=
  s.inflight.foldl (fun r f => if f.owner = .bundle k then
      (match f.op with
        | .vlt _ _ parts => parts.foldl (fun r p => if p.1 ≤ a ∧ a < p.1 + p.2.length then p.2[a - p.1]? else r) r
        | _ => r)
    else r) none

/-- The bytes that a lane of a load reads (R223, R377): its own queued stores first, then its space; of a PCI Express space the free value of a number, one for all lanes (R220). (log 17, DESIGN CHOICE) -/
def State.laneBytes (s : State) (b : Bundle) (c : Crew) (g : Grid) (id n : Nat) (a : LaneAcc) : List Byte :=
  match a.space with
  | .ls => bytesFrom (fun x => (sqByte b.sq .ls x).getD (c.winByte x)) a.addr n
  | .vlt => bytesFrom (fun x => ((sqByte b.sq .vlt x) <|> (s.vaultFlight b.key x)).getD (s.vaultByte g.id (groveOf c.core) x)) a.addr n
  | .mem =>
    if a.pbmt = 2 then
      (if inRegs a.addr then s.regBytes a.addr n else (List.range n).map fun i => Config.freeByte id (a.addr + i))
    else bytesFrom (s.bundleByte b c.core g.tenant a.pbmt) a.addr n

/-- The source of the poison that a lane meets, if it meets any, and the address of the poisoned line (R278, R281). -/
def State.lanePoison (s : State) (c : Crew) (g : Grid) (a : LaneAcc) : Option (Nat × Nat) :=
  match a.space with
  | .ls => if c.bad.contains (.ls, lineOf a.addr) then some (1, lineOf a.va) else none
  | .vlt => (match s.vaultOwner g.id (groveOf c.core) (a.addr / 65536) with
      | some k => if k.bad.contains (.vlt, lineOf a.addr) then some (2, lineOf a.va) else none
      | none => none)
  | .mem => if s.poisonAt g.tenant a.addr && (s.l1Hit c.core g.tenant a.pbmt a.addr).isNone then some (s.poisonSource a.addr, lineOf a.va) else none

/-- Does a lane wait for an earlier read-modify-write of its bundle to the line, for an earlier access to I/O space (R225, R229), for a port whose link is down (R463), or for a row that is being
remapped (R21)? -/
def State.laneWaits (s : State) (b : Bundle) (t : Nat) (a : LaneAcc) : Bool :=
  (b.sq.any fun e => decide (e.time < t) && e.op.rmwAt a.space a.addr)
    || (a.space == .mem && s.inflight.any fun f => f.owner == .bundle b.key && f.op.rmw && f.line == lineOf a.addr)
    || (a.pbmt == 2 && ((b.sq.any fun e => decide (e.time < t) && e.op.writes) || s.flies b.key || s.portDown a.addr))
    || (a.space == .mem && s.rowBusy a.addr)

/-! ### Arrival (R187, R372) -/

/-- What a result leaves in one of the registers that wait for it. -/
def putLoad (ty : Ty) (dst : Sel) (got : List (Nat × Word × Nat)) (a : Arch) (r : Sel) : Arch :=
  match dst, r with
  | .v n, .v k =>
    if ty.is64 then
      let half := fun (v : Word) => if k = n then v else v >>> 32
      a.setV k.val (got.map fun x => (x.1, (half x.2.1).truncate 32))
    else a.setV k.val (got.map fun x => (x.1, BitVec.ofInt 32 (tyVal ty.bits ty.signed x.2.1.toNat)))
  | _, .s n => (match got with
      | x :: _ => a.put (sKey n.val) (if ty.isInt then wrVal ty (tyVal ty.bits ty.signed x.2.1.toNat) else x.2.1)
      | [] => a)
  | _, _ => a

/-- A load into lanes that another path holds too leaves free values there (R340). -/
def Arch.clashLoad (a : Arch) (p : Pend) : Arch :=
  if a.clash = 0 then a else a.freeLanes p.id 64 (a.clash &&& (p.got.foldl (fun m x => m ||| 1#64 <<< x.1) 0)) (vRegs p.dst p.ty.is64)

/-- A result is complete: its registers fill, an atomic's flags merge, an acquire takes effect (R187, R222, R379). -/
def State.finish (s : State) (b : Bundle) (p : Pend) : State :=
  let fl := p.got.map fun x => (x.1, x.2.2)
  let s := s.onBundle b.key fun k => { (k.arrive p.id (putLoad p.ty p.dst p.got)) with arch := ((k.arrive p.id (putLoad p.ty p.dst p.got)).arch.orFlags fl).clashLoad p }
  match p.acq with
  | some sc => if dropsL1 sc then s.l1DropCore (s.coreOfB b.key) else s
  | none => s

/-- Change one outstanding result of a bundle. -/
def State.onPend (s : State) (k : BKey) (pid : Nat) (f : Pend → Pend) : State :=
  s.onBundle k fun b => { b with pend := b.pend.map fun p => if p.id = pid then f p else p }

/-- Halt a bundle that consumes poison (R279, R280). -/
def State.consume (s : State) (b : Bundle) (source va : Nat) : State :=
  match s.crew? b.key.ck, s.grid? b.key.grid with
  | some c, some g =>
    let p : Path := startPath g
    s.haltBundle ⟨b, false, p, g, c⟩ 0x20 source (BitVec.ofNat 64 va)
  | _, _ => s

/-! ### Performing a load -/

/-- A lane that a busy die or a switching unit holds back is deferred at the controller (R93). -/
def State.deferAt (s : State) (b : Bundle) (c : Crew) (p : Pend) (a : LaneAcc) : State :=
  let s := s.onPend b.key p.id fun q => { q with lanes := q.lanes.map fun x => if x.lane = a.lane then { x with defer := true } else x }
  s.deferOne ⟨b.key, p.id, a.lane, groveOf c.core, s.clock, a.va, some a.addr, unitOf a.addr, none⟩

/-- Does a load bring its line into the L1 (R90, R205, R377)? -/
def State.fills (s : State) (tenant : Nat) (na : Bool) (a : LaneAcc) : Bool :=
  a.space == .mem && a.pbmt == 0 && !na && (!inFlash a.addr || (s.flashAlloc a.addr && !s.flashForeign tenant a.addr))

/-- Does a lane reach the flash controller while its unit or die is not ready (R93)? One that hits in the L1 or at its home slice does not reach it. -/
def State.flashWaits (s : State) (c : Crew) (g : Grid) (a : LaneAcc) : Bool :=
  a.space == .mem && s.flashHeld a.addr && (s.l1Hit c.core g.tenant a.pbmt a.addr).isNone && !s.l2Has a.addr

/-- The bytes of a lane of a load as a number. -/
def State.laneValue (s : State) (b : Bundle) (c : Crew) (g : Grid) (p : Pend) (id : Nat) (a : LaneAcc) : Word :=
  BitVec.ofNat 64 (leNat (s.laneBytes (b.asOf p.time) c g id p.ty.bytes a))

/-- A lane of a load is performed with a value: what its read leaves in the caches and counters, and its value in the result. A read past the L1 leaves no older copy of the line there (R225). -/
def State.laneDone (s : State) (b : Bundle) (c : Crew) (g : Grid) (p : Pend) (v : Word) (a : LaneAcc) : State :=
  let na := match p.kind with | .load na => na | _ => true
  let s := if a.space = .mem ∧ a.pbmt = 1 then s.l1Drop fun l => l.core == c.core && l.line == lineOf a.addr else s
  let s := if a.space = .mem ∧ (s.l1Hit c.core g.tenant a.pbmt a.addr).isNone then s.l2Fill a.addr else s
  let s := if s.hasCache c.core && s.fills g.tenant na a then s.l1Fill c.core g.tenant a.addr else s
  let s := if a.space = .mem then s.countForeign g.tenant a.addr else s
  let s := if a.space = .mem ∧ a.pbmt = 2 ∧ inPcie a.addr then s.askPcie a.addr p.ty.bytes else s
  s.onPend b.key p.id fun q => { q with lanes := q.lanes.filter fun x => x.lane != a.lane, got := q.got ++ [(a.lane, v, 0)] }

/-- Fill the destination once every lane is there. -/
def State.settle (s : State) (k : BKey) (pid : Nat) : State :=
  match s.bundle? k with
  | none => s
  | some b => match b.pend.find? fun p => p.id == pid with
    | some p => if p.want ≤ p.got.length then s.finish b p else s
    | none => s

/-- Perform a load of a bundle: its lanes at one moment, what they leave in increasing number, those held back by flash deferred, poison consumed (R93, R220, R279, R374); an acquire takes effect once no lane is left but deferred
ones (R222). (log 7, DEDUCED) -/
def State.performLoad (s : State) (b : Bundle) (c : Crew) (g : Grid) (p : Pend) : State :=
  let lanes := p.lanes.filter fun a => !a.defer
  let ready := lanes.filter fun a => !s.flashWaits c g a
  match p.bad <|> ready.findSome? (s.lanePoison c g) with
  | some (src, va) => s.consume b src va
  | none =>
    let id := s.free
    let t := (lanes.filter (s.flashWaits c g)).foldl (fun t a => t.deferAt b c p a) { s with free := id + 1 }
    (((ready.map fun a => (a, s.laneValue b c g p id a)).foldl (fun t x => t.laneDone b c g p x.2 x.1) t).acqDone b.key p.id).settle b.key p.id

/-- The oldest result of a bundle that is to be performed: loads and atomics in program order (R224); tokens and loads whose lanes are all deferred are passed over. (log 7, DEDUCED) -/
def Bundle.oldest (b : Bundle) : Option Pend :=
  b.pend.find? fun p => match p.kind with
    | .token => false
    | .load _ => p.lanes.any fun a => !a.defer
    | .atom _ => true

/-- Is every lane of a load that is still to be read in the vault? -/
def Pend.vaultOnly (p : Pend) : Bool := (match p.kind with | .load _ => true | _ => false) && !p.lanes.isEmpty && p.lanes.all fun a => a.space == .vlt

/-- A load of the vault among a bundle's results that may be performed before older ones: accesses to different lines of the vault are unordered, those to one line are not (R211, R232). -/
def Bundle.vaultPick (b : Bundle) (i : Nat) : Option Pend :=
  match b.pend[i]? with
  | none => none
  | some p =>
    let older := (b.pend.take i).filter Pend.unperformed
    let meets := fun (q : Pend) => q.lanes.any fun a => p.lanes.any fun x => lineOf x.addr == lineOf a.addr
    if p.vaultOnly && older.all (fun q => q.vaultOnly && !meets q) then some p else none

/-- Everything a response needs of its bundle: the access that is performed, the oldest or a load of the vault. -/
def State.respond (s : State) (x : LoadPick) (f : Bundle → Crew → Grid → Pend → State) : Res :=
  match s.bundle? x.bundle, s.crew? x.bundle.ck, s.grid? x.bundle.grid with
  | some b, some c, some g =>
    if !b.live then .next s
    else match (match x.vault with | none => b.oldest | some i => b.vaultPick i) with
      | some p => .next (f b c g p)
      | none => .next s
  | _, _, _ => .next s

/-- Perform the oldest outstanding access, unless it waits for an earlier access of its bundle; one to I/O space waits past the strike horizon (R276). -/
def State.response (s : State) (b : Bundle) (c : Crew) (g : Grid) (p : Pend) : State :=
  match p.kind with
  | .token => s
  | .atom _ => if p.want ≤ p.got.length then s.finish b p else s
  | .load _ =>
    if p.lanes.any fun a => !a.defer && s.laneWaits b p.time a then s
    else
      let s := if p.lanes.any fun a => a.pbmt == 2 then { s with clock := max s.clock (p.time + Config.horizon) } else s
      s.performLoad b c g p

/-- R187: load or atomic data arrives for the bundle's oldest outstanding access, or for a later load of other lines of the vault. (log 6, DESIGN CHOICE) (log 7, DEDUCED) -/
def execLoadResponse (x : LoadPick) (s : State) : Res := s.respond x s.response

/-- Does a load wait for a line of flash? -/
def Pend.readsLine (p : Pend) (line : Nat) : Bool :=
  (match p.kind with | .load _ => true | _ => false) && p.lanes.any fun a => a.space == .mem && !a.defer && lineOf a.addr == line

/-- The bundles whose oldest access reads a line go on with it. -/
def State.lineCame (s : State) (line : Nat) : State :=
  (s.bundles.filter fun b => b.live && b.oldest.any fun p => p.readsLine line).foldl (fun t x =>
    match t.bundle? x.key, t.crew? x.key.ck, t.grid? x.key.grid with
    | some b, some c, some g => (match b.oldest with | some p => t.response b c g p | none => t)
    | _, _, _ => t) s

/-- R91: a flash line is read after so many retries. Beyond eight the line is returned poisoned, and stays so (R206); a count of ten or more stands for a die that cannot
suspend its program or erase, which defers the loads that reach it (R93, log 19, DESIGN CHOICE). -/
def execFlashReadComplete (line retries : Nat) (s : State) : Res :=
  let l := lineOf line
  if !inFlash l then .next s
  else if retries ≤ 8 then .next (s.lineCame l)
  else if 10 ≤ retries then
    let flash := { s.flash with busy := if s.flash.busy.contains (unitOf l) then s.flash.busy else unitOf l :: s.flash.busy }
    .next (({ s with flash := flash }).lineCame l)
  else
    let o := offWear (unitOf l / 16777216)
    .next (((s.poisonLine l).setReg o (satAdd (s.reg o) 39 32 1)).lineCame l)

/-! ### Replay of deferred accesses (R94, R459) -/

/-- Drop a deferred access from the fault unit. -/
def State.undefer (s : State) (d : Deferral) : State :=
  let flash := { s.flash with deferred := s.flash.deferred.erase d }
  { s with flash := flash }

/-- Keep a deferred access with the cause its replay met, posting its record (R213, R459). -/
def State.holdDeferred (s : State) (d : Deferral) (g : Grid) (c : Crew) (cause : Nat) : State :=
  let flash := { s.flash with deferred := s.flash.deferred.map fun x => if x = d then { x with cause := some cause } else x }
  ({ s with flash := flash }).engRecord g.tenant cause 5 g.tag (BitVec.ofNat 64 d.va) (wordOf (whereWord c.core c.slot))

/-- The bytes of a replayed access reach their lane. -/
def State.replayed (s : State) (d : Deferral) (b : Bundle) (c : Crew) (g : Grid) (p : Pend) (pa pbmt : Nat) : State :=
  let a : LaneAcc := ⟨d.lane, .mem, pa, d.va, pbmt, 2, false, 1⟩
  let s := s.undefer d
  match s.lanePoison c g a with
  | some (src, va) => s.consume b src va
  | none =>
    let id := s.free
    (({ s with free := id + 1 }).laneDone b c g p (s.laneValue b c g p id a) a).settle b.key p.id

/-- A replay meets a unit or a die that is not ready: the access is deferred at the controller now, at that address (R93, R451). -/
def State.heldAt (s : State) (d : Deferral) (pa : Nat) : State :=
  let flash := { s.flash with deferred := s.flash.deferred.map fun x => if x = d then { x with pa := some pa, unit := unitOf pa } else x }
  { s with flash := flash }

/-- Does a replay at an address wait (R93)? -/
def State.replayWaits (s : State) (pa : Nat) : Bool := s.flashHeld pa && !s.l2Has pa

/-- A fresh walk defers the access again, on the unit that its leaf names now (R92, R459). -/
def State.deferAgain (s : State) (d : Deferral) (pa : Nat) : State :=
  let flash := { s.flash with deferred := s.flash.deferred.map fun x => if x = d then { x with pa := none, unit := unitOf pa } else x }
  { s with flash := flash }

/-- Does a path of a bundle wait for a record read that is deferred under a number? -/
def Bundle.readsRecord (b : Bundle) (id : Nat) : Bool := (b.arch.slot0.toList ++ b.arch.slot1.toList ++ b.arch.stack).any fun p => p.held == some (.deferred id)

/-- Issue a deferred access again (R459): through a fresh walk if it was deferred there, else at the same physical address (R451). A record read is issued again by its instruction, once
it is no longer deferred. (log 73, DEDUCED) -/
def State.replay (s : State) (d : Deferral) : State :=
  match s.bundle? d.owner, s.crew? d.owner.ck, s.grid? d.owner.grid with
  | some b, some c, some g =>
    let p? := b.pend.find? fun p => p.id == d.pid
    if p?.isNone && !b.readsRecord d.pid then s.undefer d
    else if c.st ≠ .resident then s
    else
      let go := fun (t : State) (pa pbmt : Nat) => match p? with
        | some p => t.replayed d b c g p pa pbmt
        | none => t.undefer d
      match d.pa with
      | some pa => if s.replayWaits pa then s else go s pa 0
      | none =>
        match s.gwalk (groveOf c.core) g.ctx (b.arch.tdepth != 0) .load (BitVec.ofNat 64 d.va) with
        | .ok pte l lvl pa =>
          if s.replayWaits pa then s.heldAt d pa
          else go ((s.setA pte).install [.grove (groveOf c.core)] g.ctx (BitVec.ofNat 64 d.va) pte l lvl false) pa (leafPbmt l)
        | .tier3 pte l lvl => s.wantMig g.tenant g.ctx (BitVec.ofNat 64 d.va) pte l lvl g.tag none
        | .defer pa => s.deferAgain d pa
        | .fault k => if p?.isSome then s.holdDeferred d g c k else s.undefer d
  | _, _, _ => s.undefer d

/-- A lane that waits in the walker's queue for room in its grove's fault unit (R94). -/
def State.unheld (s : State) (grove : Nat) : Option (Bundle × Pend × LaneAcc) :=
  s.bundles.findSome? fun b =>
    if b.live && groveOf (s.coreOfB b.key) == grove then
      b.pend.findSome? fun p => (p.lanes.find? fun a => a.defer && !s.flash.deferred.any fun d => d.pid == p.id && d.lane == a.lane).map fun a => (b, p, a)
    else none

/-- An access of a restored crew that waits for room in its grove's fault unit comes in, and is issued again (R94, R96). -/
def State.takeMoved (s : State) (grove : Nat) : Option State :=
  (s.flash.deferred.find? fun d => d.grove == Config.groves && groveOf (s.coreOfB d.owner) == grove && (s.crew? d.owner.ck).any fun c => c.st == .resident).map fun d =>
    let flash := { s.flash with deferred := s.flash.deferred.map fun x => if x = d then { x with grove := grove } else x }
    ({ s with flash := flash }).replay { d with grove := grove }

/-- Take a waiting lane in when there is room: it is walked again, and counts only if it then defers (R94). -/
def State.takeLane (s : State) (grove : Nat) : State :=
  match s.unheld grove with
    | none => s
    | some (b, p, a) =>
      match s.crew? b.key.ck, s.grid? b.key.grid with
      | some _, some g =>
        match s.walk g.ctx (b.arch.tdepth != 0) .load (BitVec.ofNat 64 a.va) with
        | .defer pa => s.deferOne ⟨b.key, p.id, a.lane, grove, s.clock, a.va, none, unitOf pa, none⟩
        | .ok _ _ _ pa =>
          let d : Deferral := ⟨b.key, p.id, a.lane, grove, s.clock, a.va, if s.replayWaits pa then some pa else none, unitOf pa, none⟩
          if s.replayWaits pa then s.deferOne d
          else
            let flash := { s.flash with deferred := s.flash.deferred ++ [d] }
            ({ s with flash := flash }).replay d
        | _ =>
          let d : Deferral := ⟨b.key, p.id, a.lane, grove, s.clock, a.va, none, unitOf a.addr, none⟩
          let flash := { s.flash with deferred := s.flash.deferred ++ [d] }
          ({ s with flash := flash }).replay d
      | _, _ => s

/-- One access that waits for room comes in, if there is some. -/
def State.takeIn (s : State) (grove : Nat) : State :=
  if 4096 ≤ (s.deferrals grove).length then s else (s.takeMoved grove).getD (s.takeLane grove)

/-- Waiting lanes come in, as far as there is room, on each grove where deferred accesses have gone (R94). (log 77, DESIGN CHOICE) -/
def State.takeFrom (s : State) (gone : List Deferral) : State :=
  ((gone.map fun d => d.grove).eraseDups).foldl (fun t g =>
    let n := t.flash.deferred.length + (t.bundles.flatMap fun b => b.pend.flatMap fun p => p.lanes.filter fun a => a.defer).length
    (List.range n).foldl (fun t _ => t.takeIn g) t) s

/-- Replay the deferred accesses that a test picks; the room that they leave is taken. -/
def State.replayAll (s : State) (pick : Deferral → Bool) : State :=
  let l := s.flash.deferred.filter pick
  (l.foldl (fun t d => t.replay d) s).takeFrom l

/-- R94, R95: an access still deferred 20 ms after its fault completes poisoned; the record names the lowest line of the instruction that timed out. The time runs on while the crew is saved. (log 117, DESIGN CHOICE) -/
def execDeferralTimeout (i : Nat) (s : State) : Res :=
  match s.flash.deferred[i]? with
  | none => .next s
  | some d =>
    match (s.bundle? d.owner).filter (fun b => b.readsRecord d.pid || b.pend.any fun p => p.id == d.pid), s.crew? d.owner.ck, s.grid? d.owner.grid with
    | some b, some c, some g =>
      let s := { s with clock := max s.clock (d.since + 20000 * Config.cyclesPerUs) }
      let late := s.flash.deferred.filter fun x => x.owner == d.owner && x.pid == d.pid && decide (x.since + 20000 * Config.cyclesPerUs ≤ s.clock)
      let low := late.foldl (fun m x => if x.va < m.va then x else m) d
      let o := 0x10000700 + 0x100000 * d.grove
      let s := s.setReg o (satAdd (s.reg o) 47 40 1)
      let s := s.post g.tenant (wordOf [(56, 0x14), (38, g.ctx), (32, g.tenant), (0, g.tag)]) (BitVec.ofNat 64 (lineOf low.va))
        (wordOf [(53, c.core), (0, low.unit)]) 0
      let flash := { s.flash with deferred := s.flash.deferred.filter fun x => !(x.owner == d.owner && x.pid == d.pid) }
      .next ((({ s with flash := flash }).consume b 6 (lineOf low.va)).takeFrom [d])
    | _, _, _ => .next ((s.undefer d).takeFrom [d])

end Sys2Proof.Machine
end

