-- ==== Sys2Proof/Machine/Paging.lean ====
section
/-! DEFINITION. The translation hardware's own steps: walks, migrations, shoot-downs, harvests, pools, relocation of flash units (R74 to R84, R89, R92, R97, R458). -/

namespace Sys2Proof.Machine

/-! ### Walks (R69, R74, R75) -/

/-- Set the misses. -/
def State.setMisses (s : State) (l : List Miss) : State :=
  let xl := { s.xl with misses := l }
  { s with xl := xl }

/-- Does an earlier miss of the tenant on the grove wait for the quota? Misses that find it full wait in arrival order. -/
def earlierWaits (l : List Miss) (i : Nat) (m : Miss) : Bool :=
  (l.take i).any fun x => x.grove == m.grove && x.tenant == m.tenant && x.waited && !x.walking

/-- R74, R75: miss i starts its walk, when fewer than the quota of its tenant's walks and fewer than 128 in all are in progress on the grove; a miss that finds the quota full is
counted once. -/
def execWalkStart (i : Nat) (s : State) : Res :=
  match s.xl.misses[i]? with
  | none => .next s
  | some m =>
    let o := offWalk m.grove m.tenant
    if m.walking then .next s
    else if fld (s.reg o) 7 0 ≤ s.walking m.grove m.tenant then
      if m.waited then .next s
      else .next ((s.setMisses (s.xl.misses.set i { m with waited := true })).setReg o (satAdd (s.reg o) 31 24 1))
    else if earlierWaits s.xl.misses i m || decide (128 ≤ (s.xl.misses.filter fun x => x.walking && x.grove == m.grove).length) then .next s
    else .next (s.setMisses (s.xl.misses.set i { m with walking := true }))

/-- Leave a note of a walk with a bundle that waited for it. -/
def State.note (s : State) (k : BKey) (n : Note) : State := s.onBundle k fun b => { b with notes := b.notes ++ [n] }

/-- Park a bundle on a migration (R79). -/
def State.park (s : State) (k : BKey) (n : Nat) : State := s.onBundle k fun b => { b with parked := some n }

/-- The number a bundle is parked on while its page migrates; smaller numbers are pools. -/
abbrev parkMig : Nat := 192

/-- The tag of a bundle's grid. -/
def State.tagOf (s : State) (k : BKey) : Nat := ((s.grid? k.grid).map fun g => g.tag).getD 0

/-- One waiter of a walk that has ended: the leaf installed, a note, or a migration (R69). An engine walks again, and finds the leaf in its grove's TLB or its fault. -/
def State.walkFor (s : State) (m : Miss) (w : Waiter) : State :=
  match s.gwalk m.grove m.ctx w.sup w.acc w.va, w.who with
  | .ok pte l lvl _, k =>
    let own := k.toList.map fun k => if w.acc = .fetch then TlbAt.inst (s.coreOfB k) else .core (s.coreOfB k)
    (s.setA pte).install (own ++ [.grove m.grove]) m.ctx w.va pte l lvl false
  | .tier3 pte l lvl, some k => (s.wantMig m.tenant m.ctx w.va pte l lvl (s.tagOf k) (some k)).park k parkMig
  | .defer pa, some k => s.note k ⟨m.vpn, w.acc, .defer pa⟩
  | .fault c, some k => s.note k ⟨m.vpn, w.acc, .fault c⟩
  | _, none => s

/-- Actions that waited for a page or a walk run again, the counters in turn (R160). -/
def State.fireWaiting (s : State) : State :=
  let w := s.armed.filter fun a => a.waits
  let s := { s with armed := s.armed.filter fun a => !a.waits }
  ((w.map fun a => a.pa).eraseDups).foldl (fun t pa =>
    let l := (w.filter fun a => a.pa == pa).map fun a => { a with waits := false }
    State.fire (t.armed.length + l.length + 1) l t) s

/-- R69, R74: the walk of miss i ends for all its waiters; one that a shoot-down covered installs nothing, and its waiters walk again. What the hub's own engines held for want
of room walks again. (log 6, DESIGN CHOICE) -/
def execWalkComplete (i : Nat) (s : State) : Res :=
  match s.xl.misses[i]? with
  | none => .next s
  | some m =>
    if !m.walking || s.walkHeld m.ctx (vpnVa m.vpn) then .next s
    else
      let s := s.setMisses (s.xl.misses.eraseIdx i)
      .next (if m.stale then s else m.waiters.foldl (fun t w => t.walkFor m w) (s.pwFill m.grove m.ctx (vpnVa m.vpn))).hubRetry.fireWaiting

/-! ### Migrations (R80, R83, R84) -/

/-- The bundles of a list that a page parked go on. -/
def State.unpark (s : State) (l : List BKey) : State :=
  l.foldl (fun t k => t.onBundle k fun b => if b.parked = some parkMig then { b with parked := none } else b) s

/-- The bytes of a page, poison with them, stand in its new frame. -/
def State.copyPage (s : State) (src dst n : Nat) : State :=
  let bad := (linesIn src n).filter s.poison.contains
  let t := (s.setBytes dst (bytesFrom s.byte src n)).unitWrote dst n
  let t := { t with poison := t.poison.filter fun l => !decide (dst ≤ l ∧ l < dst + n) }
  bad.foldl (fun t l =>
    let t := t.poisonFrom (l - src + dst) (s.poisonSource l)
    { t with mended := natsPut t.mended (l - src + dst) (natsGet s.mended l) }) t

/-- The leaf that a migration writes over one it read (R80). -/
def migLeaf (z : Nat) (f : Nat × Nat) (l : Word) : Word :=
  let l := setFld l 57 56 0
  let l := setFld l 53 10 (if z = 1 then f.2 + 8 else f.2)
  let l := setFld l 60 58 f.1
  setFld (setFld l 6 6 1) 7 7 0

/-- Is a deferred access one whose replay waits for a migration's page (R459)? -/
def State.defersOn (s : State) (m : Mig) (d : Deferral) : Bool :=
  d.pa.isNone && d.cause.isNone && (match s.grid? d.owner.grid with | some g => g.ctx == m.ctx | none => false)
    && decide (m.vpn ≤ vpnOf (BitVec.ofNat 64 d.va) ∧ vpnOf (BitVec.ofNat 64 d.va) < m.vpn + zPages m.size)

/-- Step 4 of R80, whichever way the compare-and-swap went: the waiters go on, and so do actions, arrivals and replays that waited for the page; a page request for it is done. (log 73, DEDUCED) -/
def State.migEnd (s : State) (m : Mig) : State :=
  let pcie := { s.pcie with asked := s.pcie.asked.filter fun x => x != (m.ctx, m.vpn) }
  ((((({ s with pcie := pcie }).unpark m.waiters).hubRetry).fireWaiting)).replayAll (s.defersOn m)

/-- The entries of a migration's leaf. -/
def Mig.entries (m : Mig) : List Nat := leafEntries m.pte (m.leaf.headD 0)

/-- R80 steps 2 to 4: migration i, which holds a frame, has its page copied; the compare-and-swap succeeds if every entry still holds what was read. -/
def execMigrationCopyDone (i : Nat) (s : State) : Res :=
  match s.xl.migs[i]? with
  | none => .next s
  | some m =>
    match m.frame with
    | none => .next s
    | some f =>
      let old := leafPpn (m.leaf.headD 0)
      let pages := zPages m.size
      let s := (s.setMigs (s.xl.migs.eraseIdx i)).copyPage (old / pages * pages * 4096) (f.2 * 4096) (pages * 4096)
      if m.entries.map s.rd64 = m.leaf then
        let s := (m.entries.zip m.leaf).foldl (fun t x => t.put64 x.1 (migLeaf m.size f x.2)) s
        let s := s.post m.tenant (wordOf [(56, 0x10), (54, m.size), (38, m.ctx), (32, m.tenant)]) (vpnVa m.vpn) (wordOf [(12, old)]) 0
        .next (s.migEnd m)
      else .next ((s.keepFrame m.tenant m.size f).migEnd m)

/-! ### Pools (R82, R83) -/

/-- Migrations of a tenant and size without a frame try the pool again. -/
def State.retryFrames (s : State) (n : Nat) : State :=
  (List.range s.xl.migs.length).foldl (fun t i =>
    match t.xl.migs[i]? with
    | some m =>
      if 3 * m.tenant + m.size = n ∧ m.size ≠ 3 ∧ m.frame.isNone then
        let r := t.migFrame m
        r.1.setMigs (r.1.xl.migs.set i r.2)
      else t
    | none => t) s

/-- Bundles that an empty pool parked go on (R83). -/
def State.unparkPool (s : State) (n : Nat) : State :=
  { s with bundles := s.bundles.map fun b => if b.parked = some n then { b with parked := none } else b }

/-- A write of HUB_POOL_PTR_n: tail, low_water and skipped take the value; a new tail resumes what the empty pool held (R82, R83). -/
def State.poolWrite (s : State) (n : Nat) (v : Word) : State :=
  let p := s.poolPtr n
  let s := s.setReg (offPool n + 8) (wordOf [(48, fld p 63 48), (8, fld v 47 8)])
  if fld p 47 32 = fld v 47 32 then s else (s.unparkPool n).retryFrames n

/-- R83: software writes HUB_POOL_PTR_n. -/
def execPoolTailWrite (n : Fin 192) (v : Word) (s : State) : Res := .next (s.poolWrite n.val v)

/-! ### Shoot-downs (R76 to R78, R458) -/

def offSd (t : Nat) : Nat := 0x1000000 + 0x10000 * t

/-- Does a shoot-down cover a page of a context? Kind 0 names one page of it, kind 2 every context of the tenant. -/
def State.sdCovers (s : State) (d : Shoot) (ctx vpn pages : Nat) : Bool :=
  match d.kind with
  | 0 => ctx == d.ctx && decide (vpn ≤ d.vpn ∧ d.vpn < vpn + pages)
  | 2 => (match s.ctx? ctx with | some c => c.tenant == d.tenant | none => false)
  | _ => ctx == d.ctx

/-- The page that a context's tables map an address by now: its first 4 KiB page and its pages; the 4 KiB page where they have no leaf. -/
def State.pageAt (s : State) (ctx : Nat) (va : Word) : Nat × Nat :=
  match s.ctx? ctx with
  | none => (vpnOf va, 1)
  | some c => match s.guestRoot c with
    | none => (match s.walkFrom noLook .ok false (fld va 56 0) 4 c.root with
      | .entry _ l lvl => (vpnOf va / leafPages lvl l * leafPages lvl l, leafPages lvl l)
      | .fault _ => (vpnOf va, 1))
    | some _ => (match s.found noLook c true .load va with
      | .ok x => (vpnOf va / leafPages x.elvl x.eff * leafPages x.elvl x.eff, leafPages x.elvl x.eff)
      | .error _ => (vpnOf va, 1))

/-- Does a shoot-down cover an address of a context: by its page in the tables now, or by a translation that is held? -/
def State.sdHits (s : State) (d : Shoot) (ctx va : Nat) : Bool :=
  let w : Word := BitVec.ofNat 64 va
  let p := s.pageAt ctx w
  s.sdCovers d ctx p.1 p.2 || s.xl.tlb.any fun x => x.2.covers ctx (vpnOf w) && s.sdCovers d ctx x.2.vpn x.2.pages

/-- The accesses of an entry of a store queue. -/
def SqOp.accs : SqOp → List LaneAcc
  | .store _ parts => parts.map fun p => p.1
  | .atom _ _ _ lanes => lanes.map fun l => l.acc
  | .aboInit a _ => [a]
  | .aboArrive _ a _ => [a]
  | .evAdd _ a _ => [a]
  | .evArm _ a _ _ _ _ _ => [a]
  | _ => []

/-- Is a lane's access still to return, through a translation it has used? One deferred at its walk has used none. -/
def State.laneOut (s : State) (p : Pend) (a : LaneAcc) : Bool :=
  !a.defer || s.flash.deferred.any fun d => d.pid == p.id && d.lane == a.lane && d.pa.isSome

/-- Is an access of a bundle that used a translation in scope, by the page that it went through, still on its way (R76)? -/
def State.sdWaits (s : State) (d : Shoot) : Bool :=
  s.bundles.any fun b =>
    match s.grid? b.key.grid with
    | none => false
    | some g =>
      let hit := fun (a : LaneAcc) => a.space == .mem && s.sdCovers d g.ctx (vpnOf (BitVec.ofNat 64 a.va) / a.pages * a.pages) a.pages
      (b.sq.any fun e => e.op.accs.any hit) || (s.flies b.key && s.sdCovers { d with kind := if d.kind = 0 then 1 else d.kind } g.ctx 0 1)
        || (b.pend.any fun p => p.lanes.any fun a => hit a && s.laneOut p a)

/-- A write of HUB_SD_CMD_t (R76). Kind 2 names no context, and its ctx field is not looked at (log 95, DESIGN CHOICE). -/
def State.sdCommand (s : State) (t : Nat) (v : Word) : State :=
  let o := offSd t + 8
  if (s.reg o).getLsbD 0 then s
  else
    let kind := fld v 49 48
    let ctx := fld v 63 54
    let w := fun (result go : Nat) => wordOf [(54, ctx), (48, kind), (1, result), (0, go)]
    if !v.getLsbD 0 then s.setReg o (w (fld (s.reg o) 2 1) 0)
    else if kind ≠ 2 ∧ !(s.xl.ctxs.any fun c => c.num == ctx && c.tenant == t) then s.setReg o (w 1 0)
    else
      let xl := { s.xl with shoots := s.xl.shoots ++ [⟨t, kind, ctx, fld (s.reg (offSd t)) 56 12⟩] }
      ({ s with xl := xl }).setReg o (w 0 1)

/-- A write of HUB_SD_CMD_t whose kind is the row's. -/
def runShootdown (kind : Nat) (t : Fin 64) (v : Word) (s : State) : Res :=
  if fld v 49 48 = kind then .next (s.sdCommand t.val v) else .next s

def execShootdownPage (t : Fin 64) (v : Word) : State → Res := runShootdown 0 t v
def execShootdownContext (t : Fin 64) (v : Word) : State → Res := runShootdown 1 t v
def execShootdownTenant (t : Fin 64) (v : Word) : State → Res := runShootdown 2 t v
def execShootdownHarvest (t : Fin 64) (v : Word) : State → Res := runShootdown 3 t v

/-- Migrations in scope that were escalated end, and what waited for them goes on; bundles parked in fmap too (R83). -/
def State.sdResume (s : State) (d : Shoot) : State :=
  let ended := fun (m : Mig) => m.escalated && s.sdCovers d m.ctx m.vpn (zPages m.size)
  let done := s.xl.migs.filter ended
  let s0 := s.setMigs (s.xl.migs.filter fun m => !ended m)
  let s1 := done.foldl (fun t m => t.migEnd m) s0
  let free := fun (b : Bundle) =>
    match b.sq with
    | ⟨_, .fmap _ _ va _, _⟩ :: _ =>
      (match b.parked with
        | some n => n != parkMig && (match s.grid? b.key.grid with | some g => s.sdHits d g.ctx va.toNat | none => false)
        | none => false)
    | _ => false
  { s1 with bundles := s1.bundles.map fun b => if free b then { b with parked := none } else b }

/-- Accesses of engines that wait on a fault in scope may try again (R458). -/
def State.sdRetry (s : State) (d : Shoot) : State :=
  let hit := fun (ctx va : Nat) => s.sdHits d ctx va
  let crew := fun (c : Crew) =>
    match s.grid? c.key.grid with
    | none => c
    | some g =>
      let copy := fun (m : CopyCmd) => if m.stall.any fun x => hit g.ctx x.2 then { m with stall := none } else m
      let cmd := fun (m : TileCmd) => if m.stopped.any fun x => hit g.ctx x.2 then { m with stopped := none } else m
      { c with copies := c.copies.map fun q => q.map copy
               tiles := c.tiles.map fun t => { t with busy := t.busy.map cmd } }
  let send := fun (x : Send) => if x.stall.any fun y => hit x.ctx y.2 then { x with stall := none } else x
  let net := { s.net with sends := s.net.sends.map send }
  let again := fun (x : Deferral) => x.cause.isSome && (match s.grid? x.owner.grid with | some g => hit g.ctx x.va | none => false)
  let deferred := s.flash.deferred.map fun x => if again x then { x with cause := none } else x
  let flash := { s.flash with deferred := deferred }
  { s with crews := s.crews.map crew, net := net, flash := flash }

/-- What a completed shoot-down does: marks harvested, entries dropped, walks in scope stale, waits retried (R76, R458). -/
def State.sdEffect (s : State) (d : Shoot) : State :=
  let pick := fun (x : TlbAt × TlbEnt) => s.sdCovers d x.2.ctx x.2.vpn x.2.pages
  let s := s.harvestAll pick
  if d.kind = 3 then s
  else
    let misses := s.xl.misses.map fun m => if s.sdHits d m.ctx (m.vpn * 4096) then { m with stale := m.walking } else m
    let pwc := s.xl.pwc.filter fun e => !(match d.kind with
      | 0 => e.ctx == d.ctx && (e.two || e.tag == d.vpn / 512 ^ e.lvl)
      | 2 => s.ctxOwner e.ctx == d.tenant
      | _ => e.ctx == d.ctx)
    let xl := { s.xl with tlb := s.xl.tlb.filter (fun x => !pick x), pwc := pwc, misses := misses }
    let t := { s with xl := xl }
    let held := t.flash.deferred.filter fun x => x.cause.isSome
    let t := (t.sdResume d).sdRetry d
    t.replayAll fun x => x.cause.isNone && held.any fun y => y.owner == x.owner && y.pid == x.pid && y.lane == x.lane

/-- R76: the shoot-down of tenant t completes once every access through a translation in scope has. A harvest (kind 3) keeps its entries, and so waits for nothing and keeps the walks. (log 120, DESIGN CHOICE) -/
def execShootdownDone (t : Fin 64) (s : State) : Res :=
  match s.xl.shoots.find? fun d => d.tenant == t.val with
  | none => .next s
  | some d =>
    if d.kind ≠ 3 ∧ s.sdWaits d then .next s
    else
      let xl := { s.xl with shoots := s.xl.shoots.filter fun x => x.tenant != t.val }
      let o := offSd t.val + 8
      .next ((({ s with xl := xl }).sdEffect d).setReg o (setFld (s.reg o) 0 0 0))

/-- Does a grove's base hold a TLB? -/
def TlbAt.ofGrove (p : TlbAt) (g : Nat) : Bool :=
  match p with
  | .core c => groveOf c == g
  | .inst c => groveOf c == g
  | .grove k => k == g

/-- R77: the harvest timer of a grove. -/
def execHarvestTimer (grove : Nat) (s : State) : Res := .next (s.harvestAll fun x => x.1.ofGrove grove)

/-! ### Flash units (R89, R92 to R94, R97) -/

/-- The leaf that anchors a unit: its address, and the entries a change writes. -/
def State.anchorOf (s : State) (u : Nat) : Option (List Nat) :=
  (s.flash.anchors.find? fun a => decide (a.1 ≤ u ∧ u < a.1 + a.2.1)).map fun a => leafEntries a.2.2.1 (s.rd64 a.2.2.1)

/-- Change bit 54 of a unit's anchor leaf (R68, R92). -/
def State.setReloc (s : State) (u : Nat) (v : Bool) : State :=
  match s.anchorOf u with
  | none => s
  | some l => l.foldl (fun t a => t.put64 a (setFld (t.rd64 a) 54 54 v.toNat)) s

/-- Are all of a unit's bytes below its region's sealed end (R92)? -/
def State.unitSealed (s : State) (u : Nat) : Bool :=
  match s.regionOf u with
  | none => false
  | some n => decide (Config.flashBase + 65536 * (u + 1) ≤ s.regionBase n + s.sealedEnd n)

/-- Units whose translation switches. -/
def State.setSwitching (s : State) (l : List Nat) : State :=
  let flash := { s.flash with switching := l }
  { s with flash := flash }

/-- R92: Sawyer begins to move a sealed unit. (log 76, DEDUCED) -/
def execRelocationBegin (unit : Nat) (s : State) : Res :=
  if !s.unitSealed unit || s.flash.switching.contains unit then .next s
  else .next ((s.setReloc unit true).setSwitching (unit :: s.flash.switching))

/-- Does one anchored leaf map two units? -/
def State.sharesLeaf (s : State) (u v : Nat) : Bool :=
  s.flash.anchors.any fun a => decide (a.1 ≤ u ∧ u < a.1 + a.2.1) && decide (a.1 ≤ v ∧ v < a.1 + a.2.1)

/-- Every access that waits on a unit is tried again, and every one that was deferred at a walk by a leaf that maps it (R92, R94). -/
def State.wakeUnit (s : State) (u : Nat) : State := s.replayAll fun d => d.cause.isNone && (d.unit == u || (d.pa.isNone && s.sharesLeaf u d.unit))

/-- R92, R94: the switch ends: reloc is cleared and the unit's deferred accesses are woken. (log 76, DEDUCED) -/
def execRelocationSwitchEnd (unit : Nat) (s : State) : Res :=
  if !s.flash.switching.contains unit then .next s
  else .next (((s.setSwitching (s.flash.switching.erase unit)).setReloc unit false).wakeUnit unit)

/-- R94: a die that was busy for a unit is free. -/
def execFlashDieFree (unit : Nat) (s : State) : Res :=
  if !s.flash.busy.contains unit then .next s
  else
    let flash := { s.flash with busy := s.flash.busy.filter fun u => u != unit }
    .next (({ s with flash := flash }).wakeUnit unit)

/-- Physical addresses of a region. -/
def State.regionSpan (s : State) (n : Nat) : Nat × Nat := (s.regionBase n, 65536 * fld (s.reg (offRegion n)) 23 0)

/-- R97: a region in erasing is erased and becomes free; nothing of it is sealed or anchored any more. (log 48, DEDUCED) -/
def execRegionEraseDone (n : Nat) (s : State) : Res :=
  let w := s.reg (offRegion n)
  if 16384 ≤ n ∨ fld w 63 62 ≠ 3 then .next s
  else
    let r := s.regionSpan n
    let lo := fld w 49 24
    let inside := fun (a : Nat) => decide (r.1 ≤ a ∧ a < r.1 + r.2)
    let flash := { s.flash with anchors := s.flash.anchors.filter fun a => !decide (lo ≤ a.1 ∧ a.1 < lo + fld w 23 0)
                                committed := mapDel s.flash.committed n }
    let s := { s with mem := s.mem.filter (fun c => !inside c.1), poison := s.poison.filter (fun a => !inside a), flash := flash }
    .next ((s.setReg (offRegion n) (setFld w 63 62 0)).setReg (offRegionEnd n) 0)

end Sys2Proof.Machine
end

