-- ==== Sys2Proof/Machine/Net.lean ====
section
/-! DEFINITION. Xoxia and the network ports: coding, sending, receiving, repair, failure (R41 to R65, R430 to R432, R456). -/

namespace Sys2Proof

/-! ### The header (R46) -/

def Packet.version (p : Packet) : Nat := Machine.fld p.w0 63 60
def Packet.kind (p : Packet) : Nat := Machine.fld p.w0 59 56
def Packet.k (p : Packet) : Nat := Machine.fld p.w0 55 50
def Packet.m (p : Packet) : Nat := Machine.fld p.w0 49 46
def Packet.fsize (p : Packet) : Nat := Machine.fld p.w0 45 44
def Packet.findex (p : Packet) : Nat := Machine.fld p.w0 43 38
def Packet.tenant (p : Packet) : Nat := Machine.fld p.w0 37 32
def Packet.seq (p : Packet) : Nat := Machine.fld p.w0 31 0
def Packet.src (p : Packet) : Nat := Machine.fld p.w1 63 45
def Packet.dst (p : Packet) : Nat := Machine.fld p.w1 44 26
def Packet.horizon (p : Packet) : Nat := Machine.fld p.w1 25 16
def Packet.stripe (p : Packet) : Nat := Machine.fld p.w2 63 44
def Packet.length (p : Packet) : Nat := Machine.fld p.w2 26 0
def Packet.tag (p : Packet) : Nat := Machine.fld p.w3 63 32

/-- The body of a control packet (R47), its least significant byte first. (log 84, PRESUMED) -/
def Packet.body (p : Packet) : Nat := Machine.leNat (p.payload.take 8)

/-- One bit, and one byte, of CRC-32C in its reflected form (log 84, PRESUMED). -/
def crcBit (c : Nat) : Nat := if c % 2 = 1 then (c / 2) ^^^ 0x82F63B78 else c / 2
def crcByte (c : Nat) (b : Byte) : Nat := crcBit (crcBit (crcBit (crcBit (crcBit (crcBit (crcBit (crcBit (c ^^^ b.toNat))))))))

/-- The CRC-32C of some bytes (log 84, PRESUMED). -/
def crc32c (l : List Byte) : Nat := l.foldl crcByte 0xFFFFFFFF ^^^ 0xFFFFFFFF

/-- The bytes that a packet's CRC covers: its header, each word with its least significant byte first, and what follows it. (log 84, PRESUMED) -/
def Packet.bytes (p : Packet) : List Byte := ([p.w0, p.w1, p.w2, p.w3].flatMap fun w => Machine.leBytes 8 w.toNat) ++ p.payload

/-- Does a packet's CRC-32C agree with its bytes? -/
def Packet.crcOk (p : Packet) : Bool := p.crc == crc32c p.bytes

end Sys2Proof

namespace Sys2Proof.Machine

/-- The fields that the module puts into a header; version is 1 and zero fields are 0 (R46). -/
structure FragHeader where
  kind    : Nat
  k       : Nat
  m       : Nat
  fsize   : Nat
  findex  : Nat
  tenant  : Nat
  seq     : Nat
  src     : Nat
  dst     : Nat
  horizon : Nat
  stripe  : Nat
  length  : Nat
  tag     : Nat
  deriving DecidableEq, Repr

/-- A packet of the module with a header and what follows it, by UUD or RUD (R42), by the egress port of its entropy value; one that carries poison fails its CRC (R279). -/
def FragHeader.packet (h : FragHeader) (payload : List Byte) (delivery : Delivery) (entropy port : Nat) (good : Bool) : Packet :=
  let p : Packet :=
    { w0 := wordOf [(60, 1), (56, h.kind % 16), (50, h.k % 64), (46, h.m % 16), (44, h.fsize % 4), (38, h.findex % 64), (32, h.tenant % 64), (0, h.seq % 2 ^ 32)]
      w1 := wordOf [(45, h.src % 2 ^ 19), (26, h.dst % 2 ^ 19), (16, h.horizon % 1024)]
      w2 := wordOf [(44, h.stripe % 2 ^ 20), (0, h.length % 2 ^ 27)]
      w3 := wordOf [(32, h.tag % 2 ^ 32)]
      payload := payload, crc := 0, delivery := delivery, entropy := entropy, port := port, fcsOk := true, trimmed := false }
  { p with crc := if good then crc32c p.bytes else crc32c p.bytes ^^^ 1 }

/-- The fields of a packet's header. -/
def headerOf (p : Packet) : FragHeader :=
  { kind := p.kind, k := p.k, m := p.m, fsize := p.fsize, findex := p.findex, tenant := p.tenant, seq := p.seq, src := p.src, dst := p.dst,
    horizon := p.horizon, stripe := p.stripe, length := p.length, tag := p.tag }

/-- A control packet (R42, R47): its body, over RUD; the manual gives it no entropy value, the model takes 0 (log 85, DESIGN CHOICE). -/
def FragHeader.control (h : FragHeader) (body port : Nat) : Packet := h.packet (leBytes 8 body) .rud 0 port true

/-! ### Clock and ports -/

/-- The clock at a due time, if that is later. (log 5, DESIGN CHOICE) -/
def State.upTo (s : State) (t : Nat) : State := { s with clock := max s.clock t }

/-- Microseconds in cycles. -/
def usCycles (n : Nat) : Nat := n * Config.cyclesPerUs

/-- Count a spare in use, or a failure with none left, in HUB_COPPICE_k (R284). -/
def State.coppice (s : State) (k used unspared : Nat) : State :=
  let o := 0x200 + 8 * k
  s.setReg o (satAdd (satAdd (s.reg o) 39 16 used) 15 8 unspared)

/-- Replace the network's state. -/
def State.setNet (s : State) (n : Net) : State := { s with net := n }

/-- Lanes that a port has trained on (R41): eight unless it is at a lower rate. -/
def Net.lanesOf (n : Net) (port : Nat) : Nat := if natsGet n.lanes port = 0 then 8 else natsGet n.lanes port

/-- R41: a lane fails: the spare takes its place, or the port retrains at 800 Gb/s on four lanes; one that runs on two stays there. (log 124, DESIGN CHOICE) -/
def execNetLaneFail (port lane : Nat) (s : State) : Res :=
  if 16 ≤ port ∨ 9 ≤ lane then .next s
  else if s.net.spared.contains port then
    let net := { s.net with lanes := natsPut s.net.lanes port (min 4 (s.net.lanesOf port)), broken := if s.net.broken.contains port then s.net.broken else port :: s.net.broken }
    .next ((s.setNet net).coppice 5 0 1)
  else .next ((s.setNet { s.net with spared := port :: s.net.spared }).coppice 5 1 0)

/-- R41, R43: a port goes down, or comes back up, trained on eight, four or two lanes, on eight only while it has as many. -/
def execNetworkPortStateChange (port : Nat) (lanes : Option Nat) (s : State) : Res :=
  if 16 ≤ port then .next s
  else match lanes with
    | none => .next (s.setNet { s.net with down := if s.net.down.contains port then s.net.down else port :: s.net.down })
    | some n =>
      if n = 2 ∨ n = 4 ∨ (n = 8 ∧ !s.net.broken.contains port) then
        .next (s.setNet { s.net with down := s.net.down.filter (· != port), lanes := natsPut s.net.lanes port (n % 8) })
      else .next s

/-- The egress port of an entropy value: entropy[3:0], or the next higher one that is up, modulo 16 (R43); with every port down the packet is handed to entropy[3:0]
all the same (log 86, DESIGN CHOICE). -/
def Net.egress (n : Net) (e : Nat) : Nat :=
  (((List.range 16).map fun i => (e + i) % 16).find? fun p => !n.down.contains p).getD (e % 16)

/-- A packet discarded by a port is counted there (R42, R46). -/
def State.portDiscard (s : State) (p : Packet) : State :=
  s.setNet { s.net with discards := natsPut s.net.discards p.port (natsGet s.net.discards p.port + 1) }

/-- Hand packets to the network. -/
def State.emit (s : State) (l : List Packet) : State := s.setNet { s.net with out := s.net.out ++ l }

/-! ### The code (R49) -/

/-- Multiply by x in GF(2⁸) with polynomial 0x11D. -/
def gfX (a : Nat) : Nat := if 128 ≤ a then (2 * a) ^^^ 0x11D else 2 * a

/-- Multiply in GF(2⁸), bit by bit. -/
def gfMulGo : Nat → Nat → Nat → Nat
  | 0, _, _ => 0
  | n + 1, a, b => (if b % 2 = 1 then a else 0) ^^^ gfMulGo n (gfX a) (b / 2)
def gfMul (a b : Nat) : Nat := gfMulGo 8 a b

/-- The inverse in GF(2⁸); 0 has none. -/
def gfInv (a : Nat) : Nat := ((List.range 256).find? fun b => gfMul a b == 1).getD 0

/-- A coefficient of the Cauchy generator: x_j = j, y_i = m + i. -/
def cauchy (m j i : Nat) : Nat := gfInv (j ^^^ (m + i))

/-- Add a multiple of a row to another. -/
def rowAdd (c : Nat) (x y : List Nat) : List Nat := x.zipWith (fun a b => gfMul c a ^^^ b) y

/-- Parity fragment j of some data fragments of f bytes. -/
def parity (m j f : Nat) (data : List (List Nat)) : List Nat :=
  ((List.range data.length).zip data).foldl (fun acc x => rowAdd (cauchy m j x.1) x.2 acc) (List.replicate f 0)

/-- The row of the generator of a fragment index. -/
def codeRow (k m idx : Nat) : List Nat :=
  (List.range k).map fun i => if idx < k then (if i = idx then 1 else 0) else cauchy m (idx - k) i

/-- One column of the elimination: the first row with a nonzero entry there is scaled and cleared from the others. -/
def pivot (c : Nat) (rows : List (List Nat × List Nat)) : List (List Nat × List Nat) :=
  match rows.findIdx? fun r => !(r.1.take c).any (· != 0) && r.1.getD c 0 != 0 with
  | none => rows
  | some i =>
    match rows[i]? with
    | none => rows
    | some r =>
      let q := gfInv (r.1.getD c 0)
      let p := (r.1.map (gfMul q), r.2.map (gfMul q))
      ((List.range rows.length).zip rows).map fun x =>
        if x.1 = i then p
        else
          let d := x.2.1.getD c 0
          (rowAdd d p.1 x.2.1, rowAdd d p.2 x.2.2)

/-- The data fragments that k held fragments determine (R49). -/
def decodeStripe (k m : Nat) (held : List (Nat × List Byte)) : List (List Byte) :=
  let rows := held.map fun h => (codeRow k m h.1, h.2.map BitVec.toNat)
  let done := (List.range k).foldl (fun r c => pivot c r) rows
  (List.range k).map fun i =>
    (((done.find? fun r => r.1.getD i 0 == 1 && (r.1.filter (· != 0)).length == 1).map fun r => r.2).getD []).map (BitVec.ofNat 8)

/-! ### Messages and stripes (R45) -/

/-- Bytes of a fragment. -/
def fragBytes (fsize : Nat) : Nat := 512 * 2 ^ fsize

/-- Data fragments of a whole message; its stripes; the data fragments of a stripe. -/
def fragsOf (len f : Nat) : Nat := (len + f - 1) / f
def stripesOf (len f k : Nat) : Nat := if len = 0 then 1 else (fragsOf len f + k - 1) / k
def stripeK (len f k s : Nat) : Nat := if len = 0 then 1 else min k (fragsOf len f - s * k)

/-- Fields of a latched profile (R50). -/
def profK (p : Word) : Nat := fld p 19 14
def profM (p : Word) : Nat := fld p 23 20
def profHorizon (p : Word) : Nat := if fld p 57 48 = 0 then 50 else fld p 57 48
def profF (p : Word) : Nat := fragBytes (fld p 25 24)

/-- Parity fragments of a message: one of length 0 has none. -/
def Send.m (x : Send) : Nat := if x.len = 0 then 0 else profM x.prof
def Send.k (x : Send) (s : Nat) : Nat := stripeK x.len (profF x.prof) (profK x.prof) s
def Send.stripes (x : Send) : Nat := stripesOf x.len (profF x.prof) (profK x.prof)

/-- The sender deadline's length and the wait for its answer (R54). -/
def Send.limit (x : Send) : Nat := usCycles (4 * profHorizon x.prof + 100)

/-- The header of a packet of a send (R46). -/
def Send.header (x : Send) (self kind stripe findex : Nat) : FragHeader :=
  { kind := kind, k := x.k stripe, m := x.m, fsize := fld x.prof 25 24, findex := findex, tenant := x.tenant, seq := x.seq, src := self,
    dst := x.dest, horizon := profHorizon x.prof, stripe := stripe, length := x.len, tag := x.tag }

/-- The entropy value of a fragment (R51). -/
def Send.entropy (x : Send) (stripe f q : Nat) : Nat :=
  (fld x.prof 47 32 + (f + stripe + q) % (max 1 (fld x.prof 31 26))) % 65536

/-! ### The sender (R52 to R55, R59, R430) -/

/-- A send by the number of its record. -/
def State.send? (s : State) (id : Nat) : Option Send := s.net.sends.find? fun x => x.id == id

/-- Put a send. -/
def State.putSend (s : State) (x : Send) : State :=
  s.setNet { s.net with sends := s.net.sends.map fun y => if y.id = x.id then x else y }

/-- The send that a packet from its receiver names. -/
def State.sendFor (s : State) (p : Packet) : Option Send :=
  s.net.sends.find? fun x => x.dest == p.src && x.tenant == p.tenant && x.seq == p.seq

/-- The fault record of R60: cause, the failing stripe with its k, m, fsize and repairs, the identity, the fragments held, the tag. -/
def State.netRecord (s : State) (tenant cause k m fsize repairs seq src dst stripe held tag : Nat) : State :=
  s.post tenant (wordOf [(56, cause), (50, k), (46, m), (44, fsize), (42, min 2 repairs), (32, tenant), (0, seq)])
    (wordOf [(45, src), (26, dst), (0, stripe)]) (BitVec.ofNat 64 held) tag

/-- The cause of a token's status (R60). -/
def statusCause : Nat → Nat
  | 1 => 1 | 2 => 4 | 3 => 4 | 4 => 5 | 5 => 2 | _ => 6

/-- Write a send's token once (R53, R54): ackcnt falls, and a nonzero status posts a record naming a stripe. -/
def State.sendToken (s : State) (x : Send) (status stripe : Nat) : State :=
  let s := s.setNet { s.net with sends := s.net.sends.filter fun y => y.id != x.id }
  let s := s.token x.owner x.pid (wordOf [(32, x.seq), (0, status)])
  let s := s.onBundle x.owner fun b => { b with ackcnt := b.ackcnt - 1 }
  if status = 0 then s
  else
    let cause := statusCause status
    let st := if cause = 4 ∨ cause = 5 then 0 else stripe
    s.netRecord x.tenant cause (x.k st) x.m (fld x.prof 25 24) (natsGet x.reps st) x.seq s.net.self x.dest st 0 x.tag

/-- The IP address of a module number, if it has one (R44): what firmware's last change gives it, or what boot gave it. (log 42, DESIGN CHOICE) -/
def Net.ipOf (n : Net) (module : Nat) : Option Nat := (mapGet n.routes module).getD (some (Config.bootIp module))

/-- Firmware gives a module number an IP address, or takes its address away (R44). (log 42, DESIGN CHOICE) -/
def State.setRoute (s : State) (module : Nat) (ip : Option Nat) : State := s.setNet { s.net with routes := mapPut s.net.routes module ip }

/-- Begin a send that has left its store queue (R430). A dest that names no reachable module ends with status 5 at once. (log 42, DESIGN CHOICE) -/
def State.sendStart (s : State) (b : Bundle) (c : Crew) (g : Grid) (time pid : Nat) (prof buf : Word) (len : Nat) (dest : Word) : State :=
  let seq := natsGet s.net.seqs g.tenant
  let x : Send :=
    { id := s.free, owner := b.key, pid := pid, tenant := g.tenant, ctx := g.ctx, core := c.core, slot := c.slot, gtag := g.tag, prof := prof,
      buf := buf.toNat, len := len, dest := fld dest 50 32, tag := fld dest 31 0, seq := seq, ph := .tx, next := 0, confirmed := 0, busies := 0,
      dues := [], reps := [], asks := [], due := 0, stall := none, since := time }
  let net := { s.net with seqs := natsPut s.net.seqs g.tenant ((seq + 1) % 2 ^ 32), sends := s.net.sends ++ [x] }
  let t := { s with free := s.free + 1, net := net }
  if fld dest 63 51 != 0 || (s.net.ipOf (fld dest 50 32)).isNone then t.sendToken x 5 0 else t

/-- The engine that reads a send's buffer (R430). -/
def Send.eng (x : Send) : Eng := ⟨groveOf x.core, x.core, x.ctx, x.tenant, x.owner.ck, x.gtag⟩

/-- The record of a send that stalls (R430). -/
def State.sendFault (s : State) (x : Send) (cause va : Nat) : State :=
  s.engRecord x.tenant cause 2 x.gtag (BitVec.ofNat 64 va) (wordOf (whereWord x.core x.slot ++ [(0, (va + 2 ^ 64 - x.buf) % 2 ^ 26)]))

/-- Cut bytes into n fragments of f, the last padded with zeros. -/
def cutFrags (f : Nat) : Nat → List Byte → List (List Byte)
  | 0, _ => []
  | n + 1, d => ((d.take f) ++ List.replicate (f - (d.take f).length) 0) :: cutFrags f n (d.drop f)

/-- The payload of fragment i of a stripe's data. -/
def fragPayload (m f : Nat) (data : List (List Byte)) (i : Nat) : List Byte :=
  match data[i]? with
  | some d => d
  | none => (parity m (i - data.length) f (data.map fun d => d.map BitVec.toNat)).map (BitVec.ofNat 8)

/-- Does the data of fragment i of a stripe, or any of it for a parity fragment, meet poison (R279)? -/
def fragPoison (k f len : Nat) (bad : Nat → Nat → Bool) (i : Nat) : Bool :=
  if i < k then bad (i * f) (min f (len - i * f)) else bad 0 len

/-- Read a stripe of a send and hand some of its fragments to the network; otherwise the send waits or stalls. A fragment built from a buffer that was written since the send was issued carries unspecified
data (R52). Fragments ride UUD, that of a message without bytes RUD (R42). -/
def State.sendFrags (s : State) (x : Send) (stripe q : Nat) (pick : Nat → Bool) : Option State × State :=
  let f := profF x.prof
  let k := x.k stripe
  let off := stripe * profK x.prof * f
  let n := min (k * f) (x.len - off)
  match s.engRead x.eng .mem ((x.buf + off) % 2 ^ 64) n with
  | .error e =>
    let t := s.engStopped x.eng e fun c va t => (t.putSend { x with stall := some (c, va) }).sendFault x c va
    (none, t)
  | .ok (t, data, _) =>
    let written := x.len != 0 && s.touchedVa x.ctx x.buf x.len x.since
    let body := fun (frags : List (List Byte)) (i : Nat) => if written then (List.range f).map fun j => Config.freeByte t.free (4096 * i + j) else fragPayload x.m f frags i
    let frags := if x.len = 0 then [[]] else cutFrags f k data
    let bad := fun (a l : Nat) => match s.engRead x.eng .mem ((x.buf + off + a) % 2 ^ 64) l with | .ok (_, _, p) => p | .error _ => false
    let mk := fun (i : Nat) =>
      (x.header s.net.self (if i < k then 0 else 1) stripe i).packet (body frags i) (if x.len = 0 then .rud else .uud)
        (x.entropy stripe i q) (s.net.egress (x.entropy stripe i q)) (!fragPoison k f n bad i)
    (some (({ t with free := t.free + 1 }).emit (((List.range (k + x.m)).filter pick).map mk)), s)

/-- Answer a repair request of a send: the fragments it names with its ordinal, and the stripe's deadline anew (R59). One that cannot be answered yet is kept: originals of the
stripe go first, and a send that backs off or stalls transmits nothing; past its deadline the send has stopped (R54). Of several that wait for one stripe the latest is kept. (log 124, DESIGN CHOICE) -/
def State.sendRepair (s : State) (x : Send) (stripe q mask : Nat) : State :=
  let asks := x.asks.filter fun a => a.1 != stripe
  let keep := fun (t : State) => t.putSend { (t.send? x.id).getD x with asks := asks ++ [(stripe, q, mask)] }
  if x.ph = .lossWait then s
  else if x.ph ≠ .tx ∨ x.stall.isSome ∨ x.next ≤ stripe then keep s
  else match s.sendFrags x stripe q fun i => mask.testBit i with
    | (none, t) => keep t
    | (some t, _) => t.putSend { x with asks := asks, dues := mapPut x.dues stripe (s.clock + x.limit), reps := natsPut x.reps stripe q }

/-- R52, R59: the next stripe of a send is read, encoded and transmitted; at most 16 are unconfirmed. Of a stripe transmitted before, a repair request that waits is answered. -/
def execStripeTransmit (send stripe : Nat) (s : State) : Res :=
  match s.send? send with
  | none => .next s
  | some x =>
    match (if stripe < x.next then x.asks.find? fun a => a.1 == stripe else none) with
    | some a => .next (s.sendRepair x stripe a.2.1 a.2.2)
    | none =>
    if x.ph ≠ .tx ∨ x.stall.isSome ∨ stripe ≠ x.next ∨ x.stripes ≤ stripe ∨ x.confirmed + 16 ≤ stripe then .next s
    else match s.sendFrags x stripe 0 fun _ => true with
      | (none, t) => .next t
      | (some t, _) => .next (t.putSend { x with next := stripe + 1, dues := mapPut x.dues stripe (s.clock + x.limit) })

/-- Is a control packet fit to be read (R46)? -/
def pkGood (p : Packet) : Bool := p.version == 1 && p.crcOk && p.fcsOk && decide (p.kind < 9) && (p.delivery == .uud || p.delivery == .rud)

/-- Handle a control packet of a kind: one that is not fit is discarded and counted; another kind, or one for another module, changes nothing. (log 124, DESIGN CHOICE) -/
def State.control (s : State) (p : Packet) (kind : Nat) (f : State) : Res :=
  if p.kind ≠ kind then .next s
  else if !pkGood p then .next (s.portDiscard p)
  else if p.dst ≠ s.net.self then .next s
  else .next f

/-- A control packet that answers another, to its source (R47). -/
def State.answer (s : State) (p : Packet) (kind body : Nat) : State :=
  s.emit [({ headerOf p with kind := kind, src := s.net.self, dst := p.src, findex := 0 } : FragHeader).control body (s.net.egress 0)]

/-- R59: the sender transmits the fragments that a repair request names, or answers that the message is closed. -/
def execRepairRequestReceive (p : Packet) (s : State) : Res :=
  s.control p 2 <|
    match s.sendFor p with
    | none => s.answer p 8 0
    | some x => s.sendRepair x p.stripe (p.body / 2 ^ 40 % 4) (p.body % 2 ^ 40)

/-- R52: a stripe confirmation moves the window on. -/
def execStripeConfirmationReceive (p : Packet) (s : State) : Res :=
  s.control p 3 <|
    match s.sendFor p with
    | none => s
    | some x => s.putSend { x with confirmed := max x.confirmed (p.body % 2 ^ 20) }

/-- R53: a message confirmation ends the message with status 0. -/
def execMessageConfirmationReceive (p : Packet) (s : State) : Res :=
  s.control p 4 <| match s.sendFor p with | none => s | some x => s.sendToken x 0 0

/-- R53: a refusal ends the message with its status, 2 or 3. -/
def execRefusalReceive (p : Packet) (s : State) : Res :=
  s.control p 5 <|
    match s.sendFor p with
    | none => s
    | some x => if p.body % 256 = 2 ∨ p.body % 256 = 3 then s.sendToken x (p.body % 256) 0 else s

/-- R55: the first busy of a transmission stops it; the ninth ends the message. -/
def execBusyReceive (p : Packet) (s : State) : Res :=
  s.control p 6 <|
    match s.sendFor p with
    | none => s
    | some x =>
      if x.ph ≠ .tx then s
      else if 8 ≤ x.busies then s.sendToken x 4 0
      else s.putSend { x with ph := .backoff, busies := x.busies + 1, due := s.clock + usCycles (profHorizon x.prof) }

/-- R55: one horizon later the sender begins again from stripe 0. -/
def execBusyBackoffExpiry (send : Nat) (s : State) : Res :=
  match s.send? send with
  | none => .next s
  | some x => if x.ph ≠ .backoff then .next s else .next ((s.upTo x.due).putSend { x with ph := .tx, next := 0, confirmed := 0, dues := [] })

/-- R53: a loss notice with status 1 or 6 ends the message. -/
def execLossNoticeReceiveSender (p : Packet) (s : State) : Res :=
  s.control p 7 <|
    match s.sendFor p with
    | none => s
    | some x => if p.body % 256 = 1 ∨ p.body % 256 = 6 then s.sendToken x (p.body % 256) p.stripe else s

/-- The unconfirmed stripe whose deadline comes first. -/
def Send.expiring (x : Send) : Option (Nat × Nat) :=
  (x.dues.filter fun d => decide (x.confirmed ≤ d.1)).foldl (fun b d => match b with
    | none => some d
    | some e => if d.2 < e.2 then some d else some e) none

/-- R54: the deadline of an unconfirmed stripe: transmission stops, a loss notice with status 5 goes out. -/
def execSenderDeadlineExpiry (send : Nat) (s : State) : Res :=
  match s.send? send with
  | none => .next s
  | some x =>
    match x.expiring with
    | none => .next s
    | some d =>
      if x.ph = .lossWait then .next s
      else
        let s := s.upTo d.2
        let s := s.putSend { x with ph := .lossWait, due := s.clock + x.limit }
        .next (s.emit [(x.header s.net.self 7 d.1 0).control 5 (s.net.egress 0)])

/-- The stripe a sender-deadline record names. -/
def Send.failing (x : Send) : Nat := (x.expiring.map fun d => d.1).getD 0

/-- R54: the wait for an answer ends without one. -/
def execLossNoticeWaitExpiry (send : Nat) (s : State) : Res :=
  match s.send? send with
  | none => .next s
  | some x => if x.ph ≠ .lossWait then .next s else .next ((s.upTo x.due).sendToken x 5 x.failing)

/-- R54: a closed packet answers the loss notice. -/
def execClosedReceiveSender (p : Packet) (s : State) : Res :=
  s.control p 8 <|
    match s.sendFor p with
    | none => s
    | some x => if x.ph = .lossWait then s.sendToken x 5 x.failing else s

/-! ### The receiver (R56 to R64) -/

/-- Add to a counter of XO_TENANT_RX_t (R62). -/
def State.rxCount (s : State) (t hi lo : Nat) : State := s.setReg (0x6000 + 8 * t) (satAdd (s.reg (0x6000 + 8 * t)) hi lo 1)
def State.rxLate (s : State) (t : Nat) : State := s.rxCount t 7 0
def State.rxMismatch (s : State) (t : Nat) : State := s.rxCount t 15 8

/-- The open record of a packet's identity. -/
def NetRec.isOf (r : NetRec) (p : Packet) : Bool := r.src == p.src && r.tenant == p.tenant && r.seq == p.seq
def State.recIdx (s : State) (p : Packet) : Option Nat := s.net.recs.findIdx? fun r => r.isOf p

/-- The filter's entry for an identity, within 1 ms (R57). -/
def State.lateFor (s : State) (p : Packet) : Option Late :=
  s.net.filter.find? fun x => x.src == p.src && x.tenant == p.tenant && x.seq == p.seq && decide (s.clock < x.since + usCycles 1000)

/-- An identity enters the filter; when it is full the oldest entry leaves first (R57). -/
def State.filterAdd (s : State) (src tenant seq : Nat) (ok : Bool) : State :=
  let f := s.net.filter
  s.setNet { s.net with filter := (if 16384 ≤ f.length then f.tail else f) ++ [⟨src, tenant, seq, ok, s.clock⟩] }

/-- R57: an entry leaves the filter after 1 ms. -/
def execFilterEntryExpiry (i : Nat) (s : State) : Res :=
  match s.net.filter[i]? with
  | none => .next s
  | some x => .next ((s.upTo (x.since + usCycles 1000)).setNet { s.net with filter := s.net.filter.eraseIdx i })

/-- The armed receive that a record claimed. -/
def State.narmOf (s : State) (handle : Nat) : Option Narm := s.net.narms.find? fun a => a.handle == handle

/-- The header of a control packet of a receiver to its sender. -/
def NetRec.header (r : NetRec) (self kind stripe k : Nat) : FragHeader :=
  { kind := kind, k := k, m := r.m, fsize := r.fsize, findex := 0, tenant := r.tenant, seq := r.seq, src := self, dst := r.src,
    horizon := r.horizon, stripe := stripe, length := r.length, tag := r.tag }

/-- Send a control packet of a record, by the egress port of entropy value 0 (log 85, DESIGN CHOICE). -/
def State.recSend (s : State) (r : NetRec) (kind stripe k body : Nat) : State := s.emit [(r.header s.net.self kind stripe k).control body (s.net.egress 0)]

/-- Bytes at virtual addresses become unspecified, wherever memory holds them, whatever their pages allow (R60, R63). (log 125, DEDUCED) -/
def State.openVa (s : State) (ctx va n : Nat) : State :=
  (pageCuts va n).foldl (fun t x => match t.frameOf ctx x.1 with
    | some pa => t.openRange pa x.2
    | none => t) s

/-- The bytes of a message stand in its buffer, in the frames that hold it (R63). (log 125, DEDUCED) -/
def State.writeVa (s : State) (ctx buf : Nat) (l : List (Nat × List Byte)) : State :=
  l.foldl (fun t d => (pageCuts (buf + d.1) d.2.length).foldl (fun t x => match t.frameOf ctx x.1 with
    | some pa => (t.setBytes pa ((d.2.drop (x.1 - (buf + d.1))).take x.2)).unitWrote pa x.2
    | none => t) t) s

/-- The arrival at a receive's completion object (R432). -/
def State.narmSignal (s : State) (a : Narm) (status : Nat) : State :=
  if a.obj = 0 then s
  else s.hubDo { tenant := a.tenant, ctx := a.ctx, va := a.obj, fx := .arrive status 0, source := 7, word2 := BitVec.ofNat 64 a.handle, tag := a.gtag }

/-- The bits of the fragments a slot holds. -/
def NetSlot.heldBits (x : NetSlot) : Nat := (x.held.map fun h => 2 ^ h.1).sum

/-- The slot that a stripe uses (R56). -/
def NetRec.slot (r : NetRec) (stripe : Nat) : Option NetSlot := r.slots[stripe % 16]?

/-- The k of a stripe: what its slot holds, or what the message's full k gives it (R45); before that is known, the greatest k seen (log 43, DEDUCED). -/
def NetRec.kOf (r : NetRec) (stripe : Nat) : Nat :=
  match (r.slot stripe).filter fun x => x.st != .free && x.stripe == stripe with
  | some x => x.k
  | none => match r.kfull with
    | some k => stripeK r.length (fragBytes r.fsize) k stripe
    | none => (r.slots.map fun x => x.k).foldl max 0

/-- The first stripe that is not decoded. (log 45, DEDUCED) -/
def NetRec.pending (r : NetRec) : Nat := ((List.range (r.decoded.length + 1)).find? fun i => !r.decoded.contains i).getD 0

/-- R60: a message fails at its receiver with a cause, at a stripe; the notice is not sent where the failure answers the sender's own. -/
def State.recFail (s : State) (r : NetRec) (cause stripe : Nat) (notice : Bool) : State :=
  let s := s.setNet { s.net with recs := s.net.recs.filter fun x => x != r }
  let s := s.filterAdd r.src r.tenant r.seq false
  let s := if notice then s.recSend r 7 stripe (r.kOf stripe) (if cause = 6 then 6 else 1) else s
  let slot := (r.slot stripe).filter fun x => x.st != SlotSt.free && x.stripe == stripe
  let s := s.rxCount r.tenant 39 32
  let s := match s.narmOf r.handle with
    | some a =>
      let s := s.setNet { s.net with narms := s.net.narms.filter fun x => x.handle != a.handle }
      (s.openVa a.ctx a.buf a.len).narmSignal a cause
    | none => s
  s.netRecord r.tenant cause (r.kOf stripe) r.m r.fsize ((slot.map NetSlot.repairs).getD 0) r.seq r.src s.net.self stripe
    ((slot.map NetSlot.heldBits).getD 0) r.tag

/-- R63: a message completes: the object, the launch, the confirmation. Until here the buffer is unspecified, now it holds the message; one that software wrote since the narm stays unspecified. (log 125, DEDUCED) -/
def State.recComplete (s : State) (r : NetRec) : State :=
  let s := s.setNet { s.net with recs := s.net.recs.filter fun x => x != r }
  let s := s.filterAdd r.src r.tenant r.seq true
  let s := match s.narmOf r.handle with
    | some a =>
      let s := s.setNet { s.net with narms := s.net.narms.filter fun x => x.handle != a.handle }
      let s := if s.touchedVa a.ctx a.buf a.len a.since then s.openVa a.ctx a.buf a.len else s.writeVa a.ctx a.buf r.got
      let s := s.narmSignal a 0
      if a.launch.isEmpty then s else s.launchArmed a.tenant a.launch (some (BitVec.ofNat 64 a.buf))
    | none => s
  s.recSend r 4 0 (r.kOf 0) 0

/-- Put the record at an index. -/
def State.setRec (s : State) (i : Nat) (r : NetRec) : State := s.setNet { s.net with recs := s.net.recs.set i r }

/-- The full k that the header of one fragment fixes, if it does (R45, R46): a stripe after the first may be a whole stripe of k or a shorter last one. (log 43, DEDUCED) -/
def fixK (n stripe k : Nat) : Option Nat :=
  if stripe = 0 then some k
  else if n ≤ (stripe + 1) * k then some ((n - k) / stripe)
  else if (n - k) % stripe ≠ 0 ∨ 32 < (n - k) / stripe then some k
  else none

/-- The full k known after a fragment of a stripe: from its header, or as it is not the last stripe seen (log 43, DEDUCED). -/
def NetRec.learn (r : NetRec) (stripe k : Nat) : Option Nat :=
  match r.kfull with
  | some x => some x
  | none =>
    match fixK (fragsOf r.length (fragBytes r.fsize)) stripe k with
    | some x => some x
    | none =>
      let seen := r.slots.filter fun x => x.st != .free
      if seen.any fun x => decide (stripe < x.stripe) then some k
      else (seen.find? fun x => decide (x.stripe < stripe)).map fun x => x.k

/-- An empty slot. -/
def NetSlot.empty (stripe : Nat) : NetSlot := ⟨.free, stripe, 0, [], [], 0, 0, 0⟩

/-! ### Where fragments go (R58) -/

/-- Replace a slot of a record. -/
def NetRec.put (r : NetRec) (x : NetSlot) : NetRec := { r with slots := r.slots.set (x.stripe % 16) x }

/-- Where data fragment i of a stripe goes in the receive buffer, and its bytes that belong to the message (R58). -/
def NetRec.fragPlace (r : NetRec) (kf stripe i : Nat) (d : List Byte) : Nat × List Byte :=
  let off := stripe * kf * fragBytes r.fsize + i * fragBytes r.fsize
  (off, d.take (r.length - off))

/-- Write data fragments of a slot into the receive buffer, those that stand there already left out; the first page that stops a write stops those after it (R58, R64): the record with what it has
written, and whether all went. These writes are the hub's own and are no write of software to the buffer. -/
def State.place (a : Narm) (kf : Nat) : List (Nat × List Byte) → NetRec → NetSlot → State → State × NetRec × NetSlot × Bool
  | [], r, x, s => (s, r, x, true)
  | d :: rest, r, x, s =>
    let w := r.fragPlace kf x.stripe d.1 d.2
    if x.placed.contains d.1 then State.place a kf rest r x s
    else match (if w.2.isEmpty then .ok s else s.engWrite (hubEng a.tenant a.ctx a.gtag) .mem ((a.buf + w.1) % 2 ^ 64) w.2 false false) with
      | .error z => (s.engStopped (hubEng a.tenant a.ctx a.gtag) z fun _ _ t => t, r, x, false)
      | .ok t =>
        let hub := { t.hub with wrote := s.hub.wrote }
        State.place a kf rest { r with got := r.got ++ [w] } { x with placed := x.placed ++ [d.1] } { t with hub := hub }

/-- The data fragments that a stripe's slot holds go straight into the receive buffer, once the message's full k is known (R58, log 43, DEDUCED). -/
def State.placeHeld (s : State) (i : Nat) (r : NetRec) (x : NetSlot) : State :=
  match s.narmOf r.handle, r.kfull with
  | some a, some kf =>
    let v := State.place a kf (x.held.filter fun h => h.1 < x.k) r x s
    v.1.setRec i { v.2.1.put v.2.2.1 with stalled := r.stalled || !v.2.2.2 }
  | _, _ => s

/-- A parity fragment goes into its slot's 32 KiB of Landing (R56, R58). -/
def State.landParity (s : State) (r : NetRec) (x : NetSlot) (i : Nat) (d : List Byte) : State :=
  match s.net.landing with
  | some base => if i < x.k then s else s.setBytes (base + 32768 * (16 * r.block + x.stripe % 16) + (i - x.k) * fragBytes r.fsize) d
  | none => s

/-- Send a repair request for every index a slot does not hold, with its ordinal, and restart the timer (R58, R59). The trimmed count goes on from where it stands, so that
the next trimmed header sends the second request (log 87, DESIGN CHOICE). -/
def State.repair (s : State) (i : Nat) (r : NetRec) (x : NetSlot) : State :=
  let all := (2 ^ (x.k + r.m) - 1) - x.heldBits
  let y := { x with repairs := x.repairs + 1, due := s.clock + usCycles r.horizon }
  let s := s.setRec i { r with slots := r.slots.set (x.stripe % 16) y }
  (s.recSend r 2 x.stripe x.k ((x.repairs + 1) * 2 ^ 40 + all)).rxCount r.tenant 31 24

/-- A fragment for a FILLING slot of its own tag (R58): an accepted one goes straight into the buffer, or into Landing. One whose index is held is late, a trimmed one too. (log 124, DESIGN CHOICE) -/
def State.fillSlot (s : State) (i : Nat) (r : NetRec) (x : NetSlot) (p : Packet) : State :=
  if x.held.any fun h => h.1 == p.findex then s.rxLate r.tenant
  else if p.trimmed then
    let y := { x with trimmed := x.trimmed + 1 }
    let r := { r with slots := r.slots.set (x.stripe % 16) y }
    if r.m < y.trimmed ∧ y.repairs < 2 then s.repair i r y else s.setRec i r
  else if x.k + r.m ≤ p.findex then s.rxLate r.tenant
  else
    let y := { x with held := x.held ++ [(p.findex, p.payload)] }
    let y := if x.k ≤ y.held.length then { y with st := .decoding } else y
    ((s.setRec i (r.put y)).landParity r y p.findex p.payload).placeHeld i (r.put y) y

/-- A slot takes the tag of a stripe and starts its timer, for a trimmed header too: the table of R58 has no row of its own for one (log 88, DESIGN CHOICE). -/
def State.takeSlot (s : State) (i : Nat) (r : NetRec) (p : Packet) : State :=
  let x : NetSlot := ⟨.filling, p.stripe, p.k, [], [], 0, 0, s.clock + usCycles r.horizon⟩
  let r := { r with slots := r.slots.set (p.stripe % 16) x, kfull := r.learn p.stripe p.k }
  (s.setRec i r).fillSlot i r x p

/-- A fragment of a message with a record, by the table of R58. (log 45, DEDUCED) -/
def State.landFrag (s : State) (i : Nat) (r : NetRec) (p : Packet) : State :=
  match r.slot p.stripe with
  | none => s
  | some x =>
    match x.st with
    | .free => if x.stripe = p.stripe then s.takeSlot i r p else s
    | .filling => if x.stripe = p.stripe then s.fillSlot i r x p else s.rxMismatch r.tenant
    | .decoding | .written => if x.stripe = p.stripe then s.rxLate r.tenant else s.rxMismatch r.tenant
    | .decoded => if x.stripe = p.stripe then s.rxLate r.tenant else if p.stripe = x.stripe + 16 then s.takeSlot i r p else s.rxMismatch r.tenant
    | .lost => s.rxMismatch r.tenant

/-- The oldest armed receive of a tenant with a tag (R57). -/
def State.matchNarm (s : State) (tenant tag : Nat) : Option Narm :=
  (s.net.narms.filter fun a => a.tenant == tenant && a.tag == tag && !a.claimed).foldl (fun b a => match b with
    | none => some a
    | some x => if a.order < x.order then some a else some x) none

/-- The back-offs of a message so far as the receiver can tell (R47): those before the transmission in which this fragment comes; a fragment that drew an answer before begins a new one. (log 44, DEDUCED) -/
def State.backoffFor (s : State) (p : Packet) : Backoff :=
  match s.net.backoffs.find? fun b => b.src == p.src && b.tenant == p.tenant && b.seq == p.seq with
  | none => ⟨p.src, p.tenant, p.seq, 0, [(p.stripe, p.findex)]⟩
  | some b => if b.seen.contains (p.stripe, p.findex) then { b with count := b.count + 1, seen := [(p.stripe, p.findex)] }
    else { b with seen := b.seen ++ [(p.stripe, p.findex)] }

/-- The notes of a message's back-offs, replaced or dropped. -/
def State.setBackoff (s : State) (p : Packet) (b : Option Backoff) : State :=
  let rest := s.net.backoffs.filter fun b => !(b.src == p.src && b.tenant == p.tenant && b.seq == p.seq)
  s.setNet { s.net with backoffs := rest ++ b.toList }

/-- The lowest free block of landing slots (R56). -/
def State.freeBlock (s : State) : Nat := ((List.range 512).find? fun b => !s.net.recs.any fun r => r.block == b).getD 0

/-- The first fragment of a message without a record (R56, R57, R456). (log 44, DEDUCED) A receive whose buffer is too short for the message stays armed and unclaimed (log 89, DESIGN CHOICE). -/
def State.newMessage (s : State) (p : Packet) : State :=
  if (s.lateFor p).isSome ∨ 16 ≤ p.stripe then s.rxLate p.tenant
  else if 512 ≤ s.net.recs.length ∨ fld (s.reg (0x6000 + 8 * p.tenant)) 63 54 ≤ (s.net.recs.filter fun r => r.tenant == p.tenant).length then
    let b := s.backoffFor p
    ((s.setBackoff p (some b)).answer p 6 (min 255 b.count)).rxCount p.tenant 47 40
  else match s.matchNarm p.tenant p.tag with
    | none => s.answer p 5 2
    | some a =>
      if a.len < p.length then s.answer p 5 3
      else
        let narms := s.net.narms.map fun x => if x.handle = a.handle then { x with claimed := true } else x
        let r : NetRec :=
          { block := s.freeBlock, src := p.src, tenant := p.tenant, seq := p.seq, handle := a.handle, fsize := p.fsize, m := p.m, horizon := max 1 p.horizon, length := p.length,
            tag := p.tag, kfull := none, slots := (List.range 16).map NetSlot.empty, decoded := [], told := 0, unconf := none, stalled := false, got := [] }
        let i := s.net.recs.length
        let s := s.setNet { s.net with narms := narms, recs := s.net.recs ++ [r] }
        ((s.setBackoff p none).openVa a.ctx a.buf a.len).landFrag i r p

/-- R42, R46, R57, R58: a fragment arrives. A packet of a version, kind or delivery that the module does not support is discarded and counted by the port, before its
checks are looked at; one whose check fails counts as corrupt only where its fields can be trusted; a sound one for another module changes nothing. (log 124, DESIGN CHOICE) -/
def execFragmentReceive (p : Packet) (s : State) : Res :=
  if p.version ≠ 1 ∨ 9 ≤ p.kind ∨ (p.delivery ≠ .uud ∧ p.delivery ≠ .rud) then .next (s.portDiscard p)
  else if 2 ≤ p.kind then (if pkGood p then .next s else .next (s.portDiscard p))
  else if !p.fcsOk ∨ (!p.crcOk ∧ !p.trimmed) then
    if p.fcsOk ∧ (s.recIdx p).isSome then .next (s.rxCount p.tenant 23 16) else .next (s.portDiscard p)
  else if p.dst ≠ s.net.self then .next s
  else match s.recIdx p with
    | none => .next (s.newMessage p)
    | some i => match s.net.recs[i]? with
      | some r => .next (s.landFrag i r p)
      | none => .next s

/-- R58, R65: decoding of a stripe ends; the data fragments that do not stand in the buffer yet are written, once the full k is known. A page that faults stalls the writes
(R64). (log 46, DEDUCED) -/
def execDecodeComplete (rec stripe : Nat) (s : State) : Res :=
  match s.net.recs[rec]? with
  | none => .next s
  | some r =>
    match r.slot stripe, s.narmOf r.handle with
    | some x, some a =>
      if x.st ≠ .decoding ∨ x.stripe ≠ stripe then .next s
      else match (if r.length = 0 then some 1 else r.kfull) with
        | none => .next s
        | some kf =>
          let v := State.place a kf ((List.range x.k).zip (decodeStripe x.k r.m (x.held.take x.k))) r x s
          let y := if v.2.2.2 then { v.2.2.1 with st := .written } else v.2.2.1
          .next (v.1.setRec rec { v.2.1.put y with stalled := !v.2.2.2 })
    | _, _ => .next s

/-- The number of stripes from 0 that are all decoded. -/
def NetRec.prefix (r : NetRec) : Nat := r.pending

/-- Send a stripe confirmation (R63). -/
def State.stripeConfirm (s : State) (i : Nat) (r : NetRec) : State :=
  let r := { r with told := r.decoded.length, unconf := none }
  (s.setRec i r).recSend r 3 0 (r.kOf 0) r.prefix

/-- Does the grid table have no room for the launch that the next stripe decoded completes a message with (R137)? (log 111, DEDUCED) -/
def State.holdsLaunch (s : State) (r : NetRec) : Bool :=
  s.tableFull && (s.narmOf r.handle).any (fun a => !a.launch.isEmpty)
    && decide (stripesOf r.length (fragBytes r.fsize) (r.kfull.getD 1) ≤ r.decoded.length + 1)

/-- R58, R63: the writes of a stripe are acknowledged; the last one completes the message. (log 43, DEDUCED) -/
def execStripeDecoded (rec stripe : Nat) (s : State) : Res :=
  match s.net.recs[rec]? with
  | none => .next s
  | some r =>
    match r.slot stripe with
    | none => .next s
    | some x =>
      if x.st ≠ .written ∨ x.stripe ≠ stripe || s.holdsLaunch r then .next s
      else
        let r := { r with slots := r.slots.set (stripe % 16) { x with st := .decoded }, decoded := r.decoded ++ [stripe] }
        let s := s.setRec rec r
        let total := stripesOf r.length (fragBytes r.fsize) (r.kfull.getD 1)
        if total ≤ r.decoded.length then .next (s.recComplete r)
        else if 4 ≤ r.decoded.length - r.told then .next (s.stripeConfirm rec r)
        else match r.unconf with
          | some _ => .next s
          | none => .next (s.setRec rec { r with unconf := some (s.clock + usCycles 2) })

/-- R63: 2 µs after the first unconfirmed decode. -/
def execStripeConfirmTimer (rec : Nat) (s : State) : Res :=
  match s.net.recs[rec]? with
  | none => .next s
  | some r => match r.unconf with
    | none => .next s
    | some t => .next ((s.upTo t).stripeConfirm rec r)

/-- R58: the timer of a FILLING slot expires. (log 45, DEDUCED) -/
def execHorizonTimerExpiry (rec stripe : Nat) (s : State) : Res :=
  match s.net.recs[rec]? with
  | none => .next s
  | some r =>
    match r.slot stripe with
    | none => .next s
    | some x =>
      if x.st ≠ .filling ∨ x.stripe ≠ stripe then .next s
      else if x.repairs < 2 then .next ((s.upTo x.due).repair rec r x)
      else
        let r' := { r with slots := r.slots.set (stripe % 16) { x with st := .lost } }
        .next (((s.upTo x.due).setRec rec r').recFail r' 1 stripe true)

/-- R61: the sender's own loss notice is answered once. -/
def execLossNoticeReceiveReceiver (p : Packet) (s : State) : Res :=
  s.control p 7 <|
    if p.body % 256 ≠ 5 then s
    else match (s.recIdx p).bind fun i => s.net.recs[i]? with
      | some r => (s.recFail r 2 r.pending false).answer p 8 0
      | none => match s.lateFor p with
        | some x => s.answer p (if x.ok then 4 else 8) 0
        | none => (s.filterAdd p.src p.tenant p.seq false).answer p 8 0

/-- R59: a closed packet fails the receiver's message with cause 3. -/
def execClosedReceiveReceiver (p : Packet) (s : State) : Res :=
  s.control p 8 <|
    match (s.recIdx p).bind fun i => s.net.recs[i]? with
    | some r => s.recFail r 3 p.stripe true
    | none => s

/-! ### Armed receives (R431, R432), the module's own packets (R430), resets (R64) -/

/-- Arm a receive: the token's value, and the state with the receive armed, its buffer's contents unspecified from now on (R63). -/
def State.narmArm (s : State) (g : Grid) (time : Nat) (w launch : List Word) : State × Word :=
  if descMalformed w then (s, 2)
  else match (List.range 4096).find? fun h => !s.net.narms.any fun a => a.handle == h with
    | none => (s, 1)
    | some h =>
      let a : Narm :=
        { handle := h, tenant := g.tenant, ctx := g.ctx, buf := (w.getD 0 0).toNat, len := (w.getD 1 0).toNat, obj := (w.getD 2 0).toNat,
          tag := fld (w.getD 3 0) 31 0, gtag := g.tag, launch := launch, order := s.hub.nextOrder, since := time, claimed := false }
      let hub := { s.hub with nextOrder := s.hub.nextOrder + 1 }
      ((({ s with hub := hub }).setNet { s.net with narms := s.net.narms ++ [a] }).openVa a.ctx a.buf a.len, wordOf [(32, h)])

/-- Cancel an armed receive (R432). -/
def State.narmDrop (s : State) (tenant : Nat) (h : Word) : State × Word :=
  let k := fld h 11 0
  if s.net.narms.any fun a => a.handle == k && a.tenant == tenant && !a.claimed then
    (s.setNet { s.net with narms := s.net.narms.filter fun a => a.handle != k }, wordOf [(32, k)])
  else (s, wordOf [(32, k), (0, 3)])

/-- Deliver the oldest packet that the module sends to itself (R430): it meets no loss. -/
def State.deliverOwn (s : State) : Res :=
  match s.net.out.findIdx? fun p => p.dst == s.net.self with
  | none => .next s
  | some i =>
    match s.net.out[i]? with
    | none => .next s
    | some p =>
      let s := s.setNet { s.net with out := s.net.out.eraseIdx i }
      match p.kind with
      | 2 => execRepairRequestReceive p s
      | 3 => execStripeConfirmationReceive p s
      | 4 => execMessageConfirmationReceive p s
      | 5 => execRefusalReceive p s
      | 6 => execBusyReceive p s
      | 7 => if p.body % 256 = 5 then execLossNoticeReceiveReceiver p s else execLossNoticeReceiveSender p s
      | 8 => if (s.sendFor p).any fun x => x.ph == .lossWait then execClosedReceiveSender p s else execClosedReceiveReceiver p s
      | _ => execFragmentReceive p s

/-- R64: a tenant's records fail, and its sends are abandoned without tokens. (log 47, DEDUCED) -/
def State.netReset (s : State) (t : Nat) : State :=
  let s := (s.net.recs.filter fun r => r.tenant == t).foldl (fun u r => u.recFail r 6 r.pending true) s
  s.setNet { s.net with sends := s.net.sends.filter fun x => x.tenant != t }

end Sys2Proof.Machine
end

