-- ==== Sys2Proof/Machine/Flash.lean ====
section
/-! DEFINITION. Skidder and Sawyer: streams, staging, seals, commits, blocks, power loss (R97 to R113, R455). -/

namespace Sys2Proof.Machine

/-! ### Registers and slots (R98 to R101) -/

def offStream (h : Nat) : Nat := 0x30050000 + 8 * h
def offStreamStat (h : Nat) : Nat := 0x30050800 + 8 * h

/-- SKD_STREAM_n (R99). -/
def streamReg (state tenant region ptr : Nat) : Word := wordOf [(62, state), (55, tenant), (41, region), (0, ptr)]
def State.streamState (s : State) (h : Nat) : Nat := fld (s.reg (offStream h)) 63 62
def State.streamTenant (s : State) (h : Nat) : Nat := fld (s.reg (offStream h)) 60 55
def State.streamRegion (s : State) (h : Nat) : Nat := fld (s.reg (offStream h)) 54 41
def State.appendPtr (s : State) (h : Nat) : Nat := fld (s.reg (offStream h)) 39 0

/-- Does a stack accept no further writes (R112, R113)? -/
def State.readOnly (s : State) (stack : Nat) : Bool := (s.reg (offWear stack)).getLsbD 0

/-- Replace the flash tier's state. -/
def State.setFlash (s : State) (f : Flash) : State := { s with flash := f }
def State.setStream (s : State) (f : FStream) : State := s.setFlash { s.flash with streams := mapPut s.flash.streams f.handle f }

/-- A stream token (R101). -/
def streamToken (value handle status : Nat) : Word := wordOf [(24, value), (8, handle), (0, status)]

/-- Write a token with a nonzero status for a named handle, which the slot counts (R100). (log 51, DEDUCED) -/
def State.refuse (s : State) (k : BKey) (pid h status : Nat) : State :=
  let s := if h < 256 then s.setReg (offStreamStat h) (satAdd (s.reg (offStreamStat h)) 15 8 1) else s
  s.token k pid (streamToken 0 0 status)

/-- Is a stream open on a region; mark it. -/
def State.setOpen (s : State) (n : Nat) (v : Bool) : State := s.setReg (offRegionEnd n) (setFld (s.reg (offRegionEnd n)) 63 63 v.toNat)
def State.setSealed (s : State) (n e : Nat) : State := s.setReg (offRegionEnd n) (setFld (s.reg (offRegionEnd n)) 39 0 e)

/-- Bytes of a region. -/
def State.regionBytes (s : State) (n : Nat) : Nat := 65536 * fld (s.reg (offRegion n)) 23 0

/-- The end that a region's commits have reached (R107); one never written by a stream stands where its register does. -/
def State.committedEnd (s : State) (n : Nat) : Nat := (mapGet s.flash.committed n).getD (s.sealedEnd n)

/-! ### Seals, syncs, commits (R104, R105, R107) -/

/-- The bytes of extents reach their place in flash, poison with them; a line that a clean one overwrites wholly loses its poison (R206). -/
def State.placeExtents (s : State) (base : Nat) (l : List Extent) : State :=
  l.foldl (fun t x =>
    (t.setBytes (base + x.off) x.data).poisonWrite (addrsFrom (base + x.off) x.len) x.bad) s

/-- Extents at or past an offset of a region are discarded: the poison that they left goes with them (R108, R109). -/
def State.dropExtents (s : State) (f : FStream) (n endAt : Nat) : State :=
  let base := s.regionBase n
  let ls := (f.extents.filter fun e => e.2.bad && decide (endAt ≤ e.2.off)).flatMap fun e => linesIn (base + e.2.off) e.2.len
  { s with poison := s.poison.filter fun l => !ls.contains l }

/-- No cache holds a byte of a region at or above an end that its sealed end goes back to (R90, R205). -/
def State.dropAbove (s : State) (n endAt : Nat) : State :=
  let lo := s.regionBase n + endAt
  let hi := s.regionBase n + s.regionBytes n
  let above := fun (l : Nat) => decide (lo < l + 128 ∧ l < hi)
  (s.l1Drop fun l => above l.line).setFlash { s.flash with l2 := s.flash.l2.filter fun x => !above x.1 }

/-- Complete the seals of a stream that are next and covered, at most so many (R104); one that stopped committing completes none (R109). -/
def State.trySeals : Nat → Nat → State → State
  | 0, _, s => s
  | fuel + 1, h, s =>
    match s.fstream h with
    | none => s
    | some f =>
      match f.seals.findIdx? fun x => !x.done with
      | none => s
      | some i =>
        match f.seals[i]? with
        | none => s
        | some x =>
          let covered := f.extents.filter fun e => decide (f.sealed ≤ e.1 ∧ e.1 < x.covers)
          if f.broken || !covered.all fun e => e.2.staged then s
          else
            let n := s.streamRegion h
            let f := { f with seals := f.seals.set i { x with done := true }, sealed := x.covers }
            let s := ((s.setStream f).placeExtents (s.regionBase n) (covered.map fun e => e.2)).setSealed n x.endAt
            let s := match x.token with | some t => s.token t.1 t.2 (streamToken x.endAt 0 0) | none => s
            State.trySeals fuel h s

/-- The number of seals from the first that are committed. -/
def FStream.commits (f : FStream) : Nat := (f.seals.filter Seal.committed).length

/-- Complete the syncs whose seals are committed, and a close once its own seal is (R102, R105); what is still in staging then stays there (R106). -/
def State.trySyncs (s : State) (h : Nat) : State :=
  match s.fstream h with
  | none => s
  | some f =>
    if f.broken then s
    else
      let n := s.streamRegion h
      let value := fun (k : Nat) => if k = 0 then s.committedEnd n else ((f.seals[k - 1]?).map Seal.endAt).getD 0
      let ready := f.syncs.filter fun y => decide (y.2 ≤ f.commits)
      let s := s.setStream { f with syncs := f.syncs.filter fun y => !decide (y.2 ≤ f.commits) }
      let s := ready.foldl (fun t y => t.token y.1.1 y.1.2 (streamToken (value y.2) 0 0)) s
      match f.close with
      | some t =>
        if f.commits = f.seals.length then
          let s := (s.setOpen n false).setReg (offStream h) (setFld (s.reg (offStream h)) 63 62 0)
          let s := s.setFlash { s.flash with streams := mapDel s.flash.streams h, left := s.flash.left ++ (f.extents.map fun x => (h, x.1, s.regionBase n, x.2)) }
          s.token t.1 t.2 (streamToken (s.committedEnd n) 0 0)
        else s
      | none => s

/-- R107: Sawyer writes the commit record of the next completed seal of a stream. -/
def execSealCommit (handle : Nat) (s : State) : Res :=
  match s.fstream handle with
  | none => .next s
  | some f =>
    match f.seals.findIdx? fun x => x.done && !x.committed with
    | none => .next s
    | some i =>
      match f.seals[i]? with
      | none => .next s
      | some x =>
        if f.broken then .next s
        else
          let f := { f with seals := f.seals.set i { x with committed := true } }
          let s := s.setStream f
          .next ((s.setFlash { s.flash with committed := mapPut s.flash.committed (s.streamRegion handle) x.endAt }).trySyncs handle)

/-! ### Requests (R101 to R103, R391) -/

/-- The status that refuses an open, in the order of R101. -/
def State.openStatus (s : State) (tenant n : Nat) : Nat :=
  let w := s.reg (offRegion n)
  let stack := fld w 49 24 / 16777216
  if 16384 ≤ n ∨ fld w 61 56 ≠ tenant ∨ (fld w 63 62 ≠ 1 ∧ fld w 63 62 ≠ 2) then 2
  else if fld w 63 62 = 2 ∨ s.readOnly stack then 7
  else if (s.reg (offRegionEnd n)).getLsbD 63 then 3
  else if (List.range 64).all fun k => s.streamState (64 * stack + k) != 0 then 1
  else 0

/-- An app.open is accepted. -/
def State.acceptOpen (s : State) (q : SkReq) : State :=
  let n := q.handle.toNat
  match s.openStatus q.tenant n with
  | 0 =>
    let stack := fld (s.reg (offRegion n)) 49 24 / 16777216
    let h := 64 * stack + ((List.range 64).find? fun k => s.streamState (64 * stack + k) == 0).getD 0
    let e := s.sealedEnd n
    let f : FStream := { handle := h, count := 0, extents := [], seals := [], syncs := [], sealed := 0, close := none, broken := false }
    let s := ((s.setOpen n true).setReg (offStream h) (streamReg 1 q.tenant n e)).setStream f
    (s.setFlash { s.flash with committed := mapPut s.flash.committed n (s.committedEnd n) }).token q.owner q.pid (streamToken e h 0)
  | k => s.token q.owner q.pid (streamToken 0 0 k)

/-- An app.wr on an open stream (R102, R103). -/
def State.acceptWrite (s : State) (q : SkReq) (f : FStream) : State :=
  let h := f.handle
  let n := s.streamRegion h
  let p := s.appendPtr h
  if q.len = 0 ∨ 4096 < q.len then s.refuse q.owner q.pid h 5
  else if fld (s.reg (offRegion n)) 63 62 = 2 ∨ s.readOnly (h / 64) then s.refuse q.owner q.pid h 7
  else if s.regionBytes n < p + q.len then s.refuse q.owner q.pid h 4
  else
    let x : Extent := { off := p, len := q.len, owner := q.owner, pid := q.pid, space := q.space, src := q.src, staged := false, bad := false, data := [], since := q.since }
    (s.setStream { f with count := f.count + 1, extents := f.extents ++ [(f.count, x)] }).setReg (offStream h) (setFld (s.reg (offStream h)) 39 0 (p + q.len))

/-- A request on an open stream. -/
def State.acceptOn (s : State) (q : SkReq) (f : FStream) : State :=
  let h := f.handle
  let mkSeal := fun (tok : Option (BKey × Nat)) => ({ endAt := s.appendPtr h, token := tok, covers := f.count, done := false, committed := false } : Seal)
  match q.op with
  | 1 => s.acceptWrite q f
  | 2 => State.trySeals (f.seals.length + 1) h (s.setStream { f with seals := f.seals ++ [mkSeal (some (q.owner, q.pid))] })
  | 3 => (s.setStream { f with syncs := f.syncs ++ [((q.owner, q.pid), (f.seals.filter Seal.done).length)] }).trySyncs h
  | _ =>
    let s := s.setReg (offStream h) (setFld (s.reg (offStream h)) 63 62 2)
    State.trySeals (f.seals.length + 1) h (s.setStream { f with seals := f.seals ++ [mkSeal none], close := some (q.owner, q.pid) })

/-- Act on a request (R101, R102). -/
def State.accept (s : State) (q : SkReq) : State :=
  if q.op = 0 then s.acceptOpen q
  else
    let h := q.handle.toNat
    if 256 ≤ h ∨ s.streamState h ≠ 1 ∨ s.streamTenant h ≠ q.tenant then s.refuse q.owner q.pid h 5
    else match s.fstream h with
      | some f => s.acceptOn q f
      | none => s

/-- R102, R103: the stack's Skidder engine accepts its oldest request. -/
def execSkidderRequestAccept (stack : Fin 4) (s : State) : Res :=
  match (mapGet s.flash.reqs stack.val).getD [] with
  | [] => .next s
  | q :: r =>
    let reqs := if r.isEmpty then mapDel s.flash.reqs stack.val else mapPut s.flash.reqs stack.val r
    .next ((s.setFlash { s.flash with reqs := reqs }).accept q)

/-- A stream request leaves its store queue for the engine of its stack (R391); some end at once. -/
def State.streamRequest (s : State) (q : SkReq) : State :=
  let n := q.handle.toNat
  if q.op = 0 ∧ 16384 ≤ n then s.token q.owner q.pid (streamToken 0 0 2)
  else if q.op ≠ 0 ∧ 256 ≤ n then s.token q.owner q.pid (streamToken 0 0 5)
  else
    let stack := if q.op = 0 then fld (s.reg (offRegion n)) 49 24 / 16777216 else n / 64
    s.setFlash { s.flash with reqs := mapPut s.flash.reqs stack (((mapGet s.flash.reqs stack).getD []) ++ [q]) }

/-! ### Staging (R103, R106, R109) -/

/-- The engine that reads for a crew, wherever the crew is. -/
def State.crewEng (s : State) (k : CKey) : Option Eng :=
  match s.crew? k, s.grid? k.grid with
  | some c, some g => some { engOf g c with grove := c.grove.getD (groveOf c.core) }
  | _, _ => none

/-- The bytes of an extent's source; those of one that was written since the issue of its app.wr, and those of a crew that has gone, are unspecified (R103). -/
def State.extentBytes (s : State) (x : Extent) : State × List Byte × Bool :=
  let open' := (List.range x.len).map (Config.freeByte s.free)
  match s.crewEng x.owner.ck with
  | some e => (match s.engRead e x.space x.src x.len with
    | .ok (t, d, bad) => if t.segsTouched e.ctx e.grove e.crew x.space x.since [(x.src, x.len)] then ({ t with free := max t.free (s.free + 1) }, open', bad) else (t, d, bad)
    | .error _ => (s, [], false))
  | none => ({ s with free := s.free + 1 }, open', false)

/-- R103, R106: a write's extent reaches staging, when there is room. (log 51, DEDUCED) -/
def execExtentStaged (handle i : Nat) (s : State) : Res :=
  match s.fstream handle with
  | none => .next s
  | some f =>
    match mapGet f.extents i with
    | none => .next s
    | some x =>
      let stack := handle / 64
      if x.staged ∨ 67108864 < natsGet s.flash.staging stack + x.len then .next s
      else
        let r := s.extentBytes x
        let y := { x with staged := true, bad := r.2.2, data := r.2.1 }
        let f := { f with extents := f.extents.map (fun e => if e.1 = i then (i, y) else e), broken := f.broken || r.2.2 }
        let s := r.1.setStream f
        let s := s.setFlash { s.flash with staging := natsPut s.flash.staging stack (natsGet s.flash.staging stack + x.len) }
        let s := s.token x.owner x.pid (streamToken x.off 0 0)
        .next (State.trySeals (f.seals.length + 1) handle s)

/-- The extents of a stream that stay in staging while so many bytes do: those not committed, and of the committed the youngest (R106, R107). -/
def FStream.drained (f : FStream) (room : Nat) : FStream :=
  let upTo := ((f.seals.filter Seal.committed).map Seal.covers).foldl max 0
  let stays := (f.extents.reverse.foldl (fun (r : List (Nat × Extent) × Nat) e =>
    if upTo ≤ e.1 then (e :: r.1, r.2) else if r.2 + e.2.len ≤ room then (e :: r.1, r.2 + e.2.len) else (r.1, room)) ([], 0)).1
  { f with extents := stays }

/-- The extents of closed streams that stay in a stack's staging while so many bytes do: the youngest. -/
def leftDrained (stack room : Nat) (l : List (Nat × Nat × Nat × Extent)) : List (Nat × Nat × Nat × Extent) :=
  (l.reverse.foldl (fun (r : List (Nat × Nat × Nat × Extent) × Nat) x =>
    if x.1 / 64 ≠ stack then (x :: r.1, r.2) else if r.2 + x.2.2.2.len ≤ room then (x :: r.1, r.2 + x.2.2.2.len) else (r.1, room)) ([], 0)).1

/-- R106: staging drains to flash. -/
def execStagingDrain (stack : Fin 4) (bytes : Nat) (s : State) : Res :=
  let left := natsGet s.flash.staging stack.val - bytes
  .next (s.setFlash { s.flash with
    staging := natsPut s.flash.staging stack.val left
    left := leftDrained stack.val left s.flash.left
    streams := s.flash.streams.map fun x => if x.1 / 64 = stack.val then (x.1, x.2.drained left) else x })

/-- An error in what a closed stream has left in staging poisons it (R109). -/
def State.leftError (s : State) (handle i : Nat) : State :=
  match s.flash.left.find? fun x => x.1 == handle && x.2.1 == i with
  | some x => s.placeExtents x.2.2.1 [{ x.2.2.2 with bad := true }]
  | none => s

/-- R109: an uncorrectable error in staging poisons an extent, a committed one still there too, of a stream that has closed as well, and stops the stream's commits. -/
def execStagingError (handle i : Nat) (s : State) : Res :=
  match s.fstream handle with
  | none => .next (s.leftError handle i)
  | some f =>
    match mapGet f.extents i with
    | none => .next (s.leftError handle i)
    | some x =>
      if !x.staged then .next s
      else
        let y := { x with bad := true }
        let s' := s.setStream { f with extents := f.extents.map (fun e => if e.1 = i then (i, y) else e), broken := true }
        .next (if i < f.sealed then s'.placeExtents (s.regionBase (s.streamRegion handle)) [y] else s')

/-- R111, R113: a block is retired; the share of spares used is then a value the manual does not fix. With none left it is all of them, and the stack goes read-only. (log 52, DESIGN CHOICE) -/
def execFlashBlockFail (stack : Fin 4) (exhausted : Bool) (s : State) : Res :=
  let o := offWear stack.val
  let id := s.free
  let s := { s with free := id + 1 }
  if exhausted then .next ((s.setReg o (setFld (setFld (s.reg o) 0 0 1) 55 48 100)).coppice 4 0 1)
  else .next ((s.setReg o (setFld (s.reg o) 55 48 (Config.freeWord id 0).toNat)).coppice 4 1 0)

/-! ### Ends of streams (R108 to R110) -/

/-- A slot returns to CLOSED, its region's open bit 0 and sealed end as given (R455). -/
def State.closeSlot (s : State) (h : Nat) : State :=
  let n := s.streamRegion h
  let s := (s.setOpen n false).setReg (offStream h) (setFld (s.reg (offStream h)) 63 62 0)
  s.setFlash { s.flash with streams := mapDel s.flash.streams h }

/-- R109: the command processors abort a stream: status 6 to every token not written. -/
def State.abortStream (s : State) (f : FStream) : State :=
  let toks := (f.extents.filter fun e => !e.2.staged).map (fun e => (e.2.owner, e.2.pid)) ++ (f.seals.filter fun x => !x.done).filterMap Seal.token
    ++ f.syncs.map (fun y => y.1) ++ f.close.toList
  let s := toks.foldl (fun t k => t.refuse k.1 k.2 f.handle 6) s
  let n := s.streamRegion f.handle
  (((s.dropExtents f n (s.committedEnd n)).dropAbove n (s.committedEnd n)).setSealed n (s.committedEnd n)).closeSlot f.handle

/-- R110: a tenant's streams close without tokens; completed seals are committed, everything else of them is discarded. -/
def State.flashReset (s : State) (t : Nat) : State :=
  let hs := (s.flash.streams.filter fun x => s.streamTenant x.1 == t).map fun x => x.1
  let s := hs.foldl (fun u h => match u.fstream h with
    | none => u
    | some f =>
      let n := u.streamRegion h
      let e := if f.broken then u.committedEnd n else ((f.seals.filter Seal.done).getLast?.map Seal.endAt).getD (u.committedEnd n)
      let v := (u.dropExtents f n e).dropAbove n e
      ((v.setFlash { v.flash with committed := mapPut v.flash.committed n e }).setSealed n e).closeSlot h) s
  let reqs := (s.flash.reqs.map fun q => (q.1, q.2.filter fun r => r.tenant != t)).filter fun q => !q.2.isEmpty
  let own := fun (d : Deferral) => (s.grid? d.owner.grid).any fun g => g.tenant == t
  s.setFlash { s.flash with reqs := reqs, deferred := s.flash.deferred.filter fun d => !own d }

/-- R108: what power loss leaves of the flash tier: every region at its last committed seal, every slot closed. (log 52, DESIGN CHOICE) -/
def State.flashSettle (s : State) : State :=
  let s := s.flash.committed.foldl (fun t x => t.setSealed x.1 x.2) s
  let s := s.flash.streams.foldl (fun t x => (t.dropExtents x.2 (t.streamRegion x.1) (t.sealedEnd (t.streamRegion x.1))).closeSlot x.1) s
  s.setFlash { s.flash with reqs := [], streams := [], staging := [], deferred := [], switching := [], busy := [], left := [] }

/-- The registers that a device reset keeps: the floors in fuses, the spares used, the state of regions and the wear of stacks, read-only included (R108, R112, R130, R134). (log 52, DESIGN CHOICE) -/
def keptReg (x : Nat × Word) : Option (Nat × Word) :=
  if 0x30 ≤ x.1 ∧ x.1 < 0x48 then some x
  else if 0x200 ≤ x.1 ∧ x.1 < 0x230 then some (x.1, setFld x.2 15 8 0)
  else if 0x30000000 ≤ x.1 ∧ x.1 < 0x30000020 then some (x.1, setFld x.2 47 32 0)
  else if 0x30010000 ≤ x.1 ∧ x.1 < 0x30050000 then some x
  else none

/-- A device reset (R108, R132, R134): every part at its reset value, but for the flash tier, the fuses and the spare map; what the DRAMs then hold is not specified. A column retired for a
down link stays retired. (log 52, DESIGN CHOICE, log 80, DESIGN CHOICE) -/
def State.reborn (s : State) (last : Nat) (powered : Bool) : State :=
  let t := s.flashSettle
  let flash := fun (a : Nat) => decide (Config.flashBase ≤ a ∧ a < Config.flashEnd)
  let dram := [(0, Config.hbmEnd, t.free), (Config.lpBase, Config.lpEnd - Config.lpBase, t.free + 1)]
  let regs := mapPut (t.regs.filterMap keptReg) 0x50 (wordOf [(8, last)])
  let parts := { State.reset.parts with retiredCores := t.parts.retiredCores, spareCores := t.parts.spareCores, retiredCols := t.parts.retiredCols, downVaults := t.parts.downVaults, powered := powered }
  let net := { Net.reset with self := t.net.self, routes := t.net.routes, spared := t.net.spared, broken := t.net.broken, lanes := t.net.broken.foldl (fun l p => natsPut l p 4) [] }
  let phys := { State.reset.phys with bins := t.phys.bins, spares := t.phys.spares, vaultRows := t.phys.vaultRows }
  let kept := { State.reset.flash with committed := t.flash.committed }
  { State.reset with
    agenda := t.agenda, free := t.free + 2, mem := t.mem.filter (fun c => flash c.1), memOpen := dram ++ t.memOpen.filter (fun x => flash x.1),
    poison := t.poison.filter flash, regs := regs, parts := parts, net := net, phys := phys, flash := kept }

/-- R108: input power is lost; the storage die settles within the hold-up, and everything volatile is gone. -/
def execInputPowerLoss (s : State) : Res :=
  if !s.parts.powered then .next s else .next (s.reborn 0 false)

end Sys2Proof.Machine
end

