-- ==== Sys2Proof/Machine/Coll.lean ====
section
/-! DEFINITION. Collectives in the stack base dies: communicators, outcomes, chunks, results (R236, R262 to R274, R433, R448, R462). -/

namespace Sys2Proof.Machine

/-! ### Communicators (R263, R264) -/

def offComm (n : Nat) : Nat := 0x2000 + 8 * n
def offCommRank (n : Nat) : Nat := 0x2800 + 8 * n
def State.commState (s : State) (n : Nat) : Nat := fld (s.reg (offComm n)) 63 62
def State.commTenant (s : State) (n : Nat) : Nat := fld (s.reg (offComm n)) 61 56
def State.commPrio (s : State) (n : Nat) : Nat := fld (s.reg (offComm n)) 55 54
def State.commBufs (s : State) (n : Nat) : Nat := fld (s.reg (offComm n)) 53 50
def State.commStacks (s : State) (n : Nat) : Nat := fld (s.reg (offComm n)) 45 34
def State.nranks (s : State) (n : Nat) : Nat := fld (s.reg (offCommRank n)) 63 44
def State.rankBase (s : State) (n : Nat) : Nat := fld (s.reg (offCommRank n)) 43 24
def State.localRanks (s : State) (n : Nat) : Nat := fld (s.reg (offCommRank n)) 23 8

/-- Replace the collective engine's state. -/
def State.setColl (s : State) (c : Coll) : State := { s with coll := c }

/-- The module of a member table's entry (R265). -/
def memModule (w : Word) : Nat := fld w 63 45

/-- Where the copy of a communicator's member table stands in reserved HBM4E, 4 MiB for each (R266). (log 92, DESIGN CHOICE) -/
def memberAt (n : Nat) : Nat := Config.memberFrame * Config.frameBytes + n * 0x400000

/-- The member table of a communicator, as its copy holds it (R265, R266). -/
def State.memberTable (s : State) (n : Nat) : List Word := (List.range (natsGet s.coll.members n)).map fun i => s.rd64 (memberAt n + 8 * i)

/-- Value at a pair key. -/
def pairGet (l : List ((Nat × Nat) × Nat)) (k : Nat × Nat) : Nat := ((l.find? fun x => x.1 == k).map fun x => x.2).getD 0
def pairPut (l : List ((Nat × Nat) × Nat)) (k : Nat × Nat) (v : Nat) : List ((Nat × Nat) × Nat) :=
  (if v = 0 then [] else [(k, v)]) ++ l.filter fun x => x.1 != k

/-! ### What a rank issued (R267, R433) -/

def CollIss.op (i : CollIss) : Nat := i.md % 8
def CollIss.red (i : CollIss) : Nat := i.md / 8 % 4
def CollIss.comp (i : CollIss) : Bool := i.md / 32 % 2 == 1
def CollIss.root (i : CollIss) : Nat := fld i.sel 51 32
def CollIss.row0 (i : CollIss) : Nat := fld i.crd 63 32
def CollIss.col0 (i : CollIss) : Nat := fld i.crd 31 0
def CollIss.rows (i : CollIss) : Nat := i.tensor.rows - i.row0
def CollIss.cols (i : CollIss) : Nat := i.tensor.cols - i.col0

/-- Operations: all-reduce, reduce-scatter, all-gather, broadcast, barrier. -/
abbrev opAr : Nat := 0
abbrev opRs : Nat := 1
abbrev opAg : Nat := 2
abbrev opBc : Nat := 3
abbrev opBar : Nat := 4

/-- The first issue of a crew's collective. -/
def CollRec.head (r : CollRec) : CollIss := r.issues.headD ⟨0, 0, 0, 0, 0, Tensor.zero⟩
def State.rankOf (s : State) (r : CollRec) : Nat := s.rankBase r.comm + r.crew.crew

/-- The formats of R270. -/
def collFormat (f : Nat) : Bool := [6, 9, 31, 26, 27, 29, 30].contains f

/-- The engine that works for a crew. -/
def CollRec.eng (r : CollRec) : Eng := ⟨0, Config.cores, r.ctx, r.tenant, r.crew, r.tag⟩

/-- The byte segments of a region. -/
def CollIss.segs (i : CollIss) : List (Nat × Nat) := i.tensor.segs i.row0 i.rows i.col0 i.cols

/-- Does a line of virtual memory lie in a tier-0 page, with its home in a stack of a set (R269)? -/
def State.collLineOk (s : State) (e : Eng) (allowed va : Nat) : Bool :=
  match s.walk e.ctx false .store (BitVec.ofNat 64 va) with
  | .ok _ l _ pa => leafTier l == 0 && leafPbmt l != 2 && allowed.testBit (s.homeOf pa).1
  | _ => false

/-- Is the region of an issue unsupported (R269)? -/
def State.regionBad (s : State) (r : CollRec) (i : CollIss) : Bool :=
  i.tensor.location != 0 || i.tensor.scaleMode != 0 || i.tensor.zeroPoint != 0
    || ((i.op == opRs || i.op == opAg) && i.rows % max 1 (s.nranks r.comm) != 0)
    || i.segs.any fun g => (linesIn g.1 g.2).any fun l => !s.collLineOk r.eng (s.commStacks r.comm) (max l g.1)

/-- Is the form of an issue unsupported: reserved bits of sel, the root, the compensated form, the format of a reduction (R270, R271, R433)? (log 53, DEDUCED) -/
def State.formBad (s : State) (r : CollRec) (i : CollIss) : Bool :=
  let reduces := i.op == opAr || i.op == opRs
  fld i.sel 63 52 != 0 || fld i.sel 31 16 != 0 || (i.op != opBc && i.root != 0) || (i.op == opBc && decide (s.nranks r.comm ≤ i.root))
    || (i.comp && !(reduces && i.red == 0 && (i.tensor.format == 29 || i.tensor.format == 30)))
    || (reduces && !collFormat i.tensor.format)

/-- Has a crew of a tenant a rank in a communicator (R265, R269)? -/
def State.hasRank (s : State) (n tenant crew : Nat) : Bool := s.commTenant n == tenant && decide (crew < s.localRanks n)

/-- The status a rank finds for itself before any data move: 1, 3, 5, for what any bundle issued, or 0 (R269). (log 53, DEDUCED) -/
def State.collOwn (s : State) (r : CollRec) : Nat :=
  if s.commState r.comm ≠ 1 ∨ s.commTenant r.comm ≠ r.tenant then 1
  else if s.localRanks r.comm ≤ r.crew.crew then 3
  else if r.issues.any fun i => s.formBad r i || (i.op != opBar && s.regionBad r i) then 5
  else 0

/-- What must agree at one sequence number (R269). -/
structure CollShape where
  op   : Nat
  red  : Nat
  comp : Bool
  fmt  : Nat
  root : Nat
  rows : Nat
  cols : Nat
  deriving DecidableEq, Repr

/-- The shape of an issue; a barrier has no tensor. -/
def CollIss.shape (i : CollIss) : CollShape :=
  if i.op = opBar then ⟨i.op, i.red, i.comp, 0, i.root, 0, 0⟩ else ⟨i.op, i.red, i.comp, i.tensor.format, i.root, i.rows, i.cols⟩
def outShape (o : CollOutcome) : CollShape :=
  if o.op = opBar then ⟨o.op, o.red, o.comp, 0, o.root, 0, 0⟩ else ⟨o.op, o.red, o.comp, o.fmt, o.root, o.rows, o.cols⟩

/-! ### Elements of a region (R267, R462) -/

/-- Read n bits at a bit of a byte address; with whether poison was met. -/
def State.readBits (s : State) (e : Eng) (a : Nat × Nat) (n : Nat) : Nat × Bool :=
  match s.engRead e .mem a.1 ((a.2 + n + 7) / 8) with
  | .ok (_, d, bad) => (leNat d / 2 ^ a.2 % 2 ^ n, bad)
  | .error _ => (0, false)

/-- Write n bits at a bit of a byte address, by a read-modify-write of the bytes (R462). -/
def State.writeBits (s : State) (e : Eng) (a : Nat × Nat) (n v : Nat) (bad : Bool) : State :=
  let len := (a.2 + n + 7) / 8
  match s.engRead e .mem a.1 len with
  | .ok (_, d, _) =>
    let old := leNat d
    let new := old - old / 2 ^ a.2 % 2 ^ n * 2 ^ a.2 + v % 2 ^ n * 2 ^ a.2
    (match s.engWrite e .mem a.1 (leBytes len new) bad false with | .ok t => t | .error _ => s)
  | .error _ => s

/-- The place of element (i, j) of a region. -/
def CollIss.at (x : CollIss) (i j : Nat) : Nat × Nat := x.tensor.elemAt (x.row0 + i) (x.col0 + j)

/-- Every element of a region. -/
def CollIss.elems (x : CollIss) : List (Nat × Nat) := (List.range x.rows).flatMap fun i => (List.range x.cols).map fun j => (i, j)

/-- The elements of a rank's region as they stand, with their poison; a barrier has none. -/
def State.snapOf (s : State) (r : CollRec) : List (Nat × Bool) :=
  if r.head.op = opBar then [] else r.head.elems.map fun x => s.readBits r.eng (r.head.at x.1 x.2) r.head.tensor.c

/-- An element of a rank's input, as the engine read it (R236). -/
def CollRec.elem (r : CollRec) (i j : Nat) : Nat × Bool := r.snap.getD (i * r.head.cols + j) (0, false)

/-- Was a rank's region written since the first issue of its collective (R236)? -/
def State.collTouched (s : State) (r : CollRec) : Bool := r.head.op != opBar && r.head.segs.any fun g => s.touchedVa r.ctx g.1 g.2 r.since

/-- The ranks of a collective with what they put in: what a region held that software wrote meanwhile is unspecified (R236). -/
def State.collInputs (s : State) (rs : List CollRec) : State × List CollRec :=
  rs.foldl (fun u r =>
    if u.1.collTouched r then
      let id := u.1.free
      ({ u.1 with free := id + 1 }, u.2 ++ [{ r with snap := r.snap.zipIdx.map fun x => ((Config.freeWord id x.2).toNat % 2 ^ r.head.tensor.c, x.1.2) }])
    else (u.1, u.2 ++ [r])) (s, [])

/-- What the engine does to the regions is no write of software to them. -/
def State.unnoted (t s : State) : State := let hub := { t.hub with wrote := s.hub.wrote }; { t with hub := hub }

/-- A whole region becomes unspecified: every element a free value of its own. -/
def State.openRegion (s : State) (r : CollRec) : State :=
  if r.head.op = opBar ∨ s.regionBad r r.head then s
  else
    let id := s.free
    State.unnoted ((r.head.elems.zip (List.range r.head.elems.length)).foldl
      (fun t x => t.writeBits r.eng (r.head.at x.1.1 x.1.2) r.head.tensor.c (Config.freeWord id x.2).toNat false) { s with free := id + 1 }) s

/-! ### Reduction (R270, R271) -/

/-- Combine values two at a time in an order that free words pick, down to one (R272). -/
def anyOrder {α : Type} (id : Nat) (f : α → α → α) : Nat → List α → Option α
  | _, [] => none
  | _, [x] => some x
  | 0, x :: _ => some x
  | fuel + 1, l =>
    let i := (Config.freeWord id (2 * fuel)).toNat % l.length
    let r := l.eraseIdx i
    let j := (Config.freeWord id (2 * fuel + 1)).toNat % r.length
    match l[i]?, r[j]? with
    | some a, some b => anyOrder id f fuel (f a b :: r.eraseIdx j)
    | _, _ => l.head?

/-- One rounded addition with its flags. -/
def collAdd (f : Fmt) (a b : PF) : PF := withFlags (f.addF 0 (f.val a.1) (f.val b.1)) (a.2 ||| b.2)

/-- A difference without flags. -/
def collSub (f : Fmt) (a b : Nat) : Nat := (f.addF 0 (f.val a) (f.val b).neg).1

/-- Is a pattern a finite number? -/
def isFinite (f : Fmt) (a : Nat) : Bool := match f.val a with | .fin _ _ _ => true | _ => false

/-- Combine of R271 on pairs, with the flags gathered. -/
def combine (f : Fmt) (x y : (Nat × Nat) × Nat) : (Nat × Nat) × Nat :=
  let a := f.addF 0 (f.val x.1.1) (f.val y.1.1)
  let bv := collSub f a.1 x.1.1
  let t := (f.addF 0 (f.val (collSub f x.1.1 (collSub f a.1 bv))) (f.val (collSub f y.1.1 bv))).1
  let t := if isFinite f a.1 then t else 0
  let e := collAdd f (collAdd f (x.1.2, 0) (y.1.2, 0)) (t, 0)
  ((a.1, e.1), x.2 ||| y.2 ||| e.2 ||| (if isFinite f a.1 then 0 else a.2))

/-- Reduce one element over every rank: its pattern and flags. -/
def reduceElem (id fmt red : Nat) (comp : Bool) (vals : List Nat) : PF :=
  match (elemFmt fmt).2 with
  | .float f =>
    match red with
    | 0 =>
      if comp then
        match anyOrder id (combine f) vals.length (vals.map fun v => ((v, 0), 0)) with
        | some x => withFlags (f.addF 0 (f.val x.1.1) (f.val x.1.2)) x.2
        | none => (0, 0)
      else (anyOrder id (collAdd f) vals.length (vals.map fun v => (v, 0))).getD (0, 0)
    | k => vals.foldl (fun (a : PF) b => withFlags (f.minmax (k == 1) a.1 b) a.2) (vals.headD 0, 0)
  | k =>
    let n := (elemFmt fmt).1
    let xs := vals.map k.intVal
    match red with
    | 0 =>
      let v := xs.sum
      let c := clampI (-(2 ^ (n - 1))) (2 ^ (n - 1) - 1) v
      (patOf n c, if c = v then 0 else flO)
    | 1 => (patOf n (xs.foldl max (xs.headD 0)), 0)
    | _ => (patOf n (xs.foldl min (xs.headD 0)), 0)

/-- The flags that data of other modules may raise: what a format's reduction can set (R270). -/
def flagMask (fmt red : Nat) : Nat :=
  match (elemFmt fmt).2 with
  | .float _ => if red = 0 then flX + flU + flO + flV else flV
  | _ => if red = 0 then flO else 0

/-- An element of a result: pattern, flags, poison. -/
structure CollVal where
  bits  : Nat
  flags : Nat
  bad   : Bool
  deriving DecidableEq, Repr

/-- The reduction of element (i, j) over the ranks of a communicator; data of another module is a free value, the same at every rank. -/
def reduced (id : Nat) (rs : List CollRec) (x : CollIss) (n i j : Nat) : CollVal :=
  let k := i * x.cols + j
  let es := rs.map fun r => r.elem i j
  let bad := es.any fun e => e.2
  if rs.length = n then
    let v := reduceElem (id + 1 + k) x.tensor.format x.red x.comp (es.map fun e => e.1)
    ⟨v.1, v.2, bad⟩
  else ⟨(Config.freeWord id (2 * k)).toNat % 2 ^ x.tensor.c, (Config.freeWord id (2 * k + 1)).toNat &&& flagMask x.tensor.format x.red, bad⟩

/-- Element (i, j) as rank p holds it, a free value where p is on another module. (log 54, DESIGN CHOICE) -/
def State.fromRank (s : State) (id : Nat) (rs : List CollRec) (x : CollIss) (p i j : Nat) : CollVal :=
  match rs.find? fun r => s.rankOf r == p with
  | some r => let e := r.elem i j; ⟨e.1, 0, e.2⟩
  | none => ⟨(Config.freeWord id (2 * (i * x.cols + j))).toNat % 2 ^ x.tensor.c, 0, false⟩

/-- What stands at element (i, j) of a rank's region at completion (R267); unspecified elements are free values. -/
def State.collResult (s : State) (id : Nat) (rs : List CollRec) (r : CollRec) (i j : Nat) : CollVal :=
  let x := r.head
  let n := s.nranks r.comm
  let part := i / max 1 (x.rows / max 1 n)
  match x.op with
  | 0 => reduced id rs x n i j
  | 1 => if part = s.rankOf r then reduced id rs x n i j
    else ⟨(Config.freeWord (id + 1 + x.rows * x.cols + r.crew.crew) (i * x.cols + j)).toNat % 2 ^ x.tensor.c, 0, false⟩
  | 2 => s.fromRank id rs x part i j
  | _ => s.fromRank id rs x x.root i j

/-- Every element a rank will hold. -/
def State.collResults (s : State) (id : Nat) (rs : List CollRec) (r : CollRec) : List ((Nat × Nat) × CollVal) :=
  r.head.elems.map fun e => (e, s.collResult id rs r e.1 e.2)

/-! ### Slots (R273, R274) -/

/-- The chunk commands that wait on a stack. -/
def State.chunkQueue (s : State) (stack : Nat) : List ChunkCmd := (mapGet s.coll.queues stack).getD []

/-- Are the credits of the buffers that a chunk fills free: held by no chunk of its stack (R273)? -/
def State.credited (s : State) (stack : Nat) (c : ChunkCmd) : Bool := c.fills.all fun f => !s.coll.credits.contains ((stack, c.comm), f)

/-- The head of each communicator's queue on a stack that holds its credits. -/
def State.heads (s : State) (stack : Nat) : List ChunkCmd :=
  let q := s.chunkQueue stack
  (((q.map fun c => c.comm).eraseDups).filterMap fun n => q.find? fun c => c.comm == n).filter (s.credited stack)

/-- The chunk a free slot takes (R274): the highest class, then the communicator whose last start there lies furthest back. -/
def State.pickChunk (s : State) (stack : Nat) : Option ChunkCmd :=
  (s.heads stack).foldl (fun b c => match b with
    | none => some c
    | some d =>
      let older := pairGet s.coll.starts (stack, c.comm) < pairGet s.coll.starts (stack, d.comm)
      if s.commPrio d.comm < s.commPrio c.comm ∨ (s.commPrio c.comm = s.commPrio d.comm ∧ older) then some c else some d) none

/-- Free slots of a stack take chunks. -/
def State.fillSlots : Nat → Nat → State → State
  | 0, _, s => s
  | fuel + 1, stack, s =>
    match (List.range 4).find? fun i => !s.coll.slots.any fun x => x.1 == (stack, i) with
    | none => s
    | some i =>
      match s.pickChunk stack with
      | none => s
      | some c =>
        let q := (s.chunkQueue stack).erase c
        let order := s.hub.nextOrder + 1
        let hub := { s.hub with nextOrder := order }
        let coll := { s.coll with
          queues := if q.isEmpty then mapDel s.coll.queues stack else mapPut s.coll.queues stack q
          slots := s.coll.slots ++ [((stack, i), c)]
          starts := pairPut s.coll.starts (stack, c.comm) order
          credits := s.coll.credits ++ c.fills.map fun f => ((stack, c.comm), f) }
        State.fillSlots fuel stack { s with hub := hub, coll := coll }

/-- Free slots of every stack take chunks. -/
def State.fillAll (s : State) : State := (List.range 12).foldl (fun t k => State.fillSlots 4 k t) s

/-! ### Completion (R236, R269, R433) -/

/-- The arrival at a rank's completion object. -/
def State.collArrive (s : State) (r : CollRec) (status flags : Nat) : State :=
  let s := s.setColl { s.coll with recs := s.coll.recs.filter fun x => !(x.comm == r.comm && x.nth == r.nth && x.crew == r.crew) }
  s.hubDo { tenant := r.tenant, ctx := r.ctx, va := r.head.obj.toNat, fx := .arrive status flags, source := 4, word2 := BitVec.ofNat 64 r.comm, tag := r.tag }

/-- The results of a collective stand in a rank's region. -/
def State.collWrite (s : State) (r : CollRec) (vs : List ((Nat × Nat) × CollVal)) : State :=
  State.unnoted (vs.foldl (fun t v => t.writeBits r.eng (r.head.at v.1.1 v.1.2) r.head.tensor.c v.2.bits v.2.bad) s) s

/-- A collective that had begun ends with its region unchanged: the engine puts back what it read, unless software wrote there meanwhile (R236, R269). -/
def State.collBack (s : State) (r : CollRec) : State :=
  if !r.agreed || r.head.op == opBar || s.collTouched r || s.regionBad r r.head then s
  else s.collWrite r (r.head.elems.map fun x => (x, ⟨(r.elem x.1 x.2).1, 0, (r.elem x.1 x.2).2⟩))

/-- A collective is done at every rank of this module: status 7 where some input was poisoned, else 0. (log 53, DEDUCED) -/
def State.collFinish (s : State) (rs : List CollRec) : State :=
  match rs with
  | [] => s
  | r0 :: _ =>
    if r0.head.op = opBar then rs.foldl (fun t r => t.collArrive r 0 0) s
    else
      let v := s.collInputs rs
      let s := v.1
      let rs := v.2
      let id := s.free
      let out := rs.map fun r => (r, s.collResults id rs r)
      let bad := out.any fun x => x.2.any fun v => v.2.bad
      let n := r0.head.rows * r0.head.cols
      let s := { s with free := id + 2 + n + 65536 }
      let s := out.foldl (fun t x => t.collWrite x.1 x.2) s
      out.foldl (fun t x => t.collArrive x.1 (if bad then 7 else 0) (x.2.foldl (fun f v => f ||| v.2.flags) 0)) s

/-- R269: the communicator fails: its collectives in flight complete with a status, its chunks and messages go, which frees slots for other communicators' chunks, its state becomes 2. -/
def State.commEnd (s : State) (n status : Nat) : State :=
  let flight := s.coll.recs.filter fun r => r.comm == n && r.started
  let queues := (s.coll.queues.map fun q => (q.1, q.2.filter fun c => c.comm != n)).filter fun q => !q.2.isEmpty
  let s := s.setColl { s.coll with queues := queues, slots := s.coll.slots.filter (fun x => x.2.comm != n),
                                   credits := s.coll.credits.filter (fun x => x.1.2 != n),
                                   msgs := s.coll.msgs.filter fun m => m.comm != n }
  let s := s.setReg (offComm n) (setFld (s.reg (offComm n)) 63 62 2)
  let s := if status = 2 ∨ status = 4 ∨ status = 6 then flight.foldl (fun t r => t.openRegion r) s else flight.foldl (fun t r => t.collBack r) s
  (flight.foldl (fun t r => t.collArrive r status 0) s).fillAll

/-- The other modules of a communicator (R265). -/
def State.others (s : State) (n : Nat) : List Nat := ((s.memberTable n).map memModule).filter fun m => m != s.net.self

/-- This module finds that a communicator has failed: it sends a notice to every other member (R269). -/
def State.commFail (s : State) (n status : Nat) : State :=
  let t := s.commEnd n status
  t.setColl { t.coll with notices := t.coll.notices ++ (s.others n).map fun m => (n, m, status) }

/-! ### Issue and outcome (R267 to R269) -/

/-- Have all live bundles of a crew issued their collective? -/
def State.collComplete (s : State) (r : CollRec) : Bool :=
  (s.crewBundles r.crew).all fun b => !b.live || r.issues.any fun i => i.bundle == b.key.idx

/-- Collectives of a communicator whose crews have all issued start; those of a rank that may not take part end at once (R269). -/
def State.collStart (s : State) (n : Nat) : State :=
  let ready := s.coll.recs.filter fun r => r.comm == n && !r.started && s.collComplete r
  ready.foldl (fun t r =>
    let r' := { r with started := true }
    let t := t.setColl { t.coll with recs := t.coll.recs.map fun x => if x = r then r' else x }
    let k := t.collOwn r'
    if k = 1 ∨ k = 3 then t.collArrive r' k 0 else t) s

/-- A bundle's coll leaves its store queue and joins its crew's collective, which the engine numbers where the crew has a rank when the first comes (R267, R268). -/
def State.collIssue (s : State) (b : Bundle) (g : Grid) (md : Nat) (sel crd obj : Word) (t : Tensor) : State :=
  let n := fld sel 7 0
  let nth := natsGet b.colls n
  let k := (n, b.key.ck.crew)
  let ranked := s.hasRank n g.tenant b.key.ck.crew
  let seq := pairGet s.coll.nums k
  let i : CollIss := ⟨b.key.idx, md, sel, crd, obj, t⟩
  let hit := fun (r : CollRec) => r.comm == n && r.nth == nth && r.crew == b.key.ck
  let new : CollRec :=
    { comm := n, seq := seq, nth := nth, crew := b.key.ck, tenant := g.tenant, ctx := g.ctx, tag := g.tag, issues := [i], started := false, agreed := false, closing := false, since := s.clock, snap := [] }
  let coll := if s.coll.recs.any hit then { s.coll with recs := s.coll.recs.map fun r => if hit r then { r with issues := r.issues ++ [i] } else r }
    else { s.coll with recs := s.coll.recs ++ [new], nums := if ranked then pairPut s.coll.nums k (seq + 1) else s.coll.nums }
  ((s.setColl coll).onBundle b.key fun k => { k with colls := natsPut k.colls n (nth + 1) }).collStart n

/-- R269: the ranks exchange their outcomes; the outcomes of the ranks of other modules come with the event. Where all agree the engine reads the regions, which are unspecified from then
until completion (R236). (log 54, DESIGN CHOICE) (log 113, DESIGN CHOICE) -/
def execCollOutcomeExchange (comm seq : Nat) (others : List CollOutcome) (s : State) : Res :=
  let s := s.collStart comm
  let rs := s.coll.recs.filter fun r => r.comm == comm && r.seq == seq && s.hasRank comm r.tenant r.crew.crew && r.started && !r.agreed
  let locals := s.localRanks comm
  let ranks := (rs.map s.rankOf) ++ others.map fun o => o.rank
  let ready := s.commState comm == 1 && rs.length == locals && (List.range (s.nranks comm)).all (fun k => ranks.contains k)
    && others.all (fun o => !(decide (s.rankBase comm ≤ o.rank ∧ o.rank < s.rankBase comm + locals)))
    && !(s.coll.recs.any fun r => r.comm == comm && s.hasRank comm r.tenant r.crew.crew && decide (r.seq < seq))
  if !ready then .next s
  else if rs.any (fun r => s.collOwn r == 5) || others.any (fun o => o.status == 5) then
    .next (rs.foldl (fun t r => t.collArrive r 5 0) s)
  else
    let shapes := (rs.flatMap fun r => r.issues.map CollIss.shape) ++ others.map outShape
    if shapes.any (fun x => shapes.any fun y => x != y) || others.any (fun o => o.status == 4) then .next (s.commFail comm 4)
    else
      let go := fun (r : CollRec) => if r.comm = comm ∧ r.seq = seq ∧ s.hasRank comm r.tenant r.crew.crew then { r with agreed := true, snap := s.snapOf r } else r
      .next ((rs.foldl (fun t r => t.openRegion r) s).setColl { s.coll with recs := s.coll.recs.map go })

/-- R269: a failure notice of another member module. -/
def execCollFailureNotice (comm status : Nat) (s : State) : Res :=
  if 256 ≤ comm ∨ s.commState comm ≠ 1 ∨ !([1, 2, 4, 6].contains status) then .next s else .next (s.commEnd comm status)

/-! ### Chunks (R262, R273, R274, R448) -/

/-- Does a chunk name buffers of its communicator, those on this module in stacks of its set (R262, R273), and consume buffers of it? -/
def State.fillsOk (s : State) (c : ChunkCmd) : Bool :=
  c.fills.eraseDups.length == c.fills.length && c.takes.all (fun b => decide (b < s.commBufs c.comm))
    && c.fills.all fun f => decide (f.2 < s.commBufs c.comm) && (f.1 / 12 != s.net.self || (s.commStacks c.comm).testBit (f.1 % 12))

/-- Is a chunk a part of a region with no more than 64 KiB of it (R262)? That of a barrier has no data. -/
def CollIss.holds (i : CollIss) (c : ChunkCmd) : Bool :=
  i.op == opBar || decide (c.row0 + c.rows ≤ i.rows ∧ c.col0 + c.cols ≤ i.cols ∧ c.rows * c.cols * i.tensor.c ≤ 524288)

/-- Is all of a chunk's data in a rank's region held in a stack (R262)? -/
def State.chunkHome (s : State) (r : CollRec) (c : ChunkCmd) (stack : Nat) : Bool :=
  let i := r.head
  i.op == opBar || (i.tensor.segs (i.row0 + c.row0) c.rows (i.col0 + c.col0) c.cols).all fun g => (linesIn g.1 g.2).all fun l => s.collLineOk r.eng (2 ^ stack) (max l g.1)

/-- Are chunks of a collective under way? -/
def State.chunksOf (s : State) (comm seq : Nat) : Bool :=
  (s.coll.queues.any fun q => q.2.any fun c => c.comm == comm && c.seq == seq) || s.coll.slots.any fun x => x.2.comm == comm && x.2.seq == seq

/-- R273: a chunk command reaches its stack's queue. -/
def execChunkCommandArrive (stack : Nat) (ch : ChunkCmd) (s : State) : Res :=
  let ok := decide (stack < 12) && (s.commStacks ch.comm).testBit stack && s.commState ch.comm == 1 && s.fillsOk ch
    && decide ((s.chunkQueue stack).length < 1024)
    && s.coll.recs.any fun r => r.comm == ch.comm && r.seq == ch.seq && r.agreed && !r.closing && r.head.holds ch && s.chunkHome r ch stack
  if !ok then .next s
  else
    let mark := fun (r : CollRec) => if r.comm = ch.comm ∧ r.seq = ch.seq then { r with closing := r.closing || ch.last } else r
    let s := s.setColl { s.coll with queues := mapPut s.coll.queues stack (s.chunkQueue stack ++ [ch]), recs := s.coll.recs.map mark }
    .next (State.fillSlots 4 stack s)

/-- The credits that consumed buffers give back: those of a destination's buffers that a sender of this module holds, but not for a chunk that still fills them (R273). -/
def Coll.giveBack (c : Coll) (comm : Nat) (sender : Nat → Bool) (dest : Nat) (bufs : List Nat) : Coll :=
  let gone := fun (y : (Nat × Nat) × (Nat × Nat)) => y.1.2 == comm && sender y.1.1 && y.2.1 == dest && bufs.contains y.2.2
    && !c.slots.any fun x => x.1.1 == y.1.1 && x.2.comm == comm && x.2.fills.contains y.2
  { c with credits := c.credits.filter (fun y => !gone y), msgs := c.msgs.filter fun m => !(m.comm == comm && m.dest == dest && bufs.contains m.buf) }

/-- The messages to other modules that a chunk's end sends, under the communicator's profile and tag (R273). -/
def State.chunkMsgs (s : State) (c : ChunkCmd) : List CollMsg :=
  (c.fills.filter fun f => f.1 / 12 != s.net.self).map fun f => ⟨c.comm, c.seq, f.1, f.2, fld (s.reg (offComm c.comm)) 49 46, fld (s.reg (offComm c.comm)) 31 0⟩

/-- R448: a chunk ends: the buffers it filled wait at their destinations, the credits of those that it consumed return, and free slots take the next; with the last one the collective completes. A chunk of another
module gives back the credits of what it consumed. The unrecoverable loss of a message that this module sent, or waits for, fails the communicator (R269). (log 54, DESIGN CHOICE) -/
def execChunkEnd (stack : Nat) (fin : ChunkFin) (s : State) : Res :=
  match fin with
  | .slot slot =>
    match s.coll.slots.find? fun x => x.1 == (stack, slot.val) with
    | none => .next s
    | some x =>
      let c := x.2
      let coll := { s.coll with slots := s.coll.slots.filter (fun y => y.1 != (stack, slot.val)), msgs := s.coll.msgs ++ s.chunkMsgs c }
      let s := (s.setColl (coll.giveBack c.comm (fun _ => true) (12 * s.net.self + stack) c.takes)).fillAll
      let rs := s.coll.recs.filter fun r => r.comm == c.comm && r.seq == c.seq && r.agreed
      if s.chunksOf c.comm c.seq || !rs.all (fun r => r.closing) then .next s else .next (s.collFinish rs)
  | .returned comm sender bufs =>
    if stack / 12 = s.net.self then .next s else .next (s.setColl (s.coll.giveBack comm (fun k => k == sender) stack bufs)).fillAll
  | .lost comm dest buf =>
    let sent := s.coll.msgs.any fun m => m.comm == comm && m.dest == dest && m.buf == buf
    let awaited := dest == 12 * s.net.self + stack && (s.commStacks comm).testBit stack && decide (buf < s.commBufs comm) && s.coll.recs.any fun r => r.comm == comm && r.agreed
    if s.commState comm == 1 && (sent || awaited) then .next (s.commFail comm 2) else .next s

/-- A tenant reset fails the tenant's communicators with status 1 (R127, R269). -/
def State.collReset (s : State) (t : Nat) : State :=
  (List.range 256).foldl (fun u n => if u.commState n = 1 ∧ u.commTenant n = t then u.commFail n 1 else u) s

end Sys2Proof.Machine
end

