-- ==== Sys2Proof/Machine/CopyUnit.lean ====
section
/-! DEFINITION. The copy engine: what a command at the head of its queue moves, and how it stalls (R85, R122, R212 to R214, R387, R458). -/

namespace Sys2Proof.Machine

/-- A run of bytes of a command: from a source, or zeros; in its last byte only so many low bits are the source's (0: all), the others being zeros or, when kept, those of the destination. -/
structure Move where
  src  : Option (Space × Nat)
  dsp  : Space
  dst  : Nat
  len  : Nat
  tail : Nat
  keep : Bool
  deriving DecidableEq, Repr

/-- The rows of a tile: the tensor's part of each row, then the rest of the image's row (R387). -/
def tileMoves (t : Tensor) (r0 c0 : Nat) (asp : Space) (addr : Nat) (back : Bool) : List Move :=
  let er := existing t.rows r0 64
  let ec := existing t.cols c0 64
  let n := (ec * t.c + 7) / 8
  (List.range 64).flatMap fun i =>
    let img := (addr + i * (8 * t.c)) % 2 ^ 64
    if i < er ∧ ec ≠ 0 then
      let seg := (t.elemAt (r0 + i) c0).1
      if back then [⟨some (asp, img), t.space, seg, n, ec * t.c % 8, true⟩]
      else [⟨some (t.space, seg), asp, img, n, ec * t.c % 8, false⟩] ++ (if n < 8 * t.c then [⟨none, asp, img + n, 8 * t.c - n, 0, false⟩] else [])
    else if back then [] else [⟨none, asp, img, 8 * t.c, 0, false⟩]

/-- What a command moves, in order. -/
def CopyCmd.moves (m : CopyCmd) : List Move :=
  match m.kind with
  | .bytes dsp ssp dst src => [⟨some (ssp, src), dsp, dst, m.len, 0, false⟩]
  | .tile t r0 c0 asp addr back => tileMoves t r0 c0 asp addr back

/-- The moves that are left when so many bytes are done. -/
def skipMoves : Nat → List Move → List Move
  | _, [] => []
  | n, m :: r =>
    if m.len ≤ n then skipMoves (n - m.len) r
    else { m with src := m.src.map fun x => (x.1, x.2 + n), dst := m.dst + n, len := m.len - n } :: r

/-- The first moves, as far as so many bytes go. -/
def takeMoves : Nat → List Move → List Move
  | _, [] => []
  | n, m :: r => if m.len ≤ n then m :: takeMoves (n - m.len) r else if n = 0 then [] else [{ m with len := n }]

/-- Bytes of one space: its first address and their number. -/
abbrev Span := Space × Nat × Nat

/-- Where an extent lies, as spans of its space: of physical memory in space 0, in the pages that are mapped. -/
def State.spans (s : State) (e : Eng) (acc : Acc) (sp : Space) (a n : Nat) : List Span :=
  match sp with
  | .mem => (pageCuts a n).flatMap fun x => match s.extent e acc x.1 x.2 with
    | .ok (_, ps) => ps.map fun p => (.mem, p.pa, p.len)
    | .error _ => []
  | sp => [(sp, a, n)]

/-- Do two spans share a byte? -/
def Span.meets (x y : Span) : Bool := x.1 == y.1 && decide (x.2.1 < y.2.1 + y.2.2 ∧ y.2.1 < x.2.1 + x.2.2)

/-- Do a command's source and destination overlap (R212): in the addresses that it names, or in the memory that these stand for? -/
def State.copyOverlaps (s : State) (e : Eng) (l : List Move) : Bool :=
  let named := (l.filterMap fun m => m.src.map fun x => (x.1, x.2, m.len)).any fun x => l.any fun m => Span.meets x (m.dsp, m.dst, m.len)
  let srcs := l.flatMap fun m => match m.src with | some x => s.spans e .load x.1 x.2 m.len | none => []
  let dsts := l.flatMap fun m => s.spans e .store m.dsp m.dst m.len
  named || srcs.any fun x => dsts.any fun y => Span.meets x y

/-- Join the tail of a byte: low bits of one, the others of another. -/
def tailByte (t : Nat) (x y : Byte) : Byte := BitVec.ofNat 8 (x.toNat % 2 ^ t + y.toNat / 2 ^ t * 2 ^ t)

/-- Replace the last byte of some. -/
def onLast (f : Byte → Byte) (d : List Byte) : List Byte :=
  match d.getLast? with
  | some x => d.dropLast ++ [f x]
  | none => d

/-- The bytes that a chunk of n bytes writes, and whether poison was met. -/
def State.chunkData (s : State) (e : Eng) (m : Move) (n : Nat) : Except EngStop (State × List Byte × Bool) :=
  match m.src with
  | none => .ok (s, List.replicate n 0, false)
  | some x =>
    match s.engRead e x.1 x.2 n with
    | .error k => .error k
    | .ok (t, d, bad) =>
      if m.tail = 0 ∨ n < m.len then .ok (t, d, bad)
      else if m.keep then
        match t.engRead e m.dsp (m.dst + n - 1) 1 with
        | .error k => .error k
        | .ok (u, old, _) => .ok (u, onLast (fun b => tailByte m.tail b (old.headD 0)) d, bad)
      else .ok (t, onLast (fun b => tailByte m.tail b 0) d, bad)

/-- Move a chunk, poisoned where it met poison or reached the engine so (R16); an overlap leaves free values in its place (R212). -/
def State.moveChunk (s : State) (e : Eng) (m : Move) (n : Nat) (block : Bool) (open? : Option Nat) (hurt : Bool) : Except EngStop (State × Bool) :=
  match s.chunkData e m n with
  | .error k => .error k
  | .ok (t, d, met) =>
    let bad := met || hurt
    let d := match open? with | some id => (List.range n).map fun i => Config.freeByte id (m.dst + i) | none => d
    match t.engWrite e m.dsp m.dst d bad block with
    | .error k => .error k
    | .ok u => .ok (u, bad)

/-- What a run of a command comes to: the state, the bytes done, whether poison was met, what stopped it. -/
structure CopyRun where
  s    : State
  done : Nat
  bad  : Bool
  stop : Option EngStop

/-- The bytes of a chunk that precede the byte a stop names in its source; none before a destination's. -/
def Move.before (m : Move) (n : Nat) (k : EngStop) : Nat :=
  match m.src with
  | some (.mem, a) => if a < k.va ∧ k.va < a + n then k.va - a else 0
  | _ => 0

/-- Run moves by chunks that lie in one line of the destination, up to the first byte that stops (R85). (log 31, DESIGN CHOICE) -/
def State.runMoves (e : Eng) (block : Bool) (open? : Option Nat) (hurt : List Nat) : Nat → List Move → CopyRun → CopyRun
  | 0, _, r => r
  | _, [], r => r
  | fuel + 1, m :: rest, r =>
    let n := min m.len (128 - m.dst % 128)
    let next := fun (t : State) (k : Nat) (bad : Bool) =>
      State.runMoves e block open? hurt fuel (skipMoves k (m :: rest)) { r with s := t, done := r.done + k, bad := r.bad || bad }
    let hit := fun (k : Nat) => hurt.any fun o => decide (r.done ≤ o ∧ o < r.done + k)
    match r.s.moveChunk e m n block open? (hit n) with
    | .ok (t, bad) => next t n bad
    | .error k =>
      let b := m.before n k
      if b = 0 then { r with stop := some k }
      else match r.s.moveChunk e m b false open? (hit b) with
        | .ok (t, bad) => { r with s := t, done := r.done + b, bad := r.bad || bad, stop := some k }
        | .error k => { r with stop := some k }

/-- Is it the copy that reaches its home slice as one transaction of 64 bytes (R122)? -/
def CopyCmd.isBlock (m : CopyCmd) : Bool :=
  match m.kind with
  | .bytes .mem ssp dst _ => ssp != .mem && m.len == 64 && dst % 64 == 0
  | _ => false

/-- Run a command from where it stands. -/
def State.runCopy (s : State) (e : Eng) (m : CopyCmd) : CopyRun :=
  let l := m.moves
  let over? := s.copyOverlaps e l
  let s1 := if over? then { s with free := s.free + 1 } else s
  State.runMoves e m.isBlock (if over? then some s.free else none) m.hurt (m.len + 1) (skipMoves m.done l) ⟨s1, m.done, m.bad, none⟩

/-- Change the head command of a queue. -/
def State.onHead (s : State) (k : CKey) (q : Nat) (f : List CopyCmd → List CopyCmd) : State :=
  s.onCrew k fun c => { c with copies := c.copies.modify q f }

/-- The head of a crew's copy queue, unless it waits on a fault (R458). -/
def State.copyHead (s : State) (k : CKey) (q : Nat) : Option CopyCmd :=
  match s.crew? k with
  | none => none
  | some c => match (c.copies[q]?).getD [] with
    | m :: _ => if m.stall.isSome then none else some m
    | [] => none

/-- Bytes of physical memory, or of a crew's window or vault view, become unspecified. -/
def State.openSpan (s : State) (e : Eng) (x : Span) : State :=
  let id := s.free
  match x.1 with
  | .mem => s.openRange x.2.1 x.2.2
  | .ls => ({ s with free := id + 1 }).onCrew e.crew fun c => { c with win := (addrsFrom x.2.1 x.2.2).foldl (fun w a => mapPut w a (.free id)) c.win }
  | .vlt => (addrsFrom x.2.1 x.2.2).foldl (fun (t : State) a => match t.vaultOwner e.crew.grid e.grove (a / 65536) with
    | some c => t.putCrew { c with vlt := mapPut c.vlt a (.free id) }
    | none => t) { s with free := id + 1 }

/-- The place of a span's byte in the notes of writes. -/
def State.notePlace (s : State) (e : Eng) (sp : Space) (a : Nat) : Option (Space × CKey) :=
  match sp with
  | .mem => none
  | .ls => some (.ls, e.crew)
  | .vlt => (s.vaultOwner e.crew.grid e.grove (a / 65536)).map fun c => (.vlt, c.key)

/-- The bytes of some spans that bundles have written since a time. -/
def State.clashes (s : State) (e : Eng) (since : Nat) (l : List Span) : List Span :=
  let ws := s.hub.wrote.filter fun w => decide (since ≤ w.time) && w.writer.isSome
  if ws.isEmpty then []
  else l.flatMap fun x =>
    (ws.flatMap fun w => w.addrs.filter fun a => decide (x.2.1 ≤ a ∧ a < x.2.1 + x.2.2) && w.place == s.notePlace e x.1 a).eraseDups.map fun a => (x.1, a, 1)

/-- What of a command's destination R212 leaves unspecified when so many of its bytes are done: all of it where source and destination overlap, else what bundles wrote meanwhile. -/
def State.settleCopy (s : State) (e : Eng) (m : CopyCmd) (done : Nat) : State :=
  if done = 0 then s
  else
    let l := (takeMoves done m.moves).flatMap fun v => s.spans e .store v.dsp v.dst v.len
    (if s.copyOverlaps e m.moves then l else s.clashes e m.time l).foldl (fun t x => t.openSpan e x) s

/-- Every command of a queue ends with status 1 (R388). -/
def State.endCopies (s : State) (e : Eng) (l : List CopyCmd) : State :=
  l.foldl (fun s m => (s.settleCopy e m m.done).token m.owner m.pid (copyToken m.done 1)) s

/-- R388: the commands of a queue end with status 1, the head where it stands. -/
def execCpreset (x : RArgs) (s : State) : Res :=
  s.issue (fun _ => { cls := .m, sync := true, once := true, pred := x.pred }) ownNone Path.advance fun c t =>
    let q := x.md.val % 4
    let t := t.endCopies (engOf c.g c.c) ((c.c.copies[q]?).getD [])
    (t.onCrew c.c.key fun k => { k with copies := k.copies.modify q fun _ => [] }).advance c

/-- R213: the head command of a queue runs to its end, past the horizon; its token is written once (R212). (log 31, DESIGN CHOICE) -/
def execCopyComplete (k : CKey) (q : Fin 4) (s : State) : Res :=
  match s.copyHead k q.val, s.crewEng k with
  | some m, some e =>
    let r := (s.upTo (m.time + Config.horizon)).runCopy e m
    (match r.stop with
      | some _ => .next s
      | none =>
        .next (((r.s.settleCopy e m r.done).onHead k q.val List.tail).token m.owner m.pid (copyToken r.done (if r.bad then 2 else 0))))
  | _, _ => .next s

/-- The record of a copy that stalls on a fault (R213): queue in [47:46], offset in [24:0] (R85). -/
def State.copyRecord (s : State) (e : Eng) (k : CKey) (q off cause va : Nat) : State :=
  match s.crew? k with
  | some c => s.engRecord e.tenant cause 0 e.tag (BitVec.ofNat 64 va) (wordOf (whereWord c.core c.slot ++ [(46, q), (0, off)]))
  | none => s

/-- R85: the head command of a queue meets a page that stops it: the bytes before it are written, the command waits at that offset. -/
def execCopyFaultStall (k : CKey) (q : Fin 4) (s : State) : Res :=
  match s.copyHead k q.val, s.crewEng k with
  | some m, some e =>
    let r := (s.upTo (m.time + Config.horizon)).runCopy e m
    (match r.stop with
      | none => .next s
      | some x =>
        let stall := match x with | .fault c va => some (c, va) | _ => none
        let t := r.s.onHead k q.val fun l => { m with done := r.done, bad := r.bad, stall := stall } :: l.tail
        .next (t.engStopped e x fun c va t => t.copyRecord e k q.val r.done c va))
  | _, _ => .next s

end Sys2Proof.Machine
end

