-- ==== Sys2Proof/Machine/TileUnit.lean ====
section
/-! DEFINITION. The tile unit: expansion, selection, block sums, accumulation, loads and drains (R245 to R261, R394 to R409). -/

namespace Sys2Proof.Machine

/-! ### Expansion and selection (R248 to R251) -/

/-- Bits of a number. -/
def bitLen (n : Nat) : Nat := if n = 0 then 0 else Nat.log2 n + 1

/-- A zero with the sign of an integer's: integers and special formats have no −0. (log 33, DEDUCED) -/
def FVal.unsign (x : FVal) : FVal :=
  match x with
  | .fin _ 0 e => .fin false 0 e
  | x => x

/-- The value of a code before any scale (R241, R247). -/
def Tensor.codeVal (t : Tensor) (c : Nat) : FVal :=
  match (elemFmt t.format).2 with
  | .float f => f.val c
  | .int s n =>
    let v := tyVal n s c - tyVal 8 true t.zeroPoint
    .fin (decide (v < 0)) v.natAbs 0
  | k =>
    let v := k.intVal c
    .fin (decide (v < 0)) v.natAbs 0

/-- The scale as an element's format takes it: a format of width 1 has no significand (R249). -/
def Scale.forKind (s : Scale) (k : EKind) : Scale := if k.unit then { s with m := 0 } else s

/-- Expand (R248, R249): the exact value, and the code_fault that reading it sets; a zero scale gives +0 before the code is looked at and sets no flag (R245). -/
def expand (t : Tensor) (c : Nat) (sc : Option Scale) : FVal × Nat :=
  let k := (elemFmt t.format).2
  let fl := if k = .trn ∧ c % 4 = 2 then flCode else 0
  match sc with
  | none => (t.codeVal c, fl)
  | some s =>
    if s.e = 127 then (.fin false 0 0, flCode)
    else if s.e = 0 then (.fin false 0 0, 0)
    else
      let fl := if k.unit && s.m != 0 then flCode else fl
      let m := (s.forKind k).m
      let v := match t.codeVal c with
        | .fin n q e => FVal.fin (n != s.neg) (if m = 0 then q else q * (256 + m)) ((if m = 0 then e else e - 8) + s.e - 63)
        | .inf n => .inf (n != s.neg)
        | v => v
      (if k.isFloat then v else v.unsign, fl)

/-- The range of the values of an integer format. -/
def intRange (s : Bool) (n : Nat) : Int × Int := if s then (-(2 ^ (n - 1)), 2 ^ (n - 1) - 1) else (0, 2 ^ n - 1)

/-- The effective width of an operand, and whether an integer one is signed (R248). -/
def Tensor.neff (t : Tensor) (sc : Option Scale) : Nat × Bool :=
  let k := (elemFmt t.format).2
  let more := match sc with | some s => if (s.forKind k).m = 0 then 0 else 9 | none => 0
  match k with
  | .float f => (f.mb + 1 + more, true)
  | .int s n =>
    let r := intRange s n
    let zp : Int := tyVal 8 true t.zeroPoint
    let neg := match sc with | some q => q.neg | none => false
    let lo : Int := if neg then zp - r.2 else r.1 - zp
    let hi : Int := if neg then zp - r.1 else r.2 - zp
    if 0 ≤ lo then (bitLen hi.natAbs + more, false) else (max (bitLen (-lo - 1).natAbs) (bitLen hi.natAbs) + 1 + more, true)
  | _ => (1, true)

/-- The signed integer of a finite value, in units of its exponent. -/
def signedOf (n : Bool) (m : Nat) : Int := if n then -(m : Int) else m

/-- An integer in units of 2^e as a value. -/
def FVal.ofInt (v e : Int) : FVal := .fin (decide (v < 0)) v.natAbs e

/-- Select (R251): the operand trimmed to its serial width, and what that sets. -/
def select (t : Tensor) (sc : Option Scale) (w : Nat) (tail : Bool) (rmode : Nat) (x : FVal) : FVal × Nat :=
  let k := (elemFmt t.format).2
  let nf := t.neff sc
  if k.unit || decide (nf.1 ≤ w) then (x, 0)
  else match x with
    | .fin n m e =>
      if k.isFloat then
        if bitLen m ≤ w then (x, 0)
        else
          let q := bitLen m - w
          let r := shiftRound rmode m q
          (.fin n r.1 (e + q), if r.2 then flX else 0)
      else if !tail then
        let q := nf.1 - w
        let v := Int.fdiv (signedOf n m) (2 ^ q)
        (FVal.ofInt v (e + q), if v * 2 ^ q = signedOf n m then 0 else flX)
      else
        let v := tyVal w nf.2 (signedOf n m % 2 ^ w).toNat
        (FVal.ofInt v e, if v = signedOf n m then 0 else flTail)
    | x => (x, 0)

/-! ### Block sums and accumulation (R254, R255) -/

/-- The exponent of a value's leading bit. -/
def FVal.lead : FVal → Option Int
  | .fin _ m e => if m = 0 then none else some ((Nat.log2 m : Int) + e)
  | _ => none

/-- A value with every bit of weight below 2^q removed, toward zero, and whether any was. -/
def FVal.cut (q : Int) : FVal → FVal × Bool
  | .fin n m e =>
    if q ≤ e then (.fin n m e, false)
    else
      let k := (q - e).toNat
      (.fin n (m / 2 ^ k) q, decide (m % 2 ^ k ≠ 0))
  | x => (x, false)

/-- The exact sum of finite values: −0 only if every one is −0. -/
def exactSum (l : List FVal) : FVal :=
  match l with
  | [] => .fin false 0 0
  | x :: r => r.foldl (fun a y => (a.add y).getD (.nan false)) x

/-- Is a product no number (R254, R255)? -/
def special (p : Option FVal) : Bool :=
  match p with
  | some (.fin _ _ _) => false
  | _ => true

/-- BlockF (R254): the sum of a block's products, and its flags. -/
def blockF (ps : List (Option FVal)) : FVal × Nat :=
  let vs := ps.filterMap id
  let infs := vs.filterMap fun v => match v with | .inf n => some n | _ => none
  let clash := infs.contains true && infs.contains false
  let bad := ps.any Option.isNone || clash || vs.any FVal.isSig
  if ps.any Option.isNone || clash || vs.any FVal.isNan then (.nan false, if bad then flV else 0)
  else match infs with
    | n :: _ => (.inf n, 0)
    | [] =>
      let leads := vs.filterMap FVal.lead
      match leads with
      | [] => (exactSum vs, 0)
      | a :: r =>
        let q := r.foldl max a - 126
        let cs := vs.map (FVal.cut q)
        (exactSum (cs.map fun x => x.1), if cs.any fun x => x.2 then flX else 0)

/-- The signed value of a 64-bit entry. -/
def entryInt (w : Word) : Int := w.toInt

/-- An entry's value by the tile's mode (R252). -/
def entryVal (mode : Nat) (w : Word) : FVal :=
  match mode with
  | 0 | 1 => FVal.ofInt (entryInt w) 0
  | 2 => fmt32.val (w.toNat % 2 ^ 32)
  | _ => fmt64.val w.toNat

/-- The format of a float mode. -/
def modeFmt (mode : Nat) : Fmt := if mode = 2 then fmt32 else fmt64

/-- A block's products into an entry (R254, R255). The integer 0 that stands for a sum with a NaN or an infinity is not that sum, so the entry is inexact too. -/
def accumulate (mode : Nat) (acc : Word) (ps : List (Option FVal)) : Word × Nat :=
  if 2 ≤ mode then
    let f := modeFmt mode
    let b := blockF ps
    let r := f.ofVal 0 b.1
    let a := f.addF 0 (entryVal mode acc) (f.val r.1)
    (BitVec.ofNat 64 a.1, b.2 ||| r.2 ||| a.2)
  else
    let bad := ps.any special
    let i : Int × Nat :=
      if bad then (0, flV ||| flX)
      else match exactSum (ps.filterMap id) with
        | .fin n m e => let r := roundAt 0 m e 0; (signedOf n r.1, if r.2 then flX else 0)
        | _ => (0, flV ||| flX)
    let t := entryInt acc + i.1
    if mode = 0 then (BitVec.ofInt 64 t, i.2)
    else
      let c := clampI (-(2 ^ 63)) (2 ^ 63 - 1) t
      (BitVec.ofInt 64 c, if c = t then i.2 else i.2 ||| flO)

/-! ### Reading operands (R245, R246, R400, R401) -/

/-- Bits [n − 1:0] from bit b of some bytes. -/
def bitsAt (d : List Byte) (b n : Nat) : Nat := leNat d / 2 ^ b % 2 ^ n

/-- The container of an element, and whether it was poisoned. -/
def State.elemCode (s : State) (e : Eng) (t : Tensor) (i j : Nat) : Except EngStop (State × Nat × Bool) :=
  let p := t.elemAt i j
  match s.engRead e t.space p.1 ((p.2 + t.c + 7) / 8) with
  | .error x => .error x
  | .ok (u, d, bad) => .ok (u, bitsAt d p.2 t.c, bad)

/-- The scale of an element, if the entry has scales. -/
def State.elemScale (s : State) (e : Eng) (t : Tensor) (kRows : Bool) (i j : Nat) : Except EngStop (State × Option Scale × Bool) :=
  match t.scaleSeg kRows i j with
  | [] => .ok (s, none, false)
  | x :: _ =>
    match s.engRead e t.space x.1 2 with
    | .error k => .error k
    | .ok (u, d, bad) => .ok (u, some (scaleOf (leNat d)), bad)

/-- What reading some elements comes to: the state, the values, flags, poison. -/
structure Staged where
  s   : State
  vs  : List FVal
  fl  : Nat
  bad : Bool

/-- How an operand is read: serial width, tail selection, rounding; no width for a load. -/
structure Trim where
  w    : Option Nat
  tail : Bool
  rm   : Nat

/-- Expand and select one element (R248, R251). -/
def Opnd.value (x : Opnd) (q : Trim) (code : Nat) (sc : Option Scale) : FVal × Nat :=
  let v := expand x.t code sc
  match q.w with
  | none => v
  | some w => let r := select x.t sc w q.tail q.rm v.1; (r.1, v.2 ||| r.2)

/-- Stage the elements (o, k) of an operand for some k. -/
def Opnd.stage (x : Opnd) (e : Eng) (q : Trim) (o : Nat) : List Nat → Staged → Except EngStop Staged
  | [], r => .ok r
  | k :: ks, r =>
    let p := x.at o k
    match r.s.elemCode e x.t p.1 p.2 with
    | .error z => .error z
    | .ok (u, c, b1) =>
      match u.elemScale e x.t x.d p.1 p.2 with
      | .error z => .error z
      | .ok (u, sc, b2) =>
        let v := x.value q c sc
        x.stage e q o ks ⟨u, r.vs ++ [v.1], r.fl ||| v.2, r.bad || b1 || b2⟩

/-- Rows of a block as staged so far. -/
structure Rows where
  s    : State
  rows : List (List FVal)
  fl   : Nat
  bad  : Bool

/-- Stage rows, each its row number, its position and its K positions; a row that stops is named. -/
def Opnd.stageRows (x : Opnd) (e : Eng) (q : Trim) : List (Nat × Nat × List Nat) → Rows → Except (Nat × EngStop) Rows
  | [], r => .ok r
  | (row, o, ks) :: rest, r =>
    match x.stage e q o ks ⟨r.s, [], r.fl, r.bad⟩ with
    | .error z => .error (row, z)
    | .ok t => x.stageRows e q rest ⟨t.s, r.rows ++ [t.vs], t.fl, t.bad⟩

/-! ### Blocks (R406, R407) -/

/-- A product in progress: operands A and B, whether B is a vector. -/
structure Prod where
  a   : Opnd
  b   : Opnd
  vec : Bool

def TileOp.prod : TileOp → Option Prod
  | .mm a b da db ca cb => some ⟨opnd a da ca, opnd b db cb, false⟩
  | .mmv a b da db ca cb => some ⟨opnd a da ca, opnd b db cb, true⟩
  | _ => none

def Prod.span (p : Prod) : Nat := if p.vec then mmvSpan p.a p.b else mmSpan p.a p.b
def Prod.blocks (p : Prod) : Nat := if p.vec then mmvSeg p.span / 32 else (p.span + 31) / 32

/-- The K positions of a block for column j that lie below the span (R406, R407). -/
def Prod.ks (p : Prod) (b j : Nat) : List Nat :=
  let k0 := (if p.vec then j * mmvSeg p.span else 0) + 32 * b
  ((List.range 32).map fun t => k0 + t).filter fun k => decide (k < p.span)

/-- Columns that a block adds to. -/
def Prod.cols (p : Prod) : List Nat :=
  if p.vec then (List.range 64).filter fun j => decide (j * mmvSeg p.span < p.span) else List.range p.b.oext

/-- The parts of row i of A: one for all columns, or one for each column of a matrix–vector product. -/
def Prod.aRow (p : Prod) (b : Nat) : List Nat := if p.vec then (p.cols.map (p.ks b)).flatten else p.ks b 0

/-- Cut a list by lengths. -/
def cutBy {α : Type} : List Nat → List α → List (List α)
  | [], _ => []
  | n :: r, l => l.take n :: cutBy r (l.drop n)

/-- Serial widths and the rest of a latched width pair (R250). -/
def wpWidth (n : Nat) : Nat := if n = 0 then 64 else n
def trimA (w : Word) : Trim := ⟨some (wpWidth (fld w 13 8)), w.getLsbD 29, fld w 31 30⟩
def trimB (w : Word) : Trim := ⟨some (wpWidth (fld w 5 0)), w.getLsbD 28, fld w 31 30⟩

/-- The plane cycles of a block (R261). -/
def Prod.cost (p : Prod) (w : Word) : Nat :=
  let one := fun (t : Tensor) (n : Nat) => if (elemFmt t.format).2.unit then 1 else wpWidth n
  one p.a.t (fld w 13 8) * one p.b.t (fld w 5 0)

/-- A latched width pair's value; one never written holds a free value with its zero fields (R250). -/
def TileCmd.wpv (m : TileCmd) (tile : Nat) : Word :=
  match m.wp with
  | .val v => v
  | .free k => Config.freeWord k (1024 + tile) &&& wpMask

/-- A product of two elements; one of integers has no negative zero (R248, R254). -/
def prodOf (ints : Bool) (a b : FVal) : Option FVal := (a.mul b).map fun v => if ints then v.unsign else v

/-- Add the products of rows to the entries of a tile. -/
def addBlock (mode fid : Nat) (ints : Bool) (l : List ((Nat × Nat) × List FVal × List FVal)) (ents : Bank) : Bank × Nat :=
  l.foldl (fun r x =>
    let key := 64 * x.1.1 + x.1.2
    let n := 32 - x.2.1.length
    let ps := (x.2.1.zipWith (prodOf ints) x.2.2) ++ List.replicate n (some (.fin false 0 0))
    let a := accumulate mode (bankGet ents fid key) ps
    (mapPut r.1 key (.val a.1), r.2 ||| a.2)) (ents, 0)

/-- Stage a block and work out its entries: the new entries, flags, poison (R400). (log 33, DEDUCED) -/
def State.block (s : State) (e : Eng) (p : Prod) (w : Word) (b : Nat) (t : Tile) : Except (Nat × EngStop) (State × Bank × Nat × Bool) :=
  let ar := (List.range p.a.oext).map fun i => (i, i, p.aRow b)
  let br := p.cols.map fun j => (64 + j, if p.vec then 0 else j, p.ks b j)
  match p.a.stageRows e (trimA w) ar ⟨s, [], 0, false⟩ with
  | .error x => .error x
  | .ok ra =>
    match p.b.stageRows e (trimB w) br ⟨ra.s, [], ra.fl, ra.bad⟩ with
    | .error x => .error x
    | .ok rb =>
      let lens := p.cols.map fun j => (p.ks b j).length
      let pairs := ((List.range p.a.oext).zip ra.rows).flatMap fun x =>
        let parts := if p.vec then cutBy lens x.2 else p.cols.map fun _ => x.2
        (p.cols.zip (parts.zip rb.rows)).map fun y => ((x.1, y.1), y.2.1, y.2.2)
      let r := match t.mode with
        | some m => addBlock m t.fid (!(elemFmt p.a.t.format).2.isFloat && !(elemFmt p.b.t.format).2.isFloat) pairs t.ents
        | none => ([], 0)
      .ok (rb.s, r.1, rb.fl ||| r.2, rb.bad)

/-! ### Events of the tile unit -/

/-- The tiles of a core that run an instruction, and the heads of its queues with their crew and tile (R394). -/
def State.tileHeads (s : State) (core : Nat) : List (CKey × Nat × TileCmd) :=
  (s.residents core).flatMap fun c => (c.tiles.zipIdx).filterMap fun x => x.1.queue.head?.map fun m => (c.key, x.2, m)
def State.tileRuns (s : State) (core : Nat) : Bool := (s.residents core).any fun c => c.tiles.any fun t => t.busy.isSome

/-- The head that issued first. -/
def firstIssued : List (CKey × Nat × TileCmd) → Option (CKey × Nat × TileCmd)
  | [] => none
  | x :: r => some (r.foldl (fun a y => if y.2.2.time < a.2.2.time then y else a) x)

/-- R394: the tile unit takes the oldest head of the core's queues, past the strike horizon. (log 32, DESIGN CHOICE) -/
def execTileInstructionStart (core : Nat) (s : State) : Res :=
  if s.tileRuns core then .next s
  else match firstIssued (s.tileHeads core) with
    | none => .next s
    | some (k, n, m) =>
      .next ((s.upTo (m.time + Config.horizon)).onTile k n fun t => { t with busy := some m, queue := t.queue.tail })

/-- A tile of a resident crew with its instruction in progress, unless that waits on a fault (R458). -/
def State.tileBusy (s : State) (k : CKey) (n : Nat) : Option (Crew × Tile × TileCmd) :=
  match s.crew? k with
  | none => none
  | some c => match c.tiles[n]? with
    | none => none
    | some t => match t.busy with
      | none => none
      | some m => if c.st != .resident || (m.stopped.any fun x => x.1 != 0) then none else some (c, t, m)

/-- An instruction stops at a row (R401): a fault posts its record, a tier-3 page migrates, a deferral waits. -/
def State.tileStop (s : State) (e : Eng) (c : Crew) (n row : Nat) (m : TileCmd) (x : EngStop) : State :=
  let t := s.onTile c.key n fun t => { t with busy := some { m with row := row, stopped := some (x.cause, x.va) } }
  t.engStopped e x fun cause va u =>
    u.engRecord e.tenant cause 1 e.tag (BitVec.ofNat 64 va) (wordOf (whereWord c.core c.slot ++ [(42, n), (0, 128 * m.block + row)]))

/-- What a tile whose mode was never set comes to under a product: nothing of it is specified (R406). -/
def Tile.unset (t : Tile) (id : Nat) : Tile := { t with ents := [], fid := id, flags := (Config.freeWord id 0).toNat % 128 &&& 0x77 }

/-- The bundles that have poison of a tile to consume once an instruction has read it, or not: the issuer then too (R279, R401). -/
def Tile.owedBy (t : Tile) (bad : Bool) (m : TileCmd) : List BKey := if bad && !t.owed.contains m.owner then m.owner :: t.owed else t.owed

/-- R400: the next block of a product is accumulated whole, or stops at a row; of operands that were written since their fence the result is unspecified (R235). (log 32, DESIGN CHOICE) -/
def execTileBlockDone (k : CKey) (tile : Fin 8) (s : State) : Res :=
  match s.tileBusy k tile.val, s.crewEng k with
  | some (c, t, m), some e =>
    (match m.op.prod with
      | none => .next s
      | some p =>
        if p.blocks ≤ m.block then .next s
        else match s.block e p (m.wpv tile.val) m.block t with
          | .error (row, x) => .next (s.tileStop e c tile.val row m x)
          | .ok (u, ents, fl, bad) =>
            let id := u.free
            let now := u.clock
            let m' := { m with block := m.block + 1, row := 0, stopped := none, paid := max m.paid (m.block + 1) }
            let keep := t.undo.filter fun x => decide (now < x.time + Config.horizon)
            let t' := { t with
              ents := ents, flags := t.flags ||| fl, poisoned := t.poisoned || bad, owed := t.owedBy bad m, busy := some m', lastEnd := now
              undo := keep ++ [⟨now, t.ents, t.fid, t.flags, t.poisoned, t.owed, m.block⟩] }
            let t' := if t.mode.isNone then t'.unset id else if s.stale e.ctx e.grove m then t'.spoil id [m] else t'
            let u := ({ u with free := id + 1 }).onTile k tile.val fun _ => t'
            .next (if m.block < m.paid then u else u.charged (s.coreOfB m.owner) e.tenant (p.cost (m.wpv tile.val))))
  | _, _ => .next s

/-! ### Loads and drains (R404, R405, R408, R409) -/

/-- mld's conversion of an element into an entry (R405). -/
def loadEntry (mode rm : Nat) (x : FVal) : Word × Nat :=
  if 2 ≤ mode then let r := (modeFmt mode).ofVal rm x; (BitVec.ofNat 64 r.1, r.2)
  else match x with
    | .nan _ => (0, flV)
    | .inf n => (BitVec.ofInt 64 (if n then -(2 ^ 63) else 2 ^ 63 - 1), flV)
    | .fin n m e =>
      let r := toInt rm n m e
      let c := clampI (-(2 ^ 63)) (2 ^ 63 - 1) r.1
      (BitVec.ofInt 64 c, (if c = r.1 then 0 else flV) ||| (if r.2 then flX else 0))

/-- Every entry of a tile zero. -/
def zeroEnts : Bank := (List.range 4096).map fun k => (k, .val 0)

/-- Fill entries with loaded rows (R405). -/
def loadRows (mode rm : Nat) (rows : List (Nat × List FVal)) : Bank × Nat :=
  rows.foldl (fun r x => x.2.zipIdx.foldl (fun r y =>
    let v := loadEntry mode rm y.1
    (mapPut r.1 (64 * x.1 + y.2) (.val v.1), r.2 ||| v.2)) r) (zeroEnts, 0)

/-- The value of entry (i, j) of a tile as a drain reads it; an unset mode gives free values (R406). -/
def Tile.entry (t : Tile) (i j : Nat) : FVal := entryVal (t.mode.getD 3) (bankGet t.ents t.fid (64 * i + j))

/-- The histogram bin of a value (R258). -/
def histBin (h : Int) : FVal → Nat
  | .fin n m e => match (FVal.fin n m e).lead with
    | none => 0
    | some l => let b := l - h + 1; if b < 1 then 0 else min b.toNat 31
  | _ => 31

/-- The counts of a drain into a histogram, saturating (R258). -/
def addHist (hist : Nats) (bins : List Nat) : Nats :=
  bins.foldl (fun m b => natsPut m b (min (natsGet m b + 1) (2 ^ 32 - 1))) hist

/-- Write bits at bit b of the bytes from an address; the other bits of those bytes keep their values (R408). -/
def State.putBits (s : State) (e : Eng) (sp : Space) (a b n v : Nat) (bad : Bool) : Except EngStop State :=
  let k := (b + n + 7) / 8
  if b = 0 ∧ n % 8 = 0 then s.engWrite e sp a (leBytes k v) bad false
  else match s.engRead e sp a k with
    | .error x => .error x
    | .ok (u, d, _) =>
      let old := leNat d
      u.engWrite e sp a (leBytes k (old - old / 2 ^ b % 2 ^ n * 2 ^ b + v % 2 ^ n * 2 ^ b)) bad false

/-- The codes of a row of a drain, with flags and the poison of scales. -/
def Opnd.rowCodes (x : Opnd) (e : Eng) (t : Tile) (rm i : Nat) : List Nat → State → Except EngStop (State × List Nat × Nat × Bool)
  | [], s => .ok (s, [], 0, false)
  | j :: js, s =>
    let p := x.at i j
    match s.elemScale e x.t false p.1 p.2 with
    | .error z => .error z
    | .ok (u, sc, bad) =>
      let r := drainElem x.t.format (t.entry i j) sc (tyVal 8 true x.t.zeroPoint) rm
      match x.rowCodes e t rm i js u with
      | .error z => .error z
      | .ok (u, cs, fl, b2) => .ok (u, r.1 :: cs, r.2 ||| fl, bad || b2)

/-- Write a row's codes: one run of bits along a tensor row, or one element at a time down a column. -/
def Opnd.writeRow (x : Opnd) (e : Eng) (i : Nat) (bad : Bool) (cs : List Nat) (s : State) : Except EngStop State :=
  if cs.isEmpty then .ok s
  else if x.d then
    cs.zipIdx.foldl (fun r y => match r with
      | .error z => .error z
      | .ok u => let q := x.t.elemAt (x.r0 + y.2) (x.c0 + i); u.putBits e x.t.space q.1 q.2 x.t.c y.1 bad) (.ok s)
  else
    let q := x.t.elemAt (x.r0 + i) x.c0
    let v := cs.zipIdx.foldl (fun v y => v + y.1 % 2 ^ x.t.c * 2 ^ (x.t.c * y.2)) 0
    s.putBits e x.t.space q.1 q.2 (cs.length * x.t.c) v bad

/-- What draining rows comes to. -/
structure Drained where
  s    : State
  row  : Nat
  fl   : Nat
  bad  : Bool
  stop : Option EngStop

/-- Drain rows in order, up to the first that stops (R401, R408). -/
def Opnd.drainRows (x : Opnd) (e : Eng) (t : Tile) (rm : Nat) : List Nat → Drained → Drained
  | [], r => r
  | i :: is, r =>
    match x.rowCodes e t rm i (List.range (min 64 x.kext)) r.s with
    | .error z => { r with row := i, stop := some z }
    | .ok (u, cs, fl, bad) =>
      let bad := r.bad || bad
      match x.writeRow e i bad cs u with
      | .error z => { r with row := i, stop := some z }
      | .ok v => x.drainRows e t rm is ⟨v, i + 1, r.fl ||| fl, bad, none⟩

/-- The tile after an instruction: nothing in progress; full once no emptying instruction is left (R394). -/
def Tile.ended (t : Tile) : Tile :=
  let empties := fun (m : TileCmd) => match m.op with | .drain _ _ _ _ => false | _ => true
  { t with busy := none, full := t.full || !t.queue.any empties }

/-- The acknowledgements of a drain's lines come back to its bundle (R32, R409). -/
def State.drainAcks (s : State) (k : BKey) (ls : List Nat) : State :=
  { s with acks := s.acks ++ ls.map fun l => ⟨none, .bundle k, l, .bytes false [], false⟩ }

/-- A drain's counts, by the histogram base that it latched at issue (R397, R436), go to the entry as it stands now (R258). (log 30, DEDUCED) -/
def State.drainHist (s : State) (tenant tf : Nat) (x : Opnd) (t : Tile) : State :=
  let e := s.tensor tenant tf
  let h := tyVal 8 true x.t.histBase
  let bins := (List.range x.oext).flatMap fun i => (List.range (min 64 x.kext)).map fun j => histBin h (t.entry i j)
  s.setTensor tenant tf { e with hist := addHist e.hist bins }

/-- R394: the tile instruction in progress completes, if it can: a product whose blocks are done and committed, the zeroing, the load or the drain. (log 32, DESIGN CHOICE) (log 34, DEDUCED) -/
def execTileInstructionComplete (k : CKey) (tile : Fin 8) (s : State) : Res :=
  let n := tile.val
  match s.tileBusy k n, s.crewEng k with
  | some (c, t, m), some e =>
    (match m.op with
      | .mm _ _ _ _ _ _ | .mmv _ _ _ _ _ _ =>
        (match m.op.prod with
          | none => .next s
          | some p =>
            if m.block < p.blocks then .next s
            else
              let done := fun (t : Tile) => { t.ended with undo := [], unread := t.unread ++ [m] }
              .next (((s.upTo (t.lastEnd + Config.horizon)).onTile k n done).spoilTile k n (s.staleIn e.ctx c (done t))))
      | .zero mode =>
        .next (s.onTile k n fun t => { t.ended with mode := some mode, ents := zeroEnts, flags := 0, poisoned := false, owed := [], unread := [] })
      | .load mode a da ca =>
        let x := opnd a da ca
        let rm := fld (m.wpv n) 31 30
        let rows := (List.range x.oext).map fun i => (i, i, List.range (min 64 x.kext))
        (match x.stageRows e ⟨none, false, rm⟩ rows ⟨s, [], 0, false⟩ with
          | .error (row, z) => .next (s.tileStop e c n row m z)
          | .ok r =>
            let v := loadRows mode rm ((List.range x.oext).zip r.rows)
            let done := fun (t : Tile) => { t.ended with mode := some mode, ents := v.1, flags := r.fl ||| v.2, poisoned := r.bad, owed := if r.bad then [m.owner] else [], unread := [m] }
            .next ((r.s.onTile k n done).spoilTile k n (s.staleIn e.ctx c (done t))))
      | .drain b tf db cb =>
        let x := opnd b db cb
        let s := (s.upTo (t.lastEnd + Config.horizon)).spoilTile k n (s.staleIn e.ctx c t)
        let t := (s.tileNow k n).getD t
        let rows := (List.range x.oext).filter fun i => decide (m.row ≤ i)
        let r := x.drainRows e t (fld (m.wpv n) 31 30) rows ⟨s, m.row, 0, t.poisoned, none⟩
        let u := r.s.onTile k n fun t => { t with flags := t.flags ||| r.fl, poisoned := r.bad, owed := t.owedBy (r.bad && !t.poisoned) m }
        (match r.stop with
          | some z => .next (u.tileStop e c n r.row m z)
          | none =>
            let u := u.onTile k n Tile.ended
            let u := u.onBundle m.owner fun b => { b with drains := b.drains - 1 }
            .next ((u.drainAcks m.owner x.outLines).drainHist e.tenant tf x t)))
  | _, _ => .next s

end Sys2Proof.Machine
end

