-- ==== Sys2Proof/Machine/Reset.lean ====
section
/-! DEFINITION. The reset of a tenant (R126, R127). -/

namespace Sys2Proof.Machine

def offTenant (t : Nat) : Nat := 0x1000070 + 0x10000 * t

/-- Everything that runs for a tenant goes: its queued records, grids, crews and bundles, resident or saved, its armed actions, the hub's
effects, the walks and migrations it waits for (whose frames stay the next allocations of their sizes) with the page requests that PRI made for them, its crews' collectives. -/
def State.dropTenant (s : State) (t : Nat) : State :=
  let own := fun (g : Nat) => s.grids.any fun x => x.id == g && x.tenant == t
  let s' := (s.xl.migs.filter fun m => m.tenant == t).foldl (fun u m => match m.frame with | some f => u.keepFrame t m.size f | none => u) s
  let hub := { s'.hub with queues := s'.hub.queues.filter fun q => q.1 / 4 != t }
  let cp := { s'.cp with served := s'.cp.served.filter fun q => q / 4 != t }
  let asked := s'.pcie.asked.filter fun a => !(s.xl.migs.any fun m => m.tenant == t && (m.ctx, m.vpn) == a)
  let pcie := { s'.pcie with asked := asked }
  let xl := { s'.xl with misses := s'.xl.misses.filter (fun m => m.tenant != t), migs := s'.xl.migs.filter fun m => m.tenant != t }
  let coll := { s'.coll with recs := s'.coll.recs.filter fun r => r.tenant != t }
  { s' with
    grids := s'.grids.filter fun g => g.tenant != t
    crews := s'.crews.filter fun c => !own c.key.grid
    bundles := s'.bundles.filter fun b => !own b.key.grid
    focus := s'.focus.filter fun f => !own f.1.grid
    armed := s'.armed.filter fun a => a.tenant != t
    hubFx := s'.hubFx.filter fun x => x.tenant != t
    hub := hub
    cp := cp
    xl := xl
    coll := coll
    pcie := pcie }

/-- Steps 1 to 3 of a tenant reset (R127): network records fail, streams close, communicators fail, everything of the tenant stops. -/
def State.tenantStart (s : State) (t : Nat) : State :=
  let s := s.setReg (offTenant t) (setFld (s.reg (offTenant t)) 0 0 1)
  let gone := s.flash.deferred.filter fun d => (s.grid? d.owner.grid).any fun g => g.tenant == t
  ((((s.netReset t).flashReset t).collReset t).dropTenant t).takeFrom gone

/-- A write of HUB_TENANT_CTL_t: ignored while a reset runs; bit 0 starts one. -/
def State.tenantCtl (s : State) (t : Nat) (v : Word) : State :=
  if s.resetting t then s
  else
    let s := s.setReg (offTenant t) (wordOf [(8, fld v 15 8)])
    if v.getLsbD 0 then s.tenantStart t else s

/-- R127: a write of reset_busy resets a tenant. (log 47, DEDUCED) -/
def execTenantReset (t : Fin 64) (v : Word) (s : State) : Res := .next (s.tenantCtl t.val v)

/-- Are writes of bundles that are gone still on their way? -/
def State.orphans (s : State) : Bool := s.inflight.any fun f => match f.owner with | .bundle k => (s.grid? k.grid).isNone | _ => false

/-- R127, steps 4 to 6: the shoot-down of kind 2, which waits for every access through a translation in scope (R76), the record, the count, reset_busy back to 0. -/
def execTenantResetComplete (t : Fin 64) (s : State) : Res :=
  if !s.resetting t.val || s.sdWaits ⟨t.val, 2, 0, 0⟩ || s.orphans then .next s
  else
    let s := s.sdEffect ⟨t.val, 2, 0, 0⟩
    let s := s.post t.val (wordOf [(56, 0x41), (32, t.val)]) 0 0 0
    .next (s.setReg (offTenant t.val) (setFld (satAdd (s.reg (offTenant t.val)) 15 8 1) 0 0 0))

end Sys2Proof.Machine
end

