-- ==== Sys2Proof/Machine/Regs.lean ====
section
/-! DEFINITION. Writes of device registers, field by field, and the events that they and the PCI Express links raise (R18, R38 to R40, R50, R75 to R77, R82, R97 to R100, R112, R118 to R136, R141, R142, R154, R201, R202, R215, R284, R285, R452, R457, R463). -/

namespace Sys2Proof.Machine

/-- A word with its bits in [hi:lo] taken from another. -/
def take (w v : Word) (hi lo : Nat) : Word := setFld w hi lo (fld v hi lo)

/-- Store into a register the fields [hi:lo] of a written value, the others as they stand. -/
def State.putFields (s : State) (o : Nat) (v : Word) (l : List (Nat × Nat)) : State :=
  s.setReg o (l.foldl (fun w f => take w v f.1 f.2) (s.reg o))

/-! ### Rings (R457) -/

/-- Is it a size that a ring may have? -/
def sizeOk (n : Nat) : Bool := n == 0 || decide (6 ≤ n ∧ n ≤ 16)

/-- A write of a ring's base register; one that holds entries leaves the new ring's contents unspecified (R457). (log 40, DEDUCED) -/
def State.ringBase (s : State) (o entry : Nat) (holds : Bool) (v : Word) : State :=
  let size := if sizeOk (fld v 4 0) then fld v 4 0 else fld (s.reg o) 4 0
  let w := wordOf [(12, fld v 55 12), (0, size)]
  let s := s.setReg o w
  if holds then s.openRange (fld w 55 12 * 4096) (entry * 2 ^ size) else s

/-- Does a ring hold entries: is it enabled, its indices apart? -/
def State.ringHolds (s : State) (o : Nat) : Bool :=
  fld (s.reg o) 4 0 != 0 && fld (s.reg (o + 8)) 63 48 != fld (s.reg (o + 8)) 47 32

/-! ### PCI Express control and status (R38 to R40, R463) -/

/-- Set the link's state, rate and width. -/
def State.setLinkState (s : State) (port st speed width : Nat) : State :=
  let o := offPcie port + 8
  s.setReg o (setFld (setFld (setFld (s.reg o) 1 0 st) 15 12 speed) 11 8 width)

/-- Every stream of a port leaves the error state (R38). -/
def State.streamClear (s : State) (port : Nat) : State :=
  let pcie := { s.pcie with errs := s.pcie.errs.filter fun x => x.1.val != port }
  { s with pcie := pcie }

/-- Training of a port starts, under the limits of rate and width that stand now (R463). -/
def State.startTraining (s : State) (port : Nat) : State :=
  let ctl := s.reg (offPcie port)
  let pcie := { s.pcie with limits := (s.pcie.limits.filter fun x => x.1 != port) ++ [(port, fld ctl 27 24, fld ctl 19 16)] }
  ({ s with pcie := pcie }).setLinkState port 1 0 0

/-- The limits of a port's training. -/
def State.trainLimits (s : State) (port : Nat) : Nat × Nat := ((s.pcie.limits.find? fun x => x.1 == port).map fun x => x.2).getD (0, 0)

/-- A write of HUB_PCIE_CTL_n (R39, R463). -/
def State.pcieCtl (s : State) (port : Nat) (v : Word) : State :=
  let o := offPcie port
  let old := s.reg o
  let w := if 1 ≤ fld v 27 24 ∧ fld v 27 24 ≤ 7 then take old v 27 24 else old
  let w := if fld v 19 16 ≤ 4 then take w v 19 16 else w
  let s := s.setReg o (take (take w v 8 4) v 0 0)
  let s := if v.getLsbD 2 then s.streamClear port else s
  if !v.getLsbD 0 then s.setLinkState port 0 0 0
  else if old.getLsbD 0 then s
  else s.startTraining port

/-! ### Roles of banks (R201, R202) -/

/-- Give one bank a role: a change is pending until it takes effect. -/
def State.setBank (s : State) (core bank role : Nat) : State :=
  let o := 0x20000000 + 0x1000 * core
  let eff := s.bankEff core bank
  let key := 32 * core + bank
  if role = 3 then s
  else
    let s := s.setReg o (setFld (s.reg o) (2 * bank + 1) (2 * bank) role)
    let parts := { s.parts with oldRoles := natsPut s.parts.oldRoles key (if role = eff then 0 else eff + 1) }
    { s with parts := parts }

/-- A write of CORE_BANK_ROLE_c. -/
def State.bankRoles (s : State) (core : Nat) (v : Word) : State :=
  (List.range 32).foldl (fun t b => t.setBank core b (fld v (2 * b + 1) (2 * b))) s

/-! ### The other registers -/

/-- Replace a link half. -/
def State.putLink (s : State) (l : Link) : State :=
  { s with links := if s.links.any fun x => x.id == l.id then s.links.map fun x => if x.id = l.id then l else x else s.links ++ [l] }

/-- A write of GRV_VLINK_STATUS_n: its counters only. -/
def State.linkWrite (s : State) (g n : Nat) (v : Word) : State :=
  s.putLink { s.link (.vlink g n) with crcErrors := fld v 63 48, replays := fld v 47 32 }

/-- hot is set at the threshold and cleared 5 °C below it (R215). -/
def heatEval (w : Word) : Word :=
  let th := fld w 23 16
  setFld w 0 0 (if th ≤ fld w 15 8 then 1 else if fld w 15 8 ≤ th - 5 then 0 else fld w 0 0)

/-- A write of a register of a grove's block. -/
def State.groveWrite (s : State) (g k o : Nat) (v : Word) : State :=
  if k < 0x400 then s.linkWrite g (k / 8) v
  else if k < 0x600 then s.putFields o v ([(31, 24)] ++ if 1 ≤ fld v 7 0 ∧ fld v 7 0 ≤ 128 then [(7, 0)] else [])
  else if k < 0x700 then
    if 70 ≤ fld v 23 16 ∧ fld v 23 16 ≤ 100 then s.setReg o (heatEval (take (take (s.reg o) v 31 24) v 23 16)) else s.putFields o v [(31, 24)]
  else if k = 0x700 then s.putFields o v [(63, 40)]
  else s

/-- A write of SAW_REGION_n by the command processors: one that would cross a stack boundary is refused (R97). -/
def State.regionWrite (s : State) (n : Nat) (v : Word) : State :=
  let u := fld v 49 24
  if fld v 23 0 ≠ 0 ∧ (u + fld v 23 0 - 1) / 16777216 ≠ u / 16777216 then s
  else
    let s := s.setReg (offRegion n) (setFld v 55 50 0)
    if fld v 63 62 = 3 then
      let lo := s.regionBase n
      let hi := lo + s.regionBytes n
      let flash := { s.flash with l2 := s.flash.l2.filter fun x => !decide (lo ≤ x.1 ∧ x.1 < hi) }
      ({ s with flash := flash }).l1Drop fun l => decide (lo ≤ l.line ∧ l.line < hi)
    else s

/-- A write of a register of a tenant's supervisor page. (log 49, DEDUCED) -/
def State.tenantWrite (s : State) (t k o : Nat) (v : Word) : State :=
  if k = 0 then s.putFields o v [(56, 12)]
  else if k = 8 then s.sdCommand t v
  else if k < 0x40 then
    if k % 0x10 = 0 then s.ringBase o 8 (s.ringHolds o) v else s.poolWrite (3 * t + (k - 0x18) / 0x10) v
  else if k < 0x60 then
    let pa := fld v 55 12 * 4096
    s.putFields o v ([(11, 4), (0, 0)] ++ if inHbm pa && !s.frameReserved (pa / Config.frameBytes) then [(55, 12)] else [])
  else if k = 0x60 then s.ringBase o 32 (s.ringHolds o) v
  else if k = 0x68 then s.putFields o v [(47, 16), (0, 0)]
  else if k = 0x70 then s.tenantCtl t v
  else s

/-- A write of a register of the hub or of Xoxia. A rec_quota above 512 is stored as written; no more than the 512 records there are can be held. (log 124, DESIGN CHOICE) -/
def State.hubWrite (s : State) (cp : Bool) (o : Nat) (v : Word) : State :=
  if o = 0 then s.ringBase 0 64 (s.ringHolds 0) v
  else if o = 8 then s.putFields o v [(63, 48), (0, 0)]
  else if o = 0x48 then s.putFields o v [(63, 8)]
  else if o = 0x100 then s.pcieCtl 0 v
  else if o = 0x110 then s.pcieCtl 1 v
  else if o = 0x108 ∨ o = 0x118 then s.putFields o v [(39, 32)]
  else if 0x200 ≤ o ∧ o < 0x230 then s.putFields o v [(15, 8)]
  else if 0x6000 ≤ o ∧ o < 0x6200 then s.putFields o v [(63, 54), (47, 0)]
  else if !cp then s
  else if 0x400 ≤ o ∧ o < 0x600 then s.putFields o v [(63, 56)]
  else if 0x1000 ≤ o ∧ o < 0x1800 then s.putFields o v ([(55, 50), (0, 0)] ++ if fld v 44 40 < 24 then [(44, 40)] else [])
  else if 0x1800 ≤ o ∧ o < 0x2000 then s.setReg o v
  else if 0x4000 ≤ o ∧ o < 0x6000 then s.putFields o v [(57, 11)]
  else s

/-- A write of a register of the storage die. -/
def State.storageWrite (s : State) (cp : Bool) (o : Nat) (v : Word) : State :=
  if o < 0x30000020 then s.putFields o v [(47, 32)]
  else if cp && decide (0x30010000 ≤ o ∧ o < 0x30030000) then s.regionWrite ((o - 0x30010000) / 8) v
  else if 0x30050800 ≤ o then s.putFields o v [(15, 8)]
  else s

/-- A whole write of the register at an offset by a party (R136): a party that the register's rule excludes changes nothing. -/
def State.regWrite (s : State) (p : Party) (o : Nat) (v : Word) : State :=
  let cp := p == .cp
  if !regExists o then s
  else if o < 0x1000000 then s.hubWrite cp o v
  else if o < 0x10000000 then s.tenantWrite ((o - 0x1000000) / 0x10000) (o % 0x10000) o v
  else if o < 0x20000000 then s.groveWrite ((o - 0x10000000) / 0x100000) (o % 0x100000) o v
  else if o < 0x30000000 then
    let core := (o - 0x20000000) / 0x1000
    if o % 0x1000 = 0 then (if cp then s.bankRoles core v else s)
    else if o % 0x1000 = 0x10 then s.putFields o v [(63, 8)]
    else s
  else s.storageWrite cp o v

/-- A write of n bytes into the register range: only an aligned one of 8 bytes has an effect (R136). -/
def State.regStore (s : State) (p : Party) (pa : Nat) (d : List Byte) : State :=
  if d.length = 8 ∧ pa % 8 = 0 then s.regWrite p (pa - Config.regBase) (BitVec.ofNat 64 (leNat d)) else s

/-! ### CSRs of the command processors (R117) -/

/-- A firmware hart before it has started (log 1, DESIGN CHOICE). -/
def FwHart.start : FwHart := { x := [], pc := 0, mode := 3, csrs := [], irq := false }
def State.fwHart (s : State) (k : Nat) : FwHart := (mapGet s.cp.harts k).getD FwHart.start
def State.putHart (s : State) (k : Nat) (h : FwHart) : State :=
  let cp := { s.cp with harts := mapPut s.cp.harts k h }
  { s with cp := cp }

/-- The target whose image a hart runs: 1 the command processors, 2 Sawyer. -/
def hartTarget (k : Nat) : Nat := k / 16 + 1

/-- A general register; x0 is 0 and discards what is put there. -/
def FwHart.get (h : FwHart) (r : Nat) : Nat := natsGet h.x r
def FwHart.put (h : FwHart) (r v : Nat) : FwHart := if r = 0 then h else { h with x := natsPut h.x (r % 32) (v % 2 ^ 64) }
def FwHart.x10 (h : FwHart) : Nat := h.get 10
def FwHart.x11 (h : FwHart) : Nat := h.get 11

/-- A CSR of a hart as it was last written. -/
def FwHart.csr (h : FwHart) (n : Nat) : Word := (mapGet h.csrs n).getD 0
def FwHart.setCsr (h : FwHart) (n : Nat) (v : Word) : FwHart := { h with csrs := mapPut h.csrs n v }

/-- A hart's checkpoint area (R117). -/
def FwHart.chkpt (h : FwHart) : Nat := fld (h.csr 0x7C0) 55 12 * 4096

/-- The read-write CSRs of a hart with machine, supervisor and user modes and 16 PMP entries, but for the vendor's and the counters (R117). (log 104, PRESUMED) -/
def stdCsrs : List Nat :=
  [0x100, 0x104, 0x105, 0x106, 0x10A, 0x140, 0x141, 0x142, 0x143, 0x144, 0x180, 0x300, 0x301, 0x302, 0x303, 0x304, 0x305, 0x306, 0x30A, 0x320, 0x340, 0x341, 0x342, 0x343, 0x344,
   0x3A0, 0x3A2] ++ (List.range 8).map (0x323 + ·) ++ (List.range 16).map (0x3B0 + ·)

/-- The counters of a hart that count: mcycle, minstret, mhpmcounter3 to mhpmcounter10; those of RISC-V beyond them, with their event selectors, are 0 (R117). (log 104, PRESUMED) -/
def countCsrs : List Nat := [0xB00, 0xB02] ++ (List.range 8).map (0xB03 + ·)
def zeroCsr (n : Nat) : Bool := decide ((0xB0B ≤ n ∧ n < 0xB20) ∨ (0x32B ≤ n ∧ n < 0x340) ∨ (0xC0B ≤ n ∧ n < 0xC20))

/-- Core cycles in cycles of the command processors' clock, 1.2 GHz (R1). -/
def cpCycles (clock : Nat) : Nat := clock * 12 / 19

/-- An exception of a hart, as the RISC-V privileged architecture takes it: in machine mode, or in supervisor mode where medeleg hands it on (R117). (log 104, PRESUMED) -/
def FwHart.trap (h : FwHart) (cause tval : Nat) : FwHart :=
  let w := fun (n : Nat) => BitVec.ofNat 64 n
  let st := h.csr 0x300
  let enter := fun (epc tvec : Nat) (v : Word) => { (((h.setCsr epc (w h.pc)).setCsr (epc + 1) (w cause)).setCsr (epc + 2) (w tval)).setCsr 0x300 v with pc := fld (h.csr tvec) 63 2 * 4 }
  if h.mode ≠ 3 ∧ (h.csr 0x302).getLsbD cause then { enter 0x141 0x105 (setFld (setFld (setFld st 5 5 (fld st 1 1)) 1 1 0) 8 8 h.mode) with mode := 1 }
  else { enter 0x341 0x305 (setFld (setFld (setFld st 7 7 (fld st 3 3)) 3 3 0) 12 11 h.mode) with mode := 3 }

/-- An illegal-instruction exception (R117). -/
def FwHart.illegal (h : FwHart) : FwHart := h.trap 2 0

/-- A return from an exception. (log 104, PRESUMED) -/
def FwHart.ret (h : FwHart) (machine : Bool) : FwHart :=
  let st := h.csr 0x300
  if machine then
    if h.mode ≠ 3 then h.illegal
    else { h.setCsr 0x300 (setFld (setFld (setFld st 3 3 (fld st 7 7)) 7 7 1) 12 11 0) with mode := fld st 12 11, pc := (h.csr 0x341).toNat }
  else if h.mode = 0 then h.illegal
  else { h.setCsr 0x300 (setFld (setFld (setFld st 1 1 (fld st 5 5)) 5 5 1) 8 8 0) with mode := fld st 8 8, pc := (h.csr 0x141).toNat }

/-- The PMP entry's configuration byte, and the pmpaddr of an entry (R117). -/
def FwHart.pmpCfg (h : FwHart) (i : Nat) : Nat := fld (h.csr (0x3A0 + 2 * (i / 8))) (8 * (i % 8) + 7) (8 * (i % 8))
def FwHart.pmpAddr (h : FwHart) (i : Nat) : Nat := (h.csr (0x3B0 + i)).toNat % 2 ^ 54

/-- The low ones of a number. -/
def lowOnes : Nat → Nat → Nat
  | 0, _ => 0
  | fuel + 1, a => if a % 2 = 1 then lowOnes fuel (a / 2) + 1 else 0

/-- The bytes that a PMP entry covers, from the first to before the last: by its predecessor's address, four, or a power of two. (log 104, PRESUMED) -/
def FwHart.pmpRange (h : FwHart) (i : Nat) : Option (Nat × Nat) :=
  let a := h.pmpAddr i
  match h.pmpCfg i / 8 % 4 with
  | 0 => none
  | 1 => some (if i = 0 then 0 else 4 * h.pmpAddr (i - 1), 4 * a)
  | 2 => some (4 * a, 4 * a + 4)
  | _ => let k := lowOnes 54 a; some (4 * (a - (2 ^ k - 1)), 4 * (a - (2 ^ k - 1)) + 2 ^ (k + 3))

/-- Does the PMP let an access through (R117, R136): the first entry that meets it decides; with none, machine mode may. (log 104, PRESUMED) -/
def FwHart.pmpOk (h : FwHart) (mode : Nat) (acc : Acc) (pa n : Nat) : Bool :=
  match (List.range 16).findSome? fun i => (h.pmpRange i).bind fun r => if pa < r.2 ∧ r.1 < pa + n then some (i, r) else none with
  | none => mode == 3
  | some (i, r) =>
    let c := h.pmpCfg i
    decide (r.1 ≤ pa ∧ pa + n ≤ r.2) && ((mode == 3 && c < 128) || c.testBit (match acc with | .load => 0 | .fetch => 2 | _ => 1))

/-- May a PMP register still be written: its entries, and an entry above that takes its address as a bound, not locked? (log 104, PRESUMED) -/
def FwHart.pmpFree (h : FwHart) (i : Nat) : Bool := decide (h.pmpCfg i < 128) && !(decide (i < 15 ∧ 128 ≤ h.pmpCfg (i + 1)) && h.pmpCfg (i + 1) / 8 % 4 == 1)

/-- A write of a PMP register: a locked entry keeps its byte, or its address. -/
def FwHart.pmpWrite (h : FwHart) (n : Nat) (v : Word) : FwHart :=
  if 0x3B0 ≤ n then (if h.pmpFree (n - 0x3B0) then h.setCsr n v else h)
  else h.setCsr n ((List.range 8).foldl (fun w i => if h.pmpCfg (8 * ((n - 0x3A0) / 2) + i) < 128 then setFld w (8 * i + 7) (8 * i) (fld v (8 * i + 7) (8 * i)) else w) (h.csr n))

/-- Has a hart a CSR of a number: RISC-V's, the vendor's (R117)? -/
def cpHasCsr (n : Nat) : Bool :=
  [0x7C0, 0x7C1, 0x7C2, 0xFC0, 0xFC1, 0xFC2, 0xF11, 0xF12, 0xF13, 0xF14, 0xF15, 0xC00].contains n || stdCsrs.contains n || countCsrs.contains n || zeroCsr n || decide (0xC02 ≤ n ∧ n < 0xC0B)

/-- Does an access to a CSR raise an illegal-instruction exception: no such CSR, a mode too low, a write of one of RISC-V's that are read-only (R117)? -/
def FwHart.csrBad (h : FwHart) (n : Nat) (write : Bool) : Bool :=
  !cpHasCsr n || decide (h.mode < n / 256 % 4) || (write && n / 1024 == 3 && !([0xFC0, 0xFC1, 0xFC2].contains n))

/-- A counter that mcountinhibit does not stop, as it stands: mcycle counts cycles, the others what is not modelled. (log 104, PRESUMED) -/
def State.cpCount (s : State) (k n : Nat) : Word :=
  let h := s.fwHart k
  if (h.csr 0x320).getLsbD (n - 0xB00) then h.csr n
  else if n = 0xB00 then h.csr n + BitVec.ofNat 64 (cpCycles s.clock)
  else Config.freeWord s.free (32 * k + n % 32)

/-- What a counter keeps as it is to stand at a value: mcycle its offset while it counts. -/
def State.countAs (s : State) (inhibit : Word) (n : Nat) (v : Word) : Word :=
  if n = 0xB00 && !inhibit.getLsbD 0 then v - BitVec.ofNat 64 (cpCycles s.clock) else v

/-- A hart writes a CSR (R7, R117): CP_WDOG and CP_QUIESCE have rows of their own; a write of a read-only vendor CSR is ignored, any other that may not be is an illegal instruction. -/
def State.csrWrite (s : State) (k n : Nat) (v : Word) : State :=
  let h := s.fwHart k
  if 32 ≤ k then s
  else if h.csrBad n true then s.putHart k h.illegal
  else if n = 0x7C1 ∨ n = 0x7C2 ∨ zeroCsr n ∨ n / 1024 = 3 then s
  else if n = 0x7C0 then s.putHart k (h.setCsr n (wordOf [(12, fld v 55 12)]))
  else if countCsrs.contains n then s.putHart k (h.setCsr n (s.countAs (h.csr 0x320) n v))
  else if n = 0x320 then
    let t := s.putHart k ((countCsrs.foldl (fun (h' : FwHart) c => h'.setCsr c (s.countAs v c (s.cpCount k c))) h).setCsr n v)
    { t with free := t.free + 1 }
  else if 0x3A0 ≤ n ∧ n < 0x3C0 then s.putHart k (h.pmpWrite n v)
  else if n = 0x100 then s.putHart k (h.setCsr 0x300 ((v &&& sstatusBits) ||| (h.csr 0x300 &&& ~~~sstatusBits)))
  else if n = 0x104 ∨ n = 0x144 then s.putHart k (h.setCsr (n + 0x200) ((v &&& h.csr 0x303) ||| (h.csr (n + 0x200) &&& ~~~h.csr 0x303)))
  else s.putHart k (h.setCsr n v)

/-! ### Events -/

/-- R202: the command processors give banks of a core new roles. -/
def execBankRoleWrite (core : Nat) (v : Word) (s : State) : Res :=
  if core < Config.cores then .next (s.bankRoles core v) else .next s

/-- May a bank with a pending change leave its old role now (R202)? One leaves scratchpad once no crew holds a granule in it. (log 56, DEDUCED) -/
def State.bankFree (s : State) (core bank : Nat) : Bool :=
  match s.bankEff core bank with
  | 1 => !(s.residents core).any fun c => c.grans.any fun x => x / 16 == bank
  | 2 => !s.tileRuns core
  | _ => true

/-- R202: a pending change takes effect. A bank that leaves the cache role has its lines invalidated; the lines that stand as one enters it go too, for they lie in the sets of the old cache (R205). (log 121, DEDUCED) -/
def execBankRoleEffect (core : Nat) (bank : Fin 32) (s : State) : Res :=
  if !s.bankPending core bank.val || !s.bankFree core bank.val then .next s
  else
    let old := s.bankEff core bank.val
    let parts := { s.parts with oldRoles := natsPut s.parts.oldRoles (32 * core + bank.val) 0 }
    let t : State := { s with parts := parts }
    .next (if old = 0 ∨ t.bankRole core bank.val = 0 then t.l1DropCore core else t)

/-- R463: a write of link_enable starts training, or holds the link down. -/
def execPcieLinkEnable (port : Fin 2) (v : Word) (s : State) : Res := .next (s.pcieCtl port.val v)

/-- R38: a write of stream_clear takes every stream of the port out of the error state. -/
def execPcieStreamClear (port : Fin 2) (v : Word) (s : State) : Res := .next (s.pcieCtl port.val v)

/-- R463: training, or a recovery, ends with the link up, at a rate and width within the limits that the training started under. (log 71, DEDUCED) -/
def execPcieTrainingDone (port : Fin 2) (speed width : Nat) (s : State) : Res :=
  let lim := s.trainLimits port.val
  let st := s.linkState port.val
  if !(st == 1 || st == 3) || speed == 0 || decide (lim.1 < speed) || decide (lim.2 < width) then .next s
  else .next (s.setLinkState port.val 2 speed width)

/-- R40, R463: a trained link loses its partner or channel: to recovery with its rate and width standing, or down; with link_enable 1 it then trains anew. (log 71, DEDUCED) -/
def execPcieLinkLoss (port : Fin 2) (recovery : Bool) (s : State) : Res :=
  let st := fld (s.reg (offPcie port.val + 8))
  if s.linkState port.val < 2 then .next s
  else if recovery then .next (s.setLinkState port.val 3 (st 15 12) (st 11 8))
  else .next (s.startTraining port.val)

end Sys2Proof.Machine
end

