-- ==== Sys2Proof/Machine/Pipeline.lean ====
section
/-! DEFINITION. Store queues, writes at their home slices, acknowledgements, strikes, demotion and reclaiming (R32, R156, R173, R184, R206, R207, R223 to R230, R275 to R277, R374, R379, R421 to R427, R438, R460). -/

namespace Sys2Proof.Machine

/-- R156: a demoted bundle is restored 8,192 cycles after its demotion. -/
def execDemotionTimeout (k : BKey) (s : State) : Res :=
  match s.bundle? k with
  | none => .next s
  | some b => match b.spin.demoted with
    | none => .next s
    | some t => .next ((s.upTo (t + 8192)).onBundle k fun b => { b with spin := { b.spin with demoted := none, takings := 0 } })

/-! ### Accesses to the local store and the vault (R207, R223) -/

/-- Who accesses for a bundle: its crew's window, and the vault view of its core's grove. -/
def bundleEng (g : Grid) (c : Crew) : Eng := engOf g c

/-- A bundle writes bytes of a window or a vault view, in one write. -/
def State.localWrites (s : State) (k : BKey) (e : Eng) (sp : Space) (parts : List (Nat × List Byte)) : State := s.putLocal (some k) e sp parts false
def State.localWrite (s : State) (k : BKey) (e : Eng) (sp : Space) (a : Nat) (d : List Byte) : State := s.localWrites k e sp [(a, d)]

/-- Read bytes of a window or a vault view. -/
def State.localRead (s : State) (e : Eng) (sp : Space) (a n : Nat) : Nat :=
  match s.engRead e sp a n with
  | .ok (_, d, _) => leNat d
  | .error _ => 0

/-- The lanes of an atomic on the local store or the vault take effect in increasing number (R374, R379). -/
def State.localAtom (s : State) (k : BKey) (e : Eng) (op : AtomOp) (ty : Ty) (lanes : List AtomLane) : State × List (Nat × Word × Nat) :=
  lanes.foldl (fun r l =>
    let n := ty.bytes
    let x := r.1.localRead e l.acc.space l.acc.addr n
    let y := atomValue op ty x l.b.toNat l.cmp.toNat
    let t := if op = .cas ∧ x ≠ l.cmp.toNat then r.1 else r.1.localWrite k e l.acc.space l.acc.addr (leBytes n y.1)
    (t, r.2 ++ [(l.acc.lane, BitVec.ofNat 64 x, y.2)])) (s, [])

/-! ### Leaving the store queue (R223, R276) -/

/-- What the head of a store queue comes to as it leaves: it is gone, or it stays. -/
inductive Leave where
  | gone (s : State)
  | stays (s : State)

/-- The flights of some stores to memory: one for each line, in the order of their first lane (R31); a block store is one transaction of 64 bytes where it writes just these (R122). -/
def storeFlights (k : BKey) (core : Nat) (block : Bool) (parts : List (LaneAcc × List Byte)) : List Flight :=
  let bytes := parts.flatMap fun p => partsFrom p.1.addr p.2
  (linesOf (bytes.map fun x => x.1)).map fun l =>
    ⟨some core, .bundle k, l, .bytes (block && wholeBlock (bytes.map fun x => x.1)) (bytes.filter fun x => lineOf x.1 == l), false⟩

/-- The flights of an atomic: one for each line. -/
def atomFlights (k : BKey) (core : Nat) (pid : Option Nat) (op : AtomOp) (ty : Ty) (lanes : List AtomLane) : List Flight :=
  (linesOf (lanes.map fun l => l.acc.addr)).map fun l =>
    ⟨some core, .bundle k, l, .atom pid op ty (lanes.filter fun x => lineOf x.acc.addr == l), false⟩

/-- Send writes into the fabric. -/
def State.send (s : State) (fl : List Flight) : State := { s with inflight := s.inflight ++ fl }

/-- Some lines leave a core's L1: an atomic goes past it (R205). -/
def State.l1Out (s : State) (core : Nat) (ls : List Nat) : State := s.l1Drop fun x => x.core == core && ls.contains x.line

/-- The number under which a line of a grid's vault view flies: no physical line has it. -/
def vaultLine (grid a : Nat) : Nat := 2 ^ 64 + 2 ^ 32 * grid + lineOf a

/-- The flights of a store to the vault: one for each line, as its lanes write it (R209, R211). -/
def vaultFlights (k : BKey) (core : Nat) (parts : List (Nat × List Byte)) : List Flight :=
  (linesOf (parts.map fun p => p.1)).map fun l =>
    ⟨some core, .bundle k, vaultLine k.grid l, .vlt k.ck (groveOf core) (parts.filter fun p => lineOf p.1 == l), false⟩

/-- A store to memory leaves: its lanes to memory as bytes on their way to the home slices, its lanes to I/O space in order among themselves and after the bundle's earlier accesses (R36, R223, R229). -/
def State.leaveMem (s : State) (b : Bundle) (core tenant time : Nat) (block : Bool) (parts : List (LaneAcc × List Byte)) : Leave :=
  let io := parts.filter fun x => x.1.pbmt == 2
  let mem := parts.filter fun x => x.1.pbmt != 2
  if !io.isEmpty && (s.flies b.key || b.pend.any fun q => decide (q.time < time) && q.lanes.any fun a => a.pbmt == 2) then .stays s
  else
    let bytes := mem.flatMap fun x => if x.1.pbmt = 0 then partsFrom x.1.addr x.2 else []
    let out := if io.isEmpty then [] else
      [⟨some core, .bundle b.key, lineOf ((io.head?.map fun x => x.1.addr).getD 0), .io tenant (io.map fun x => (x.1.addr, x.2)), false⟩]
    .gone ((s.l1Store core bytes).send (storeFlights b.key core block mem ++ out))

/-- A store leaves (R223): to the window it writes there, to the vault and to memory it sets out. -/
def State.leaveStore (s : State) (b : Bundle) (c : Crew) (g : Grid) (time : Nat) (block : Bool) (parts : List (LaneAcc × List Byte)) : Leave :=
  match parts with
  | [] => .gone s
  | p :: _ =>
    match p.1.space with
    | .mem => s.leaveMem b c.core g.tenant time block parts
    | .vlt => .gone (s.send (vaultFlights b.key c.core (parts.map fun x => (x.1.addr, x.2))))
    | .ls => .gone (s.localWrites b.key (bundleEng g c) .ls (parts.map fun x => (x.1.addr, x.2)))

/-- An atomic leaves: to its home slices, or it is done at the bank or the vault (R207). -/
def State.leaveAtom (s : State) (b : Bundle) (c : Crew) (g : Grid) (pid : Option Nat) (op : AtomOp) (ty : Ty) (lanes : List AtomLane) : State :=
  match lanes with
  | [] => s
  | l :: _ =>
    match l.acc.space with
    | .mem => (s.l1Out c.core (linesOf (lanes.map fun x => x.acc.addr))).send (atomFlights b.key c.core pid op ty lanes)
    | _ =>
      match lanes.findSome? fun x => s.lanePoison c g x.acc, pid with
      | some (src, va), some _ => s.consume b src va
      | _, _ =>
        let r := s.localAtom b.key (bundleEng g c) op ty lanes
        match pid with
        | none => r.1
        | some id => (r.1.onPend b.key id fun p => { p with got := p.got ++ r.2 }).settle b.key id

/-- An arming takes effect at its home slice (R158, R159, R426). (log 39, DEDUCED) -/
def State.arm (s : State) (b : Bundle) (g : Grid) (pid : Nat) (acc : LaneAcc) (kind thr : Nat) (arg value : Word) (r : List Word) : State :=
  let fx := match kind with | 0 => ArmedFx.launch r | 1 => .arrive arg.toNat | _ => .store arg.toNat value
  let a : Armed := ⟨acc.addr, acc.va, thr, fx, g.tenant, g.ctx, g.tag, false⟩
  let here := (s.armed.filter fun x => s.homeOf x.pa == s.homeOf acc.addr).length
  if 256 ≤ here then s.token b.key pid 1
  else if thr ≤ (s.rd64 acc.addr).toNat then (State.fire (s.armed.length + 2) [a] s).token b.key pid 2
  else ({ s with armed := s.armed ++ [a] }).token b.key pid 0

/-- A ring operation writes its stage word (R173): a stage whose state is unspecified stays so. -/
def State.stageWrite (s : State) (b : Bundle) (c : Crew) (g : Grid) (a v : Nat) : State :=
  let t := (s.localWrite b.key (bundleEng g c) .ls a (leBytes 8 v)).onCrew c.key fun x => { x with rings := c.rings }
  if c.rings.any fun r => r.2.spoilt then { t with free := t.free + 1 } else t

/-- The stage words of a new ring are written as 0 (R423). -/
def State.leaveInit (s : State) (b : Bundle) (c : Crew) (g : Grid) (ring : Nat) (parts : List (LaneAcc × List Byte)) : State :=
  (s.localWrites b.key (bundleEng g c) .ls (parts.map fun x => (x.1.addr, x.2))).onCrew c.key fun x =>
    { x with rings := c.rings.map fun r => if r.1 = ring then (r.1, { r.2 with spoilt := false }) else r }

/-- A post at its stage word (R173, R424, R460). -/
def State.leavePost (s : State) (b : Bundle) (c : Crew) (g : Grid) (pid ring st : Nat) : Leave :=
  match mapGet c.rings ring with
  | none => .gone s
  | some r =>
    let w := c.stageBits s.free r st
    if w / 2 % 2 = 1 then
      if c.abandoned then .gone (s.token b.key pid 1) else .stays s
    else .gone ((s.stageWrite b c g (r.base + 8 * st) (2 + (1 - w % 2))).token b.key pid 0)

/-- A free at its stage word; of an empty stage it is ignored. -/
def State.leaveFree (s : State) (b : Bundle) (c : Crew) (g : Grid) (ring st : Nat) : State :=
  match mapGet c.rings ring with
  | none => s
  | some r =>
    let w := c.stageBits s.free r st
    if w / 2 % 2 = 0 then s else s.stageWrite b c g (r.base + 8 * st) (w % 2)

/-- fmap's walk, frame and compare-and-swap (R83, R438). -/
def State.leaveFmap (s : State) (b : Bundle) (g : Grid) (pid z : Nat) (va attr : Word) : Leave :=
  match s.fmapPlan g.ctx z va attr with
  | .error k => .gone (s.token b.key pid (BitVec.ofNat 64 k))
  | .ok pte =>
    match s.takeFrame g.tenant z with
    | (t, none) => .stays ((t.park b.key (3 * g.tenant + z)).escalate g.tenant g.ctx 2 g.tag z va)
    | (t, some f) =>
      let l := t.rd64 pte
      let same := z != 1 || (List.range 16).all fun i => t.rd64 (pte / 128 * 128 + 8 * i) == l
      if !same then .gone ((t.keepFrame g.tenant z f).token b.key pid 4)
      else
        let t := t.putLeaf z pte (newLeaf z f (fld attr 7 0 ||| 0x41))
        .gone (t.token b.key pid (wordOf [(12, f.2)]))

/-- A child launch (R137 to R139, R427). -/
def State.leaveLaunch (s : State) (b : Bundle) (g : Grid) (pid : Nat) (r : List Word) : Leave :=
  if s.tableFull then .stays s
  else
    let child := { gridOf r with tenant := g.tenant, ctx := g.ctx, prio := g.prio, depth := g.depth + 1, parent := some b.key }
    match s.launchReason r child false with
    | some k => .gone (s.token b.key pid (BitVec.ofNat 64 k))
    | none =>
      let t := s.gridEnter child
      .gone ((t.1.onBundle b.key fun x => { x with children := x.children ++ [t.2] }).token b.key pid (wordOf [(32, t.2)]))

/-- Must an effect wait at the head of its queue? A write waits until the earlier loads and atomics of its bundle are performed, a deferred one counting as performed,
and its earlier read-modify-writes have reached their home slices, so that the bundles of the core see them in program order (R211, R224); so does an arrival at a named barrier, which is a release, and it
waits for the bundle's writes to the vault too, as an atomic there does (R211, R233). (log 110, DEDUCED) -/
def State.tooEarly (s : State) (b : Bundle) (e : SqEntry) : Bool :=
  let arrives := match e.op with | .barArrive _ _ _ => true | _ => false
  let atVault := match e.op with | .atom _ _ _ lanes => lanes.any fun l => l.acc.space == .vlt | _ => false
  (e.op.writes || arrives) &&
    ((b.pend.any fun p => decide (p.time < e.time) && p.unperformed) || (s.inflight.any fun f => f.owner == .bundle b.key && f.op.rmw)
      || ((arrives || atVault) && s.vaultFlies b.key))

/-- A path that waits in bar.sync for an arrival has its ticket, in the checkpoints too. -/
def Path.ticket (p : Path) (pid g st : Nat) : Path :=
  match p.held with
  | some (.barSync b k none) => if k = pid then { p with held := some (.barSync b k (some (g, st))) } else p
  | _ => p
def Arch.ticket (a : Arch) (pid g st : Nat) : Arch :=
  let f := fun (p : Path) => p.ticket pid g st
  { a with slot0 := a.slot0.map f, slot1 := a.slot1.map f, stack := a.stack.map f }
def Bundle.ticket (b : Bundle) (pid g st : Nat) : Bundle :=
  { b with arch := b.arch.ticket pid g st, window := b.window.map fun x => (x.1, x.2.ticket pid g st), stopped := [] }

/-- An arrival at a named barrier takes effect (R417): its ticket goes to the register or the path that waits for it. -/
def State.leaveArrive (s : State) (b : Bundle) (c : Crew) (pid i n : Nat) : State :=
  if c.abandoned then s.token b.key pid 1
  else
    let r := barArrived (s.liveBundles c.key) ((c.bars[i]?).getD ⟨0, 0, 0⟩) n
    let g := ((c.bars[i]?).getD ⟨0, 0, 0⟩).gen
    ((s.onCrew c.key fun k => { k with bars := k.bars.set i r.1 }).token b.key pid (wordOf [(32, g), (0, r.2)])).onBundle b.key fun x => x.ticket pid g r.2

/-- The counters of a histogram are stored and, where asked, cleared, in one step (R258, R437). -/
def State.leaveHist (s : State) (b : Bundle) (c : Crew) (g : Grid) (e : SqEntry) (acc : LaneAcc) (n : Nat) (clear : Bool) : Leave :=
  let h := s.tensor g.tenant n
  match s.leaveStore b c g e.time false [(acc, (List.range 32).flatMap fun i => leBytes 4 (natsGet h.hist i))] with
  | .stays t => .stays t
  | .gone t => .gone (if clear then t.setTensor g.tenant n { h with hist := [] } else t)

/-- What an entry does as it leaves. -/
def State.leaves (s : State) (b : Bundle) (c : Crew) (g : Grid) (e : SqEntry) : Leave :=
  match e.op with
  | .store block parts => s.leaveStore b c g e.time block parts
  | .atom pid op ty lanes => .gone (s.leaveAtom b c g pid op ty lanes)
  | .aboInit a d => .gone ((s.l1Out c.core [lineOf a.addr]).send [⟨some c.core, .bundle b.key, lineOf a.addr, .aboInit a.addr d, false⟩])
  | .aboArrive pid a n => .gone ((s.l1Out c.core [lineOf a.addr]).send [⟨some c.core, .bundle b.key, lineOf a.addr, .aboArrive pid a.va a.addr n, false⟩])
  | .evAdd pid a v => .gone ((s.l1Out c.core [lineOf a.addr]).send [⟨some c.core, .bundle b.key, lineOf a.addr, .evAdd pid a.va a.addr v, false⟩])
  | .evArm pid a kind thr arg value r =>
    if s.inflight.any fun f => f.core == some c.core && f.line == lineOf a.addr then .stays s
    else .gone ((s.onBundle b.key fun x => { x with ackcnt := x.ackcnt - e.lines }).arm b g pid a kind thr.toNat arg value r)
  | .ringInit r parts => .gone (s.leaveInit b c g r parts)
  | .ringPost pid r st => s.leavePost b c g pid r st
  | .ringFree r st => .gone (s.leaveFree b c g r st)
  | .fmap pid z va attr => s.leaveFmap b g pid z va attr
  | .launch pid r => s.leaveLaunch b g pid r
  | .send pid prof buf len dest => .gone (s.sendStart b c g e.time pid prof buf len dest)
  | .narm pid desc rcd => let r := s.narmArm g e.time desc rcd; .gone (r.1.token b.key pid r.2)
  | .narmCancel pid h => let r := s.narmDrop g.tenant h; .gone (r.1.token b.key pid r.2)
  | .stream pid op h sp src len => .gone (s.streamRequest ⟨b.key, pid, g.tenant, op, h, sp, src, len, e.time⟩)
  | .coll md sel crd obj t => .gone (s.collIssue b g md sel crd obj t)
  | .barArrive pid i n => .gone (s.leaveArrive b c pid i n)
  | .exit => .gone (s.bundleExit b.key)
  | .hist a n clear => s.leaveHist b c g e a n clear

/-- R223: the head of a bundle's store queue leaves once it is past the strike horizon. (log 27, DEDUCED) (log 39, DEDUCED) -/
def execStoreQueueLeave (k : BKey) (s : State) : Res :=
  match s.bundle? k, s.crew? k.ck, s.grid? k.grid with
  | some b, some c, some g =>
    if b.parked.isSome then .next s
    else match b.sq with
    | [] => .next s
    | e :: _ =>
      if s.tooEarly b e then .next s
      else
      let t := s.upTo (e.time + Config.horizon)
      (match t.leaves b c g e with
        | .stays u => .next u
        | .gone u => .next (u.onBundle k fun x => { x with sq := x.sq.tail }))
  | _, _, _ => .next s

/-! ### At the home slice (R206, R207) -/

/-- Does an earlier write in flight hold this one back: one of the same core to its line, or one of its bundle to I/O space? Writes of the hub and of host-die harts come from one
source, so that those of two ordering streams to one line meet it in the order they were forwarded (R30, R38). (log 82, DESIGN CHOICE) -/
def heldBack (earlier : List Flight) (f : Flight) : Bool :=
  earlier.any fun x => x.core == f.core && (x.line == f.line || (x.owner == f.owner && match x.op with | .io _ _ => true | _ => false))

/-- The bundle that a write is of. -/
def Owner.bundle? : Owner → Option BKey
  | .bundle b => some b
  | _ => Option.none

/-- The lanes of an atomic at their home slice (R374, R379): each write is visible before the next lane's. -/
def State.homeAtom (s : State) (writer : Option BKey) (op : AtomOp) (ty : Ty) (lanes : List AtomLane) : State × List (Nat × Word × Nat) :=
  lanes.foldl (fun r l =>
    let n := ty.bytes
    let x := r.1.rdMem l.acc.addr n
    let y := atomValue op ty x l.b.toNat l.cmp.toNat
    let t := if op = .cas ∧ x ≠ l.cmp.toNat then r.1 else r.1.shown writer false (partsFrom l.acc.addr (leBytes n y.1)) false
    (t, r.2 ++ [(l.acc.lane, BitVec.ofNat 64 x, y.2)])) (s, [])

/-- One access to I/O space (R36, R136). -/
def State.ioAccess (s : State) (tenant : Nat) (a : Nat × List Byte) : State :=
  if inRegs a.1 then s.regStore (.supervisor tenant) a.1 a.2 else s.postPcie a.1 a.2

/-- A write takes effect where it goes; its acknowledgements. One delivered poisoned poisons its line (R33). (log 83, DEDUCED) -/
def State.arrives (s : State) (f : Flight) : State × List Flight :=
  let ack := { f with op := .bytes false [] }
  let hurt := s.poison.contains f.line || f.bad
  let mark := fun (t : State) => if f.bad then t.poisonFrom f.line 7 else t
  match f.op with
  | .bytes block parts => (mark (s.visible f.owner.bundle? block parts f.bad), [ack])
  | .atom pid op ty lanes =>
    let r := s.homeAtom f.owner.bundle? op ty lanes
    (match pid with
      | none => (mark r.1, [ack])
      | some id => (mark r.1, [{ f with op := .resp id ((lanes.head?.map fun l => l.acc.va).getD 0) r.2, bad := hurt }]))
  | .aboInit pa d => (mark ((s.shown f.owner.bundle? false (partsFrom pa d) f.bad).newObj pa), [ack])
  | .aboArrive pid va pa n =>
    let old := s.objWord pa 0
    let t := s.aboArriveAt f.owner.bundle? pa n 0 0
    (mark t, [{ f with op := .resp pid va [(0, wordOf [(32, fld old 63 32)], 0)], bad := hurt }])
  | .evAdd pid va pa v =>
    let old := s.rd64 pa
    (mark (s.counterAdd f.owner.bundle? pa v), [{ f with op := .resp pid va [(0, old, 0)], bad := hurt }])
  | .io tenant accs =>
    (mark (accs.foldl (fun t a => t.ioAccess tenant a) s), (linesOf (accs.map fun a => a.1)).map fun l => { ack with line := l })
  | .vlt k grove parts => (s.putLocal f.owner.bundle? ⟨grove, 0, 0, 0, k, 0⟩ .vlt parts f.bad, [])
  | .resp _ _ _ => (s, [f])

/-- R206: write i of those in flight becomes visible at its home slice, unless its row is being remapped (R21); its acknowledgement sets out. -/
def execHomeSliceWrite (i : Nat) (s : State) : Res :=
  match s.inflight[i]? with
  | none => .next s
  | some f =>
    if heldBack (s.inflight.take i) f || s.rowBusy f.line then .next s
    else
      let r := ({ s with inflight := s.inflight.eraseIdx i }).arrives f
      .next { r.1 with acks := r.1.acks ++ r.2 }

/-- A response fills the result it is for (R187); poison is consumed (R279). -/
def State.respArrives (s : State) (k : BKey) (pid va : Nat) (got : List (Nat × Word × Nat)) (line : Nat) (bad : Bool) : State :=
  match s.bundle? k with
  | none => s
  | some b =>
    match b.pend.find? fun p => p.id == pid with
    | none => s
    | some p =>
      if bad then s.consume b (if s.poison.contains line then s.poisonSource line else 7) (lineOf va)
      else if p.bad.isSome then s.consume b ((p.bad.map fun x => x.1).getD 0) ((p.bad.map fun x => x.2).getD 0)
      else match p.kind with
        | .token => s.token k pid ((got.head?.map fun x => x.2.1).getD 0)
        | _ => (s.onPend k pid fun p => { p with got := p.got ++ got }).settle k pid

/-- The old value of an AMO reaches its host-die hart's register; one of 4 bytes is extended by its sign (R115). -/
def State.hostOld (s : State) (hart tag old : Nat) (bad : Bool) : State :=
  s.onHost hart fun h => { h.put .x (tagRd tag) (if tagWord tag && decide (2 ^ 31 ≤ old % 2 ^ 32) then old % 2 ^ 32 + (2 ^ 64 - 2 ^ 32) else old) with bad := bad }

/-- R32: acknowledgement i comes back and decrements its bundle's counter; a response brings its values with it. (log 38, DEDUCED) -/
def execAcknowledgement (i : Nat) (s : State) : Res :=
  match s.acks[i]? with
  | none => .next s
  | some f =>
    let s0 := s
    let s := { s with acks := s.acks.eraseIdx i }
    match f.owner with
    | .stream _ => .next s0
    | .bundle k =>
      let s := s.onBundle k fun b => { b with ackcnt := b.ackcnt - 1 }
      (match f.op with
        | .resp pid va got => .next (s.respArrives k pid va got f.line f.bad)
        | _ => .next s)
    | .post h => (match f.op with
      | .resp pid _ got => .next (s.hostOld h pid ((got.head?.map fun x => x.2.1.toNat).getD 0) f.bad)
      | _ => .next s)
    | .none => .next s

/-! ### Strikes (R275 to R277) -/

/-- The oldest checkpoint that a report undoes: what stood before the oldest instruction issued after the horizon. -/
def Bundle.undone (b : Bundle) (now : Nat) : Option Arch :=
  ((b.window.filter fun x => decide (now < x.1 + Config.horizon)).getLast?).map fun x => x.2

/-- A bundle rolls back (R277): its architectural part, its results and store-queue entries from that instruction on. (log 35, DEDUCED) -/
def Bundle.rollback (b : Bundle) (now : Nat) : Bundle :=
  match b.undone now with
  | none => b
  | some a =>
    let late := fun (t : Nat) => decide (now < t + Config.horizon)
    let gone := b.sq.filter fun e => late e.time
    { b with
      arch := a
      window := []
      notes := []
      results := b.results.filter fun e => !late e.1
      hold := []
      stopped := []
      sq := b.sq.filter fun e => !late e.time
      pend := b.pend.filter fun p => !late p.time
      ackcnt := b.ackcnt - (gone.map fun e => e.lines).sum }

/-- The state of a tile before the blocks that a report undoes: the working copy becomes the committed one, row progress rewinds. -/
def Tile.rollback (t : Tile) (now : Nat) : Tile :=
  let late := fun (x : Nat) => decide (now < x + Config.horizon)
  let queue := t.queue.filter fun m => !late m.time
  let t := match t.undo.find? fun u => late u.time with
    | none => t
    | some u =>
      { t with ents := u.ents, fid := u.fid, flags := u.flags, poisoned := u.bad, owed := u.owed, undo := t.undo.filter (fun x => !late x.time),
               busy := t.busy.map fun (m : TileCmd) => if m.op.prod.isSome then { m with block := u.block, row := 0, stopped := none } else m }
  let empties := fun (m : TileCmd) => match m.op with | .drain _ _ _ _ => false | _ => true
  { t with queue := queue, full := t.full || !(queue ++ t.busy.toList).any empties }

/-- Drains of a bundle that a report takes out of the queues: how many, and the lines they count. -/
def Crew.lostDrains (c : Crew) (k : BKey) (now : Nat) : List Nat :=
  (c.tiles.flatMap fun t => t.queue.filter fun m => m.owner == k && decide (now < m.time + Config.horizon)).filterMap fun m =>
    match m.op with
    | .drain b _ db cb => some (opnd b db cb).outLines.length
    | _ => none

/-- What a report takes back of a crew beside its bundles: copies not yet past the horizon, tiles. -/
def Crew.rollback (c : Crew) (now : Nat) : Crew :=
  let late := fun (x : Nat) => decide (now < x + Config.horizon)
  { c with
    copies := c.copies.map fun q => q.filter fun m => !late m.time
    tiles := c.tiles.map fun t => t.rollback now }

/-- Roll back one crew and its bundles. -/
def State.rollCrew (s : State) (k : CKey) : State :=
  match s.crew? k with
  | none => s
  | some c =>
    let now := s.clock
    let roll := fun (b : Bundle) =>
      if b.key.ck == k && b.live then
        let lost := c.lostDrains b.key now
        let b := b.rollback now
        { b with drains := b.drains - lost.length, ackcnt := b.ackcnt - lost.sum }
      else b
    ({ s with bundles := s.bundles.map roll }).putCrew (c.rollback now)

/-- The cores that a sensor watches (R275): the four of a column. -/
def strikeCores : StrikeRegion → List Nat
  | .column g col => (List.range 4).map fun i => 64 * (2 * g + col / 16) + 4 * (col % 16) + i
  | _ => []

/-! ### Reclaiming register blocks (R183, R184) -/

/-- Granules of the save area that a number of extended register granules takes (R161, R184, R461). -/
def extGranules (n : Nat) : Nat := (2048 * n + 65535) / 65536

/-- Granules of the save area in use: by saved crews, and by the extended blocks of reclaimed bundles of resident crews but for some (R161, R184). -/
def State.areaUsed (s : State) (but : CKey → Bool) : Nat :=
  (s.crews.map fun c => c.area).sum
    + ((s.bundles.filter fun b => b.reclaimed && !but b.key.ck && (s.crew? b.key.ck).any fun c => c.st == .resident).map fun b => extGranules b.arch.ext).sum

/-- Does a path stand still until another path of its bundle moves: at a join, or held by a sibling in a handler (R178, R195)? -/
def Bundle.restsIn (b : Bundle) (slot : Bool) (p : Path) : Bool := (p.waiting && p.clause.isSome) || (b.arch.tdepth != 0 && b.arch.hslot != slot)

/-- Is a bundle blocked in racq: does one of its paths wait there, and no other can go on? A reclaimed bundle waits as one blocked in racq does (R164, R184). -/
def Bundle.inRacq (b : Bundle) : Bool :=
  let stuck := fun (slot : Bool) => ((b.arch.path slot).toList).all fun p => p.racq.isSome || b.restsIn slot p
  b.reclaimed || (!b.racqs.isEmpty && stuck false && stuck true)

/-- Give a bundle's request a new place in the order. -/
def Bundle.requeue (b : Bundle) (order : Nat) : Bundle :=
  let move := fun (p : Path) => match p.held with | some (.racq n _ f) => { p with held := some (.racq n order f) } | _ => p
  { b with arch := { b.arch with slot0 := b.arch.slot0.map move, slot1 := b.arch.slot1.map move } }

/-- The bundle with the greatest number. -/
def maxBy (f : Bundle → Nat) : List Bundle → Option Bundle
  | [] => none
  | b :: r => some (r.foldl (fun a x => if f a < f x then x else a) b)

/-- The place of a reclaimed bundle in the order: that of its request, or of its last acquisition where it asks for none. -/
def Bundle.place (b : Bundle) : Nat := if b.racqs.isEmpty then b.extAt else (b.racqs.map fun x => x.2).foldl max 0

/-- A bundle's extended blocks stand in register granules of its core again, with their contents. -/
def State.regrant (s : State) (core : Nat) (k : BKey) : State :=
  match s.bundle? k, s.grid? k.grid with
  | some b, some g =>
    let grans := s.freeRegGrans core b.arch.ext
    (s.putBundle { b with reclaimed := false, grans := b.grans ++ grans }).took g.tenant (grans.map (regPlace core))
  | _, _ => s

/-- A reclaimed bundle gets its blocks back, with their contents, when the free registers cover them and its request, and it is first in the order (R164, R184). (log 36, DEDUCED) -/
def State.returnBlocks (s : State) (core : Nat) (bs : List Bundle) : Option State :=
  let first := ((s.pendingRacq core).map fun x => x.2).foldl min s.hub.nextOrder
  (bs.find? fun b => b.reclaimed && b.place == first && decide (b.arch.ext + (b.racqs.map fun x => x.1).sum ≤ s.freeRegs core)).map fun b =>
    s.regrant core b.key

/-- When a path blocked in racq, plus one. -/
def Path.blockedAt (p : Path) : Nat := match p.held with | some (.racq _ _ f) => f + 1 | _ => 0

/-- When the racq of a bundle that blocked last did so, and its slot. -/
def Bundle.blockedAt (b : Bundle) : Nat := max ((b.arch.slot0.map Path.blockedAt).getD 0) ((b.arch.slot1.map Path.blockedAt).getD 0)
def Bundle.racqSlot (b : Bundle) : Bool := decide ((b.arch.slot0.map Path.blockedAt).getD 0 < (b.arch.slot1.map Path.blockedAt).getD 0)

/-- The racq of the bundle that blocked most recently traps with cause register-starved (R184). -/
def State.starve (s : State) (bs : List Bundle) : State :=
  match maxBy Bundle.blockedAt (bs.filter fun b => !b.racqs.isEmpty) with
  | none => s
  | some b =>
    match ({ s with focus := some (b.key, b.racqSlot) }).cur with
    | none => s
    | some c => s.takeTrap c 0x06 (c.active none) fun _ => 0

/-- R184: a core whose bundles are all blocked in racq, the oldest request beyond the free registers, reclaims the blocks acquired last, an exited bundle's too (its crew holds them until it is
retired, R138, R143), or traps the racq that blocked last where none holds blocks or the save area cannot take them. (log 36, DEDUCED) -/
def execCoreReclaim (core : Nat) (s : State) : Res :=
  let all := s.bundles.filter fun b => (s.residents core).any fun c => c.key == b.key.ck
  let bs := all.filter fun b => b.live
  match s.returnBlocks core bs with
  | some t => .next t
  | none =>
    let saving := (s.residents core).any fun c => c.save.isSome || s.liveBundles c.key == 0
    let first := ((s.pendingRacq core).map fun x => x.2).foldl min s.hub.nextOrder
    let granted := bs.any fun b => !b.reclaimed && b.racqs.any fun x => x.2 == first && decide (x.1 ≤ s.freeRegs core)
    if bs.isEmpty || saving || !bs.all Bundle.inRacq || granted then .next s
    else
      let order := s.hub.nextOrder
      let hub := { s.hub with nextOrder := order + 1 }
      match maxBy Bundle.extAt (all.filter fun b => b.arch.ext != 0 && !b.reclaimed) with
      | some b =>
        if s.areaUsed (fun _ => false) + extGranules b.arch.ext ≤ 262144 then .next (({ s with hub := hub }).onBundle b.key fun x => { (x.requeue order) with reclaimed := true, grans := x.grans.take (x.grans.length - x.arch.ext) })
        else .next (s.starve bs)
      | none => .next (s.starve bs)

end Sys2Proof.Machine
end

