-- ==== Sys2Proof/Machine/Grids.lean ====
section
/-! DEFINITION. Grids and crews: die sets, placement, retirement, steps, saves and restores, fair shares, hot columns (R137 to R167, R210, R214 to R216, R225, R395, R443, R444, R461). -/

namespace Sys2Proof.Machine

/-! ### The order of waiting crews (R149, R154) -/

/-- Is the normalised share of a tenant lower than that of another? A weight of 0 counts as 1. -/
def State.shareLess (s : State) (t u : Nat) : Bool :=
  let share := fun (x : Nat) => (fld (s.reg (0x400 + 8 * x)) 55 0, max 1 (fld (s.reg (0x400 + 8 * x)) 63 56))
  decide ((share t).1 * (share u).2 < (share u).1 * (share t).2)

/-- Does a crew of one grid come before a crew of another: priority class, normalised share, entry, crew number? -/
def State.ahead (s : State) (g : Grid) (i : Nat) (h : Grid) (j : Nat) : Bool :=
  if g.prio ≠ h.prio then decide (h.prio < g.prio)
  else if s.shareLess g.tenant h.tenant then true
  else if s.shareLess h.tenant g.tenant then false
  else if g.order ≠ h.order then decide (g.order < h.order)
  else decide (i < j)

/-- A crew that waits for a core: its grid, its number, whether it is saved. -/
structure Cand where
  g     : Grid
  crew  : Nat
  saved : Bool

/-- Put a candidate into a list in the order of R149. -/
def State.rank (s : State) (x : Cand) : List Cand → List Cand
  | [] => [x]
  | y :: r => if s.ahead x.g x.crew y.g y.crew then x :: y :: r else y :: s.rank x r

/-- The crews that wait for the cores of a die, first to last, the saved ones among them, which may be restored elsewhere than on their own die (R164). A grid to which a change is announced places none
(R151). (log 63, DEDUCED) -/
def State.cands (s : State) (die : Nat) : List Cand :=
  let new := s.grids.filterMap fun g =>
    if g.st == .running && g.announce.isNone then (s.nextCrew g die).map fun i => ⟨g, i, false⟩ else none
  let saved := s.crews.filterMap fun c =>
    if c.st == .saved && !c.areaBad then (s.grid? c.key.grid).map fun g => ⟨g, c.key.crew, true⟩ else none
  (new ++ saved).foldl (fun l x => s.rank x l) []

/-! ### Restoring (R164 to R167) -/

/-- Put a number into a list in rising order. -/
def insNat (x : Nat) : List Nat → List Nat
  | [] => [x]
  | y :: r => if x ≤ y then x :: y :: r else y :: insNat x r

/-- A list in rising order. -/
def sortNat (l : List Nat) : List Nat := l.foldl (fun r x => insNat x r) []

/-- A bundle's paths that are blocked at step move past it (R152). -/
def Bundle.released (b : Bundle) : Bundle :=
  let go := fun (p : Path) => if p.held = some .step then p.advance else p
  { b with arch := { b.arch with slot0 := b.arch.slot0.map go, slot1 := b.arch.slot1.map go }
           stopped := b.stopped.filter fun x => !(b.arch.path x).any fun p => p.held == some .step }

/-- A change of a die set is complete once no crew moves any more: every blocked step is released, and ndies and dierank read the new set (R152). -/
def State.stepRelease (s : State) (g : Nat) : State :=
  if s.crews.any fun c => c.key.grid == g && c.save == some .dieLeft then s
  else match s.grid? g with
    | some x =>
      let bundles := s.bundles.map fun b => if b.key.grid = g then b.released else b
      ({ s with bundles := bundles }).putGrid { x with announce := none, oldDies := none }
    | none => s

/-- Release the steps of a crew's grid if the crew was moving. -/
def State.stepSettle (s : State) (c : Crew) : State := if c.save = some .dieLeft then s.stepRelease c.key.grid else s

/-- Can a core take a saved crew? It needs no new vault where its allocation stays backed (R145, R167). -/
def State.refits (s : State) (g : Grid) (c : Crew) (k : Nat) : Bool := s.canTake g c.key.crew k (g.vault != 0 && c.grove != some (groveOf k))

/-- The cores of the die set that a saved crew may be restored on: of its die, and of the others of the set if its own die stayed the same (R164). -/
def State.setCores (g : Grid) (c : Crew) : List Nat := if g.dies.contains c.die && dieOf c.core == c.die then dieCores c.die ++ g.dies.flatMap dieCores else dieCores c.die

/-- The cores of every die with a partition of the tenant. -/
def State.partCores (s : State) (t : Nat) : List Nat := (sortNat ((s.partsOf t).map fun p => p.1).eraseDups).flatMap dieCores

/-- The cores that a saved crew may be restored on now: those of the die set, and where none of them can take it those of every die with a partition of the tenant (R164). -/
def State.restoreOn (s : State) (g : Grid) (c : Crew) : List Nat :=
  if (State.setCores g c).any (s.refits g c) then State.setCores g c else s.partCores g.tenant

/-- The core a saved crew is restored on, of those that a test allows (R164): of its die, else of another die of the set if its own stayed the same, else of a die with a partition of its tenant. -/
def State.restoreCore (s : State) (g : Grid) (c : Crew) (ok : Nat → Bool) : Option Nat :=
  let best := fun (ks : List Nat) => (ks.filter fun k => ok k && s.refits g c k).foldl (fun (b : Option Nat) k => match b with
    | none => some k
    | some j => if s.freeLimit g j < s.freeLimit g k then some k else some j) none
  ((best (dieCores c.die)).or (best (State.setCores g c))).or (best (s.partCores g.tenant))

/-- A crew on the core it is restored on: slot, granules, counters, and, on another grove, its vault allocation with its contents (R167). -/
def State.moved (s : State) (g : Grid) (c : Crew) (core : Nat) : Crew :=
  let far := g.vault != 0 && c.grove != some (groveOf core)
  { c with
    core := core, die := dieOf core, slot := s.freeSlot core, st := .resident, since := s.clock, save := none, copyHold := false, area := 0,
    restFault := false, grans := s.freeGrans core g.scratchNeed, tileAt := s.freeTiles core g.acc, plgen := if core = c.core then c.plgen else (c.plgen + 1) % 2 ^ 32,
    backing := if far then s.backingFor core g.vault else c.backing,
    places := if far then s.freePlaces (groveOf core) (s.backingFor core g.vault) else c.places, grove := if far then some (groveOf core) else c.grove }

/-- A crew migrated off a hot column is counted there (R215), which is the column it left. -/
def State.countMove (s : State) (c : Crew) : State :=
  let o := 0x10000600 + 0x100000 * groveOf c.core + 8 * columnOf c.core
  if c.save = some .hotColumn then s.setReg o (satAdd (s.reg o) 31 24 1) else s

/-- Bundles take their extended blocks back where they fit; the others resume reclaimed (R164). -/
def State.fitBlocks (s : State) (core : Nat) (ks : List BKey) : State :=
  ks.foldl (fun u k => match u.bundle? k with
    | some b => if b.arch.ext ≤ u.freeRegs core then u.regrant core b.key else u
    | none => u) s

/-- The bundles of a restored crew: new contexts, register granules for their base blocks; those with extended blocks wait for them. -/
def State.rehouse (s : State) (g : Grid) (core : Nat) (bs : List Bundle) : List Bundle :=
  let nos := s.freeCtxs core bs.length
  let regs := s.freeRegGrans core (bs.length * g.regs)
  bs.mapIdx fun i b => { b with reclaimed := b.reclaimed || b.arch.ext != 0, ctxNo := nos.getD i 0, grans := (regs.drop (i * g.regs)).take g.regs }

/-- The deferred accesses in a saved crew's context go to the fault unit of its new grove, as far as that has room; the others wait in the walker's queue (R94, R96). -/
def State.moveDeferred (s : State) (k : CKey) (grove : Nat) : State :=
  let room := 4096 - (s.deferrals grove).length
  let mine := (s.flash.deferred.filter fun d => d.owner.ck == k).mapIdx fun i d => { d with grove := if i < room then grove else Config.groves }
  let flash := { s.flash with deferred := (s.flash.deferred.filter fun d => d.owner.ck != k) ++ mine }
  { s with flash := flash }

/-- Restore one crew on a core: its bundles get contexts and granules there, global lines leave the core's L1, its recorded deferred accesses move to the core's grove and are issued again (R96, R166, R169, R185, R225). -/
def State.restoreCrew (s : State) (g : Grid) (c : Crew) (core : Nat) : State :=
  let bs := s.crewBundles c.key
  let new := s.rehouse g core bs
  let bundles := s.bundles.map fun b => (new.find? fun x => x.key == b.key).getD b
  let m := s.moved g c core
  let t := ((({ s with bundles := bundles }).moveDeferred c.key (groveOf core)).putCrew m).took g.tenant (m.allPlaces new)
  let t := t.fitBlocks core ((bs.filter fun b => b.arch.ext != 0 && !b.reclaimed).map fun b => b.key)
  let t := (t.l1DropCore core).countMove c
  (t.replayAll fun d => d.owner.ck == c.key && d.grove != Config.groves).stepSettle c

/-- Does a copy command write a crew's window? -/
def CopyCmd.intoWindow (m : CopyCmd) : Bool :=
  match m.kind with
  | .bytes dsp _ _ _ => dsp == .ls
  | .tile t _ _ asp _ back => if back then t.space == .ls else asp == .ls

/-- Does it write the vault? -/
def CopyCmd.intoVault (m : CopyCmd) : Bool :=
  match m.kind with
  | .bytes dsp _ _ _ => dsp == .vlt
  | .tile t _ _ asp _ back => if back then t.space == .vlt else asp == .vlt

/-- Restore some crews one after another on cores that a test allows, all or none. -/
def State.restoreAll (g : Grid) (ok : Nat → Nat → Bool) : List Crew → State → Option State
  | [], s => some s
  | c :: r, s =>
    match s.restoreCore g c (ok c.key.crew) with
    | none => none
    | some k =>
      if g.vault != 0 && c.grove != some (groveOf k) && c.copies.any fun q => q.any CopyCmd.intoVault then none
      else State.restoreAll g ok r (s.restoreCrew g c k)

/-- The crews that are saved and restored with one: of a cooperative grid all, else itself (R150). (log 63, DEDUCED) -/
def State.together (s : State) (g : Grid) (c : Crew) (st : CrewSt) : List Crew :=
  if g.coop then s.crews.filter fun x => x.key.grid == g.id && x.st == st else [c]

/-! ### Who may use a core (R148 to R150, R164) -/

/-- The cores that the saved crews of a cooperative grid would take, if all of them could be restored now (R150). -/
def State.mateCores (s : State) (g : Grid) : List Nat :=
  match State.restoreAll g (fun _ _ => true) (s.crews.filter fun x => x.key.grid == g.id && x.st == .saved) s with
  | some t => (s.crews.filter fun x => x.key.grid == g.id && x.st == .saved).filterMap fun x => (t.crew? x.key).map fun y => y.core
  | none => []

/-- Can a core take a waiting crew now? A saved one must be allowed there (R164), with its mates where its grid is cooperative (R150). -/
def State.couldTake (s : State) (y : Cand) (core : Nat) : Bool :=
  if y.saved then
    if y.g.coop then (s.mateCores y.g).contains core
    else (s.crew? ⟨y.g.id, y.crew⟩).any fun c => (s.restoreOn y.g c).contains core && s.refits y.g c core
  else s.canTake y.g y.crew core true

/-! ### Die sets and placement (R146 to R150) -/

/-- The die set a grid finds: up to max_dies of those that can take a crew of it; none when they are fewer than min_dies. -/
def State.findDies (s : State) (g : Grid) : Option (List Nat) :=
  let ds := (s.dieOrder g).take g.maxDies
  if ds.length < g.minDies then none else some (sortNat ds)

/-- The die of a crew under a division (R147). -/
def dieOfCrew (g : Grid) (crew : Nat) : Nat := (g.dies[rankOfCrew g.ncrews g.dies.length crew]?).getD 0

/-- Place every crew of a grid on cores that a test allows, or none (R150). -/
def State.placeAll (g : Grid) (ok : Nat → Nat → Bool) : List Nat → State → Option State
  | [], s => some s
  | i :: r, s =>
    match s.bestCore g i true ((dieCores (dieOfCrew g i)).filter (ok i)) with
    | some k => State.placeAll g ok r (s.placeCrew g i k)
    | none => none

/-- The cores that the crews of a waiting cooperative grid would take, if all of them fit now. -/
def State.coopCores (s : State) (w : Grid) : List Nat :=
  match s.findDies w with
  | none => []
  | some ds =>
    let y := { w with st := .running, dies := ds }
    match State.placeAll y (fun _ _ => true) (List.range y.ncrews) (s.putGrid y) with
    | some u => (u.crews.filter fun c => c.key.grid == w.id).map fun c => c.core
    | none => []

/-- Can some waiting crew that comes before a crew, other than a mate it is placed or restored with, use a core now (R149, R150)? (log 63, DEDUCED) -/
def State.taken (s : State) (g : Grid) (i core : Nat) : Bool :=
  ((s.cands (dieOf core)).any fun y => !(g.coop && y.g.id == g.id) && s.ahead y.g y.crew g i && s.couldTake y core)
    || s.grids.any fun w => w.st == .waiting && w.coop && w.id != g.id && s.ahead w 0 g i && (s.coopCores w).contains core

/-- R146: a waiting grid takes its die set; a cooperative one only when all its crews fit at once, on cores that no crew ahead of them can use (R149, R150). -/
def execGridDieSet (g : Nat) (s : State) : Res :=
  match s.grid? g with
  | none => .next s
  | some x =>
    if x.st != .waiting then .next s
    else match s.findDies x with
      | none => .next s
      | some ds =>
        let y := { x with st := .running, dies := ds }
        let t := s.putGrid y
        if !x.coop then .next t
        else match State.placeAll y (fun i k => !s.taken x i k) (List.range y.ncrews) t with
          | some u => .next u
          | none => .next s

/-- R148, R149: the grove scheduler places the first waiting crew of a die for which some core has room that no crew ahead of it can use. -/
def execCrewPlace (die : Nat) (s : State) : Res :=
  let can := fun (x : Cand) => if x.saved then none else
    (s.bestCore x.g x.crew true ((dieCores die).filter fun k => !s.taken x.g x.crew k)).map fun k => (x, k)
  match (s.cands die).findSome? can with
  | some (x, k) => .next (s.placeCrew x.g x.crew k)
  | none => .next s

/-! ### Retirement (R138, R395, R444) -/

/-- Grids launched by a crew's bundles that have not retired. -/
def State.crewChildren (s : State) (k : CKey) : List Grid := s.grids.filter fun g => g.parent.any fun b => b.ck == k

/-- Retirement records in use on a grove (R138). -/
def State.records (s : State) (grove : Nat) : Nat := (s.crews.filter fun c => c.record && groveOf c.core == grove).length

/-- R138: a crew whose bundles have all exited gives back its resources, once its store queues, copy queues, tile queues and drains are empty: what they issued still completes (R395, R442, R444). -/
def execCrewRetire (k : CKey) (s : State) : Res :=
  match s.crew? k with
  | none => .next s
  | some c =>
    let bs := s.crewBundles k
    let kids := !(s.crewChildren k).isEmpty
    if !(c.st == .resident || (c.st == .saved && c.areaBad)) || bs.any (fun b => b.live || !b.sq.isEmpty || b.drains != 0) || c.copies.any (fun q => !q.isEmpty)
        || c.tiles.any (fun t => t.busy.isSome || !t.queue.isEmpty)
        || (kids && decide (8192 ≤ s.records (groveOf c.core))) then .next s
    else .next ((s.putCrew { c with st := .retired, record := kids, backing := [], places := [], grove := none, save := none, area := 0 }).stepSettle c)

/-- Is a write of a grid's bundles still on its way? -/
def State.gridFlies (s : State) (g : Nat) : Bool :=
  (s.inflight ++ s.acks).any fun f => match f.owner with | .bundle b => b.grid == g | _ => false

/-- A child leaves its parent's list; the parent crew's retirement record goes with the last (R138, R428). -/
def State.childGone (s : State) (p : BKey) (g : Nat) : State :=
  let s := s.onBundle p fun b => { b with children := b.children.filter fun x => x != g }
  if (s.crewChildren p.ck).isEmpty then s.onCrew p.ck fun c => { c with record := false } else s

/-- R77, R124, R138: a grid whose crews and children have all retired retires; the gathered marks of its context are harvested, and its counter is incremented after all its writes. Its entry is free for an action that waits to launch (R137). (log 37, DEDUCED) -/
def execGridRetire (g : Nat) (s : State) : Res :=
  match s.grid? g with
  | none => .next s
  | some x =>
    let cs := s.crews.filter fun c => c.key.grid == g
    if cs.length < x.ncrews || cs.any (fun c => c.st != .retired) || s.grids.any (fun y => y.parent.any fun b => b.grid == g) || s.gridFlies g then .next s
    else
      let grids := s.grids.filter fun y => y.id != g
      let crews := s.crews.filter fun c => c.key.grid != g
      let bundles := s.bundles.filter fun b => b.key.grid != g
      let t := { s with grids := grids, crews := crews, bundles := bundles }
      let t := t.harvestAll fun y => y.2.ctx == x.ctx
      let t := (match x.parent with | some p => t.childGone p g | none => t).fireWaiting
      .next (if x.done = 0 then t else t.hubDo ⟨x.tenant, x.ctx, x.done.toNat, .count, 6, 0, x.tag⟩)

/-! ### Die sets at steps (R151, R152) -/

/-- May a grid use a die at all, were its cores empty? -/
def State.couldUse (s : State) (g : Grid) (die : Nat) : Bool := (dieCores die).any fun k => decide (0 < s.coreHolds g k)

/-- The waiting grid for which dies of another are withdrawn: one of a higher class or a lower share that finds too few. -/
def State.needsDies (s : State) (x : Grid) : Option Grid :=
  s.grids.find? fun w => w.st == .waiting && (s.findDies w).isNone && (decide (x.prio < w.prio) || s.shareLess w.tenant x.tenant)
    && x.dies.any fun d => s.couldUse w d && !(s.dieOrder w).contains d

/-- The dies that an addition brings: those that can take a crew and are not in the set. -/
def State.addDies (s : State) (x : Grid) : List Nat :=
  x.dies ++ ((s.dieOrder x).filter fun d => !x.dies.contains d).take (x.maxDies - x.dies.length)

/-- Resident crews of a grid on a die. -/
def State.crewsOn (s : State) (g die : Nat) : Nat := (s.crews.filter fun c => c.key.grid == g && c.st == .resident && dieOf c.core == die).length

/-- The die that a withdrawal takes next: the fewest resident crews, ties to the higher dieid. -/
def State.leastDie (s : State) (g : Nat) : List Nat → Option Nat
  | [] => none
  | d :: r => some (r.foldl (fun a x => if s.crewsOn g x < s.crewsOn g a ∨ (s.crewsOn g x = s.crewsOn g a ∧ a < x) then x else a) d)

/-- Withdraw dies one at a time, of those that the waiting grid could use, until it has enough or the set is at min_dies. -/
def State.dropDies (s : State) (x w : Grid) : Nat → Nat → List Nat → List Nat
  | 0, _, ds => ds
  | n + 1, has, ds =>
    if ds.length ≤ x.minDies ∨ w.minDies ≤ has then ds
    else match s.leastDie x.id (ds.filter (s.couldUse w)) with
      | none => ds
      | some d => s.dropDies x w n (if (s.dieOrder w).contains d then has else has + 1) (ds.filter fun y => y != d)

/-- The set that a change makes from the state at that moment. -/
def State.newDies (s : State) (x : Grid) (add : Bool) : List Nat :=
  if add then sortNat (s.addDies x)
  else match s.needsDies x with
    | none => x.dies
    | some w => s.dropDies x w x.dies.length (s.dieOrder w).length x.dies

/-- R151: a change is announced to a grid whose die set can change, when there are dies to add or a grid that needs some. -/
def execStepAnnounce (g : Nat) (add : Bool) (s : State) : Res :=
  match s.grid? g with
  | none => .next s
  | some x =>
    if x.st != .running || x.announce.isSome || decide (x.maxDies ≤ x.minDies) || s.newDies x add == x.dies then .next s
    else .next (s.putGrid { x with announce := some add })

/-- Is a bundle blocked at step, or has it exited (R429)? -/
def Bundle.atStep (b : Bundle) : Bool :=
  let stands := fun (p : Path) => p.held == some .step || (p.waiting && p.clause.isSome)
  !b.live || (b.arch.slot0.toList ++ b.arch.slot1.toList).all stands

/-- Is a bundle of a grid blocked at step (R429)? -/
def State.steps (s : State) (g : Nat) : Bool :=
  s.bundles.any fun b => b.key.grid == g && b.live && (b.arch.slot0.toList ++ b.arch.slot1.toList).any fun p => p.held == some .step

/-- R152: once every bundle of the resident crews is at step, the new set is formed, crews are assigned anew, and those that move are to be saved;
the steps are released when all of them stand on their new dies. Where no bundle is blocked at step the announcement ends with the set unchanged: a grid without a step is never resized (R151). (log 64, DEDUCED) -/
def execStepChange (g : Nat) (s : State) : Res :=
  match s.grid? g with
  | none => .next s
  | some x =>
    match x.announce with
    | none => .next s
    | some add =>
      let cs := s.crews.filter fun c => c.key.grid == g
      if cs.any (fun c => c.save == some .dieLeft) || cs.any (fun c => c.st == .resident && (s.crewBundles c.key).any fun b => !b.atStep) then .next s
      else
        let y := { x with dies := if s.steps g then s.newDies x add else x.dies, oldDies := some x.dies }
        let move := fun (c : Crew) =>
          if c.key.grid = g ∧ c.st ≠ .retired ∧ y.dies ≠ x.dies then
            let d := dieOfCrew y c.key.crew
            { c with die := d, save := if c.st = .resident ∧ dieOf c.core ≠ d then some .dieLeft else c.save }
          else c
        .next ((({ s with crews := s.crews.map move }).putGrid y).stepRelease g)

/-! ### Saving (R161 to R163, R461) -/

/-- Bytes of a save (R461). -/
def saveBytes (g : Grid) (bs : List Bundle) : Nat :=
  4096 * g.scratchNeed + 2048 * (g.bundles * g.regs + (bs.map fun b => b.arch.ext).sum) + 36864 * g.acc + 4096 * g.bundles

/-- Granules of the save area that a save takes (R161, R461). -/
def saveGranules (g : Grid) (bs : List Bundle) : Nat := (saveBytes g bs + 65535) / 65536

/-- The instruction in hand of a path. -/
def Path.inHand (p : Path) : Option Instr :=
  match p.clause with
  | none => none
  | some cl => match hdrCls cl.hdr, cl.words[p.idx]? with
    | some k, some w => (decodeWord k w).toOption
    | _, _ => none

/-- Does a path stand where a save may take it (R162, R199): at a clause boundary, at a sweep boundary (R313), at an instruction that it is blocked at, parked, or at a join or held by a
sibling in a handler? (log 61, DEDUCED) -/
def Bundle.saveable (b : Bundle) (slot : Bool) : Bool :=
  match b.arch.path slot with
  | none => true
  | some p => b.parked.isSome || b.stopped.contains slot || b.restsIn slot p || (if p.clause.isNone then p.idx == 0 else p.swept != 0 && p.swept % 16 == 0)

/-- Has every load of a bundle returned, or been deferred with all that is left of it (R162)? -/
def Bundle.loadsIn (b : Bundle) : Bool := b.pend.all fun p => p.kind == .token || p.lanes.all fun a => a.defer

/-- Is a crew at its pre-emption point (R162, R225)? Its last issue lies past the horizon once the clock is moved on. (log 61, DEDUCED) -/
def State.atPoint (s : State) (c : Crew) : Bool :=
  (s.crewBundles c.key).all (fun b => b.sq.isEmpty && !s.flies b.key && b.loadsIn &&
    (!b.live || (b.saveable false && b.saveable true)))
    && !s.coreFlies c.core && !c.copies.any fun q => q.any CopyCmd.intoWindow

/-- The last issue of a crew's bundles. -/
def State.lastIssue (s : State) (k : CKey) : Nat :=
  (((s.crewBundles k).flatMap fun b => b.window.map fun x => x.1)).foldl max 0

/-- A tile as it is saved: the instruction in progress goes back to the head of its queue with the row it stopped at (R402). -/
def Tile.saved (t : Tile) : Tile := { t with busy := none, queue := t.busy.toList ++ t.queue, undo := [] }

/-- A crew as it is saved. (log 63, DEDUCED) -/
def Crew.saved (c : Crew) (area : Nat) : Crew :=
  { c with st := .saved, area := area, areaBad := c.bad.any (fun x => x.1 == .ls), tiles := c.tiles.map Tile.saved }

/-- Save one crew; the room that its deferred accesses leave in its grove's fault unit is taken (R94). -/
def State.saveCrew (s : State) (g : Grid) (c : Crew) : State :=
  let area := saveGranules g (s.crewBundles c.key)
  let s := s.upTo (s.lastIssue c.key + Config.horizon)
  let bundles := s.bundles.map fun b => if b.key.ck = c.key then { b with window := [], results := [], grans := [], hold := [], ready := none } else b
  (({ s with bundles := bundles }).putCrew (c.saved area)).takeFrom (s.flash.deferred.filter fun d => d.owner.ck == c.key)

/-- A cause is dropped: its crew goes on where it is (R161). -/
def State.unsave (s : State) (c : Crew) : State := (s.putCrew { c with save := none, copyHold := false }).stepSettle c

/-- Is a core in a hot column? -/
def State.coreHot (s : State) (core : Nat) : Bool := s.colHot (groveOf core) (columnOf core)

/-! ### Restore faults (R164, R165) -/

/-- Post the restore-fault record of R165, once for each saved crew. -/
def State.restoreFault (s : State) (g : Grid) (c : Crew) (reason : Nat) : State :=
  if c.restFault then s
  else
    let s := s.putCrew { c with restFault := true }
    s.post g.tenant (wordOf [(56, 0x22), (48, reason), (32, g.tenant), (0, g.tag)]) (wordOf [(32, g.id), (0, c.key.crew)])
      (wordOf [(48, g.bundles * g.regs), (32, g.scratchNeed), (24, g.acc), (16, g.bundles)]) 0

/-- A crew with a poisoned save area: its bundles are halted, source 8, and what its tiles were to do is lost (R165, R280, R281). -/
def State.haltSaved (s : State) (g : Grid) (c : Crew) : State :=
  let t := (s.restoreFault g c 2).onCrew c.key fun x => { x with tiles := x.tiles.map fun (y : Tile) => { y with queue := [] } }
  (s.crewBundles c.key).foldl (fun t b =>
    match t.crew? c.key with
    | some c => (if b.live then t.haltBundle ⟨b, false, startPath g, g, c⟩ 0x20 8 0 else t).onBundle b.key fun x => { x with drains := 0 }
    | none => t) t

/-- R164: a saved crew is restored on a core that can take it and that no crew ahead of it can use (R149); where no core can take it, a restore-fault record is posted once. -/
def execCrewRestore (k : CKey) (s : State) : Res :=
  match s.crew? k, s.grid? k.grid with
  | some c, some g =>
    if c.st != .saved then .next s
    else if c.areaBad then .next (if s.liveBundles k = 0 then s else s.haltSaved g c)
    else match State.restoreAll g (fun i k => !s.taken g i k) (s.together g c .saved) s with
      | some t => .next t
      | none => if (s.restoreCore g c fun _ => true).isNone then .next (s.restoreFault g c 1) else .next s
  | _, _ => .next s

/-- R162, R163: at its pre-emption point a crew with a cause is saved, with all of its grid if that is cooperative; a save that does not fit drops the cause (R161), and a crew that finds no core outside a hot column stays (R216). (log 62, DEDUCED) -/
def execCrewSave (k : CKey) (s : State) : Res :=
  match s.crew? k, s.grid? k.grid with
  | some c, some g =>
    let cs := s.together g c .resident
    let room := decide ((cs.map fun x => saveGranules g (s.crewBundles x.key)).sum + s.areaUsed (fun k => cs.any fun x => x.key == k) ≤ 262144)
    if c.st != .resident || c.save.isNone then .next s
    else if !room || (c.save == some .hotColumn && (s.restoreCore g c fun _ => true).isNone) then .next (cs.foldl State.unsave s)
    else if !cs.all s.atPoint then .next s
    else .next (cs.foldl (fun t x => t.saveCrew g x) s)
  | _, _ => .next s

/-! ### Causes of a save (R161) -/

/-- Is a bundle blocked in child wait: does one of its paths wait there, and can no other go on (R161, R428)? -/
def Bundle.inCwait (b : Bundle) : Bool :=
  let waits := fun (slot : Bool) (p : Path) => (match p.held with | some (.child _) => true | _ => false)
    || (b.stopped.contains slot && (match p.inHand with | some (.cwait _) => true | _ => false))
  let some? := fun (slot : Bool) => (b.arch.path slot).any (waits slot)
  let stuck := fun (slot : Bool) => ((b.arch.path slot).toList).all fun p => waits slot p || b.restsIn slot p
  (some? false || some? true) && stuck false && stuck true

/-- Is every bundle of a crew that has not exited blocked in child wait? -/
def State.allInCwait (s : State) (k : CKey) : Bool :=
  let bs := (s.crewBundles k).filter fun b => b.live && (b.arch.slot0.isSome || b.arch.slot1.isSome)
  !bs.isEmpty && bs.all Bundle.inCwait

/-- Is a grid a descendant of another? -/
def State.descends (s : State) (g : Nat) : Nat → Grid → Bool
  | 0, _ => false
  | n + 1, x => match x.parent with
    | none => false
    | some b => b.grid == g || (match s.grid? b.grid with | some y => s.descends g n y | none => false)

/-- Can a grid, or the next crew of it on one of its dies, not be placed now (R146, R148, R150)? -/
def State.unplaced (s : State) (x : Grid) : Bool :=
  match x.st with
  | .waiting => (s.findDies x).isNone || (x.coop && (s.coopCores x).isEmpty)
  | .running => x.dies.any fun d => (s.nextCrew x d).any fun i => (s.bestCore x i true (dieCores d)).isNone
  | .retired => false

/-- Is there a descendant grid that cannot be placed (R161)? -/
def State.kidWaits (s : State) (g : Nat) : Bool := s.grids.any fun x => s.descends g 10 x && s.unplaced x

/-- The machine with the crews away that a crew of a grid ranks ahead of. -/
def State.without (s : State) (h : Grid) (j : Nat) : State :=
  { s with crews := s.crews.map fun c => if c.st = .resident ∧ (s.grid? c.key.grid).any (fun g => s.ahead h j g c.key.crew) = true then { c with st := .saved } else c }

/-- Does a waiting crew that finds no core now rank ahead of a crew, and could it use that crew's core if the crews behind it were away; or a waiting cooperative grid (R149, R150, R161)? (log 62, DEDUCED) -/
def State.outranked (s : State) (g : Grid) (c : Crew) : Bool :=
  let none? := fun (x : Cand) => if x.saved then
      (match s.crew? ⟨x.g.id, x.crew⟩ with | some y => (if x.g.coop then (s.mateCores x.g).isEmpty else (s.restoreCore x.g y fun _ => true).isNone) | none => false)
    else (s.bestCore x.g x.crew true (dieCores (dieOf c.core))).isNone
  ((s.cands (dieOf c.core)).any fun x => s.ahead x.g x.crew g c.key.crew && none? x && (s.without x.g x.crew).couldTake x c.core)
    || s.grids.any fun w => w.st == .waiting && w.coop && s.ahead w 0 g c.key.crew && (s.coopCores w).isEmpty && ((s.without w 0).coopCores w).contains c.core

/-- Is another crew of a crew's column being migrated off it (R216)? -/
def State.columnMoves (s : State) (c : Crew) : Bool :=
  s.crews.any fun x => x.save == some .hotColumn && x.key != c.key && groveOf x.core == groveOf c.core && columnOf x.core == columnOf c.core

/-- Does a cause hold for a crew? A crew of lower rank is saved only 100 µs after its placement. (log 62, DEDUCED) -/
def State.causeHolds (s : State) (g : Grid) (c : Crew) : PreemptWhy → Bool
  | .ranked => s.outranked g c && decide (c.since + usCycles 100 ≤ s.clock)
  | .dieLeft => false
  | .childWait => s.allInCwait c.key && s.kidWaits g.id
  | .hotColumn => s.coreHot c.core && !s.columnMoves c && (s.restoreCore g c fun _ => true).isSome
  | .retired => s.parts.retiredCores.contains c.core || s.parts.retiredCols.contains (groveOf c.core, columnOf c.core)
  | .commanded => true

/-- The cause that a crew is saved for with another of its cooperative grid (R150): it is not migrated itself where its column is not the hot one (R215). -/
def mateCause (why : PreemptWhy) (c x : Crew) : PreemptWhy :=
  if why = .hotColumn ∧ (groveOf x.core, columnOf x.core) ≠ (groveOf c.core, columnOf c.core) then .commanded else why

/-- Ask for the save of a crew, and of its whole grid if that is cooperative. A migration off a hot column stops its copies (R216). -/
def State.preempt (s : State) (k : CKey) (why : PreemptWhy) : State :=
  match s.crew? k, s.grid? k.grid with
  | some c, some g =>
    if c.st != .resident || c.save.isSome || !s.causeHolds g c why then s
    else (s.together g c .resident).foldl (fun t x => t.putCrew { x with save := some (mateCause why c x), copyHold := why == .hotColumn }) s
  | _, _ => s

/-- R161: a cause asks for the save of a crew. The wait of 100 µs moves the clock on. -/
def execPreemptRequest (k : CKey) (why : PreemptWhy) (s : State) : Res :=
  let t := match why, s.crew? k, s.grid? k.grid with
    | .ranked, some c, some g => if s.outranked g c then s.upTo (c.since + usCycles 100) else s
    | _, _, _ => s
  .next (t.preempt k why)

/-! ### Fair shares and heat (R154, R215, R216) -/

/-- Halve the consumed fields of the tenants from t up. -/
def State.decay : Nat → State → State
  | 0, s => s
  | n + 1, s =>
    let w := s.reg (0x400 + 8 * n)
    State.decay n (s.setReg (0x400 + 8 * n) (setFld w 55 0 (fld w 55 0 / 2)))

/-- R154: every 100 ms the consumed fields are halved. -/
def execShareDecay (s : State) : Res := .next (State.decay 64 s)

/-- Migrate a column's crews one at a time: the first that is resident is asked for when none is under way. -/
def State.heatNext (s : State) (grove col : Nat) : State :=
  let cs := s.crews.filter fun c => groveOf c.core == grove && columnOf c.core == col
  if cs.any fun c => c.save == some .hotColumn then s
  else match cs.find? fun c => c.st == .resident with
    | some c => s.preempt c.key .hotColumn
    | none => s

/-- R215, R216: a column's temperature is read: hot is set at the threshold and cleared 5 °C below it. (log 70, DEDUCED) -/
def execColumnHot (grove col temp : Nat) (s : State) : Res :=
  if Config.groves ≤ grove ∨ 32 ≤ col then .next s
  else
    let o := 0x10000600 + 0x100000 * grove + 8 * col
    let w := heatEval (setFld (s.reg o) 15 8 temp)
    let t := s.setReg o w
    .next (if w.getLsbD 0 then t.heatNext grove col else t)

end Sys2Proof.Machine
end

