-- ==== Sys2Proof/Machine/Links.lean ====
section
/-! DEFINITION. Vertical links and bridges: sequence, acknowledgement, lane test, sparing, replay, half width, down (R13 to R18, R28). -/

namespace Sys2Proof.Machine

/-- The control group's index (R18). -/
def ctlGroup : Nat := 0xFE

/-- A die of the module by what is on it (R9, R10): the base of a grove, the hub, the host harts, the storage engines. -/
inductive Die where
  | base (grove : Nat)
  | hub
  | host
  | storage
  deriving DecidableEq, Repr

/-- The two dies that a bridge joins (R10, R28). -/
def bridgeEnds : Bridge → Die × Die
  | .row g => (.base g, .base (g + 1))
  | .column g => (.base g, .base (g + 4))
  | .hub g => (.hub, .base g)
  | .host => (.host, .hub)
  | .storage => (.storage, .hub)

/-- Is it a bridge of the module: groves g and g + 1 in one row of four, groves g and g + 4, the hub to groves 0 to 3 (R10, R28)? -/
def bridgeOk : Bridge → Bool
  | .row g => decide (g + 1 < Config.groves ∧ g % 4 < 3)
  | .column g => decide (g + 4 < Config.groves)
  | .hub g => decide (g < 4)
  | .host => true
  | .storage => true

/-- Fabric links of a bridge (R28). -/
def bridgeLinks : Bridge → Nat
  | .row _ => 4
  | _ => 8

/-- Data groups of a half (R12, R28): 32 of a base link or a bridge link, 64 of a vault link. -/
def dataGroups : LinkId → Nat
  | .vlink _ n => if n / 2 % 2 = 0 then 32 else 64
  | .bridge _ _ _ => 32

/-- Bytes of a beat (R12, R28): a lane group is 32 data lanes, so one line for 32 groups and two for 64. -/
def beatBytes (id : LinkId) : Nat := 4 * dataGroups id

/-- Is it a half that the module has? -/
def linkExists : LinkId → Bool
  | .vlink g n => decide (g < Config.groves ∧ n < 128)
  | .bridge b link _ => bridgeOk b && decide (link < bridgeLinks b)

/-- May a half send a beat: one of its size, with no more lines than that holds? -/
def beatOk (id : LinkId) (b : Beat) : Bool := b.payload.length == beatBytes id && decide (b.lines.length ≤ beatBytes id / 128)

/-- Beats that the receiver has had, of those the sender still holds. -/
def Link.delivered (l : Link) : Nat := (l.unacked.findIdx? fun x => x.seq == l.expect).getD l.unacked.length

/-- The number of the last beat sent. -/
def Link.lastSent (l : Link) : Nat := ((l.unacked.getLast?).map fun x => x.seq).getD l.expect

/-- The lane test begins (R14). -/
def Link.startTest (l : Link) : Link := { l with state := 1, testing := true, queued := false }

/-- Replay from the first unacknowledged beat begins (R14); with none there is nothing to replay. -/
def Link.startReplay (l : Link) : Link :=
  let l := { l with testing := false, replays := min (l.replays + 1) 0xFFFF, replayEnd := l.lastSent, state := 2 }
  if l.unacked.isEmpty then { l with state := 0 } else l

/-- A test or a steering ends: what was queued meanwhile is handled by a test of its own (R17), else replay begins (R14). -/
def Link.afterStep (l : Link) : Link := if l.queued then l.startTest else l.startReplay

/-- The replay ends with its last beat; what was queued meanwhile is then handled (R17). -/
def Link.endReplay (l : Link) (seq : Nat) : Link :=
  if l.state = 2 ∧ seq = l.replayEnd then (if l.queued then l.startTest else { l with state := 0 }) else l

/-- A beat of the sender as it reaches the receiver: it passes on the expected one, and discards every other. An error in a later step than the first is queued (R17). -/
def Link.receive (l : Link) (ok : Bool) (b : Beat) : Link :=
  if !ok then
    let l := { l with crcErrors := min (l.crcErrors + 1) 0xFFFF }
    if l.state = 0 then l.startTest else ({ l with queued := true }).endReplay b.seq
  else if l.state ≠ 1 ∧ b.seq = l.expect then ({ l with expect := (l.expect + 1) % 256, got := l.got ++ [(b, false)] }).endReplay b.seq
  else l.endReplay b.seq

/-- R13: a beat reaches the receiver: one that the sender sends now, or one that it still holds. A beat that it cannot send changes nothing. (log 68, DEDUCED) -/
def execVlinkBeatReceive (id : LinkId) (b : Beat) (s : State) : Res :=
  let l := s.link id
  if !linkExists id || l.state == 3 then .next s
  else match l.unacked.find? fun x => x.seq == b.seq with
    | some x => .next (s.putLink (l.receive b.ok x))
    | none =>
      if b.seq ≠ l.next ∨ 128 ≤ l.unacked.length ∨ !beatOk id b then .next s
      else .next (s.putLink (({ l with next := (l.next + 1) % 256, unacked := l.unacked ++ [b] }).receive b.ok b))

/-- R13, R14: an acknowledgement frees the beats up to the one it names, a negative one those before it, as far as they were delivered. (log 68, DEDUCED) -/
def execVlinkAckReceive (id : LinkId) (upTo : Nat) (nak : Bool) (s : State) : Res :=
  let l := s.link id
  if !linkExists id || l.state == 3 then .next s
  else match l.unacked.findIdx? fun x => x.seq == upTo with
    | none => .next s
    | some i => .next (s.putLink { l with unacked := l.unacked.drop (min (if nak then i else i + 1) l.delivered) })

/-! ### Sparing (R14 to R16) -/

/-- Is a group one of the half's? -/
def groupOk (id : LinkId) (g : Nat) : Bool := decide (g < dataGroups id) || g == ctlGroup

/-- The groups of failed lanes, without repeats. -/
def failedGroups (id : LinkId) (failed : List (Nat × Nat)) : List Nat := ((failed.map fun x => x.1).filter (groupOk id)).eraseDups

/-- Is a group beyond repair: two of its lanes fail together, or its spare is in use? -/
def Link.lost (l : Link) (failed : List (Nat × Nat)) (g : Nat) : Bool :=
  l.spared.contains g || decide (2 ≤ ((failed.filter fun x => x.1 == g).map fun x => x.2).eraseDups.length)

/-- The width that unrepaired groups leave (R15, R16): 1 the lower half, 2 the upper half, 3 none. -/
def Link.widthNow (l : Link) : Nat :=
  let h := dataGroups l.id / 2
  let low := l.broken.any fun g => decide (g < h)
  let high := l.broken.any fun g => g != ctlGroup && decide (h ≤ g)
  if l.broken.contains ctlGroup || (low && high) then 3 else if low then 2 else if high then 1 else 0

/-- Does an outstanding read of a bundle wait for a line? -/
def Pend.reads (p : Pend) (sp : Space) (line : Nat) : Bool := p.lanes.any fun a => a.space == sp && lineOf a.addr == line

/-- Change the first of some things that a test picks. -/
def onFirst {α : Type} (p : α → Bool) (f : α → α) : List α → List α
  | [] => []
  | x :: r => if p x then f x :: r else x :: onFirst p f r

/-- Does a response carry the old value of an atomic? -/
def FlightOp.resp? : FlightOp → Bool
  | .resp _ _ _ => true
  | _ => false

/-- What an undelivered beat leaves of what it brought (R16, R29): the oldest request in flight to the line of that source is delivered poisoned, a line of a vault is poisoned, data reach their read
poisoned, its source the link (R281), and engines get poisoned data (R279): a copy, the tile unit, a collective. Those of Xoxia are a fragment lost (R46), those of Skidder an error in staging (R109), events of
their own. -/
def State.undelivered (s : State) : Carried → State
  | .write b line => { s with inflight := onFirst (fun f => f.owner.bundle? == b && f.line == line && !f.bad) (fun f => { f with bad := true }) s.inflight }
  | .vault k line => s.onCrew k fun c => { c with bad := if c.bad.contains (.vlt, line) then c.bad else (.vlt, line) :: c.bad }
  | .data k sp line => s.onBundle k fun b =>
      { b with pend := b.pend.map fun p => if p.reads sp line then { p with bad := some (7, ((p.lanes.find? fun a => lineOf a.addr == line).map fun a => lineOf a.va).getD 0) } else p }
  | .old k line => { s with acks := onFirst (fun f => f.owner == .bundle k && f.line == line && f.op.resp? && !f.bad) (fun f => { f with bad := true }) s.acks }
  | .copy k q off => s.onCrew k fun c => { c with copies := c.copies.modify q.val fun l => match l with | m :: r => { m with hurt := off :: m.hurt } :: r | [] => [] }
  | .tile k n => s.onTile k n.val fun t => match t.busy with | some m => { t with poisoned := true, owed := if t.owed.contains m.owner then t.owed else m.owner :: t.owed } | none => t
  | .coll k comm seq i =>
      let recs := s.coll.recs.map fun r => if r.crew = k ∧ r.comm = comm ∧ r.seq = seq then { r with snap := r.snap.modify i fun x => (x.1, true) } else r
      let coll := { s.coll with recs := recs }
      { s with coll := coll }

/-- Put a column into a list of columns, once. -/
def addCol (l : List (Nat × Nat)) (c : Nat × Nat) : List (Nat × Nat) := if l.contains c then l else l ++ [c]

/-- A half goes down (R16): its undelivered beats reach the consumer poisoned; the column of a vertical link is retired, and the vault behind a vault link leaves its pool. -/
def State.linkDown (s : State) (l : Link) : State :=
  let rest := l.unacked.drop l.delivered
  let s := s.putLink { l with state := 3, width := 3, testing := false, queued := false, unacked := [], got := l.got ++ rest.map fun x => (x, true) }
  let s := (rest.flatMap fun x => x.lines).foldl State.undelivered s
  match l.id with
  | .vlink g n =>
    let parts := { s.parts with retiredCols := addCol s.parts.retiredCols (g, n / 4),
                                downVaults := if n / 2 % 2 = 1 then addCol s.parts.downVaults (g, n / 4) else s.parts.downVaults }
    { s with parts := parts }
  | .bridge _ _ _ => s

/-- R14: the lane test ends: with no failed lane replay begins; a failed lane's group takes its spare and retrains; a group beyond repair costs width. Failures found while the
half steers or replays are queued (R17). -/
def execLaneTestDone (id : LinkId) (failed : List (Nat × Nat)) (s : State) : Res :=
  let l := s.link id
  let gs := failedGroups id failed
  if !linkExists id || l.state == 3 then .next s
  else if !l.testing then .next (if l.state = 0 || gs.isEmpty then s else s.putLink { l with queued := true })
  else
    if gs.isEmpty then .next (s.putLink l.afterStep)
    else
      let lost := gs.filter (l.lost failed)
      let kept := gs.filter fun g => !l.lost failed g
      let l := { l with testing := false, spared := l.spared ++ kept, broken := l.broken ++ lost.filter fun g => !l.broken.contains g }
      let l := { l with width := l.widthNow }
      let s := s.coppice 1 kept.length lost.length
      if l.width = 3 then .next (s.linkDown l) else .next (s.putLink l)

/-- R14: retraining ends and replay begins, or what was queued meanwhile is handled (R17). -/
def execLaneRetrainDone (id : LinkId) (s : State) : Res :=
  let l := s.link id
  if !linkExists id || l.state != 1 || l.testing then .next s else .next (s.putLink l.afterStep)

end Sys2Proof.Machine
end

