-- ==== Sys2Proof/Machine/Phys.lean ====
section
/-! DEFINITION. DRAM rows, temperature, power, spares of cores and vault rows, and the device resets they force (R20, R21, R25, R26, R283). -/

namespace Sys2Proof.Machine

/-- A value at a key of a list of pairs. -/
def assoc {α β : Type} [DecidableEq α] (l : List (α × β)) (k : α) : Option β := (l.find? fun x => x.1 = k).map fun x => x.2

/-- Put a value at a key of a list of pairs. -/
def assocPut {α β : Type} [DecidableEq α] (l : List (α × β)) (k : α) (v : β) : List (α × β) := (l.filter fun x => x.1 ≠ k) ++ [(k, v)]

/-- The parts of the module that age and heat. -/
def State.setPhys (s : State) (p : Phys) : State := { s with phys := p }

/-- A row's retention bin (R20): 3 unless it was measured lower. -/
def State.bin (s : State) (r : RowId) : Nat := (assoc s.phys.bins r).getD 3

/-- The refresh interval of a bin in ms at up to 85 °C (R20); bin 0 is not refreshed. -/
def binMs (bin : Nat) : Nat := match bin with | 1 => 16 | 2 => 32 | 3 => 64 | _ => 0

/-- The interval of a row in cycles: half of it in a hot stack. -/
def State.interval (s : State) (r : RowId) : Nat := usCycles (1000 * binMs (s.bin r)) / (if s.phys.hot.contains r.stack then 2 else 1)

/-- R20: a row is refreshed at the interval of its bin. (log 55, DESIGN CHOICE) -/
def execRowRefresh (r : RowId) (s : State) : Res :=
  if 12 ≤ r.stack ∨ s.bin r = 0 then .next s
  else
    let t := s.upTo ((assoc s.phys.refresh r).getD 0 + s.interval r)
    .next (t.setPhys { t.phys with refresh := assocPut t.phys.refresh r t.clock })

/-- The bin of a measured retention in ms (R20). -/
def binOf (ms : Nat) : Nat := if ms < 32 then 0 else if ms < 64 then 1 else if ms < 128 then 2 else 3

/-- R21: the patrol measures a row: into a lower bin at once, out of bin 0 onto a spare; with no spare in its bank it stays at bin 1, worn (R283). After the patrol firmware
may assign a row that is not remapped the higher bin that was measured. (log 55, DESIGN CHOICE) -/
def execRetentionPatrol (r : RowId) (m : Retention) (s : State) : Res :=
  let k := (r.stack, r.bank)
  let used := (assoc s.phys.spares k).getD 0
  let bin := binOf m.ms
  if 12 ≤ r.stack ∨ s.bin r = 0 ∨ (s.bin r ≤ bin ∧ !m.assign) then .next s
  else if bin ≠ 0 then .next (s.setPhys { s.phys with bins := assocPut s.phys.bins r bin })
  else if used < 128 then
    .next ((s.setPhys { s.phys with bins := assocPut s.phys.bins r 0, spares := assocPut s.phys.spares k (used + 1), remaps := s.phys.remaps ++ [r] }).coppice 3 1 0)
  else .next ((s.setPhys { s.phys with bins := assocPut s.phys.bins r 1 }).coppice 3 0 1)

/-- R21: the copy of a remapped row is complete; what the hub held for it goes on. -/
def execRowRemapCopyDone (r : RowId) (s : State) : Res :=
  .next (s.setPhys { s.phys with remaps := s.phys.remaps.filter fun x => x != r }).hubRetry.fireWaiting

/-- R20: a stack's DRAM crosses 85 °C. -/
def execDramTemperatureChange (stack : Nat) (hot : Bool) (s : State) : Res :=
  if 12 ≤ stack then .next s
  else
    let cold := s.phys.hot.filter fun x => x != stack
    .next (s.setPhys { s.phys with hot := if hot then cold ++ [stack] else cold })

/-- R25: issue throttling of a die or of the module moves by one step of 1/16 of all slots. (log 69, DEDUCED) -/
def execThrottle (die : Option Nat) (raise : Bool) (s : State) : Res :=
  let k := match die with | none => 0 | some d => d + 1
  let n := natsGet s.phys.throttle k
  if Config.dies < k then .next s
  else .next (s.setPhys { s.phys with throttle := natsPut s.phys.throttle k (if raise then min (n + 1) 16 else n - 1) })

/-- R26, R132: a die at 110 °C, a compute die or any other of the module: level 5. -/
def execOverTemperature (_die : Nat) (s : State) : Res := if s.parts.powered then .next (s.reborn 2 true) else .next s

/-- R26, R132: the input below 40 V for more than 1 ms: level 5. -/
def execUndervoltage (s : State) : Res := if s.parts.powered then .next (s.reborn 3 true) else .next s

/-- Ask for the save of every crew on a core. -/
def State.saveCore (s : State) (core : Nat) (why : PreemptWhy) : State := (s.residents core).foldl (fun t c => t.preempt c.key why) s

/-- R283: a failing core is replaced by one of its die's two spares: its crews are saved and none is placed there, and once it is empty the spare takes its coreid; with none left it is retired. (log 70, DEDUCED) -/
def execCoreSpareBringIn (core : Nat) (s : State) : Res :=
  let die := dieOf core
  if Config.cores ≤ core ∨ s.parts.retiredCores.contains core then .next s
  else if natsGet s.parts.spareCores die < 2 then
    if !(s.residents core).isEmpty then
      let parts := { s.parts with sparing := if s.parts.sparing.contains core then s.parts.sparing else core :: s.parts.sparing }
      .next (({ s with parts := parts }).saveCore core .commanded)
    else
      let parts := { s.parts with spareCores := natsPut s.parts.spareCores die (natsGet s.parts.spareCores die + 1), sparing := s.parts.sparing.filter fun c => c != core }
      .next ((({ s with parts := parts }).coppice 0 1 0).l1DropCore core)
  else
    let parts := { s.parts with retiredCores := s.parts.retiredCores ++ [core] }
    .next ((({ s with parts := parts }).coppice 0 0 1).saveCore core .retired)

/-- R283: a vault row is copied to one of the vault's 512 spares and remapped; its contents and address stand. -/
def execVaultRowRemap (grove col row : Nat) (s : State) : Res :=
  let used := (s.phys.vaultRows.filter fun x => x.1.1 == grove && x.1.2.1 == col).length
  if Config.groves ≤ grove ∨ 32 ≤ col then .next s
  else if used < 512 then .next ((s.setPhys { s.phys with vaultRows := s.phys.vaultRows ++ [((grove, col, row), used)] }).coppice 2 1 0)
  else .next (s.coppice 2 0 1)

end Sys2Proof.Machine
end

