-- ==== Sys2Proof/Machine/Ingress.lean ====
section
/-! DEFINITION. PCI Express ingress: translation, the ordering point, ATS and PRI (R31, R35, R37, R38, R87, R90, R445 to R447, R463). -/

namespace Sys2Proof.Machine

/-- Replace the ordering point. -/
def State.setPcie (s : State) (p : Pcie) : State := { s with pcie := p }

/-- A bit of a port's control register (R39). -/
def State.pcieBit (s : State) (port bit : Nat) : Bool := (s.reg (offPcie port)).getLsbD bit

/-- The ordering stream of a transaction (R37): its triple, or the port's one stream when ID-Based Ordering is not honoured. -/
def State.streamKey (s : State) (port : Fin 2) (rid : Nat) (pasid : Option Nat) : StreamKey :=
  if s.pcieBit port.val 7 then (rid, pasid) else (0, none)

/-- The trackers of a port in use: those that await acknowledgements or hold a transaction. -/
def State.trackers (s : State) (port : Fin 2) : List StreamKey :=
  (((s.pcie.streams.filter fun p => p.port == port && !p.flying.isEmpty).map fun p => (p.rid, p.pasid))
    ++ (s.pcie.held.filter fun h => h.port == port).map fun h => (h.rid, h.pasid)).eraseDups

/-- The tracker of a stream (R37): the one where its work stands, else one of its own, else, with 256 in use, one that it shares. (log 79, DESIGN CHOICE) -/
def State.trackerOf (s : State) (port : Fin 2) (k : StreamKey) : StreamKey :=
  match s.pcie.held.find? fun h => h.port == port && h.own == k with
  | some h => (h.rid, h.pasid)
  | none =>
    match s.pcie.streams.find? fun p => p.port == port && p.flying.any fun x => s.pcie.owners.contains (x.1, k) with
    | some p => (p.rid, p.pasid)
    | none =>
      let ts := s.trackers port
      if ts.length < 256 || ts.contains k then k else (ts[Config.streamHash k.1 k.2 % ts.length]?).getD k

/-- A tracker as it stands. -/
def State.pstream (s : State) (port : Fin 2) (k : StreamKey) : PStream :=
  (s.pcie.streams.find? fun x => x.port == port && x.rid == k.1 && x.pasid == k.2).getD ⟨port, k.1, k.2, [], []⟩

/-- The tracker of a device's transaction. -/
def State.streamFor (s : State) (port : Fin 2) (k : StreamKey) : PStream := s.pstream port (s.trackerOf port k)

/-- Is it the tracker of a held transaction? -/
def PStream.holds (p : PStream) (h : HeldTx) : Bool := h.port == p.port && h.rid == p.rid && h.pasid == p.pasid

/-- Replace a tracker; one without work is free. -/
def State.putPstream (s : State) (p : PStream) : State :=
  let rest := s.pcie.streams.filter fun x => !(x.port == p.port && x.rid == p.rid && x.pasid == p.pasid)
  s.setPcie { s.pcie with streams := if p.flying.isEmpty then rest else rest ++ [p] }

/-- Is a stream in the error state (R38)? -/
def State.inError (s : State) (port : Fin 2) (k : StreamKey) : Bool := s.pcie.errs.contains (port, k)

/-- Report through AER (R35, R38): 0 a rejected request, 1 a stream in the error state. -/
def State.aerReport (s : State) (port kind : Nat) : State := { s with hub := { s.hub with aer := s.hub.aer ++ [(port, kind)] } }

/-- Its held posted writes that came after a number leave a stream (R38). -/
def State.dropLater (s : State) (port : Fin 2) (k : StreamKey) (after : Nat) : State :=
  s.setPcie { s.pcie with held := s.pcie.held.filter fun h => !(h.port == port && h.own == k && decide (after < h.id) && h.tx.isWrite) }

/-- A write of a stream is lost (R38, R40): the held writes that came after it go; a stream that enters the error state is counted and reported. -/
def State.streamError (s : State) (port : Fin 2) (k : StreamKey) (after : Nat) : State :=
  let s := s.dropLater port k after
  if s.inError port k then s
  else
    let s := (s.setPcie { s.pcie with errs := s.pcie.errs ++ [(port, k)] }).aerReport port.val 1
    let o := offPcie port.val + 8
    s.setReg o (satAdd (s.reg o) 39 32 1)

/-! ### Translation (R35) -/

/-- Is a page request through PRI for a page outstanding: asked for, its migration still in progress? -/
def State.priOpen (s : State) (ctx : Nat) (va : Word) : Bool :=
  s.xl.migs.any fun m => m.ctx == ctx && m.vpn == vpnOf va / (zPages m.size) * zPages m.size && s.pcie.asked.contains (ctx, m.vpn)

/-- What the IOMMU answers an ingress access at an address: a physical address with its leaf's place, a wait for a page request or a table's row (R21), or a rejection. Without a context the address is physical. -/
inductive Iommu where
  | ok (pa : Nat) (pte : Option Nat)
  | waits
  | reject
  deriving DecidableEq, Repr

def State.iommu (s : State) (ctx : Option Nat) (acc : Acc) (addr : Nat) : Iommu :=
  match ctx with
  | none => if inHbm addr || inLp addr || (acc == .load && inFlash addr) then .ok addr none else .reject
  | some c =>
    let va := BitVec.ofNat 64 addr
    if s.walkHeld c va then .waits
    else match s.walk c false acc va with
    | .ok pte l _ pa => if leafPbmt l = 2 then .reject else .ok pa (some pte)
    | .tier3 _ _ _ => if s.priOpen c va then .waits else .reject
    | .defer _ => .waits
    | .fault _ => .reject

/-- The lines of a write: address and bytes of each, none across a line boundary (R445). -/
def cutLines : Nat → Nat → List Byte → List (Nat × List Byte)
  | 0, _, _ => []
  | fuel + 1, a, d =>
    if d.isEmpty then []
    else
      let n := 128 - a % 128
      (a, d.take n) :: cutLines fuel (a + n) (d.drop n)

/-- A write's lines in physical memory, with the leaves they go through; one line that is rejected rejects the write, one that waits holds it. -/
def State.inLines (s : State) (w : IngressWrite) : Iommu × List (Nat × List Byte × Option Nat) :=
  (cutLines (w.data.length + 1) w.addr w.data).foldl (fun r x =>
    match r.1, s.iommu w.ctx .store x.1 with
    | .reject, _ => r
    | _, .reject => (.reject, [])
    | .waits, _ => r
    | _, .waits => (.waits, [])
    | o, .ok pa pte => (o, r.2 ++ [(pa, x.2, pte)])) (.ok 0 none, [])

/-- The tenant of a bound stream. -/
def State.ctxTenant (s : State) (c : Option Nat) : Nat := ((c.bind s.ctx?).map fun x => x.tenant).getD 0

/-! ### Ordering (R37, R446) -/

/-- The lines that a write names, each with the context of its address. -/
def inNames (w : IngressWrite) : List (Option Nat × Nat) := (cutLines (w.data.length + 1) w.addr w.data).map fun x => (w.ctx, lineOf x.1)

/-- The lines of physical memory that a write targets, as far as they translate now. -/
def State.inTargets (s : State) (w : IngressWrite) : List Nat :=
  (cutLines (w.data.length + 1) w.addr w.data).filterMap fun x => match s.iommu w.ctx .store x.1 with
    | .ok pa _ => some (lineOf pa)
    | _ => none

/-- May a transaction that came as number id be forwarded by its tracker now? Lines are those of a write, in physical memory and as it names them; a relaxed write waits
only for its lines and for room. -/
def State.mayForward (s : State) (p : PStream) (id : Nat) (relaxed : Bool) (lines : List Nat) (names : List (Option Nat × Nat)) : Bool :=
  let earlier := s.pcie.held.filter fun h => p.holds h && decide (h.id < id)
  let writes := earlier.filterMap fun h => match h.tx with | .write w => some w | _ => none
  (relaxed || (p.flying.all (fun x => decide (id ≤ x.1)) && !(earlier.any fun h => h.tx.isWrite)))
    && !(p.targets.any fun x => lines.contains x.2)
    && !(writes.any fun w => (s.inTargets w).any lines.contains || (inNames w).any names.contains)
    && (lines.isEmpty || decide (p.flying.length + lines.length ≤ 1024))

/-- Is a write's Relaxed Ordering honoured (R39)? -/
def State.relaxed (s : State) (w : IngressWrite) : Bool := w.ro && s.pcieBit w.port.val 8

/-- The lines of a write leave for their home slices (R445); the leaves they go through are marked accessed and dirty. -/
def State.forwardLines (s : State) (p : PStream) (k : StreamKey) (id : Nat) (ls : List (Nat × List Byte × Option Nat)) : State :=
  let fl := ls.map fun x => (⟨none, .stream id, lineOf x.1, .bytes (ls.length == 1) (partsFrom x.1 x.2.1), false⟩ : Flight)
  let s := ls.foldl (fun t x => match x.2.2 with | some pte => t.put64 pte (t.rd64 pte ||| 0xC0) | none => t) s
  let out := ls.map fun x => (id, lineOf x.1)
  let s := (s.send fl).putPstream { p with flying := p.flying ++ out, targets := p.targets ++ out }
  s.setPcie { s.pcie with owners := s.pcie.owners ++ [(id, k)] }

/-- Must an ingress read wait at the memory: for a row under remap (R21), a flash unit that is switching or a die at work, a leaf that flash moves behind (R93), a table's row? (log 122, DESIGN CHOICE) -/
def State.inHeld (s : State) (r : IngressRead) : Bool :=
  (cutLines (r.len + 1) r.addr (List.replicate r.len 0)).any fun x => match s.iommu r.ctx .load x.1 with
    | .ok pa _ => s.rowBusy pa || (s.flashHeld pa && !s.l2Has pa)
    | .waits => !(r.ctx.any fun c => s.priOpen c (BitVec.ofNat 64 x.1))
    | .reject => false

/-- The bytes of an ingress read, line by line; none where its translation is rejected. -/
def State.inRead (s : State) (r : IngressRead) : List Byte :=
  let xs := (cutLines (r.len + 1) r.addr (List.replicate r.len 0)).map fun x => (s.iommu r.ctx .load x.1, x.2.length)
  if xs.any fun x => match x.1 with | .ok _ _ => false | _ => true then []
  else xs.flatMap fun x => match x.1 with
    | .ok pa _ => bytesFrom (s.homeByte (s.ctxTenant r.ctx)) pa x.2
    | _ => []

/-- A read's flash lines that are foreign or unowned are counted (R90). -/
def State.inCount (s : State) (r : IngressRead) : State :=
  (cutLines (r.len + 1) r.addr (List.replicate r.len 0)).foldl (fun t x => match t.iommu r.ctx .load x.1 with
    | .ok pa _ => t.countForeign (t.ctxTenant r.ctx) pa
    | _ => t) s

/-- Forward a transaction of a stream if it may be: the state then, or none. A port whose link is down sends no completion (R463). -/
def State.forward (s : State) (p : PStream) (k : StreamKey) (id : Nat) (tx : InTx) : Option State :=
  match tx with
  | .write w =>
    let r := s.inLines w
    (match r.1 with
      | .ok _ _ => if s.mayForward p id (s.relaxed w) (r.2.map fun x => lineOf x.1) (inNames w) then some (s.forwardLines p k id r.2) else none
      | .waits => none
      | .reject => if s.mayForward p id (s.relaxed w) [] [] then some ((s.aerReport p.port.val 0).streamError p.port k id) else none)
  | .msi w =>
    if s.mayForward p id false [] [] then some { s with hub := { s.hub with msis := s.hub.msis ++ [128 + w.port.val] } } else none
  | .read r =>
    if !s.portUp p.port.val then some s
    else if s.inHeld r then none
    else if s.mayForward p id false [] [] then
      let t := s.inCount r
      some (t.setPcie { t.pcie with replies := t.pcie.replies ++ [(r.port, r.addr, s.inRead r)] })
    else none

/-- A transaction of a stream arrives: it is forwarded, or held behind what it waits for. -/
def State.arrive (s : State) (port : Fin 2) (k : StreamKey) (tx : InTx) : State :=
  let id := s.pcie.nextId
  let p := s.streamFor port k
  let s := s.setPcie { s.pcie with nextId := id + 1 }
  match s.forward p k id tx with
  | some t => t
  | none => s.setPcie { s.pcie with held := s.pcie.held ++ [⟨id, p.port, p.rid, p.pasid, k, tx⟩] }

/-- Is a requester of the form that a port supports: a 16-bit ID, a PASID of 20 bits (R34)? -/
def requesterOk (rid : Nat) (pasid : Option Nat) : Bool := decide (rid < 2 ^ 16) && pasid.all fun x => decide (x < 2 ^ 20)

/-- A posted write or MSI of a device, with a payload that the port supports (R34): discarded while its stream is in error (R38); a write that the IOMMU rejects puts it there (R35). -/
def State.ingress (s : State) (w : IngressWrite) (msi : Bool) : State :=
  let k := s.streamKey w.port w.rid w.pasid
  if !s.portUp w.port.val || !requesterOk w.rid w.pasid || decide (512 < w.data.length) || s.inError w.port k then s
  else if !msi && (s.inLines w).1 == .reject then (s.aerReport w.port.val 0).streamError w.port k s.pcie.nextId
  else s.arrive w.port k (if msi then .msi w else .write w)

/-- R37: a posted write arrives. (log 41, DESIGN CHOICE) -/
def execIngressPostedWrite (w : IngressWrite) (s : State) : Res := .next (s.ingress w false)

/-- R37: an MSI arrives; it is ordered behind earlier posted writes of its stream. -/
def execIngressMsi (w : IngressWrite) (s : State) : Res := .next (s.ingress w true)

/-- R37: a read request of at most 4,096 bytes (R34) arrives; it waits for every earlier posted write of its stream. -/
def execIngressReadRequest (r : IngressRead) (s : State) : Res :=
  if !s.portUp r.port.val || !requesterOk r.rid r.pasid || decide (4096 < r.len) then .next s
  else .next (s.arrive r.port (s.streamKey r.port r.rid r.pasid) (.read r))

/-- R37: held transaction i is forwarded, if what it waits for is done. -/
def execHeldWriteForward (i : Nat) (s : State) : Res :=
  match s.pcie.held[i]? with
  | none => .next s
  | some h =>
    let t := s.setPcie { s.pcie with held := s.pcie.held.eraseIdx i }
    match t.forward (t.pstream h.port (h.rid, h.pasid)) h.own h.id h.tx with
    | some u => .next u
    | none => .next s

/-- A tracker after an acknowledgement of a line: with the last line of its write, the write's targets are free. -/
def PStream.acked (p : PStream) (id line : Nat) : PStream :=
  let left := p.flying.erase (id, line)
  { p with flying := left, targets := if left.any fun x => x.1 == id then p.targets else p.targets.filter fun x => x.1 != id }

/-- R447: acknowledgement i, of an ingress line, comes back to the ordering point; a poison mark puts its stream into error. -/
def execOrderingPointAck (i : Nat) (s : State) : Res :=
  match s.acks[i]? with
  | none => .next s
  | some f => match f.owner with
    | .stream id =>
      let t := { s with acks := s.acks.eraseIdx i }
      (match t.pcie.streams.find? fun p => p.flying.contains (id, f.line) with
        | none => .next t
        | some p =>
          let q := p.acked id f.line
          let k := (mapGet t.pcie.owners id).getD (p.rid, p.pasid)
          let owners := if q.flying.any fun x => x.1 == id then t.pcie.owners else t.pcie.owners.filter fun x => x.1 != id
          let u := t.putPstream q
          let u := u.setPcie { u.pcie with owners := owners }
          .next (if f.bad then u.streamError p.port k id else u))
    | _ => .next s

/-- R35: a translation request is served while ATS is enabled: the page's address, or none where there is no translation. -/
def execAtsTranslationRequest (r : IngressRead) (s : State) : Res :=
  if !s.portUp r.port.val || !requesterOk r.rid r.pasid || (r.ctx.any fun c => s.walkHeld c (BitVec.ofNat 64 r.addr)) then .next s
  else
    let pa := match s.pcieBit r.port.val 6, s.iommu r.ctx .load r.addr with
      | true, .ok pa _ => some pa
      | _, _ => none
    .next (s.setPcie { s.pcie with ats := s.pcie.ats ++ [(r.port, r.addr, pa)] })

/-- R87: a page request for a tier-3 leaf starts a migration under tag 0, while page requests are served. -/
def execPriPageRequest (r : IngressRead) (s : State) : Res :=
  match r.ctx with
  | none => .next s
  | some c =>
    let va := BitVec.ofNat 64 r.addr
    if !s.portUp r.port.val || !requesterOk r.rid r.pasid || !s.pcieBit r.port.val 5 then .next s
    else match s.walk c false .load va with
      | .tier3 pte l lvl =>
        let t := s.wantMig (s.ctxTenant r.ctx) c va pte l lvl 0 none
        let page := (c, vpnOf va / leafPages lvl l * leafPages lvl l)
        .next (t.setPcie { t.pcie with asked := (t.pcie.asked.filter fun x => x != page) ++ [page] })
      | _ => .next s

end Sys2Proof.Machine
end

