-- ==== Sys2Proof/Machine/Host.lean ====
section
/-! DEFINITION. Host-die harts, launch windows and launch queues (R87, R116, R119, R121 to R124, R238). -/

namespace Sys2Proof.Machine

/-! ### Host-die harts (R87, R116, R238) -/

/-- A CSR as it was last written. -/
def HostHart.csr (h : HostHart) (n : Nat) : Word := BitVec.ofNat 64 (natsGet h.csrs n)
def HostHart.setCsr (h : HostHart) (n : Nat) (v : Word) : HostHart := { h with csrs := natsPut h.csrs n v.toNat }

/-- What some bytes leave in a register: extended by sign or zero, a float of fewer bits boxed in ones. -/
def loadValue (bank : HostBank) (signed : Bool) (d : List Byte) : Nat :=
  let n := leNat d
  let high := 2 ^ 64 - 2 ^ (8 * d.length)
  match bank with
  | .x => if signed && decide (2 ^ (8 * d.length) ≤ 2 * n) then n + high else n
  | .f => n + high
  | .v => n

/-! #### Exceptions and CSRs (R87, R115) -/

/-- Enter the handler of an exception: machine mode's for one taken there, else the host operating system's (R87), or the guest's where hedeleg hands it on. (log 102, PRESUMED) -/
def HostHart.trap (h : HostHart) (cause tval : Nat) : HostHart :=
  let w := fun (n : Nat) => BitVec.ofNat 64 n
  let enter := fun (h : HostHart) (epc tvec : Nat) => { ((h.setCsr epc (w h.pc)).setCsr (epc + 1) (w cause)).setCsr (epc + 2) (w tval) with
    pc := fld (h.csr tvec) 63 2 * 4, fault := some (cause, tval), resv := none }
  let push := fun (v : Word) => setFld (setFld (setFld v 8 8 h.mode) 5 5 (fld v 1 1)) 1 1 0
  let m := h.csr 0x300
  if h.mode = 3 then
    { (enter h 0x341 0x305).setCsr 0x300 (setFld (setFld (setFld (setFld m 12 11 3) 7 7 (fld m 3 3)) 3 3 0) 39 39 0) with mode := 3 }
  else if h.virt && (h.csr 0x602).getLsbD cause then
    { (enter h 0x241 0x205).setCsr 0x200 (push (h.csr 0x200)) with mode := 1 }
  else
    let hst := setFld (h.csr 0x600) 7 7 h.virt.toNat
    { ((enter h 0x141 0x105).setCsr 0x300 (push m)).setCsr 0x600 (if h.virt then setFld hst 8 8 h.mode else hst) with mode := 1, virt := false }

/-- Return from an exception to the guest's or the host operating system's program, or from machine mode; an illegal or virtual instruction where the mode forbids it. (log 102, PRESUMED) -/
def HostHart.ret (h : HostHart) (machine : Bool) : HostHart :=
  let m := h.csr 0x300
  let pop := fun (v : Word) => setFld (setFld (setFld v 1 1 (fld v 5 5)) 5 5 1) 8 8 0
  if machine then
    if h.mode ≠ 3 then h.trap 2 0
    else { h.setCsr 0x300 (setFld (setFld (setFld (setFld m 3 3 (fld m 7 7)) 7 7 1) 12 11 0) 39 39 0) with
      mode := fld m 12 11, virt := fld m 12 11 != 3 && m.getLsbD 39, pc := (h.csr 0x341).toNat, resv := none }
  else if h.mode = 0 then h.trap (if h.virt then 22 else 2) 0
  else if h.virt then { h.setCsr 0x200 (pop (h.csr 0x200)) with mode := fld (h.csr 0x200) 8 8, pc := (h.csr 0x241).toNat, resv := none }
  else { (h.setCsr 0x300 (pop m)).setCsr 0x600 (setFld (h.csr 0x600) 7 7 0) with
    mode := fld m 8 8, virt := (h.csr 0x600).getLsbD 7, pc := (h.csr 0x141).toNat, resv := none }

/-- The CSRs of a hart: those of RVA23S64 with the hypervisor extension and the Advanced Interrupt Architecture. (log 67, PRESUMED) -/
def hostCsrs : List (Nat × Nat) :=
  [(0x001, 3), (0x008, 3), (0x00F, 1), (0x100, 1), (0x104, 3), (0x10A, 1), (0x10C, 4), (0x120, 1), (0x140, 5), (0x14D, 1), (0x150, 2), (0x15C, 1), (0x180, 1), (0x200, 1), (0x204, 2),
   (0x240, 5), (0x24D, 1), (0x250, 2), (0x25C, 1), (0x280, 1), (0x300, 7), (0x308, 3), (0x30C, 4), (0x320, 32), (0x340, 5), (0x34A, 2), (0x350, 2), (0x35C, 1), (0x3A0, 16), (0x3B0, 64),
   (0x5A8, 1), (0x600, 1), (0x602, 8), (0x60A, 1), (0x60C, 4), (0x643, 5), (0x64A, 1), (0x680, 1), (0x747, 1), (0xB00, 1), (0xB02, 30), (0xC00, 32), (0xC20, 3), (0xDA0, 1), (0xDB0, 1),
   (0xE12, 1), (0xEB0, 1), (0xF11, 5), (0xFB0, 1)]
def hostHasCsr (n : Nat) : Bool := hostCsrs.any fun r => decide (r.1 ≤ n ∧ n < r.1 + r.2)

/-- The CSR that a number names: a guest's supervisor numbers name its own. (log 67, PRESUMED) -/
def HostHart.alias (h : HostHart) (n : Nat) : Nat :=
  if h.virt && [0x100, 0x104, 0x105, 0x140, 0x141, 0x142, 0x143, 0x144, 0x14D, 0x150, 0x151, 0x15C, 0x180].contains n then n + 0x100 else n

/-- The exception that an access to a CSR raises, if it raises one: no such CSR, too low a mode, a write of a read-only one. (log 67, PRESUMED) -/
def HostHart.csrBad (h : HostHart) (n : Nat) (write : Bool) : Option Nat :=
  let lvl := n / 256 % 4
  let low := if lvl = 2 then h.mode == 0 || (h.mode == 1 && h.virt) else decide (h.mode < lvl)
  if !hostHasCsr n || (write && n / 1024 == 3) then some 2
  else if low then some (if h.virt && lvl != 3 then 22 else 2)
  else none

/-- Cycles of a hart's 3.2 GHz clock. -/
def hostCycles (clock : Nat) : Word := BitVec.ofNat 64 (clock * 32 / 19)

/-- A counter of a host-die hart (R115): mcycle counts its cycles; minstret, the busy time and the others count what is not modelled, so they are free. -/
def State.hostCounter (s : State) (h : Nat) (csr : Nat) : Word :=
  if csr = 0xB00 ∨ csr = 0xC00 then (s.host h).csr 0xB00 + hostCycles s.clock else Config.freeWord s.free (0x1000 * h + csr)

/-- A CSR as a hart reads it: its counters, its number, the least identity pending in its IMSIC, views of machine-level CSRs, else what was last written. (log 67, PRESUMED) -/
def State.hostCsr (s : State) (h n : Nat) : Word :=
  let r := s.host h
  let n := r.alias n
  if (0xB00 ≤ n ∧ n < 0xB20) ∨ (0xC00 ≤ n ∧ n < 0xC20) then s.hostCounter h n
  else if n = 0xF14 then BitVec.ofNat 64 h
  else if n = 0x15C then (match r.eip.head? with | some i => BitVec.ofNat 64 (65537 * i) | none => 0)
  else if n = 0x100 then r.csr 0x300 &&& sstatusBits
  else if n = 0x104 ∨ n = 0x144 then r.csr (n + 0x200) &&& r.csr 0x303
  else r.csr n

/-- A hart writes a CSR: hgatp gives its guest a second stage (log 14, PRESUMED), a write of stopei takes the identity that it shows. -/
def State.hostCsrWrite (s : State) (h n : Nat) (v : Word) : State :=
  let r := s.host h
  let n := r.alias n
  let keep := fun (mask old : Word) => (v &&& mask) ||| (old &&& ~~~mask)
  if n = 0xB00 then s.onHost h fun r => r.setCsr n (v - hostCycles s.clock)
  else if n = 0x15C then s.onHost h fun r => { r with eip := r.eip.tail }
  else if n = 0x100 then s.onHost h fun r => r.setCsr 0x300 (keep sstatusBits (r.csr 0x300))
  else if n = 0x104 ∨ n = 0x144 then s.onHost h fun r => r.setCsr (n + 0x200) (keep (r.csr 0x303) (r.csr (n + 0x200)))
  else
    let t := s.onHost h fun r => r.setCsr n v
    if n = 0x680 then
      let xl := { t.xl with guests := natsPut t.xl.guests (fld v 57 44) (if fld v 63 60 = 10 then fld v 43 0 / 4 * 4 + 1 else 0) }
      { t with xl := xl }
    else t

/-! #### Where an access goes (R69, R87) -/

/-- The number of the exception that a host hart takes for a fault of a kind of access (R87): a page fault, of instruction, load or store; an access fault for the cause access.
(log 102, PRESUMED) -/
def hostCause (acc : Acc) (cause : Nat) : Nat :=
  let two := match acc with | .fetch => (12, 1) | .load => (13, 5) | _ => (15, 7)
  if cause = 0x14 then two.2 else two.1

/-- The mode whose rules an access is held to: a load or store of machine mode with MPRV set goes as the mode before. -/
def HostHart.level (h : HostHart) (acc : Acc) : Nat := if h.mode = 3 && acc != .fetch && (h.csr 0x300).getLsbD 17 then fld (h.csr 0x300) 12 11 else h.mode

/-- A walk of the tables for a hart: R69 with the Sv57 rules of its mode, SUM and MXR among them. (log 67, PRESUMED) -/
def State.hostWalk (s : State) (h : HostHart) (ctx : Nat) (acc : Acc) (va : Word) : Walk :=
  let sup := h.level acc != 0
  let st := if h.virt then h.csr 0x200 else h.csr 0x300
  let sum := fun (w : Walk) => match w with
    | .ok _ l _ _ => if sup && leafU l && acc != .fetch && !st.getLsbD 18 then .fault 0x11 else w
    | .tier3 _ l _ => if sup && leafU l && acc != .fetch && !st.getLsbD 18 then .fault 0x11 else w
    | w => w
  match s.walk ctx sup acc va with
  | .fault k => if acc == .load && st.getLsbD 19 then (match s.walk ctx sup .fetch va with | .fault _ => .fault k | w => sum w) else .fault k
  | w => sum w

/-- Does the second stage of a guest stop an access that the first lets through? -/
def State.guestStops (s : State) (h : HostHart) (ctx : Nat) (acc : Acc) (va : Word) : Bool :=
  match s.ctx? ctx with
  | none => false
  | some c => match s.guestRoot c with
    | none => false
    | some r => match s.walkFrom noLook (s.guestPlace noLook r) false (fld va 56 0) 4 c.root with
      | .entry _ l lvl => (guestLeafCheck (h.level acc != 0) acc lvl l).isNone
      | .fault _ => false

/-- What a hart's access meets at an address: a physical address with its memory type; a wait; an exception, by its number. -/
inductive HostAt where
  | ok (pa pbmt : Nat)
  | waits
  | fault (cause : Nat)
  deriving DecidableEq, Repr

/-- Must a read of a place wait: for a flash unit that is switching or a die at work (R93), for a row under remap (R21), for a port that is down (R463)? (log 122, DESIGN CHOICE) -/
def State.hostHeld (s : State) (pa : Nat) : Bool := (s.flashHeld pa && !s.l2Has pa) || s.rowBusy pa || s.portDown pa

/-- Where an access of a hart goes (R69, R87); machine mode's are physical. A tier-3 page is a page fault of the host operating system; a leaf that flash moves behind makes a load wait (R93). (log 122, DESIGN CHOICE) -/
def State.hostAt (s : State) (h : HostHart) (ctx : Nat) (acc : Acc) (va : Nat) : HostAt :=
  let reads := acc == .load || acc == .fetch
  if h.level acc = 3 then
    if !populated va || (inFlash va && !reads) then .fault (hostCause acc 0x14)
    else if reads && s.hostHeld va then .waits
    else .ok va (if inPcie va || inRegs va then 2 else 0)
  else if s.walkHeld ctx (BitVec.ofNat 64 va) then .waits
  else match s.hostWalk h ctx acc (BitVec.ofNat 64 va) with
    | .ok _ l _ pa => if reads && s.hostHeld pa then .waits else .ok pa (leafPbmt l)
    | .defer _ => .waits
    | .tier3 _ _ _ => .fault (hostCause acc 0x10)
    | .fault k => .fault (hostCause acc k + if k != 0x14 && s.guestStops h ctx acc (BitVec.ofNat 64 va) then 8 else 0)

/-- The pieces of an access, one for each line, all translated before any goes (R116). -/
inductive HostSpan where
  | ok (l : List (Nat × Nat × Nat))
  | waits
  | fault (cause va : Nat)
  deriving DecidableEq, Repr

def State.hostSpan (s : State) (h : HostHart) (ctx : Nat) (acc : Acc) : List (Nat × Nat) → HostSpan
  | [] => .ok []
  | (va, n) :: r =>
    match s.hostAt h ctx acc va with
    | .fault c => .fault c va
    | .waits => (match s.hostSpan h ctx acc r with | .fault c v => .fault c v | _ => .waits)
    | .ok pa pbmt => (match s.hostSpan h ctx acc r with | .ok l => .ok ((pa, pbmt, n) :: l) | x => x)

/-- The lines of n bytes at an address: address and length of each piece. -/
def lineCuts (va n : Nat) : List (Nat × Nat) := (cutLines (n + 1) va (List.replicate n 0)).map fun x => (x.1, x.2.length)

def State.hostPieces (s : State) (a : HostAccess) (acc : Acc) (n : Nat) : HostSpan := s.hostSpan (s.host a.hart) a.ctx acc (lineCuts a.va n)

/-! #### Accesses (R115, R116, R238) -/

/-- The operations of a host AMO, by number: swap, add, xor, and, or, signed min and max, unsigned min and max. (log 67, PRESUMED) -/
def hostAmo : Fin 9 → AtomOp × Bool
  | 0 => (.xchg, false) | 1 => (.add, false) | 2 => (.xor, false) | 3 => (.and, false) | 4 => (.or, false)
  | 5 => (.min, true) | 6 => (.max, true) | 7 => (.min, false) | 8 => (.max, false)

/-- The type of an AMO's operands. -/
def hostTy (len : Nat) (signed : Bool) : Ty :=
  match len, signed with
  | 4, true => .i32 | 4, false => .n32 | _, true => .i64 | _, false => .n64

/-- Are a hart's earlier writes still on their way (R116)? -/
def State.hostFlies (s : State) (hart : Nat) : Bool := (s.inflight ++ s.acks).any fun f => f.owner == .post hart

/-- The numbers of a hart's AMOs whose old values have not come back, with their lines. -/
def State.hostAtoms (s : State) (hart : Nat) : List (Nat × Nat) :=
  ((s.inflight ++ s.acks).filter fun f => f.owner == .post hart).filterMap fun f => match f.op with
    | .atom (some n) _ _ _ => some (n, f.line)
    | .resp n _ _ => some (n, f.line)
    | _ => none

/-- Does an AMO of a hart with aq set wait for its value still (R238)? Later accesses wait behind it. -/
def State.hostAcquires (s : State) (hart : Nat) : Bool := (s.hostAtoms hart).any fun x => tagAq x.1

/-- A piece of a store leaves its hart: into the fabric, a port's posted queue, or a device register (R36, R136). -/
def State.hostPart (s : State) (hart : Nat) (block : Bool) (pa : Nat) (d : List Byte) : State :=
  if inRegs pa then s.regStore .host pa d
  else if inPcie pa then s.postPcie pa d
  else s.send [⟨none, .post hart, lineOf pa, .bytes block (partsFrom pa d), false⟩]

/-- A hart takes an exception. -/
def State.hostTrap (s : State) (hart cause va : Nat) : State := s.onHost hart fun h => h.trap cause va

/-- A store: its pieces leave as transactions of their own (R116). -/
def State.hostStore (s : State) (a : HostAccess) (d : List Byte) : State :=
  match s.hostPieces a .store d.length with
  | .waits => s
  | .fault c va => s.hostTrap a.hart c va
  | .ok ps => (ps.foldl (fun (r : State × List Byte) p => (r.1.hostPart a.hart (d.length == 64 && a.va % 64 == 0) p.1 (r.2.take p.2.2), r.2.drop p.2.2)) (s, d)).1

/-- Is an access of 4 or 8 bytes aligned as an AMO, LR or SC must be? -/
def amoOk (len va : Nat) : Bool := (len == 4 || len == 8) && va % len == 0

/-- An AMO goes to its home slice; its old value comes back to its register. Misaligned, or in I/O space, it takes an exception. (log 67, PRESUMED) -/
def State.hostAtom (s : State) (a : HostAccess) (op : Fin 9) (len v : Nat) : State :=
  if !amoOk len a.va then s.hostTrap a.hart 6 a.va
  else match s.hostAt (s.host a.hart) a.ctx .atomic a.va with
    | .waits => s
    | .fault c => s.hostTrap a.hart c a.va
    | .ok pa pbmt =>
      if pbmt = 2 then s.hostTrap a.hart 7 a.va
      else
        let o := hostAmo op
        let acc : LaneAcc := ⟨0, .mem, pa, a.va, pbmt, 0, false, 1⟩
        s.send [⟨none, .post a.hart, lineOf pa, .atom (some (hostTag a.rd (len == 4) a.aq)) o.1 (hostTy len o.2) [⟨acc, BitVec.ofNat 64 v, 0⟩], false⟩]

/-- A byte as a hart sees it: its own last store in flight to it, else the home slice's (R115, R238). -/
def State.hostByte (s : State) (hart tenant a : Nat) : Byte :=
  let own := s.inflight.filterMap fun f => if f.owner = .post hart then (match f.op with
    | .bytes _ parts => (parts.reverse.find? fun p => p.1 == a).map fun p => p.2
    | _ => none) else none
  (own.getLast?).getD (s.homeByte tenant a)

/-- The bytes that a hart reads at a place, and whether they are poisoned: coherent with the home slices (R115), a device register (R136), or what a PCI Express device answers. -/
def State.hostBytes (s : State) (hart tenant pa n : Nat) : List Byte × Bool :=
  if inRegs pa then (s.regBytes pa n, false)
  else if inPcie pa then ((List.range n).map fun i => Config.freeByte s.free (pa + i), false)
  else (bytesFrom (s.hostByte hart tenant) pa n, (linesIn pa n).any (s.poisonAt tenant))

/-- What a read leaves: the request in a port's queue (R36), a foreign flash unit counted (R90, R112). -/
def State.hostRead (s : State) (tenant pa n : Nat) : State :=
  if inPcie pa then { (s.askPcie pa n) with free := s.free + 1 } else s.countForeign tenant pa

/-- A load or instruction fetch, to end as is said: the bytes of its pieces, those that wait as one (R90, R238). -/
def State.hostLoad (s : State) (a : HostAccess) (acc : Acc) (n : Nat) (put : List (Nat × Nat × Nat) → List Byte → HostHart → HostHart) : State :=
  match s.hostPieces a acc n with
  | .waits => s
  | .fault c va => s.hostTrap a.hart c va
  | .ok ps =>
    if (s.hostAtoms a.hart).any fun x => ps.any fun p => lineOf p.1 == x.2 then s
    else
      let tenant := s.ctxOwner a.ctx
      let rs := ps.map fun p => s.hostBytes a.hart tenant p.1 p.2.2
      let d := rs.flatMap fun r => r.1
      let t := ps.foldl (fun t p => t.hostRead tenant p.1 p.2.2) s
      t.onHost a.hart fun h => put ps d { h with got := d, bad := rs.any fun r => r.2 }

/-- A store-conditional: with its reservation held it writes at the home slice and gives 0, else it gives 1 (R238). (log 67, PRESUMED) -/
def State.hostSc (s : State) (a : HostAccess) (len v : Nat) : State :=
  if !amoOk len a.va then s.hostTrap a.hart 6 a.va
  else match s.hostAt (s.host a.hart) a.ctx .store a.va with
    | .waits => s
    | .fault c => s.hostTrap a.hart c a.va
    | .ok pa pbmt =>
      let own := s.inflight.any fun f => f.owner == .post a.hart && f.line == lineOf pa
      if pbmt = 2 then s.hostTrap a.hart 7 a.va
      else if own || s.rowBusy pa then s
      else if (s.host a.hart).resv = some (pa, len) then
        (s.visible none false (partsFrom pa (leBytes len v)) false).onHost a.hart fun h => { h.put .x a.rd 0 with resv := none }
      else s.onHost a.hart fun h => { h.put .x a.rd 1 with resv := none }

/-- A CSR instruction: its effect, or the exception of an access that the mode forbids. -/
def State.hostCsrOp (s : State) (a : HostAccess) (n : Nat) (v : Option Word) : State :=
  match (s.host a.hart).csrBad n v.isSome with
  | some c => s.hostTrap a.hart c 0
  | none => match v with
    | some w => s.hostCsrWrite a.hart n w
    | none => { (s.onHost a.hart fun h => h.put .x a.rd (s.hostCsr a.hart n).toNat) with free := s.free + 1 }

/-- Must a step of a hart wait: behind an acquire (R238), a release behind its earlier accesses, a FENCE behind earlier writes (R116) or earlier AMOs? -/
def State.hostWaits (s : State) (a : HostAccess) : Bool :=
  s.hostAcquires a.hart || (a.rel && s.hostFlies a.hart) || (match a.op with
    | .fence w => if w then s.hostFlies a.hart else !(s.hostAtoms a.hart).isEmpty
    | _ => false)

/-- R87, R115, R116, R238: a step of a host-die hart, once the die is released (R134). (log 67, PRESUMED) -/
def execHostHartAccess (a : HostAccess) (s : State) : Res :=
  if !(s.reg 0x50).getLsbD 0 || decide (64 ≤ a.hart) || s.hostWaits a then .next s
  else match a.op with
    | .load bank n signed => .next (s.hostLoad a .load n fun _ d h => h.put bank a.rd (loadValue bank signed d))
    | .fetch n => .next (s.hostLoad a .fetch n fun _ _ h => { h with pc := a.va })
    | .store d => .next (s.hostStore a d)
    | .amo op len v => .next (s.hostAtom a op len v)
    | .lr len =>
      if !amoOk len a.va then .next (s.hostTrap a.hart 4 a.va)
      else .next (s.hostLoad a .load len fun ps d h => { h.put .x a.rd (loadValue .x true d) with resv := ps.head?.map fun p => (p.1, len) })
    | .sc len v => .next (s.hostSc a len v)
    | .fence _ => .next (s.onHost a.hart fun h => { h with fences := h.fences + 1 })
    | .csrRead n => .next (s.hostCsrOp a n none)
    | .csrWrite n v => .next (s.hostCsrOp a n (some v))
    | .sret => .next (s.onHost a.hart fun h => h.ret false)
    | .mret => .next (s.onHost a.hart fun h => h.ret true)
    | .msi i => (match s.hub.msis[i]? with
      | none => .next s
      | some id =>
        let hub := { s.hub with msis := s.hub.msis.eraseIdx i }
        .next (({ s with hub := hub }).onHost a.hart fun h => { h with eip := insNat id h.eip }))
    | .compute bank v pc => .next (s.onHost a.hart fun h => { h.put bank a.rd v with pc := pc })

/-! ### Launch windows and queues (R119 to R124) -/

/-- R122: write i of those in flight reaches an enabled window page. -/
def execLaunchWindowWrite (i : Nat) (s : State) : Res :=
  match s.inflight[i]? with
  | none => .next s
  | some f => if (s.windowOf f.line).isSome then execHomeSliceWrite i s else .next s

/-- The boot stage (R135), and whether the command processors run (R134). -/
def State.stage (s : State) : Nat := fld (s.reg 0x50) 7 4
def State.cpRuns (s : State) : Bool := decide (5 ≤ s.stage)

/-- Replace the command processors' state. -/
def State.setCp (s : State) (c : Cp) : State := { s with cp := c }

/-- R124: the serving hart checks the record at the head of queue q and passes it to the device scheduler or rejects it. The head advances
at its next quiescent point (R119); until then the record is not taken again. (log 57, DESIGN CHOICE) -/
def execLaunchRecord (q : Nat) (s : State) : Res :=
  match s.queue q with
  | [] => .next s
  | r :: _ =>
    let t := q / 4
    let g := { gridOf r with tenant := t }
    if !s.cpRuns || s.cp.served.contains q || decide (256 ≤ q) then .next s
    else
      let took := s.setCp { s.cp with served := s.cp.served ++ [q] }
      match s.launchReason r g true with
      | some k => .next (took.postReject t q 0x20 k g.tag)
      | none => if s.tableFull then .next s else .next (took.gridEnter g).1

end Sys2Proof.Machine
end

