-- ==== Sys2Proof/Machine/Firmware.lean ====
section
/-! DEFINITION. Engine resets, firmware images and their hand-over, boot, the watchdog ladder (R118, R119, R129 to R135). -/

namespace Sys2Proof.Machine

/-! ### Boot (R134, R135) -/

/-- Milliseconds in cycles. -/
def msCycles (n : Nat) : Nat := usCycles (1000 * n)

/-- The time in ms after reset at which a boot step ends (R134). -/
def stageMs (n : Nat) : Nat := match n with | 0 | 1 => 0 | 2 => 150 | 3 => 250 | 4 => 250 | 5 => 260 | _ => 300

/-- Put fields into HUB_BOOT_STATUS. -/
def State.bootField (s : State) (hi lo v : Nat) : State := s.setReg 0x50 (setFld (s.reg 0x50) hi lo v)

/-- R134: power is good: the boot ROM starts on hart 0. -/
def execPowerGood (s : State) : Res :=
  if s.parts.powered && s.stage != 0 then .next s
  else
    let parts := { s.parts with powered := true }
    .next (({ s with parts := parts }).bootField 7 4 1)

/-- Registers of a target's slots: HUB_FW_CTL_x and HUB_FW_FLOOR_x. -/
def offFwCtl (x : Nat) : Nat := 0x10 + 8 * (x - 1)
def offFwFloor (x : Nat) : Nat := 0x30 + 8 * (x - 1)

/-! ### Images and their slots (R129, R130) -/

/-- The running slot of a target. -/
def State.active (s : State) (x : Nat) : Nat := fld (s.reg (offFwCtl x)) 0 0

/-- Bytes of a slot, and its address in reserved HBM4E (R130). (log 92, DESIGN CHOICE) -/
def slotBytes : Nat := 3 * Config.frameBytes
def slotAt (x slot : Nat) : Nat := Config.slotFrame * Config.frameBytes + (2 * (x - 1) + slot) * slotBytes

/-- The header of the image at an address (R129), which is so many bytes in all if a length is given. -/
def State.header (s : State) (pa : Nat) (len : Option Nat) : FwImage :=
  let w := fun (i : Nat) => s.rd64 (pa + 8 * i)
  let body := (w 2).toNat
  { target := fld (w 0) 31 24, version := (w 1).toNat, minVer := (w 4).toNat, ckfmt := fld (w 0) 23 16, entry := (w 3).toNat, length := body,
    formed := fld (w 0) 63 32 == 0x41454657 && fld (w 0) 15 0 == 0 && w 5 == 0 && w 6 == 0 && w 7 == 0 && decide (body ≤ 0x1000000)
      && len.all fun n => n == 64 + body + 68 + 2820 }

/-- The image of a target's slot: one that command 0x0A copied there, else what stands in the slot. -/
def State.image (s : State) (x slot : Nat) : FwImage := (mapGet s.cp.images (2 * x + slot)).getD (s.header (slotAt x slot) none)

/-- R129, R130: the digest of the key behind a slot's image is fused, and the signature behind the key covers header, body and key. (log 101, DESIGN CHOICE) -/
def State.signed (s : State) (x slot : Nat) : Bool :=
  let at0 := slotAt x slot
  let n := 64 + (s.image x slot).length
  let key := bytesFrom s.byte (at0 + n) 68
  Config.fusedDigests.contains (Config.shake256 key) && Config.xmssOk key (bytesFrom s.byte (at0 + n + 68) 2820) (bytesFrom s.byte at0 (n + 68))

/-- R130: the conditions on the image of a target's inactive slot, the signature last. -/
def State.accepted (s : State) (x : Nat) : Bool :=
  let im := s.image x (1 - s.active x)
  let run := s.image x (s.active x)
  im.formed && decide ((s.reg (offFwFloor x)).toNat ≤ im.version) && (im.ckfmt == run.ckfmt || im.ckfmt == run.ckfmt + 1) && s.signed x (1 - s.active x)

/-! ### Firmware harts: 0 to 15 are the hub's, 16 to 31 Sawyer's (R117, R131) -/

/-- The number of a target's hart h. -/
def hartKey (x h : Nat) : Nat := 16 * (x - 1) + h

/-- Where a target's image in a slot is entered. (log 66, DESIGN CHOICE) -/
def State.fwEntry (s : State) (x slot : Nat) : Nat := slotAt x slot + 64 + (s.image x slot).entry

/-- A hart restarts in machine mode: x10 holds its checkpoint's address, x11 the reason, and machine interrupts are off (R131, R132). (log 104, PRESUMED) -/
def FwHart.restart (h : FwHart) (pc x11 : Nat) : FwHart :=
  { ((h.setCsr 0x300 (setFld (setFld (h.csr 0x300) 3 3 0) 17 17 0)).put 10 h.chkpt).put 11 x11 with pc := pc, mode := 3 }

/-- Restart one hart. -/
def State.restartHart (s : State) (k x11 pc : Nat) : State := s.putHart k ((s.fwHart k).restart pc x11)

/-- Start every hart of a target at its running image (R131, R132, R134). -/
def State.startHarts (s : State) (x x11 : Nat) : State :=
  let pc := s.fwEntry x (s.active x)
  (List.range 16).foldl (fun t h => t.restartHart (hartKey x h) x11 pc) s

/-- Every watchdog interval of the hub's harts, and its own timer, starts anew. -/
def State.kickAll (s : State) : State :=
  s.setCp { s.cp with kicked := (List.range 16).foldl (fun m h => natsPut m h s.clock) [], hubKick := s.clock }

/-- Make a target's slots run from the other one (R135): active, and the bit of HUB_BOOT_STATUS, which follows it after boot too: under a swap and at level 2. (log 123, DESIGN CHOICE) -/
def State.otherSlot (s : State) (x : Nat) : State :=
  let s := s.setReg (offFwCtl x) (setFld (s.reg (offFwCtl x)) 0 0 (1 - fld (s.reg (offFwCtl x)) 0 0))
  if x = 1 then s.bootField 2 2 (fld (s.reg (offFwCtl 1)) 0 0) else if x = 2 then s.bootField 3 3 (fld (s.reg (offFwCtl 2)) 0 0) else s

/-- A target's slots hold images read from the carrier's NOR flash, whose contents the manual does not give (R134). (log 66, DESIGN CHOICE) -/
def State.norRead (s : State) (x : Nat) : State :=
  (s.setCp { s.cp with images := mapDel (mapDel s.cp.images (2 * x)) (2 * x + 1) }).openRange (slotAt x 0) (2 * slotBytes)

/-- R135: a target's active slot, else its other one; whether one of them passes. -/
def State.bootSlot (s : State) (x : Nat) (activeOk otherOk : Bool) : State × Bool :=
  if activeOk then (s, true) else if otherOk then (s.otherSlot x, true) else (s, false)

/-- The outcome of a verification at boot: the next step, or `failed` and no further. -/
def State.bootTo (r : State × Bool) (next : Nat) : State := if r.2 then r.1.bootField 7 4 next else r.1.bootField 1 1 1

/-- R134: at 260 ms the command processors record the reserved frames and reserve Landing (R56, R70). (log 92, DESIGN CHOICE) -/
def State.reserve (s : State) : State :=
  let xl := { s.xl with reserved := Config.reserved }
  let net := { s.net with landing := some (Config.landingFrame * Config.frameBytes) }
  { s with xl := xl, net := net }

/-- R134, R135: boot goes on to its next step, given which of the active slots pass, and which of the others. (log 66, DESIGN CHOICE) -/
def execBootStep (activeOk otherOk : SlotCheck) (s : State) : Res :=
  let n := s.stage
  if n = 0 ∨ 6 ≤ n ∨ (s.reg 0x50).getLsbD 1 ∨ !s.parts.powered then .next s
  else
    let t := s.upTo (msCycles (stageMs (n + 1)))
    match n with
    | 2 =>
      let a := ((t.norRead 1).norRead 2).bootSlot 1 activeOk.own otherOk.own
      let b := a.1.bootSlot 2 activeOk.sawyer otherOk.sawyer
      .next (State.bootTo (b.1, a.2 && b.2) 3)
    | 3 => .next ((t.startHarts 2 2).bootField 7 4 4)
    | 4 => .next (((t.startHarts 1 2).kickAll.reserve).bootField 7 4 5)
    | 5 =>
      let r := (t.norRead 3).bootSlot 3 activeOk.own otherOk.own
      let u := State.bootTo r 6
      .next (if r.2 then (u.openRange Config.loaderAt slotBytes).bootField 0 0 1 else u)
    | _ => .next (t.bootField 7 4 (n + 1))

/-! ### Hand-over of firmware (R131) -/

/-- Set the state field of a target. -/
def State.fwState (s : State) (x v : Nat) : State := s.setReg (offFwCtl x) (setFld (s.reg (offFwCtl x)) 7 5 v)

/-- A swap is complete: active flips, and the other slot holds the image that ran before. -/
def State.swapDone (s : State) (x : Nat) : State :=
  let s := s.otherSlot x
  s.setReg (offFwCtl x) (setFld (s.reg (offFwCtl x)) 4 4 1)

/-- A hand-over is aborted: state 5, and harts already handed over go back at their next quiescent points. -/
def State.abortSwap (s : State) (x : Nat) : State :=
  match mapGet s.cp.swaps x with
  | none => s
  | some w => (s.fwState x 5).setCp { s.cp with swaps := mapDel s.cp.swaps x, back := s.cp.back ++ w.handed.map (hartKey x) }

/-- R130, R131: verification of target x's inactive slot ends some cycles later; the harts of an accepted image wait to be handed over, and the loader, which has none, changes at once. (log 66, DESIGN CHOICE) -/
def execFwVerifyDone (x took : Nat) (s : State) : Res :=
  if x = 0 ∨ 3 < x ∨ fld (s.reg (offFwCtl x)) 7 5 ≠ 2 then .next s
  else if !s.accepted x then .next ((s.upTo (s.clock + took)).fwState x 5)
  else
    let t := (s.upTo (s.clock + took)).fwState x 3
    if x = 3 then .next (t.swapDone 3)
    else .next (t.setCp { t.cp with swaps := mapPut t.cp.swaps x { waiting := 0, handed := [], since := t.clock } })

/-- The heads of a hart's queues advance past what it has processed (R119). -/
def State.advanceHeads (s : State) (h : Nat) : State :=
  let mine := s.cp.served.filter fun q => q % 16 == h
  let s := mine.foldl (fun t q => (t.setQueue q (t.queue q).tail).headMoved q true) s
  s.setCp { s.cp with served := s.cp.served.filter fun q => q % 16 != h }

/-- Does a hand-over wait for a hart? CP_QUIESCE of the hart then reads 1 (R117, R131). -/
def State.quiesceAsked (s : State) (k : Nat) : Bool :=
  match mapGet s.cp.swaps (hartTarget k) with
  | some w => w.waiting == k % 16
  | none => false

/-- A hart under hand-over restarts on the new image; after the last the swap is complete (R131). (log 66, DESIGN CHOICE) -/
def State.handOver (s : State) (k : Nat) : State :=
  let x := hartTarget k
  match mapGet s.cp.swaps x with
  | none => s
  | some w =>
    if w.waiting ≠ k % 16 then s
    else
      let t := (s.restartHart k 1 (s.fwEntry x (1 - s.active x))).fwState x 4
      if w.waiting < 15 then t.setCp { t.cp with swaps := mapPut t.cp.swaps x { waiting := w.waiting + 1, handed := w.handed ++ [w.waiting], since := s.clock } }
      else ((t.fwState x 0).swapDone x).setCp { t.cp with swaps := mapDel t.cp.swaps x }

/-- A hart that an aborted swap left on the new image returns to the old one (R131); x11 is 1 as for a hand-over. (log 123, DESIGN CHOICE) -/
def State.goBack (s : State) (k : Nat) : State :=
  if s.cp.back.contains k then
    let t := s.restartHart k 1 (s.fwEntry (hartTarget k) (s.active (hartTarget k)))
    t.setCp { t.cp with back := t.cp.back.filter fun j => j != k }
  else s

/-- A hart's queues that hold a record (R119): CP_QPEND (R117). -/
def State.hartQueues (s : State) (h : Nat) : List Nat := (s.hub.queues.filter fun q => q.1 % 16 == h && !q.2.isEmpty).map fun q => q.1

/-- A hart has written its checkpoint, whose contents are firmware's: the area holds bytes of which nothing is known. -/
def State.checkpoint (s : State) (k : Nat) : State :=
  let a := (s.fwHart k).chkpt
  if a = 0 then s else s.openRange a 4096

/-- A hart's queue interrupt, raised by the watchdog, falls once no queue of its holds a record. (log 66, DESIGN CHOICE) -/
def State.settleIrq (s : State) (h : Nat) : State :=
  if (s.hartQueues h).isEmpty && (s.fwHart h).irq then s.putHart h { s.fwHart h with irq := false } else s

/-- R119, R131: a hart of the hub, or of Sawyer, declares a quiescent point. -/
def execCpQuiesceWrite (hart : HartName) (s : State) : Res :=
  let h := hart.hart.val
  if hart.sawyer then .next (if s.stage < 4 then s else ((s.checkpoint (16 + h)).goBack (16 + h)).handOver (16 + h))
  else if !s.cpRuns then .next s
  else .next ((((s.checkpoint h).advanceHeads h).settleIrq h).goBack h |>.handOver h)

/-- R131: the hart under hand-over reaches no quiescent point within 50 ms. -/
def execHandoverTimeout (hart : HartName) (s : State) : Res :=
  let x := if hart.sawyer then 2 else 1
  match mapGet s.cp.swaps x with
  | some w => if w.waiting = hart.hart.val then .next ((s.upTo (w.since + msCycles 50)).abortSwap x) else .next s
  | none => .next s

/-! ### What a command-processor hart reads (R117) -/

/-- The slot that a hart of a target runs from. -/
def State.hartSlot (s : State) (k : Nat) : Nat :=
  let x := hartTarget k
  let moved := s.cp.back.contains k || ((mapGet s.cp.swaps x).any fun w => w.handed.contains (k % 16))
  if moved then 1 - s.active x else s.active x

/-- A CSR that hart k has, as it reads it. Identities that the manual does not give are free. (log 104, PRESUMED) -/
def State.cpCsr (s : State) (k n : Nat) : Word :=
  let r := s.fwHart k
  let x := hartTarget k
  if n = 0x7C1 then (mapGet s.cp.wdog k).getD 0xA00
  else if n = 0x7C2 then (if s.quiesceAsked k then 1 else 0)
  else if n = 0xFC0 then wordOf [(32, Config.serial.toNat), (16, Config.stepping.toNat), (0, 0x4C39)]
  else if n = 0xFC1 then (if k < 16 then wordOf ((s.hartQueues k).map fun q => (q / 16, 1)) else 0)
  else if n = 0xFC2 then wordOf [(1, (s.image x (s.hartSlot k)).version % 2 ^ 63), (0, s.hartSlot k)]
  else if n = 0xF14 then BitVec.ofNat 64 (k % 16)
  else if [0xF11, 0xF12, 0xF13, 0xF15].contains n then Config.freeWord 0 (0x10000 + n)
  else if countCsrs.contains n then s.cpCount k n
  else if 0xC00 ≤ n ∧ n < 0xC0B then s.cpCount k (n - 0x100)
  else if n = 0x100 then r.csr 0x300 &&& sstatusBits
  else if n = 0x104 ∨ n = 0x144 then r.csr (n + 0x200) &&& r.csr 0x303
  else r.csr n

/-- A hart reads a CSR into a register, or takes an illegal-instruction exception (R117). -/
def State.csrRead (s : State) (k n rd : Nat) : State :=
  let h := s.fwHart k
  if h.csrBad n false then s.putHart k h.illegal
  else let t := s.putHart k (h.put rd (s.cpCsr k n).toNat); { t with free := s.free + 1 }

/-! ### Loads and stores of firmware harts (R117, R136) -/

/-- The mode whose rules an access is held to: that before the exception for a load or store of machine mode with MPRV set. -/
def FwHart.level (h : FwHart) (acc : Acc) : Nat := if h.mode = 3 && acc != .fetch && (h.csr 0x300).getLsbD 17 then fld (h.csr 0x300) 12 11 else h.mode

/-- Do the bits of an Sv57 leaf of a hart's tables allow an access: R, W, X, U with SUM and MXR, A, and D for a store? (log 104, PRESUMED) -/
def fwLeafOk (st : Word) (sup : Bool) (acc : Acc) (lvl : Nat) (l : Word) : Bool :=
  (match acc with
    | .load => leafR l || (st.getLsbD 19 && leafX l)
    | .fetch => leafX l
    | _ => leafW l && leafD l) && !(leafW l && !leafR l) && l.getLsbD 6
    && (if leafU l then !sup || (acc != .fetch && st.getLsbD 18) else sup) && leafPpn l % 512 ^ lvl == 0

/-- Where an access of a firmware hart goes: Sv57 below machine mode where satp says so, then the PMP; an exception's number where it is stopped. (log 104, PRESUMED) -/
def State.fwAt (s : State) (h : FwHart) (acc : Acc) (va n : Nat) : Except Nat Nat :=
  let mode := h.level acc
  let page := match acc with | .fetch => 12 | .load => 13 | _ => 15
  let access := match acc with | .fetch => 1 | .load => 5 | _ => 7
  let place : Place := fun a => if h.pmpOk 1 .load a 8 then .ok a else .error 0x14
  let phys : Except Nat Nat :=
    if mode = 3 ∨ fld (h.csr 0x180) 63 60 ≠ 10 then .ok va
    else if !canonical (BitVec.ofNat 64 va) then .error page
    else match s.walkFrom noLook place false (va % 2 ^ 57) 4 (fld (h.csr 0x180) 43 0) with
      | .fault k => .error (if k = 0x14 then access else page)
      | .entry _ l lvl => if fwLeafOk (h.csr 0x300) (mode != 0) acc lvl l then .ok (leafPa (512 ^ lvl) l (BitVec.ofNat 64 va)) else .error page
  match phys with
  | .error k => .error k
  | .ok pa => if h.pmpOk mode acc pa n && populated pa && !(inFlash pa && acc == .store) then .ok pa else .error access

/-- A hart's load of n bytes: of a device register (R136), of memory at its home slice, of what a PCI Express device answers. (log 104, PRESUMED) -/
def State.fwLoad (s : State) (k rd n : Nat) (signed : Bool) (va : Nat) : State :=
  let h := s.fwHart k
  if !([1, 2, 4, 8].contains n) || va % n != 0 then s.putHart k (h.trap 4 va)
  else match s.fwAt h .load va n with
    | .error c => s.putHart k (h.trap c va)
    | .ok pa =>
      if s.rowBusy pa || (s.flashHeld pa && !s.l2Has pa) || s.portDown pa then s
      else
        let d := if inRegs pa then (if k < 16 then s.regBytes pa n else List.replicate n 0)
          else if inPcie pa then (List.range n).map fun i => Config.freeByte s.free (pa + i) else bytesFrom (s.homeByte 64) pa n
        let t := if inPcie pa then { (s.askPcie pa n) with free := s.free + 1 } else s.countForeign 64 pa
        t.putHart k (h.put rd (loadValue .x signed d))

/-- A hart's store of n bytes. (log 104, PRESUMED) -/
def State.fwStore (s : State) (k n : Nat) (va v : Nat) : State :=
  let h := s.fwHart k
  let d := leBytes n v
  if !([1, 2, 4, 8].contains n) || va % n != 0 then s.putHart k (h.trap 6 va)
  else match s.fwAt h .store va n with
    | .error c => s.putHart k (h.trap c va)
    | .ok pa =>
      if s.rowBusy pa then s
      else if inRegs pa then (if k < 16 then s.regStore .cp pa d else s)
      else if inPcie pa then s.postPcie pa d
      else s.visible none false (partsFrom pa d) false

/-- R117, R136: a write to a device register, at a physical address, by a party as one; or a step of a firmware hart that runs: a CSR by its number, a load or store at an effective address. -/
def execRegisterWrite (p : Party) (addr : Nat) (v : Word) (s : State) : Res :=
  let hart := fun (k : Nat) (t : State) => if k < 32 ∧ (if k < 16 then 5 else 4) ≤ s.stage then Host.Outcome.next t else .next s
  match p with
  | .csr k => .next (s.csrWrite k addr v)
  | .route => if addr < 2 ^ 19 ∧ s.cpRuns then .next (s.setRoute addr (if v = 0 then none else some v.toNat)) else .next s
  | .csrLoad k rd => hart k (s.csrRead k addr rd)
  | .load k rd n signed => hart k (s.fwLoad k rd n signed addr)
  | .store k n => hart k (s.fwStore k n addr v.toNat)
  | .ret k machine => hart k (s.putHart k ((s.fwHart k).ret machine))
  | .compute k rd => hart k (s.putHart k { (s.fwHart k).put rd v.toNat with pc := addr })
  | _ => if inRegs addr ∧ addr % 8 = 0 then .next (s.regWrite p (addr - Config.regBase) v) else .next s

/-! ### Engine resets (R85, R94, R132, R213, R269) -/

/-- The tenants of some grids, without repeats. -/
def State.tenantsOf (s : State) (gs : List Nat) : List Nat := (gs.filterMap fun g => (s.grid? g).map fun x => x.tenant).eraseDups

/-- The tenants that have work on an engine. -/
def State.engineWork (s : State) : Engine → List Nat
  | .copy g => s.tenantsOf ((s.crews.filter fun c => groveOf c.core == g && c.copies.any fun q => !q.isEmpty).map fun c => c.key.grid)
  | .walker g => ((s.xl.misses.filter fun m => m.grove == g && m.walking).map fun m => m.tenant).eraseDups
  | .fault g => (s.tenantsOf ((s.flash.deferred.filter fun d => d.grove == g).map fun d => d.owner.grid) ++
      ((s.xl.migs.filter fun m => m.waiters.any fun k => groveOf (s.coreOfB k) == g).map fun m => m.tenant)).eraseDups
  | .skidder k => ((s.flash.streams.filter fun x => x.1 / 64 == k).map (fun x => s.streamTenant x.1) ++ ((mapGet s.flash.reqs k).getD []).map fun r => r.tenant).eraseDups
  | .xoxia => (s.net.sends.map (fun x => x.tenant) ++ s.net.recs.map fun r => r.tenant).eraseDups
  | .collective k => (((s.chunkQueue k) ++ (s.coll.slots.filter fun x => x.1.1 == k).map fun x => x.2).map fun c => s.commTenant c.comm).eraseDups

/-- Every copy command of a crew ends with status 1. -/
def State.dropCopies (s : State) (c : Crew) : State :=
  let t := s.putCrew { c with copies := c.copies.map fun _ => [] }
  match s.crewEng c.key with
  | some e => t.endCopies e c.copies.flatten
  | none => t

/-- A migration of the fault unit fails: its frame is kept and its waiters walk again. (log 47, DEDUCED) -/
def State.dropMig (s : State) (m : Mig) : State :=
  let s := match m.frame with | some f => s.keepFrame m.tenant m.size f | none => s
  (s.setMigs (s.xl.migs.filter fun x => x != m)).migEnd m

/-- A send fails under an engine reset: its status is not given, but for not being 0. (log 65, DESIGN CHOICE) -/
def State.dropSend (s : State) (x : Send) : State :=
  let id := s.free
  ({ s with free := id + 1 }).sendToken x (1 + (Config.freeWord id 0).toNat % 6) x.confirmed

/-- A record fails under an engine reset: its cause is not given, but for being one of R60. -/
def State.dropRec (s : State) (r : NetRec) : State :=
  let id := s.free
  ({ s with free := id + 1 }).recFail r (1 + (Config.freeWord id 0).toNat % 6) r.pending true

/-- An engine is reset, and its work fails. (log 65, DESIGN CHOICE) -/
def State.engineReset (s : State) (e : Engine) : State :=
  match e with
  | .copy g => (s.crews.filter fun c => groveOf c.core == g).foldl State.dropCopies s
  | .walker g => s.setMisses (s.xl.misses.map fun m => if m.grove = g then { m with walking := false } else m)
  | .fault g =>
    let t := (s.xl.migs.filter fun m => m.waiters.any fun k => groveOf (s.coreOfB k) == g).foldl State.dropMig s
    t.replayAll fun d => d.grove == g
  | .skidder k =>
    let hs := s.flash.streams.filter fun x => x.1 / 64 == k
    let reqs := (mapGet s.flash.reqs k).getD []
    let t := hs.foldl (fun t x => t.abortStream x.2) s
    let t := reqs.foldl (fun t r => t.refuse r.owner r.pid r.handle.toNat 6) t
    t.setFlash { t.flash with reqs := mapDel t.flash.reqs k }
  | .xoxia => s.net.recs.foldl State.dropRec (s.net.sends.foldl State.dropSend s)
  | .collective k =>
    let cs := ((s.chunkQueue k) ++ (s.coll.slots.filter fun x => x.1.1 == k).map fun x => x.2).map fun c => c.comm
    cs.eraseDups.foldl (fun t n => t.commFail n 6) s

/-! ### The watchdog ladder (R132, R133) -/

/-- Count a level in HUB_WD_STATUS; one of 1 or more aborts a hand-over (R131). -/
def State.wdCount (s : State) (level : Nat) : State :=
  let s := if level = 0 then s else (s.abortSwap 1).abortSwap 2
  let w := s.reg 0x48
  let w := match level with | 0 => satAdd w 63 48 1 | 1 => satAdd w 47 32 1 | 2 => satAdd w 31 24 1 | 3 => satAdd w 23 16 1 | _ => satAdd w 15 8 1
  s.setReg 0x48 (setFld w 2 0 level)

/-- Post the record of a watchdog action to some tenants. -/
def State.wdRecord (s : State) (ts : List Nat) (level who : Nat) : State :=
  ts.foldl (fun t x => t.post x (wordOf [(56, 0x40), (48, level), (40, who)]) 0 0 0) s

/-- The tenants of a hart's queues (R119, R120). -/
def hartTenants (h : Nat) : List Nat := (List.range 64).filter fun t => t % 4 == h / 4

/-- Times noted for one key at or after a time. -/
def since (l : List (Nat × Nat)) (k t : Nat) : Nat := (l.filter fun x => x.1 == k && decide (t ≤ x.2)).length

/-- Level 3: the tenant of a queue is reset (R127); one that is resetting already absorbs it (R133). -/
def State.level3 (s : State) (q : Nat) : State :=
  if s.resetting (q / 4) then s else (s.wdCount 3).tenantStart (q / 4)

/-- Level 2: every hart restarts under the other slot's image, those too that an aborted hand-over left behind. -/
def State.level2 (s : State) (qs : List Nat) (h : Nat) : State :=
  let s := (s.wdCount 2).otherSlot 1
  let s := s.setCp { s.cp with level2 := s.cp.level2 ++ qs.map (fun q => (q, s.clock)), back := s.cp.back.filter fun k => decide (16 ≤ k) }
  ((s.startHarts 1 0).kickAll).wdRecord (List.range 64) 2 h

/-- Level 1: a hart restarts from its checkpoint; again within 100 ms it is level 2, or level 3 when no previous image is valid: for the queues given, or, with none, for every tenant of the
hart's queues. (log 66, DESIGN CHOICE, log 103, DESIGN CHOICE) -/
def State.level1 (s : State) (h : Nat) (qs : List Nat) : State :=
  if 1 ≤ since s.cp.level1 h (s.clock - msCycles 100) then
    if fld (s.reg (offFwCtl 1)) 4 4 = 1 then s.level2 qs h
    else (if qs.isEmpty then (hartTenants h).map (4 * ·) else qs).foldl State.level3 s
  else
    let s := s.wdCount 1
    let w := (mapGet s.cp.wdog h).getD 0xA00
    let cp := { s.cp with level1 := s.cp.level1 ++ [(h, s.clock)], wdog := mapPut s.cp.wdog h (satAdd w 23 16 1), kicked := natsPut s.cp.kicked h s.clock }
    ((s.setCp cp).restartHart h 0 (s.fwEntry 1 (s.hartSlot h))).wdRecord (hartTenants h) 1 h

/-- Level 0: a hart's queue interrupt is raised again. -/
def State.level0 (s : State) (q : Nat) : State :=
  let t := (s.wdCount 0).setCp { s.cp with level0 := s.cp.level0 ++ [(q, s.clock)] }
  t.putHart (q % 16) { t.fwHart (q % 16) with irq := true }

/-- R132: the head of queue q has not advanced for 2 ms: level 0; the third time in 20 ms level 1; within 1 s after level 2, level 3. -/
def execWatchdogQueueStall (q : Nat) (s : State) : Res :=
  if (s.queue q).isEmpty || !s.cpRuns then .next s
  else
    let t := (s.upTo (natsGet s.cp.headAt q + msCycles 2))
    let t := t.headMoved q true
    if 1 ≤ since t.cp.level2 q (t.clock - msCycles 1000) then .next (t.level3 q)
    else
      let t := t.level0 q
      if 3 ≤ since t.cp.level0 q (t.clock - msCycles 20) then
        .next ((t.setCp { t.cp with level0 := t.cp.level0.filter fun x => x.1 != q }).level1 (q % 16) [q])
      else .next t

/-- The kick interval of a hart in cycles (R118). -/
def State.kickDue (s : State) (h : Nat) : Nat := natsGet s.cp.kicked h + msCycles (fld ((mapGet s.cp.wdog h).getD 0xA00) 15 8)

/-- R132: a hart misses its kick interval. -/
def execWatchdogKickMissed (hart : Fin 16) (s : State) : Res :=
  if !s.cpRuns then .next s
  else
    let t := s.upTo (s.kickDue hart.val)
    let t := t.setCp { t.cp with kicked := natsPut t.cp.kicked hart.val t.clock }
    .next (t.level1 hart.val (t.hartQueues hart.val))

/-- R118: a write of CP_WDOG; a kick restarts the hart's interval and refreshes the hub's own timer, whichever hart's it is. (log 123, DESIGN CHOICE) -/
def execCpWdogKick (hart : Fin 16) (v : Word) (s : State) : Res :=
  let h := hart.val
  let w := (mapGet s.cp.wdog h).getD 0xA00
  let w := take w v 23 16
  let w := if 1 ≤ fld v 15 8 ∧ fld v 15 8 ≤ 100 then take w v 15 8 else w
  let cp := { s.cp with wdog := mapPut s.cp.wdog h w }
  .next (s.setCp (if v.getLsbD 0 then { cp with kicked := natsPut cp.kicked h s.clock, hubKick := s.clock } else cp))

/-- The number of an engine in records and in command 0x0D, which the manual does not give. (log 65, DESIGN CHOICE) -/
def engineNo (e : Engine) : Nat :=
  let k := match e with | .copy g => g | .walker g => 12 + g | .fault g => 24 + g | .skidder k => 36 + k | .xoxia => 40 | .collective k => 41 + k
  (Config.freeWord 0 (64 + k)).toNat % 256

/-- Level 4: an engine is reset, its work completing as the tenants' records say. -/
def State.level4 (s : State) (e : Engine) (ts : List Nat) : State :=
  let s := s.wdCount 4
  let t := s.setCp { s.cp with level4 := (s.cp.level4.filter fun x => x.1 != e) ++ [(e, s.clock)] }
  (t.engineReset e).wdRecord ts 4 (engineNo e)

/-- R132: an engine with work makes no progress for 20 ms: level 4; where its last level 4 has not restored progress, level 5 100 ms after that. -/
def execEngineNoProgress (e : EngineStall) (s : State) : Res :=
  let ts := s.engineWork e.engine
  if ts.isEmpty then .next s
  else
    let t := s.upTo (s.clock + msCycles 20)
    match s.cp.level4.find? fun x => x.1 == e.engine with
    | some x => if e.restored then .next (t.level4 e.engine ts) else .next ((t.upTo (x.2 + msCycles 100)).reborn 1 true)
    | none => .next (t.level4 e.engine ts)

/-- R132: no hart refreshes the hub's timer for 1 s: level 5. -/
def execHubTimerExpiry (s : State) : Res :=
  if s.cpRuns then .next ((s.upTo (s.cp.hubKick + msCycles 1000)).reborn 1 true) else .next s

/-! ### Errors that codes detect (R186, R275, R278, R282, R285) -/

/-- Does a core keep a mirror copy of each vector register held: are those held at most 1,024, in granules of 8 (R186)? -/
def State.mirrored (s : State) (core : Nat) : Bool := decide ((s.used core).getD 2 0 ≤ 128)

/-- Count an error of a core's arrays: corrected, or served from a mirror copy (R285). -/
def State.countRas (s : State) (core hi lo : Nat) : State := s.setReg (offCoreRas core) (satAdd (s.reg (offCoreRas core)) hi lo 1)

/-- The key of the register, or lane, that an error meets, of those that the bundle holds (R278). -/
def errKey (g : Grid) (b : Bundle) (lane : Nat) : Sel → Option Nat
  | .s n => some (sKey n.val)
  | .m n => some (mKey n.val)
  | .v n => if n.val < 8 * (g.regs + b.arch.ext) ∧ lane < g.width then some (vKey n.val lane) else none
  | _ => none

/-- A register is poison, in the checkpoints too that hold the same word of it: it has not been written since (R277, R278). (log 35, DEDUCED) -/
def Arch.spoilReg (a : Arch) (n : Nat) : Arch := { a with bad := if a.bad.contains n then a.bad else n :: a.bad }
def Bundle.spoilReg (b : Bundle) (n : Nat) : Bundle :=
  { b with arch := b.arch.spoilReg n, window := b.window.map fun x => if mapGet x.2.regs n = mapGet b.arch.regs n then (x.1, x.2.spoilReg n) else x }

/-- An error in a register (R186, R278): one of a vector register of a mirrored core is served from the copy and counted; else the register, or the lane, is poison. -/
def State.regError (s : State) (k : BKey) (r : Sel) (lane : Nat) (multi : Bool) : State :=
  match s.bundle? k, s.crew? k.ck, s.grid? k.grid with
  | some b, some c, some g =>
    if !b.live || c.st != .resident then s
    else match errKey g b lane r with
      | none => s
      | some n =>
        if !multi then s.countRas c.core 47 32
        else if (match r with | .v _ => true | _ => false) && s.mirrored c.core then s.countRas c.core 31 16
        else s.onBundle k fun b => b.spoilReg n
  | _, _, _ => s

/-- An error in what a crew holds on its core: corrected and counted, or poison. -/
def State.crewError (s : State) (k : CKey) (multi : Bool) (f : Crew → Crew) : State :=
  match s.crew? k with
  | none => s
  | some c => if c.st != .resident then s else if multi then s.putCrew (f c) else s.countRas c.core 47 32

/-- A line of a crew's window or allocation is poison (R278). -/
def Crew.spoil (c : Crew) (sp : Space) (a : Nat) : Crew := { c with bad := if c.bad.contains (sp, lineOf a) then c.bad else (sp, lineOf a) :: c.bad }

/-- The engine whose state a reserved line is, if it is one's (R282): Xoxia's Landing, the receive buffers of the collectives of a stack. -/
def lineEngine (pa : Nat) : Option Engine :=
  let f := pa / Config.frameBytes
  if Config.landingFrame ≤ f ∧ f < Config.landingFrame + 43 then some .xoxia
  else if 88201 ≤ f ∧ f < 88717 then some (.collective ((f - 88201) / 43))
  else none

/-- Does a line hold entries of a page pool's ring (R82, R282)? -/
def State.poolLine (s : State) (pa : Nat) : Bool :=
  (List.range 192).any fun n => let b := fld (s.poolBase n) 55 12 * 4096; decide (s.poolSize n ≠ 0 ∧ b ≤ pa ∧ pa < b + 8 * s.poolSize n)

/-- A line is poison, met in the home slice that holds it or where it lies (R278, R281). -/
def State.poisonHere (s : State) (pa : Nat) : State := if s.l2Has pa then s.poisonFrom (lineOf pa) 3 else s.poisonLine (lineOf pa)

/-- An error in a line of memory: no tenant's, a pool's ring among them, is handled by a reset (R282), any other is poison. -/
def State.lineError (s : State) (pa : Nat) : State :=
  if !populated pa then s
  else if s.poolLine (lineOf pa) then s.reborn 1 true
  else if s.frameReserved (pa / Config.frameBytes) && inHbm pa then
    match lineEngine pa with
    | some e => s.level4 e []
    | none => if Config.slotFrame ≤ pa / Config.frameBytes ∧ pa / Config.frameBytes < Config.slotFrame + 18 then s.reborn 1 true else s.poisonHere pa
  else s.poisonHere pa

/-- What becomes of an error that a code detects. One of a host-die hart is a hardware-error interrupt that mip shows (R275): 43 where it was not corrected, 35 where it was. (log 102, PRESUMED) -/
def State.arrayError (s : State) (x : ArrayError) : State :=
  match x.place with
  | .reg b r lane => s.regError b r lane x.multi
  | .window c a => s.crewError c x.multi fun k => k.spoil .ls a
  | .tile c n => s.crewError c x.multi fun k => { k with tiles := k.tiles.modify n fun t => { t with poisoned := true, owed := (s.crewBundles c).map fun b => b.key } }
  | .vault c a => if x.multi then s.onCrew c fun k => if k.grove.isSome then k.spoil .vlt a else k else s
  | .line pa => if x.multi then s.lineError pa else s
  | .area c => if x.multi then s.onCrew c fun k => if k.st == .saved then { k with areaBad := true } else k else s
  | .engine e => if x.multi then s.level4 e [] else s
  | .device => if x.multi then s.reborn 1 true else s
  | .hostHart n => if n < 64 then s.onHost n fun h => h.setCsr 0x344 (setFld (h.csr 0x344) (if x.multi then 43 else 35) (if x.multi then 43 else 35) 1) else s

/-- R275, R277: a sensor reports a strike: the bundles of a column roll back; a scrub reads the region's arrays, and its codes report the errors that it meets (R278, R282). (log 35, DEDUCED) -/
def execStrikeReport (r : Strike) (s : State) : Res :=
  let ks := (strikeCores r.region).flatMap fun k => (s.residents k).map fun c => c.key
  let t := ks.foldl State.rollCrew s
  let t := (strikeCores r.region).foldl (fun t k => t.setReg (offCoreRas k) (satAdd (t.reg (offCoreRas k)) 63 48 1)) t
  .next (r.errs.foldl State.arrayError t)

end Sys2Proof.Machine
end

