-- ==== Sys2Proof/Machine/Commands.lean ====
section
/-! DEFINITION. The command ring of the host operating system (R50, R70, R73, R89, R97, R109, R128 to R132, R266, R457). -/

namespace Sys2Proof.Machine

/-! ### The ring (R128) -/

/-- The codes of R128 and R266. -/
def cmdCodes : List Nat := [1, 2, 3, 4, 5, 6, 7, 8, 9, 10, 11, 12, 13, 16, 17]

/-- The record at the head of the ring, if there is one and the command processors run. (log 57, DESIGN CHOICE) -/
def State.cmdHead (s : State) : Option (List Word) :=
  let base := s.reg 0
  let ptr := s.reg 8
  if !s.cpRuns || fld base 4 0 == 0 || fld ptr 63 48 == fld ptr 47 32 then none
  else some (s.record (fld base 55 12 * 4096 + 64 * (fld ptr 47 32 % 2 ^ fld base 4 0)))

/-- The code and the tenant of a record. -/
def cmdCode (r : List Word) : Nat := fld (recW r 0) 63 48
def cmdTenant (r : List Word) : Nat := fld (recW r 0) 47 40

/-- Write a reply, advance the head, send the MSI. -/
def State.reply (s : State) (r : List Word) (value status : Nat) : State :=
  let w := wordOf [(32, fld (recW r 0) 31 0), (8, value % 2 ^ 24), (0, status)]
  let s := s.visible none false (partsFrom (recW r 7).toNat (leBytes 8 w.toNat)) false
  let ptr := s.reg 8
  let s := s.setReg 8 (setFld ptr 47 32 ((fld ptr 47 32 + 1) % 2 ^ fld (s.reg 0) 4 0))
  if ptr.getLsbD 0 then { s with hub := { s.hub with msis := s.hub.msis ++ [64] } } else s

/-- What a command answers: the state, the value and the status. -/
structure Reply where
  s      : State
  value  : Nat
  status : Nat

/-- A status without effect. -/
def State.no (s : State) (status : Nat) : Reply := ⟨s, 0, status⟩

/-- Carry out the command at the head of the ring, if it is one that a test picks; a tenant above 63 is a bad operand. -/
def State.command (s : State) (pick : List Word → Bool) (run : List Word → State → Reply) : Res :=
  match s.cmdHead with
  | none => .next s
  | some r =>
    if !pick r then .next s
    else
      let a := if 64 ≤ cmdTenant r ∧ cmdCodes.contains (cmdCode r) then s.no 2 else run r s
      .next (a.s.reply r a.value a.status)

/-- The same for a command that may have to wait (for a shoot-down): it stays at the head meanwhile. -/
def State.commandAfter (s : State) (pick : List Word → Bool) (waits : List Word → State → Bool) (run : List Word → State → Reply) : Res :=
  match s.cmdHead with
  | some r => if pick r && decide (cmdTenant r < 64) && waits r s then .next s else s.command pick run
  | none => .next s

/-- Is a record of a code? -/
def isCode (n : Nat) (r : List Word) : Bool := cmdCode r == n

/-- Operand i of a record. (log 60, DESIGN CHOICE) -/
def opnum (r : List Word) (i : Nat) : Nat := (recW r i).toNat

/-! ### Contexts (R73) -/

/-- Put a context binding in place of one of its number. -/
def State.putCtx (s : State) (c : Ctx) : State :=
  let xl := { s.xl with ctxs := s.xl.ctxs.filter (fun x => x.num != c.num) ++ [c] }
  { s with xl := xl }

/-- The context that has gone longest without a launch. -/
def oldestCtx : List Ctx → Option Ctx
  | [] => none
  | c :: r => some (r.foldl (fun a x => if x.last < a.last then x else a) c)

/-- The binding of a live pair of a tenant, if there is one. -/
def State.livePair (s : State) (r : List Word) : Option Ctx :=
  s.xl.ctxs.find? fun c => c.tenant == cmdTenant r && c.guest == opnum r 1 && c.asid == opnum r 2

/-- Is a root table's address one that a binding may have? -/
def rootOk (root : Nat) : Bool := root % 4096 == 0 && (inHbm root || inLp root)

/-- The context whose number a binding takes, when it has no number and all are live (R73). -/
def State.bindVictim (s : State) (r : List Word) : Option Ctx :=
  if (s.livePair r).isSome || (List.range 1024).any (fun n => (s.ctx? n).isNone) || !rootOk (opnum r 3) then none else oldestCtx s.xl.ctxs

/-- The shoot-down of a context. -/
def Ctx.shoot (c : Ctx) : Shoot := ⟨c.tenant, 1, c.num, 0⟩

/-- 0x01: bind a pair of guest and address space. A live pair keeps its number and its age and takes the new root; a new one counts as launched when it is bound
(log 96, DESIGN CHOICE). -/
def cmdBind (r : List Word) (s : State) : Reply :=
  let root := opnum r 3
  if !rootOk root then s.no 2
  else
    let ctx := fun (n : Nat) => (⟨n, cmdTenant r, opnum r 1, opnum r 2, root / 4096, s.clock⟩ : Ctx)
    match s.livePair r with
    | some c => ⟨s.putCtx { c with root := root / 4096 }, c.num, 0⟩
    | none =>
      match (List.range 1024).find? fun n => (s.ctx? n).isNone with
      | some n => ⟨s.putCtx (ctx n), n, 0⟩
      | none => match oldestCtx s.xl.ctxs with
        | some c => ⟨(s.sdEffect c.shoot).putCtx (ctx c.num), c.num, 0⟩
        | none => s.no 3

/-- The context that an unbind names, if it is its tenant's. -/
def State.unbound (s : State) (r : List Word) : Option Ctx := (s.ctx? (opnum r 1)).filter fun c => c.tenant == cmdTenant r

/-- 0x02: unbind a context of the tenant, after a shoot-down of it. -/
def cmdUnbind (r : List Word) (s : State) : Reply :=
  if 1024 ≤ opnum r 1 then s.no 2
  else match s.unbound r with
    | none => s.no 3
    | some c =>
      let t := s.sdEffect c.shoot
      let xl := { t.xl with ctxs := t.xl.ctxs.filter fun x => x.num != c.num }
      ⟨{ t with xl := xl }, 0, 0⟩

/-- The shoot-down that a command needs completes only once every access through a translation in scope has (R76). -/
def execCmdBindContext (s : State) : Res :=
  s.commandAfter (isCode 1) (fun r s => (s.bindVictim r).any fun c => s.sdWaits c.shoot) cmdBind
def execCmdUnbindContext (s : State) : Res :=
  s.commandAfter (isCode 2) (fun r s => (s.unbound r).any fun c => s.sdWaits c.shoot) cmdUnbind

/-! ### Frames, regions, anchors (R70, R89, R97) -/

/-- The descriptors that a pool's ring holds (R82). -/
def State.ringDescs (s : State) (n : Nat) : List Word :=
  let size := s.poolSize n
  let head := fld (s.poolPtr n) 63 48
  if size = 0 then [] else (List.range ((fld (s.poolPtr n) 47 32 + size - head % size) % size)).map fun i => s.rd64 (fld (s.poolBase n) 55 12 * 4096 + 8 * ((head + i) % size))

/-- The tenants that a frame belongs to, as far as the device knows: those with a page of it in a pool, kept, on its way or in a translation held (log 93, DESIGN CHOICE). -/
def State.frameTenants (s : State) (f : Nat) : List Nat :=
  let of := fun (ppn : Nat) => decide (4096 * ppn / Config.frameBytes = f)
  (List.range 64).filter fun t =>
    ([0, 1, 2].any fun z => (s.ringDescs (3 * t + z)).any fun d => of (fld d 55 12)) || s.xl.kept.any (fun k => k.1 == t && of k.2.2.2)
      || s.xl.migs.any (fun m => m.tenant == t && m.frame.any fun x => of x.2) || s.xl.tlb.any fun x => s.ctxOwner x.2.ctx == t && leafTier x.2.leaf == 0 && of (leafPpn x.2.leaf)

/-- 0x03: record a frame's scheme, of a frame that belongs to one tenant or to none; a change leaves its contents unspecified. A frame that firmware reserves, or that belongs to
several tenants, is refused. -/
def cmdScheme (r : List Word) (s : State) : Reply :=
  let f := opnum r 1
  let k := opnum r 2
  if Config.frames ≤ f ∨ 8 ≤ k then s.no 2
  else if s.frameReserved f ∨ 2 ≤ (s.frameTenants f).length then s.no 3
  else if natsGet s.xl.frames f = k + 1 then ⟨s, 0, 0⟩
  else
    let xl := { s.xl with frames := natsPut s.xl.frames f (k + 1) }
    ⟨({ s with xl := xl }).openRange (f * Config.frameBytes) Config.frameBytes, 0, 0⟩

def execCmdSetFrameScheme (s : State) : Res := s.command (isCode 3) cmdScheme

/-- State and tenant of a region; does it hold a unit? -/
def State.regionState (s : State) (n : Nat) : Nat := fld (s.reg (offRegion n)) 63 62
def State.regionTenant (s : State) (n : Nat) : Nat := fld (s.reg (offRegion n)) 61 56

/-- Does a run of units meet a region that is not free? -/
def State.unitsTaken (s : State) (u n : Nat) : Bool :=
  s.regionNums.any fun k =>
    let w := s.reg (offRegion k)
    fld w 63 62 != 0 && decide (fld w 49 24 < u + n ∧ u < fld w 49 24 + fld w 23 0)

/-- 0x04: grant a run of units of one stack under the lowest free region number. -/
def cmdGrant (r : List Word) (s : State) : Reply :=
  let k := opnum r 1
  let u := opnum r 2
  let n := opnum r 3
  if 4 ≤ k ∨ u / 16777216 ≠ k ∨ n = 0 ∨ 16777216 ≤ n then s.no 2
  else if (u + n - 1) / 16777216 ≠ k ∨ s.unitsTaken u n then s.no 3
  else match (List.range 16384).find? fun i => s.regionState i == 0 with
    | none => s.no 3
    | some i => ⟨(s.regionWrite i (wordOf [(62, 1), (56, cmdTenant r), (24, u), (0, n)])).setSealed i 0, i, 0⟩

/-- Is a region one that was granted to the command's tenant? -/
def State.regionHeld (s : State) (r : List Word) (n : Nat) : Bool :=
  (s.regionState n == 1 || s.regionState n == 2) && s.regionTenant n == cmdTenant r

/-- Does a flash leaf of a size with V = 1 map a unit among some? -/
def mapsUnits (l : Word) (size lo n : Nat) : Bool :=
  let u := unitOf (leafPpn l / zPages size * zPages size * 4096)
  leafV l && leafTier l == 2 && decide (u < lo + n ∧ lo < u + max 1 (zPages size / 16))

/-- Does an anchored leaf with V = 1 map a unit of a region (R97)? -/
def State.regionAnchored (s : State) (n : Nat) : Bool :=
  let w := s.reg (offRegion n)
  s.flash.anchors.any fun a => decide (a.1 < fld w 49 24 + fld w 23 0 ∧ fld w 49 24 < a.1 + a.2.1) && mapsUnits (s.rd64 a.2.2.1) a.2.2.2 (fld w 49 24) (fld w 23 0)

/-- 0x05: a region is freed into erasing, unless it is mapped or open. -/
def cmdFree (r : List Word) (s : State) : Reply :=
  let n := opnum r 1
  if 16384 ≤ n then s.no 2
  else if !s.regionHeld r n || s.regionAnchored n || (s.reg (offRegionEnd n)).getLsbD 63 then s.no 3
  else ⟨s.regionWrite n (setFld (s.reg (offRegion n)) 63 62 3), 0, 0⟩

/-- 0x06: a region becomes read-only. -/
def cmdReadOnly (r : List Word) (s : State) : Reply :=
  let n := opnum r 1
  if 16384 ≤ n then s.no 2
  else if !s.regionHeld r n then s.no 3
  else ⟨s.regionWrite n (setFld (s.reg (offRegion n)) 63 62 2), 0, 0⟩

def execCmdGrantRegion (s : State) : Res := s.command (isCode 4) cmdGrant
def execCmdFreeRegion (s : State) : Res := s.command (isCode 5) cmdFree
def execCmdSetRegionReadOnly (s : State) : Res := s.command (isCode 6) cmdReadOnly

/-- Does a leaf pass the checks of R69 for a tier-2 leaf of a size: 1 64 KiB, 2 2 MiB, 3 1 GiB? -/
def State.anchorOk (s : State) (size : Nat) (l : Word) : Bool :=
  let lvl := size - 1
  leafV l && isLeaf l && leafTier l == 2 && (leafN l == (size == 1)) &&
    (s.leafCheck false .load lvl (l ||| 0x12) (leafPa (leafPages lvl l) l 0)).isNone

/-- 0x07: register a flash leaf as the anchor of its units. -/
def cmdAnchor (r : List Word) (s : State) : Reply :=
  let size := opnum r 2
  let pa := opnum r 1
  let leaf := if size = 1 then pa / 128 * 128 else pa
  let l := s.rd64 pa
  if size = 0 ∨ 3 < size ∨ pa % 8 ≠ 0 ∨ !(inHbm pa || inLp pa) ∨ !s.anchorOk size l then s.no 2
  else
    let u := unitOf (leafBase (size - 1) l * 4096)
    let n := leafPages (size - 1) l / 16
    let mine := s.regionNums.filter (s.regionHeld r)
    let owned := (List.range n).all fun i => mine.any fun k =>
      let w := s.reg (offRegion k)
      decide (fld w 49 24 ≤ u + i ∧ u + i < fld w 49 24 + fld w 23 0)
    let others := s.flash.anchors.filter fun a => decide (a.1 < u + n ∧ u < a.1 + a.2.1)
    if !owned || others.any (fun a => a.2.2.1 != leaf) then s.no 3
    else if others.isEmpty then ⟨s.setFlash { s.flash with anchors := s.flash.anchors ++ [(u, n, leaf, size)] }, 0, 0⟩
    else ⟨s, 0, 0⟩

def execCmdAnchorFlashLeaf (s : State) : Res := s.command (isCode 7) cmdAnchor

/-! ### Profiles, quotas, streams (R50, R62, R75, R109) -/

/-- 0x08: a code profile of the tenant. -/
def cmdProfile (r : List Word) (s : State) : Reply :=
  if 16 ≤ opnum r 1 then s.no 2 else ⟨s.hubWrite true (0x4000 + 8 * (16 * cmdTenant r + opnum r 1)) (recW r 2), 0, 0⟩

/-- 0x09: the record quota, and the walk quota on every grove. -/
def cmdQuotas (r : List Word) (s : State) : Reply :=
  let t := cmdTenant r
  if 512 < opnum r 1 ∨ opnum r 2 = 0 ∨ 128 < opnum r 2 then s.no 2
  else
    let s := s.setReg (0x6000 + 8 * t) (setFld (s.reg (0x6000 + 8 * t)) 63 54 (opnum r 1))
    ⟨(List.range Config.groves).foldl (fun u g => u.setReg (offWalk g t) (setFld (u.reg (offWalk g t)) 7 0 (opnum r 2))) s, 0, 0⟩

/-- 0x0C: abort a stream of the tenant. -/
def cmdAbort (r : List Word) (s : State) : Reply :=
  let h := opnum r 1
  if 256 ≤ h then s.no 2
  else match s.fstream h with
    | none => s.no 3
    | some f => if s.streamTenant h ≠ cmdTenant r then s.no 3 else ⟨s.abortStream f, 0, 0⟩

def execCmdWriteCodeProfile (s : State) : Res := s.command (isCode 8) cmdProfile
def execCmdSetQuotas (s : State) : Res := s.command (isCode 9) cmdQuotas
def execCmdAbortStream (s : State) : Res := s.command (isCode 12) cmdAbort

/-! ### Firmware and resets (R129 to R132) -/

/-- 0x0A: copy an image into the inactive slot of its target and start its verification. -/
def cmdLoad (r : List Word) (s : State) : Reply :=
  let im := s.header (opnum r 1) (some (opnum r 2))
  let x := im.target
  if x = 0 ∨ 3 < x then s.no 2
  else if [1, 2, 4].contains (fld (s.reg (offFwCtl x)) 7 5) || (mapGet s.cp.swaps x).isSome then s.no 4
  else
    let slot := 1 - s.active x
    let s := s.setCp { s.cp with images := mapPut s.cp.images (2 * x + slot) im }
    let s := s.setBytes (slotAt x slot) (bytesFrom s.byte (opnum r 1) (min (opnum r 2) slotBytes))
    ⟨(s.setReg (offFwCtl x) (setFld (s.reg (offFwCtl x)) 4 4 0)).fwState x 2, 0, 0⟩

/-- 0x0B: raise a target's floor to the running image's min_version. -/
def cmdCommit (r : List Word) (s : State) : Reply :=
  let x := opnum r 1
  if x = 0 ∨ 3 < x then s.no 2
  else
    let v := (s.image x (s.active x)).minVer
    ⟨if (s.reg (offFwFloor x)).toNat < v then s.setReg (offFwFloor x) (BitVec.ofNat 64 v) else s, 0, 0⟩

def execCmdLoadFirmwareImage (s : State) : Res := s.command (isCode 10) cmdLoad
def execCmdCommitFirmware (s : State) : Res := s.command (isCode 11) cmdCommit

/-- Every engine of level 4. -/
def engines : List Engine :=
  (List.range 12).map Engine.copy ++ (List.range 12).map Engine.walker ++ (List.range 12).map Engine.fault ++ (List.range 4).map Engine.skidder ++ [.xoxia]
    ++ (List.range 12).map Engine.collective

/-- 0x0D: reset the engine of a number. Which engine has which number is not given. -/
def cmdEngine (r : List Word) (s : State) : Reply :=
  match engines.find? fun e => engineNo e == opnum r 1 with
  | none => s.no 2
  | some e => ⟨s.engineReset e, 0, 0⟩

def execCmdResetEngine (s : State) : Res := s.command (fun r => isCode 13 r && opnum r 1 != 0xFFFF) cmdEngine

/-- Command 0x0D with 0xFFFF: the device is reset at level 5 and boots; no reply is left to write. -/
def execCmdResetDevice (s : State) : Res :=
  match s.cmdHead with
  | some r => if isCode 13 r && opnum r 1 == 0xFFFF then .next (s.reborn 4 true) else .next s
  | none => .next s

/-! ### Communicators (R265, R266) -/

/-- Fields of a member table's entry: module, first rank, ranks. -/
def memBase (w : Word) : Nat := fld w 44 25
def memRanks (w : Word) : Nat := fld w 24 5

/-- Do the entries, one for each member module, cover 0 to nranks − 1 without overlap, their low bits zero (R265)? -/
def memberOk (nranks : Nat) (l : List Word) : Bool :=
  decide (l.map memModule).Nodup && l.all (fun w => fld w 4 0 == 0) && (l.map memRanks).sum == nranks && l.all (fun w => decide (memBase w + memRanks w ≤ nranks))
    && (List.range l.length).all fun i => (List.range i).all fun j =>
      let a := l.getD i 0
      let b := l.getD j 0
      decide (memBase a + memRanks a ≤ memBase b ∨ memBase b + memRanks b ≤ memBase a)

/-- Buffers of a stack that no communicator has reserved (R262, R266). -/
def State.bufsFree (s : State) (stack : Nat) : Nat :=
  4096 - ((List.range 256).map fun n => if s.commState n ≠ 0 ∧ (s.commStacks n).testBit stack then s.commBufs n else 0).sum

/-- 0x10: create a communicator: its registers, the copy of its member table, its buffers and credits, and its own sub-channel, which has its number. The packing of the operands into the record's words is the model's (log 60, DESIGN CHOICE). -/
def cmdCreate (r : List Word) (s : State) : Reply :=
  let t := cmdTenant r
  let w := recW r 1
  let bufs := fld w 61 58
  let nranks := opnum r 2
  let count := opnum r 4
  let table := opnum r 3
  if bufs < 2 ∨ fld w 53 42 = 0 ∨ nranks = 0 ∨ 1048575 < nranks ∨ 524288 < count then s.no 2
  else
    let l := (List.range count).map fun i => s.rd64 (table + 8 * i)
    let mine := l.filter fun x => memModule x == s.net.self
    match (List.range 256).find? fun n => s.commState n == 0 with
    | none => s.no 3
    | some n =>
      if (List.range 12).any (fun k => (fld w 53 42).testBit k && decide (s.bufsFree k < bufs))
          || (!(s.profile t (fld w 57 54)).getLsbD 0 && l.any (fun x => memModule x != s.net.self))
          || !memberOk nranks l || mine.length != 1 || mine.any (fun x => decide (65535 < memRanks x)) then s.no 3
      else
        let me := mine.headD 0
        let s := s.setReg (offComm n) (wordOf [(62, 1), (56, t), (54, fld w 63 62), (50, bufs), (46, fld w 57 54), (34, fld w 53 42), (0, fld w 31 0)])
        let s := s.setReg (offCommRank n) (wordOf [(44, nranks), (24, memBase me), (8, memRanks me)])
        let s := s.setBytes (memberAt n) (l.flatMap fun x => leBytes 8 x.toNat)
        ⟨s.setColl { s.coll with members := natsPut s.coll.members n count, nums := s.coll.nums.filter fun x => x.1.1 != n }, n, 0⟩

/-- 0x11: destroy a communicator of the tenant that has no collective in flight. (log 72, DEDUCED) -/
def cmdDestroy (r : List Word) (s : State) : Reply :=
  let n := opnum r 1
  if 255 < n then s.no 2
  else if s.commState n = 0 ∨ s.commTenant n ≠ cmdTenant r then s.no 3
  else if s.coll.recs.any fun x => x.comm == n then s.no 4
  else
    let s := s.setReg (offComm n) (setFld (s.reg (offComm n)) 63 62 0)
    ⟨s.setColl { s.coll with members := natsPut s.coll.members n 0 }, 0, 0⟩

def execCmdCreateCommunicator (s : State) : Res := s.command (isCode 16) cmdCreate
def execCmdDestroyCommunicator (s : State) : Res := s.command (isCode 17) cmdDestroy

/-- A command with a code of none of these is answered with status 1. -/
def execCmdUnknownCode (s : State) : Res := s.command (fun r => !cmdCodes.contains (cmdCode r)) fun _ s => s.no 1

end Sys2Proof.Machine
end

