-- ==== Sys2Proof/Machine/Dispatch.lean ====
section
/-! DEFINITION. The dispatch: one arm per constructor of Instr, in the order of the opcode table. -/

namespace Sys2Proof.Machine

/-- The effect of one instruction or event on the machine (log 4, DESIGN CHOICE: an instruction is issued by the path of the focus). -/
def exec (i : Instr) (s : State) : Host.Outcome State Fault Refusal :=
  match i with
  | .clauseHeader w => Sys2Proof.Machine.execClauseHeader w s
  | .sAdd x => Sys2Proof.Machine.execSAdd x s
  | .sSub x => Sys2Proof.Machine.execSSub x s
  | .sMul x => Sys2Proof.Machine.execSMul x s
  | .sMulh x => Sys2Proof.Machine.execSMulh x s
  | .sDiv x => Sys2Proof.Machine.execSDiv x s
  | .sRem x => Sys2Proof.Machine.execSRem x s
  | .sAbs x => Sys2Proof.Machine.execSAbs x s
  | .sMin x => Sys2Proof.Machine.execSMin x s
  | .sMax x => Sys2Proof.Machine.execSMax x s
  | .sAnd x => Sys2Proof.Machine.execSAnd x s
  | .sOr x => Sys2Proof.Machine.execSOr x s
  | .sXor x => Sys2Proof.Machine.execSXor x s
  | .sAndn x => Sys2Proof.Machine.execSAndn x s
  | .sShl x => Sys2Proof.Machine.execSShl x s
  | .sShr x => Sys2Proof.Machine.execSShr x s
  | .sRotl x => Sys2Proof.Machine.execSRotl x s
  | .sRotr x => Sys2Proof.Machine.execSRotr x s
  | .sCmp x => Sys2Proof.Machine.execSCmp x s
  | .sSel x => Sys2Proof.Machine.execSSel x s
  | .sMov x => Sys2Proof.Machine.execSMov x s
  | .sClz x => Sys2Proof.Machine.execSClz x s
  | .sCtz x => Sys2Proof.Machine.execSCtz x s
  | .sPopc x => Sys2Proof.Machine.execSPopc x s
  | .sBfx x => Sys2Proof.Machine.execSBfx x s
  | .sBfi x => Sys2Proof.Machine.execSBfi x s
  | .lea x => Sys2Proof.Machine.execLea x s
  | .sext x => Sys2Proof.Machine.execSext x s
  | .mand x => Sys2Proof.Machine.execMand x s
  | .mor x => Sys2Proof.Machine.execMor x s
  | .mxor x => Sys2Proof.Machine.execMxor x s
  | .mandn x => Sys2Proof.Machine.execMandn x s
  | .mnot x => Sys2Proof.Machine.execMnot x s
  | .mmov x => Sys2Proof.Machine.execMmov x s
  | .mpop x => Sys2Proof.Machine.execMpop x s
  | .mfirst x => Sys2Proof.Machine.execMfirst x s
  | .mlow x => Sys2Proof.Machine.execMlow x s
  | .movi x => Sys2Proof.Machine.execMovi x s
  | .addi x => Sys2Proof.Machine.execAddi x s
  | .movhi x => Sys2Proof.Machine.execMovhi x s
  | .br x => Sys2Proof.Machine.execBr x s
  | .bmz x => Sys2Proof.Machine.execBmz x s
  | .bmnz x => Sys2Proof.Machine.execBmnz x s
  | .jump x => Sys2Proof.Machine.execJump x s
  | .jumpR x => Sys2Proof.Machine.execJumpR x s
  | .call x => Sys2Proof.Machine.execCall x s
  | .callR x => Sys2Proof.Machine.execCallR x s
  | .ret x => Sys2Proof.Machine.execRet x s
  | .split x => Sys2Proof.Machine.execSplit x s
  | .join x => Sys2Proof.Machine.execJoin x s
  | .vAdd x => Sys2Proof.Machine.execVAdd x s
  | .vSub x => Sys2Proof.Machine.execVSub x s
  | .vMul x => Sys2Proof.Machine.execVMul x s
  | .vMulh x => Sys2Proof.Machine.execVMulh x s
  | .vFma x => Sys2Proof.Machine.execVFma x s
  | .vDiv x => Sys2Proof.Machine.execVDiv x s
  | .vMin x => Sys2Proof.Machine.execVMin x s
  | .vMax x => Sys2Proof.Machine.execVMax x s
  | .vAbs x => Sys2Proof.Machine.execVAbs x s
  | .vNeg x => Sys2Proof.Machine.execVNeg x s
  | .vSqrt x => Sys2Proof.Machine.execVSqrt x s
  | .vRcp x => Sys2Proof.Machine.execVRcp x s
  | .vRsqrt x => Sys2Proof.Machine.execVRsqrt x s
  | .vExp2 x => Sys2Proof.Machine.execVExp2 x s
  | .vLog2 x => Sys2Proof.Machine.execVLog2 x s
  | .vAddsat x => Sys2Proof.Machine.execVAddsat x s
  | .vSubsat x => Sys2Proof.Machine.execVSubsat x s
  | .vAnd x => Sys2Proof.Machine.execVAnd x s
  | .vOr x => Sys2Proof.Machine.execVOr x s
  | .vXor x => Sys2Proof.Machine.execVXor x s
  | .vNot x => Sys2Proof.Machine.execVNot x s
  | .vShl x => Sys2Proof.Machine.execVShl x s
  | .vShr x => Sys2Proof.Machine.execVShr x s
  | .vCmp x => Sys2Proof.Machine.execVCmp x s
  | .vSel x => Sys2Proof.Machine.execVSel x s
  | .vMov x => Sys2Proof.Machine.execVMov x s
  | .vClz x => Sys2Proof.Machine.execVClz x s
  | .vPopc x => Sys2Proof.Machine.execVPopc x s
  | .cvt x => Sys2Proof.Machine.execCvt x s
  | .pack x => Sys2Proof.Machine.execPack x s
  | .unpack x => Sys2Proof.Machine.execUnpack x s
  | .perm x => Sys2Proof.Machine.execPerm x s
  | .shfl x => Sys2Proof.Machine.execShfl x s
  | .bcast x => Sys2Proof.Machine.execBcast x s
  | .rdx x => Sys2Proof.Machine.execRdx x s
  | .scan x => Sys2Proof.Machine.execScan x s
  | .vote x => Sys2Proof.Machine.execVote x s
  | .frnd x => Sys2Proof.Machine.execFrnd x s
  | .vClass x => Sys2Proof.Machine.execClass x s
  | .copysign x => Sys2Proof.Machine.execCopysign x s
  | .vBfx x => Sys2Proof.Machine.execVBfx x s
  | .vBfi x => Sys2Proof.Machine.execVBfi x s
  | .ldexp x => Sys2Proof.Machine.execLdexp x s
  | .fract x => Sys2Proof.Machine.execFract x s
  | .sweep x => Sys2Proof.Machine.execSweep x s
  | .ld x => Sys2Proof.Machine.execLd x s
  | .st x => Sys2Proof.Machine.execSt x s
  | .ldb x => Sys2Proof.Machine.execLdb x s
  | .stb x => Sys2Proof.Machine.execStb x s
  | .lds x => Sys2Proof.Machine.execLds x s
  | .sts x => Sys2Proof.Machine.execSts x s
  | .atomAdd x => Sys2Proof.Machine.execAtomAdd x s
  | .atomMin x => Sys2Proof.Machine.execAtomMin x s
  | .atomMax x => Sys2Proof.Machine.execAtomMax x s
  | .atomAnd x => Sys2Proof.Machine.execAtomAnd x s
  | .atomOr x => Sys2Proof.Machine.execAtomOr x s
  | .atomXor x => Sys2Proof.Machine.execAtomXor x s
  | .atomXchg x => Sys2Proof.Machine.execAtomXchg x s
  | .cas x => Sys2Proof.Machine.execCas x s
  | .redAdd x => Sys2Proof.Machine.execRedAdd x s
  | .redMin x => Sys2Proof.Machine.execRedMin x s
  | .redMax x => Sys2Proof.Machine.execRedMax x s
  | .redAnd x => Sys2Proof.Machine.execRedAnd x s
  | .redOr x => Sys2Proof.Machine.execRedOr x s
  | .redXor x => Sys2Proof.Machine.execRedXor x s
  | .fence x => Sys2Proof.Machine.execFence x s
  | .pf x => Sys2Proof.Machine.execPf x s
  | .cinv x => Sys2Proof.Machine.execCinv x s
  | .cinvall x => Sys2Proof.Machine.execCinvall x s
  | .cp x => Sys2Proof.Machine.execCp x s
  | .cpt x => Sys2Proof.Machine.execCpt x s
  | .cpreset x => Sys2Proof.Machine.execCpreset x s
  | .appOpen x => Sys2Proof.Machine.execAppOpen x s
  | .appWr x => Sys2Proof.Machine.execAppWr x s
  | .appSeal x => Sys2Proof.Machine.execAppSeal x s
  | .appSync x => Sys2Proof.Machine.execAppSync x s
  | .appClose x => Sys2Proof.Machine.execAppClose x s
  | .mz x => Sys2Proof.Machine.execMz x s
  | .mm x => Sys2Proof.Machine.execMm x s
  | .mmv x => Sys2Proof.Machine.execMmv x s
  | .mld x => Sys2Proof.Machine.execMld x s
  | .mdrain x => Sys2Proof.Machine.execMdrain x s
  | .mwp x => Sys2Proof.Machine.execMwp x s
  | .mwpr x => Sys2Proof.Machine.execMwpr x s
  | .mwait x => Sys2Proof.Machine.execMwait x s
  | .mflag x => Sys2Proof.Machine.execMflag x s
  | .mprog x => Sys2Proof.Machine.execMprog x s
  | .barArrive x => Sys2Proof.Machine.execBarArrive x s
  | .barWait x => Sys2Proof.Machine.execBarWait x s
  | .barSync x => Sys2Proof.Machine.execBarSync x s
  | .aboInit x => Sys2Proof.Machine.execAboInit x s
  | .aboArrive x => Sys2Proof.Machine.execAboArrive x s
  | .aboWait x => Sys2Proof.Machine.execAboWait x s
  | .aboTest x => Sys2Proof.Machine.execAboTest x s
  | .ringInit x => Sys2Proof.Machine.execRingInit x s
  | .ringPost x => Sys2Proof.Machine.execRingPost x s
  | .ringWait x => Sys2Proof.Machine.execRingWait x s
  | .ringFree x => Sys2Proof.Machine.execRingFree x s
  | .evAdd x => Sys2Proof.Machine.execEvAdd x s
  | .evArm x => Sys2Proof.Machine.execEvArm x s
  | .launch x => Sys2Proof.Machine.execLaunch x s
  | .cwait x => Sys2Proof.Machine.execCwait x s
  | .step x => Sys2Proof.Machine.execStep x s
  | .send x => Sys2Proof.Machine.execSend x s
  | .narm x => Sys2Proof.Machine.execNarm x s
  | .narmCancel x => Sys2Proof.Machine.execNarmCancel x s
  | .coll x => Sys2Proof.Machine.execColl x s
  | .racq x => Sys2Proof.Machine.execRacq x s
  | .rtry x => Sys2Proof.Machine.execRtry x s
  | .rrel x => Sys2Proof.Machine.execRrel x s
  | .tftSet x => Sys2Proof.Machine.execTftSet x s
  | .tftGet x => Sys2Proof.Machine.execTftGet x s
  | .tftHist x => Sys2Proof.Machine.execTftHist x s
  | .fmap x => Sys2Proof.Machine.execFmap x s
  | .tlbh x => Sys2Proof.Machine.execTlbh x s
  | .sret x => Sys2Proof.Machine.execSret x s
  | .yield x => Sys2Proof.Machine.execYield x s
  | .nop x => Sys2Proof.Machine.execNop x s
  | .halt x => Sys2Proof.Machine.execHalt x s
  | .exit x => Sys2Proof.Machine.execExit x s
  | .sysr x => Sys2Proof.Machine.execSysr x s
  | .sysw x => Sys2Proof.Machine.execSysw x s
  | .trap x => Sys2Proof.Machine.execTrap x s
  | .brk x => Sys2Proof.Machine.execBrk x s
  | .demotionTimeout b => Sys2Proof.Machine.execDemotionTimeout b s
  | .storeQueueLeave b => Sys2Proof.Machine.execStoreQueueLeave b s
  | .homeSliceWrite k => Sys2Proof.Machine.execHomeSliceWrite k s
  | .acknowledgement k => Sys2Proof.Machine.execAcknowledgement k s
  | .loadResponse b => Sys2Proof.Machine.execLoadResponse b s
  | .strikeReport r => Sys2Proof.Machine.execStrikeReport r s
  | .coreReclaim core => Sys2Proof.Machine.execCoreReclaim core s
  | .vlinkBeatReceive l b => Sys2Proof.Machine.execVlinkBeatReceive l b s
  | .vlinkAckReceive l upTo nak => Sys2Proof.Machine.execVlinkAckReceive l upTo nak s
  | .laneTestDone l failed => Sys2Proof.Machine.execLaneTestDone l failed s
  | .laneRetrainDone l => Sys2Proof.Machine.execLaneRetrainDone l s
  | .rowRefresh r => Sys2Proof.Machine.execRowRefresh r s
  | .retentionPatrol r bin => Sys2Proof.Machine.execRetentionPatrol r bin s
  | .rowRemapCopyDone r => Sys2Proof.Machine.execRowRemapCopyDone r s
  | .throttle die raise => Sys2Proof.Machine.execThrottle die raise s
  | .overTemperature die => Sys2Proof.Machine.execOverTemperature die s
  | .undervoltage => Sys2Proof.Machine.execUndervoltage s
  | .inputPowerLoss => Sys2Proof.Machine.execInputPowerLoss s
  | .powerGood => Sys2Proof.Machine.execPowerGood s
  | .bootStep activeOk otherOk => Sys2Proof.Machine.execBootStep activeOk otherOk s
  | .pcieLinkEnable port v => Sys2Proof.Machine.execPcieLinkEnable port v s
  | .pcieTrainingDone port speed width => Sys2Proof.Machine.execPcieTrainingDone port speed width s
  | .pcieStreamClear port v => Sys2Proof.Machine.execPcieStreamClear port v s
  | .ingressPostedWrite w => Sys2Proof.Machine.execIngressPostedWrite w s
  | .ingressReadRequest r => Sys2Proof.Machine.execIngressReadRequest r s
  | .ingressMsi w => Sys2Proof.Machine.execIngressMsi w s
  | .orderingPointAck k => Sys2Proof.Machine.execOrderingPointAck k s
  | .heldWriteForward k => Sys2Proof.Machine.execHeldWriteForward k s
  | .atsTranslationRequest r => Sys2Proof.Machine.execAtsTranslationRequest r s
  | .priPageRequest r => Sys2Proof.Machine.execPriPageRequest r s
  | .netLaneFail port lane => Sys2Proof.Machine.execNetLaneFail port lane s
  | .stripeTransmit send stripe => Sys2Proof.Machine.execStripeTransmit send stripe s
  | .fragmentReceive p => Sys2Proof.Machine.execFragmentReceive p s
  | .decodeComplete rec stripe => Sys2Proof.Machine.execDecodeComplete rec stripe s
  | .stripeDecoded rec stripe => Sys2Proof.Machine.execStripeDecoded rec stripe s
  | .stripeConfirmTimer rec => Sys2Proof.Machine.execStripeConfirmTimer rec s
  | .horizonTimerExpiry rec stripe => Sys2Proof.Machine.execHorizonTimerExpiry rec stripe s
  | .repairRequestReceive p => Sys2Proof.Machine.execRepairRequestReceive p s
  | .stripeConfirmationReceive p => Sys2Proof.Machine.execStripeConfirmationReceive p s
  | .messageConfirmationReceive p => Sys2Proof.Machine.execMessageConfirmationReceive p s
  | .refusalReceive p => Sys2Proof.Machine.execRefusalReceive p s
  | .busyReceive p => Sys2Proof.Machine.execBusyReceive p s
  | .busyBackoffExpiry send => Sys2Proof.Machine.execBusyBackoffExpiry send s
  | .lossNoticeReceiveSender p => Sys2Proof.Machine.execLossNoticeReceiveSender p s
  | .lossNoticeReceiveReceiver p => Sys2Proof.Machine.execLossNoticeReceiveReceiver p s
  | .closedReceiveSender p => Sys2Proof.Machine.execClosedReceiveSender p s
  | .closedReceiveReceiver p => Sys2Proof.Machine.execClosedReceiveReceiver p s
  | .senderDeadlineExpiry send => Sys2Proof.Machine.execSenderDeadlineExpiry send s
  | .lossNoticeWaitExpiry send => Sys2Proof.Machine.execLossNoticeWaitExpiry send s
  | .filterEntryExpiry k => Sys2Proof.Machine.execFilterEntryExpiry k s
  | .walkStart k => Sys2Proof.Machine.execWalkStart k s
  | .walkComplete k => Sys2Proof.Machine.execWalkComplete k s
  | .migrationCopyDone k => Sys2Proof.Machine.execMigrationCopyDone k s
  | .shootdownPage t v => Sys2Proof.Machine.execShootdownPage t v s
  | .shootdownContext t v => Sys2Proof.Machine.execShootdownContext t v s
  | .shootdownTenant t v => Sys2Proof.Machine.execShootdownTenant t v s
  | .shootdownHarvest t v => Sys2Proof.Machine.execShootdownHarvest t v s
  | .shootdownDone t => Sys2Proof.Machine.execShootdownDone t s
  | .harvestTimer grove => Sys2Proof.Machine.execHarvestTimer grove s
  | .poolTailWrite n v => Sys2Proof.Machine.execPoolTailWrite n v s
  | .flashReadComplete line retries => Sys2Proof.Machine.execFlashReadComplete line retries s
  | .relocationBegin unit => Sys2Proof.Machine.execRelocationBegin unit s
  | .relocationSwitchEnd unit => Sys2Proof.Machine.execRelocationSwitchEnd unit s
  | .flashDieFree unit => Sys2Proof.Machine.execFlashDieFree unit s
  | .deferralTimeout k => Sys2Proof.Machine.execDeferralTimeout k s
  | .regionEraseDone n => Sys2Proof.Machine.execRegionEraseDone n s
  | .skidderRequestAccept stack => Sys2Proof.Machine.execSkidderRequestAccept stack s
  | .extentStaged handle k => Sys2Proof.Machine.execExtentStaged handle k s
  | .sealCommit handle => Sys2Proof.Machine.execSealCommit handle s
  | .stagingDrain stack bytes => Sys2Proof.Machine.execStagingDrain stack bytes s
  | .stagingError handle k => Sys2Proof.Machine.execStagingError handle k s
  | .flashBlockFail stack exhausted => Sys2Proof.Machine.execFlashBlockFail stack exhausted s
  | .launchWindowWrite k => Sys2Proof.Machine.execLaunchWindowWrite k s
  | .launchRecord q => Sys2Proof.Machine.execLaunchRecord q s
  | .cmdBindContext => Sys2Proof.Machine.execCmdBindContext s
  | .cmdUnbindContext => Sys2Proof.Machine.execCmdUnbindContext s
  | .cmdSetFrameScheme => Sys2Proof.Machine.execCmdSetFrameScheme s
  | .cmdGrantRegion => Sys2Proof.Machine.execCmdGrantRegion s
  | .cmdFreeRegion => Sys2Proof.Machine.execCmdFreeRegion s
  | .cmdSetRegionReadOnly => Sys2Proof.Machine.execCmdSetRegionReadOnly s
  | .cmdAnchorFlashLeaf => Sys2Proof.Machine.execCmdAnchorFlashLeaf s
  | .cmdWriteCodeProfile => Sys2Proof.Machine.execCmdWriteCodeProfile s
  | .cmdSetQuotas => Sys2Proof.Machine.execCmdSetQuotas s
  | .cmdLoadFirmwareImage => Sys2Proof.Machine.execCmdLoadFirmwareImage s
  | .cmdCommitFirmware => Sys2Proof.Machine.execCmdCommitFirmware s
  | .cmdAbortStream => Sys2Proof.Machine.execCmdAbortStream s
  | .cmdResetEngine => Sys2Proof.Machine.execCmdResetEngine s
  | .cmdResetDevice => Sys2Proof.Machine.execCmdResetDevice s
  | .cmdCreateCommunicator => Sys2Proof.Machine.execCmdCreateCommunicator s
  | .cmdDestroyCommunicator => Sys2Proof.Machine.execCmdDestroyCommunicator s
  | .cmdUnknownCode => Sys2Proof.Machine.execCmdUnknownCode s
  | .fwVerifyDone x took => Sys2Proof.Machine.execFwVerifyDone x took s
  | .cpQuiesceWrite hart => Sys2Proof.Machine.execCpQuiesceWrite hart s
  | .handoverTimeout hart => Sys2Proof.Machine.execHandoverTimeout hart s
  | .cpWdogKick hart v => Sys2Proof.Machine.execCpWdogKick hart v s
  | .watchdogQueueStall q => Sys2Proof.Machine.execWatchdogQueueStall q s
  | .watchdogKickMissed hart => Sys2Proof.Machine.execWatchdogKickMissed hart s
  | .engineNoProgress e => Sys2Proof.Machine.execEngineNoProgress e s
  | .hubTimerExpiry => Sys2Proof.Machine.execHubTimerExpiry s
  | .tenantReset t v => Sys2Proof.Machine.execTenantReset t v s
  | .gridDieSet g => Sys2Proof.Machine.execGridDieSet g s
  | .crewPlace die => Sys2Proof.Machine.execCrewPlace die s
  | .crewRetire c => Sys2Proof.Machine.execCrewRetire c s
  | .gridRetire g => Sys2Proof.Machine.execGridRetire g s
  | .stepAnnounce g add => Sys2Proof.Machine.execStepAnnounce g add s
  | .stepChange g => Sys2Proof.Machine.execStepChange g s
  | .preemptRequest c why => Sys2Proof.Machine.execPreemptRequest c why s
  | .crewSave c => Sys2Proof.Machine.execCrewSave c s
  | .crewRestore c => Sys2Proof.Machine.execCrewRestore c s
  | .shareDecay => Sys2Proof.Machine.execShareDecay s
  | .columnHot grove col temp => Sys2Proof.Machine.execColumnHot grove col temp s
  | .bankRoleWrite core v => Sys2Proof.Machine.execBankRoleWrite core v s
  | .bankRoleEffect core bank => Sys2Proof.Machine.execBankRoleEffect core bank s
  | .copyComplete c q => Sys2Proof.Machine.execCopyComplete c q s
  | .tileInstructionStart core => Sys2Proof.Machine.execTileInstructionStart core s
  | .tileBlockDone c tile => Sys2Proof.Machine.execTileBlockDone c tile s
  | .tileInstructionComplete c tile => Sys2Proof.Machine.execTileInstructionComplete c tile s
  | .collOutcomeExchange comm seq others => Sys2Proof.Machine.execCollOutcomeExchange comm seq others s
  | .chunkCommandArrive stack ch => Sys2Proof.Machine.execChunkCommandArrive stack ch s
  | .chunkEnd stack fin => Sys2Proof.Machine.execChunkEnd stack fin s
  | .collFailureNotice comm status => Sys2Proof.Machine.execCollFailureNotice comm status s
  | .coreSpareBringIn core => Sys2Proof.Machine.execCoreSpareBringIn core s
  | .vaultRowRemap grove col row => Sys2Proof.Machine.execVaultRowRemap grove col row s
  | .registerWrite p addr v => Sys2Proof.Machine.execRegisterWrite p addr v s
  | .hostHartAccess a => Sys2Proof.Machine.execHostHartAccess a s
  | .pcieLinkLoss port recovery => Sys2Proof.Machine.execPcieLinkLoss port recovery s
  | .networkPortStateChange port lanes => Sys2Proof.Machine.execNetworkPortStateChange port lanes s
  | .copyFaultStall c q => Sys2Proof.Machine.execCopyFaultStall c q s
  | .tenantResetComplete t => Sys2Proof.Machine.execTenantResetComplete t s
  | .dramTemperatureChange stack hot => Sys2Proof.Machine.execDramTemperatureChange stack hot s

end Sys2Proof.Machine
end

