-- ==== Sys2Proof/Machine/Step.lean ====
section
/-! DEFINITION. One step of the machine: the next turn of the agenda, or a turn of the model's own choice (log 4, DESIGN CHOICE). -/

namespace Sys2Proof.Machine

/-- What the path of the focus does next: an instruction, a state it takes otherwise (a fetch that faults or waits, an undecodable word), or nothing. -/
inductive Front where
  | instr (i : Instr)
  | become (s : State)
  | nothing
  deriving DecidableEq, Repr

/-- The predicate that a word carries in its own field, where that is a legal one (R301). -/
def wordPred (w : Word) : Option (Fin 16) := (predOf (fld w 51 47)).getD none

/-- The word of the issuing path's clause, decoded in the clause's class (R299). What does not decode traps with cause illegal-instruction in its active lanes, once the path may issue
(R174, R303, R304, R329). -/
def State.frontWord (s : State) (c : Cur) (cl : Clause) : Front :=
  match hdrCls cl.hdr, cl.words[c.p.idx]? with
  | some k, some w =>
    match decodeWord k w with
    | .ok i => .instr i
    | .error _ => .become (if s.heldUp c { cls := k } then s.notIssued c else s.trapAll c 0x01 (c.active (wordPred w)))
  | _, _ => .nothing

/-- The next thing the path of the focus does. -/
def State.front (s : State) : Front :=
  match s.cur with
  | none => .nothing
  | some c =>
    if !c.eligible then .nothing
    else match c.p.clause with
      | some cl => s.frontWord c cl
      | none =>
        if s.saveStops c then .nothing
        else if s.queueBlocked c then .become (s.notIssued c)
        else if c.p.pc.toNat % 8 ≠ 0 then .become (s.clauseTrap c 0x09 c.p.pc)
        else match s.fetch c c.p.pc with
        | .word w => .instr (.clauseHeader w)
        | .fault k va => .become (s.clauseTrap c k va)
        | .miss va => .become ((s.addMiss c .fetch va).stopAt c)
        | .held _ => .become (s.stopAt c)

/-- The same state but for the focus. -/
def State.sameAs (s t : State) : Bool := decide ({ s with focus := none } = { t with focus := none })

/-- The path of a slot of a bundle is next. -/
def State.aim (s : State) (b : BKey) (slot : Bool) : State := { s with focus := some (b, slot) }

/-- Is a slot of a bundle known to be blocked? -/
def State.blocked (s : State) (b : BKey) (slot : Bool) : Bool := (s.bundle? b).any fun x => x.stopped.contains slot

/-- Could a path issue now, so that something would change but that it is found blocked? -/
def State.canIssue (s : State) (b : BKey) (slot : Bool) : Bool :=
  match (s.aim b slot).front with
  | .instr i => (match exec i (s.aim b slot) with
    | .next t => !t.blocked b slot && !s.sameAs t
    | _ => false)
  | .become t => !t.blocked b slot && !s.sameAs t
  | .nothing => false

/-- The port that a path's clause, or the next one, issues on (R168). -/
def State.portNext (s : State) (b : BKey) (slot : Bool) : Option Nat :=
  match (s.aim b slot).cur with
  | none => none
  | some c =>
    match c.p.clause, (s.aim b slot).front with
    | some cl, _ => (hdrCls cl.hdr).map clsPort
    | none, .instr (.clauseHeader w) => (hdrCls w).map clsPort
    | _, _ => none

/-! ### The issue order (R155) -/

/-- Note since when each bundle but one could issue and did not (R155). -/
def State.markReady (s : State) (but : Option BKey) : State :=
  let mark := fun (b : Bundle) =>
    if but = some b.key then b
    else { b with ready := if b.live && (s.canIssue b.key false || s.canIssue b.key true) then some (b.ready.getD s.clock) else none }
  { s with bundles := s.bundles.map mark }

/-- Is a bundle urgent: could it issue for 2,048 cycles? A demoted one never is. -/
def State.urgent (s : State) (b : Bundle) : Bool := b.spin.demoted.isNone && b.ready.any fun t => decide (t + 2048 ≤ s.clock)

/-- What a core has charged a tenant in its present window of 1 ms. -/
def State.coreCharge (s : State) (core t : Nat) : Nat :=
  if natsGet s.charge (coreKey core) = s.clock / (1000 * Config.cyclesPerUs) + 1 then natsGet s.charge (coreTenantKey core t) else 0

/-- Is the normalised share of a tenant over a core's present window lower than that of another? -/
def State.coreShareLess (s : State) (core t u : Nat) : Bool :=
  let weight := fun (x : Nat) => max 1 (fld (s.reg (0x400 + 8 * x)) 63 56)
  decide (s.coreCharge core t * weight u < s.coreCharge core u * weight t)

/-- Does a bundle issue before another of its core (R155): a demoted one last; urgent ones first, the oldest before; then class, share, and the longest wait? -/
def State.issuesBefore (s : State) (a b : Bundle) : Bool :=
  let prio := fun (x : Bundle) => ((s.grid? x.key.grid).map fun g => g.prio).getD 0
  let tenant := fun (x : Bundle) => ((s.grid? x.key.grid).map fun g => g.tenant).getD 0
  let core := s.coreOfB a.key
  let since := fun (x : Bundle) => x.ready.getD s.clock
  if a.spin.demoted.isSome ≠ b.spin.demoted.isSome then b.spin.demoted.isSome
  else if s.urgent a ≠ s.urgent b then s.urgent a
  else if s.urgent a then decide (since a < since b)
  else if prio a ≠ prio b then decide (prio b < prio a)
  else if s.coreShareLess core (tenant a) (tenant b) then true
  else if s.coreShareLess core (tenant b) (tenant a) then false
  else decide (since a < since b)

/-- Is there a bundle of the same core that issues before a bundle on the port that its path needs, and could issue there now (R155, R156)? (log 22, DEDUCED) -/
def State.givesWay (s : State) (k : BKey) (slot : Bool) : Bool :=
  (s.bundle? k).any fun b => s.bundles.any fun x =>
    x.key != k && x.live && s.coreOfB x.key == s.coreOfB k && s.issuesBefore x b &&
      [false, true].any fun other => s.portNext x.key other == s.portNext k slot && s.canIssue x.key other

/-- What was found blocked may be blocked no more: every mark goes (R168). -/
def State.unmark (s : State) : State :=
  if s.bundles.all fun b => b.stopped.isEmpty then s else { s with bundles := s.bundles.map fun b => { b with stopped := [] } }

/-- The state after an act: the marks go where it changed something. -/
def State.after (s t : State) : State := if (t.bundles.all fun b => b.stopped.isEmpty) || s.sameAs t then t else t.unmark

/-- The state after the issue turn of a path: the marks stay where it only was found blocked. -/
def State.afterIssue (s t : State) (b : BKey) (slot : Bool) : State := if t.blocked b slot then t else s.after t

/-- Take a turn: an event, or the issue of one path, which gives way to a bundle that comes before it on its port (R155, log 4, DESIGN CHOICE). -/
def State.turn (s : State) : Turn → Res
  | .event i =>
    let s := s.markReady none
    (match exec i s with
      | .next t => .next (s.after t)
      | r => r)
  | .issue b slot =>
    let s := (s.markReady (some b)).aim b slot
    if s.givesWay b slot then .next (s.markReady none)
    else match s.front with
    | .instr i => (match exec i s with
      | .next t => .next (s.afterIssue t b slot)
      | r => r)
    | .become t => .next (s.afterIssue t b slot)
    | .nothing => .next s

/-- Indices of a list. -/
def idxs {α : Type} (l : List α) : List Nat := List.range l.length

/-- What the fabric, the walkers and the bundles' own queues can do. -/
def State.fabricActs (s : State) : List (State → Res) :=
  (s.bundles.flatMap fun b => [execStoreQueueLeave b.key, execLoadResponse ⟨b.key, none⟩])
    ++ (s.bundles.flatMap fun b => (idxs b.pend).map fun i => execLoadResponse ⟨b.key, some i⟩)
    ++ (idxs s.inflight).map execHomeSliceWrite
    ++ (idxs s.acks).flatMap (fun i => [execAcknowledgement i, execOrderingPointAck i])
    ++ (idxs s.pcie.held).map execHeldWriteForward
    ++ (idxs s.xl.misses).flatMap (fun i => [execWalkStart i, execWalkComplete i])
    ++ (idxs s.xl.migs).map execMigrationCopyDone
    ++ (s.xl.shoots.map fun d => fun t => if h : d.tenant < 64 then execShootdownDone ⟨d.tenant, h⟩ t else .next t)

/-- What the copy engines, tile units, Skidder, Sawyer and Xoxia can do. -/
def State.engineActs (s : State) : List (State → Res) :=
  (s.crews.flatMap fun c => (List.finRange 4).flatMap fun q => [execCopyComplete c.key q, execCopyFaultStall c.key q])
    ++ (s.crews.flatMap fun c => (List.finRange 8).flatMap fun n => [execTileBlockDone c.key n, execTileInstructionComplete c.key n])
    ++ (s.crews.flatMap fun c => [execTileInstructionStart c.core, execCoreReclaim c.core])
    ++ (List.finRange 4).map execSkidderRequestAccept
    ++ (s.flash.streams.flatMap fun f => (f.2.extents.map fun e => execExtentStaged f.1 e.1) ++ [execSealCommit f.1])
    ++ (s.net.sends.flatMap fun x => execStripeTransmit x.id x.next :: x.asks.map fun a => execStripeTransmit x.id a.1)
    ++ ((idxs s.net.recs).flatMap fun i => (s.net.recs[i]?.toList.flatMap fun r => r.slots.flatMap fun x => [execDecodeComplete i x.stripe, execStripeDecoded i x.stripe]))
    ++ (s.coll.recs.map fun r => execCollOutcomeExchange r.comm r.seq [])
    ++ (s.coll.slots.flatMap fun x => (List.finRange 4).map fun i => execChunkEnd x.1.1 (.slot i))
    ++ (s.parts.oldRoles.map fun x => execBankRoleEffect (x.1 / 32) (Fin.ofNat 32 x.1))
    ++ [State.deliverOwn]

/-- What the schedulers and the command processors can do. -/
def State.hubActs (s : State) : List (State → Res) :=
  (s.hub.queues.map fun q => execLaunchRecord q.1)
    ++ (if s.cp.served.isEmpty then [] else (List.finRange 16).map fun h => execCpQuiesceWrite ⟨false, h⟩)
    ++ (s.grids.flatMap fun g => [execGridDieSet g.id, execStepChange g.id, execGridRetire g.id])
    ++ ((s.grids.flatMap fun g => g.dies).eraseDups.map execCrewPlace)
    ++ (s.crews.flatMap fun c => [execCrewRetire c.key, execCrewSave c.key, execCrewRestore c.key])
    ++ (s.crews.flatMap fun c => if c.st == .resident then [execPreemptRequest c.key .ranked, execPreemptRequest c.key .childWait, execPreemptRequest c.key .hotColumn] else [])
    ++ (if s.cmdHead.isNone then [] else
      [execCmdBindContext, execCmdUnbindContext, execCmdSetFrameScheme, execCmdGrantRegion, execCmdFreeRegion, execCmdSetRegionReadOnly,
       execCmdAnchorFlashLeaf, execCmdWriteCodeProfile, execCmdSetQuotas, execCmdLoadFirmwareImage, execCmdCommitFirmware, execCmdAbortStream,
       execCmdResetEngine, execCmdResetDevice, execCmdCreateCommunicator, execCmdDestroyCommunicator, execCmdUnknownCode])

/-- What the module's own units can do without time passing, in the order the model tries them (log 4, DESIGN CHOICE). -/
def State.unitActs (s : State) : List (State → Res) := s.fabricActs ++ s.engineActs ++ s.hubActs

/-! ### Issue turns -/

/-- Put a bundle among others in the issue order; those of other cores do not matter. -/
def State.queueUp (s : State) (x : Bundle) : List Bundle → List Bundle
  | [] => [x]
  | y :: r => if s.coreOfB x.key = s.coreOfB y.key ∧ s.issuesBefore x y then x :: y :: r else y :: s.queueUp x r

/-- Issue turns of every bundle's paths in the order of R155, the path that issued last first (R163). -/
def State.issueActs (s : State) : List (State → Res) :=
  (s.bundles.foldl (fun l b => s.queueUp b l) []).flatMap fun b => [fun t => t.turn (.issue b.key b.last), fun t => t.turn (.issue b.key (!b.last))]

/-- The state after the first of some acts that changes it. (log 4, DESIGN CHOICE) -/
def State.firstAct (s : State) (l : List (State → Res)) : Option State :=
  l.findSome? fun f => match f s with
    | .next t => if s.sameAs t then none else some t
    | _ => none

/-- A step with an empty agenda: a unit's act, else a bundle's issue, else nothing (log 4, DESIGN CHOICE). -/
def State.auto (s : State) : State :=
  let u := s.markReady none
  match u.firstAct u.unitActs with
  | some t => u.after t
  | none => (u.firstAct u.issueActs).getD s

/-- The clock counts one core cycle more (R193, log 5, DESIGN CHOICE). -/
def State.tick (s : State) : State := { s with clock := s.clock + 1 }

/-- One step: the agenda's first turn, or one of the model's own choice; then armed actions that a write has brought to their thresholds fire (R159), and the clock advances (log 4, DESIGN CHOICE, log 5, DESIGN CHOICE). -/
def step (s : State) : Host.Outcome State Fault Refusal :=
  match s.agenda with
  | [] => .next s.auto.settleArmed.tick
  | t :: rest =>
    match ({ s with agenda := rest }).turn t with
    | .next u => .next u.settleArmed.tick
    | .fault r => .fault r
    | .refused r => .refused r

/-! ### A state whose next step runs a given instruction (log 13, DESIGN CHOICE) -/

/-- The role that may issue a class: G, or M for the tile class (R171). -/
def roleFor : Cls → Nat
  | .t => 2
  | _ => 0

/-- The grid that withFetchWord runs: one crew of one bundle of 8 lanes, with 16 register granules, a divergence stack and 8 tiles. (log 13, DESIGN CHOICE) -/
def loaderGrid (role : Nat) : Grid :=
  { id := 0, tenant := 0, ctx := 0, prio := 0, depth := 1, parent := none, entry := 0x1000, args := 0, ncrews := 1, bundles := 1, width := 8,
    dstack := 4, regs := 16, acc := 8, scratch := 1, vault := 0, roles := BitVec.ofNat 64 role, minDies := 1, maxDies := 1, coop := false, done := 0,
    tag := 0, limiting := 0, order := 0, st := .running, dies := [0], announce := none, oldDies := none }

/-- A translation of virtual page 1 to the frame at 6 MiB for instruction fetch. (log 13, DESIGN CHOICE) -/
def loaderTlb : TlbEnt :=
  { ctx := 0, vpn := 1, pages := 1, leaf := wordOf [(10, 1536), (0, 0x5B)], pte := 0, a := false, d := false, also := [] }

/-- s with the loader's grid, crew and bundle placed on core 0, its context bound and its program page translated. (log 13, DESIGN CHOICE) -/
def State.withLoader (s : State) (role : Nat) (clause : Option Clause) : State :=
  let g := loaderGrid role
  let hub := { s.hub with nextGrid := 1 }
  let xl := { s.xl with ctxs := [⟨0, 0, 0, 0, 0, 0⟩], tlb := [(.inst 0, loaderTlb)], frames := natsPut s.xl.frames 1 1 }
  let s := { s with grids := [g], crews := [], bundles := [], hub := hub, xl := xl }
  let s := s.placeCrew g 0 0
  let k : BKey := ⟨0, 0, 0⟩
  let s := s.onBundle k fun b => { b with arch := { b.arch with slot0 := b.arch.slot0.map fun p => { p with clause := clause } } }
  { s with agenda := [.issue k false], focus := some (k, false) }

/-- s with an instruction stored where the next step fetches: a clause header at the program counter (up to 64 bits), or a header with the
instruction's word under it as the clause in hand (log 13, DESIGN CHOICE). The very next step runs exactly it. -/
def State.withFetchWord (s : State) (nbits w : Nat) : State :=
  let hdr : Word := BitVec.ofNat 64 w
  if nbits ≤ 64 then (s.withLoader 0 none).wr64 0x600000 hdr
  else
    let word : Word := BitVec.ofNat 64 (w / 2 ^ 64)
    let s := s.withLoader (match hdrCls hdr with | some k => roleFor k | none => 0) (some ⟨hdr, [word]⟩)
    (s.wr64 0x600000 hdr).wr64 0x600008 word

end Sys2Proof.Machine
end

