-- ==== Sys2Proof/Safety.lean ====
section
/-! DEFINITION. What counts as a safe run: the invariants of the machine's state. -/

namespace Sys2Proof.Machine

/-- Memory and every map of the state that is kept sorted are in their canonical forms. -/
def State.wf (s : State) : Bool := memWf s.mem && keysFrom 0 s.regs && keysFrom 0 s.tft && keysFrom 0 s.charge

/-- A run of the machine is safe when no step stops it. -/
def SafeRun : Nat → State → Prop
  | 0, _ => True
  | n + 1, s => match step s with
    | .next t => SafeRun n t
    | _ => False

end Sys2Proof.Machine
end

