-- ==== Sys2Proof/Claims.lean ====
section
/-! DEFINITION. The vocabulary of the statements: when an instruction may issue, what an issue leaves alone, how a register reads. -/

namespace Sys2Proof.Machine

/-- The path of the focus is c, may issue, is held up by nothing (a save, R162; a ring post, R460; a clause of its port, R168; the forwarding window, R190), passes every check of R302 with
these needs, is not ignored under its predicate (R175), reads nothing poisoned (R279) and shares no lane with another path (R340). -/
def Ready (s : State) (c : Cur) (n : Need) : Prop :=
  s.cur = some c ∧ c.eligible = true ∧ s.heldUp c n = false ∧ gate c n = .go ∧ c.ignored n = false ∧ c.badSrc n = false ∧ c.b.arch.clash = 0

/-- The issuing path once its instruction has issued, and past it: its clause has begun (R168), and it stands at the next instruction, or clause (R299). -/
def Cur.begunPath (c : Cur) : Path := { c.p with begun := true }
def Cur.past (c : Cur) : Path := c.begunPath.advance

/-- The path c of the focus passes the checks of R302 with these needs, and may issue (R155, R162, R168, R190, R297). -/
def MayIssue (s : State) (c : Cur) (n : Need) : Prop := s.cur = some c ∧ c.eligible = true ∧ s.heldUp c n = false ∧ gate c n = .go

/-- t differs from s at most in the issuing bundle, the next free number and its tenant's charge (R153, R154); every byte of memory, every other
bundle and every other device register is as it was. -/
def OwnOnly (s t : State) (c : Cur) : Prop :=
  t = { s with bundles := t.bundles, free := t.free, regs := t.regs, charge := t.charge } ∧ (∀ a, t.byte a = s.byte a) ∧
    (∀ k, k ≠ c.b.key → t.bundle? k = s.bundle? k) ∧ ∀ o, o ≠ 0x400 + 8 * c.g.tenant → t.reg o = s.reg o

/-- The issuing bundle keeps everything but registers, their poison, full/empty bits, its own path, checkpoints and the bookkeeping of an issue; its outstanding
results, store queue, acknowledgement counter and flags are these. -/
def BundleBut (c : Cur) (b' : Bundle) (pend : List Pend) (sq : List SqEntry) (ackcnt : Nat) (flags : Nats) : Prop :=
  b' = { c.b with arch := b'.arch, window := b'.window, results := b'.results, hold := b'.hold, stopped := b'.stopped, ready := b'.ready, spin := b'.spin, notes := b'.notes,
                  last := b'.last, yielded := b'.yielded, pend := pend, sq := sq, ackcnt := ackcnt } ∧
    b'.arch = { c.b.arch with regs := b'.arch.regs, bad := b'.arch.bad, awaits := b'.arch.awaits, slot0 := b'.arch.slot0, slot1 := b'.arch.slot1, fpflags := flags } ∧
    b'.arch.path (!c.slot) = c.b.arch.path (!c.slot)

/-- BundleBut with outstanding results, store queue, acknowledgement counter and flags as they were. -/
def BundleKept (c : Cur) (b' : Bundle) : Prop := BundleBut c b' c.b.pend c.b.sq c.b.ackcnt c.b.arch.fpflags

/-- Every register key outside a list reads as before, and is poisoned where it was (R278). -/
def RegsBut (c : Cur) (b' : Bundle) (keys : List Nat) : Prop :=
  ∀ k, k ∉ keys → bankGet b'.arch.regs b'.fid k = bankGet c.b.arch.regs c.b.fid k ∧ (k ∈ b'.arch.bad ↔ k ∈ c.b.arch.bad)

/-- The registers that kill marks leave unspecified (R191). -/
def killed (c : Cur) (n : Need) : List Nat := n.kills.flatMap (killKeys c.g.width)

/-- A scalar or mask register of the issuing path reads as a word, and is full; m0 is the path's mask, bits [63:w] ignored (R174). -/
def HoldsNow (c : Cur) (b' : Bundle) (d : Sel) (v : Word) : Prop :=
  match d with
  | .s n => b'.s n.val = v ∧ b'.empty d = false
  | .m n => (if n.val = 0 then (b'.arch.path c.slot).map (fun p => p.mask) = some (v &&& lanesOf c.g.width) else bankGet b'.arch.regs b'.fid (mKey n.val) = v)
      ∧ b'.empty d = false
  | _ => True

/-- The bank keys of a scalar or mask destination. -/
def dstKeys : Sel → List Nat
  | .s n => [sKey n.val]
  | .m n => if n.val = 0 then [] else [mKey n.val]
  | _ => []

/-- The issuing path stands at p but for its mask, which is kept unless the destination is m0 or a kill mark names m0. -/
def PathNow (c : Cur) (b' : Bundle) (n : Need) (d : Sel) (p : Path) : Prop :=
  ∃ q, b'.arch.path c.slot = some q ∧ { q with mask := p.mask } = p ∧ (d ≠ .m 0 → (∀ k ∈ n.kills, k.1.sel ≠ .m 0) → q.mask = c.p.mask)

/-- The list of empty registers after a write of a destination: a scalar or mask destination is full (R189). -/
def filled (l : List (Sel × Nat)) (d : Sel) : List (Sel × Nat) :=
  match d with
  | .s _ | .m _ => l.filter fun x => x.1 != d
  | _ => l

/-- An instruction that writes one scalar or mask register completes with a value and moves past itself (R299, R332, R189). -/
def WritesOne (i : Instr) (s : State) (c : Cur) (n : Need) (d : Sel) (v : Word) : Prop :=
  ∃ t b', exec i s = .next t ∧ OwnOnly s t c ∧ t.bundle? c.b.key = some b' ∧ BundleKept c b' ∧ PathNow c b' n d c.past ∧
    HoldsNow c b' d v ∧ RegsBut c b' (dstKeys d ++ killed c n) ∧ b'.arch.awaits = filled c.b.arch.awaits d

/-- An instruction that changes no register but by kill marks completes with its path at p and the flags given. -/
def Moves (i : Instr) (s : State) (c : Cur) (n : Need) (p : Path) (flags : Nats) : Prop :=
  ∃ t b', exec i s = .next t ∧ OwnOnly s t c ∧ t.bundle? c.b.key = some b' ∧ BundleBut c b' c.b.pend c.b.sq c.b.ackcnt flags ∧ PathNow c b' n .litS p ∧
    RegsBut c b' (killed c n) ∧ b'.arch.awaits = c.b.arch.awaits

/-- An instruction without an active lane has no effect but its issue: its path is at p, and its tenant is charged (R175, R351, R371, R393). No register, flag, outstanding result or queue of its bundle changes. -/
def PassedOver (i : Instr) (s : State) (c : Cur) (p : Path) : Prop :=
  ∃ t b', exec i s = .next t ∧ OwnOnly s t c ∧ t.bundle? c.b.key = some b' ∧ BundleKept c b' ∧ b'.arch.path c.slot = some p ∧ b'.arch.regs = c.b.arch.regs ∧
    b'.arch.bad = c.b.arch.bad ∧ b'.arch.awaits = c.b.arch.awaits

/-- An instruction that writes nothing now queues an effect (R223, R276): it is appended to the store queue, and its lines count on the acknowledgement
counter (R32). Translation may gather access marks (R77); memory is as it was. -/
def Queues (i : Instr) (s : State) (c : Cur) (n : Need) (op : SqOp) (lines : Nat) : Prop :=
  ∃ t b', exec i s = .next t ∧ OwnOnly { s with xl := t.xl } t c ∧ t.bundle? c.b.key = some b' ∧
    BundleBut c b' c.b.pend (c.b.sq ++ [⟨s.clock, op, lines⟩]) (c.b.ackcnt + lines) c.b.arch.fpflags ∧ PathNow c b' n .litS c.past ∧
    RegsBut c b' (killed c n) ∧ b'.arch.awaits = c.b.arch.awaits

/-- An outstanding token (R187). -/
def tokenPend (c : Cur) (d : Sel) (now pid : Nat) : Pend := ⟨pid, .token, .n64, d, [], 1, [], none, now, none, c.slot⟩

/-- An instruction that queues an effect whose token goes into a register: the register is empty until the token comes (R187). The state u has what its reads of records leave (R112). -/
def SendsTokenAfter (i : Instr) (s u : State) (c : Cur) (n : Need) (d : Sel) (op : Nat → SqOp) (lines : Nat) : Prop :=
  ∃ t b' pid, exec i s = .next t ∧ OwnOnly { u with xl := t.xl } t c ∧ t.bundle? c.b.key = some b' ∧
    BundleBut c b' (c.b.pend ++ [tokenPend c d s.clock pid]) (c.b.sq ++ [⟨s.clock, op pid, lines⟩]) (c.b.ackcnt + lines) c.b.arch.fpflags ∧
    PathNow c b' n d c.past ∧ RegsBut c b' (killed c n) ∧ b'.arch.awaits = (d, pid) :: filled c.b.arch.awaits d
def SendsToken (i : Instr) (s : State) (c : Cur) (n : Need) (d : Sel) (op : Nat → SqOp) (lines : Nat) : Prop := SendsTokenAfter i s s c n d op lines

/-- t differs from s at most in the issuing bundle, its charge and the issuing crew, which is now k'; every other crew is as it was. -/
def CrewOnly (s t : State) (c : Cur) (k' : Crew) : Prop :=
  OwnOnly { s with crews := t.crews } t c ∧ t.crew? c.c.key = some k' ∧ ∀ j, j ≠ c.c.key → t.crew? j = s.crew? j

/-- An instruction that changes its crew and otherwise only moves on. -/
def ChangesCrew (i : Instr) (s : State) (c : Cur) (n : Need) (k' : Crew) : Prop :=
  ∃ t b', exec i s = .next t ∧ CrewOnly s t c k' ∧ t.bundle? c.b.key = some b' ∧ BundleKept c b' ∧ PathNow c b' n .litS c.past ∧
    RegsBut c b' (killed c n) ∧ b'.arch.awaits = c.b.arch.awaits

/-- An instruction that changes its crew and writes one scalar or mask register. -/
def ChangesCrewWrites (i : Instr) (s : State) (c : Cur) (n : Need) (k' : Crew) (d : Sel) (v : Word) : Prop :=
  ∃ t b', exec i s = .next t ∧ CrewOnly s t c k' ∧ t.bundle? c.b.key = some b' ∧ BundleKept c b' ∧ PathNow c b' n d c.past ∧
    HoldsNow c b' d v ∧ RegsBut c b' (dstKeys d ++ killed c n) ∧ b'.arch.awaits = filled c.b.arch.awaits d

/-- The general outcome: i completes, changing in the state only what rest takes over from the result, the issuing bundle and its charge; the path stands
at p, the registers outside d and the killed ones are kept, and Q holds of the result and the issuing bundle in it. -/
def Outcome (i : Instr) (s : State) (c : Cur) (n : Need) (rest : State → State) (d : Sel) (p : Path) (Q : State → Bundle → Prop) : Prop :=
  ∃ t b', exec i s = .next t ∧ OwnOnly (rest t) t c ∧ t.bundle? c.b.key = some b' ∧ PathNow c b' n d p ∧
    RegsBut c b' (dstKeys d ++ killed c n) ∧ Q t b'

/-- The lanes of a memory instruction all pass their checks (R370, R376), with these accesses. -/
def AllPass (s : State) (c : Cur) (x : MArgs) (sh : Shape) (acc : Acc) (ok : List LaneAcc) : Prop :=
  s.laneChecks c x sh acc = ok.map fun a => (a.lane, LaneRes.ok a)

/-- Nothing makes a memory instruction wait: no outstanding acquire (R221), and earlier accesses performed for a release (R222). -/
def NoWait (s : State) (c : Cur) (x : MArgs) : Prop :=
  c.b.acquiring = false ∧ (orderRel x.order = true → s.performed c.b x.scope = true)

/-- The registers r are empty after, the others as before. -/
def EmptiesRegs (c : Cur) (b' : Bundle) (rs : List Sel) : Prop := ∀ r, b'.empty r = (c.b.empty r || rs.contains r)

/-- The lines of a core's L1 are gone, the others stay. -/
def l1Without (s : State) (core : Nat) : List L1Line := s.l1.filter fun l => !(l.core == core)

/-- The crew after a tile has been changed. -/
def withTile (c : Cur) (n : Nat) (f : Tile → Tile) : Crew := { c.c with tiles := c.c.tiles.modify n f }

/-- A tile instruction at the end of a tile's queue, with the width pair latched (R394) and the operand-ready fence it stands under, its own with .rdy (R398). -/
def tileQueued (s : State) (c : Cur) (x : TArgs) (rdy : Bool) (op : TileOp) (full : Tile → Bool) : Crew :=
  let since := if rdy then some s.clock else c.c.fence
  { withTile c x.tile.val (fun k => { k with queue := k.queue ++ [⟨c.b.key, s.clock, op, k.wp, 0, 0, none, 0, since⟩], full := full k }) with fence := since }

/-- A tile instruction may join its tile's queue: the tile exists and has room, its operands in the window or the vault may be accessed, and an earlier access is performed where it asks (R394, R396, R398). -/
def TileMay (s : State) (c : Cur) (x : TArgs) (rdy : Bool) (segs : List (Space × List (Nat × Nat))) : Prop :=
  (∃ k, c.tile x.tile = some k ∧ k.queue.length + k.busy.toList.length < 5) ∧ (∀ y ∈ segs, ∀ z ∈ y.2, s.spaceBad c y.1 z.1 z.2 = none) ∧
    (rdy = true → s.performed c.b .device = true)

/-- A tile instruction completes: with every lane active it joins the queue where it may; with some lanes but not all it traps (R393, R394). -/
def TileIssues (i : Instr) (s : State) (c : Cur) (x : TArgs) (n : Need) (rdy : Bool) (segs : List (Space × List (Nat × Nat))) (op : TileOp) : Prop :=
  (c.active x.pred ≠ 0 → c.allActive x.pred = true → TileMay s c x rdy segs → ChangesCrew i s c n (tileQueued s c x rdy op fun _ => false)) ∧
    (c.active x.pred ≠ 0 → c.allActive x.pred = false → exec i s = .next (s.takeTrap c 0x0A (c.active x.pred) fun _ => 0))

/-- trap or brk completes by taking its trap outside a handler (R195, R441): its cause, the path's mask, its active lanes and its immediate are saved, and the path is at the handler. -/
def SoftTrapped (i : Instr) (s : State) (c : Cur) (cause : Nat) (x : IArgs) : Prop :=
  ∃ t b', exec i s = .next t ∧ OwnOnly s t c ∧ t.bundle? c.b.key = some b' ∧ b'.arch.trap.tcause = BitVec.ofNat 64 cause ∧ b'.arch.trap.tpc = c.p.pc ∧
    b'.arch.trap.tidx = BitVec.ofNat 64 c.p.idx ∧ b'.arch.trap.tmask = c.active x.pred ∧ b'.arch.trap.tm0 = c.m 0 ∧
    (∀ l, l < c.g.width → inMask (c.active x.pred) l = true → b'.arch.trap.tvalOf l = x.imm.zeroExtend 64) ∧ b'.arch.tdepth = 1 ∧ b'.arch.sup = true ∧
    (b'.arch.path c.slot).map (fun q => (q.pc, q.idx, q.clause, q.mask)) = some (0xFFFFFFFFFFFF0000, 0, none, c.active x.pred) ∧
    b'.arch.regs = c.b.arch.regs ∧ b'.sq = c.b.sq ∧ b'.pend = c.b.pend

/-! ### Results of class S (R331 to R340) -/

/-- The n-bit pattern of a source (R331). -/
def pat (c : Cur) (ty : Ty) (x : Src) : Nat := (c.raw x.sel).toNat % 2 ^ ty.bits

/-- k of R333: the low log2 n bits of b. -/
def shiftBy (c : Cur) (x : RArgs) : Nat := (c.raw x.b.sel).toNat % x.ty.bits

/-- What each integer instruction of R333 and R334 leaves in its destination. -/
def scalarArith : List ((RArgs → Instr) × (RArgs → Cur → Word)) :=
  [ (.sAdd, fun x c => wrVal x.ty (c.rd x.ty x.a + c.rd x.ty x.b)),
    (.sSub, fun x c => wrVal x.ty (c.rd x.ty x.a - c.rd x.ty x.b)),
    (.sMul, fun x c => wrVal x.ty (c.rd x.ty x.a * c.rd x.ty x.b)),
    (.sMulh, fun x c => wrVal x.ty (c.rd x.ty x.a * c.rd x.ty x.b / 2 ^ x.ty.bits)),
    (.sDiv, fun x c => wrVal x.ty (if c.rd x.ty x.b = 0 then -1 else (c.rd x.ty x.a).tdiv (c.rd x.ty x.b))),
    (.sRem, fun x c => wrVal x.ty (if c.rd x.ty x.b = 0 then c.rd x.ty x.a
      else c.rd x.ty x.a - c.rd x.ty x.b * (c.rd x.ty x.a).tdiv (c.rd x.ty x.b))),
    (.sAbs, fun x c => wrVal x.ty |c.rd x.ty x.a|),
    (.sMin, fun x c => wrVal x.ty (min (c.rd x.ty x.a) (c.rd x.ty x.b))),
    (.sMax, fun x c => wrVal x.ty (max (c.rd x.ty x.a) (c.rd x.ty x.b))),
    (.sAnd, fun x c => wrVal x.ty ((pat c x.ty x.a &&& pat c x.ty x.b : Nat) : Int)),
    (.sOr, fun x c => wrVal x.ty ((pat c x.ty x.a ||| pat c x.ty x.b : Nat) : Int)),
    (.sXor, fun x c => wrVal x.ty ((pat c x.ty x.a ^^^ pat c x.ty x.b : Nat) : Int)),
    (.sShl, fun x c => wrVal x.ty (c.rd x.ty x.a * 2 ^ shiftBy c x)),
    (.sShr, fun x c => wrVal x.ty (c.rd x.ty x.a / 2 ^ shiftBy c x)),
    (.sSel, fun x c => wrVal x.ty (if c.rd x.ty x.c ≠ 0 then c.rd x.ty x.a else c.rd x.ty x.b)),
    (.sext, fun x c => wrVal x.ty (tyVal ((c.rd x.ty x.b % 64).toNat + 1) x.ty.signed (c.raw x.a.sel).toNat)),
    (.lea, fun x c => c.raw x.a.sel + BitVec.ofInt 64 (c.rd x.ty x.b * 2 ^ (x.md.val % 8))) ]

/-- The number whose bits below n a function gives. -/
def ofBits (n : Nat) (f : Nat → Bool) : Nat := ∑ i ∈ Finset.range n, if f i then 2 ^ i else 0

/-- What each bit instruction of R333, R335 and R336 leaves in its destination, said bit by bit. -/
def scalarBits : List ((RArgs → Instr) × (RArgs → Cur → Word)) :=
  [ (.sAndn, fun x c => wrVal x.ty (ofBits x.ty.bits fun i => (pat c x.ty x.a).testBit i && !(pat c x.ty x.b).testBit i)),
    (.sRotl, fun x c => wrVal x.ty (ofBits x.ty.bits fun i => (pat c x.ty x.a).testBit ((i + x.ty.bits - shiftBy c x) % x.ty.bits))),
    (.sRotr, fun x c => wrVal x.ty (ofBits x.ty.bits fun i => (pat c x.ty x.a).testBit ((i + shiftBy c x) % x.ty.bits))),
    (.sClz, fun x c => BitVec.ofNat 64 (x.ty.bits - (pat c x.ty x.a).size)),
    (.sCtz, fun x c => BitVec.ofNat 64 (if pat c x.ty x.a = 0 then x.ty.bits else padicValNat 2 (pat c x.ty x.a))),
    (.sPopc, fun x c => BitVec.ofNat 64 ((List.range x.ty.bits).countP fun i => (pat c x.ty x.a).testBit i)),
    (.sBfi, fun x c =>
      let p := fld (c.raw x.c.sel) 5 0
      let len := min (fld (c.raw x.c.sel) 14 8) (x.ty.bits - p)
      wrVal x.ty (ofBits x.ty.bits fun i => if p ≤ i ∧ i < p + len then (pat c x.ty x.a).testBit (i - p) else (pat c x.ty x.b).testBit i)),
    (.sBfx, fun x c =>
      let p := fld (c.raw x.b.sel) 5 0
      let len := min (fld (c.raw x.b.sel) 14 8) (x.ty.bits - p)
      let v := ofBits len fun i => (pat c x.ty x.a).testBit (p + i)
      wrVal x.ty (if x.ty.signed ∧ 0 < len ∧ v.testBit (len - 1) then (v : Int) - 2 ^ len else v)),
    (.sCmp, fun x c => if condInt (x.md.val % 16) (c.rd x.ty x.a) (c.rd x.ty x.b) then 1 else 0),
    (.sMov, fun x c => match x.dst, x.a.sel with
      | .m _, _ => c.raw x.a.sel
      | _, .m _ => c.raw x.a.sel
      | _, _ => wrVal x.ty (c.rd x.ty x.a)) ]

/-- What each mask instruction of R339 leaves in its destination. -/
def maskResults : List ((RArgs → Instr) × (RArgs → Cur → Word)) :=
  [ (.mand, fun x c => c.raw x.a.sel &&& c.raw x.b.sel), (.mor, fun x c => c.raw x.a.sel ||| c.raw x.b.sel),
    (.mxor, fun x c => c.raw x.a.sel ^^^ c.raw x.b.sel), (.mandn, fun x c => c.raw x.a.sel &&& ~~~c.raw x.b.sel),
    (.mnot, fun x c => ~~~c.raw x.a.sel), (.mmov, fun x c => c.raw x.a.sel),
    (.mpop, fun x c => BitVec.ofNat 64 ((List.range 64).countP fun i => (c.raw x.a.sel).getLsbD i)),
    (.mfirst, fun x c => BitVec.ofNat 64 (((List.range 64).find? fun i => (c.raw x.a.sel).getLsbD i).getD 64)),
    (.mlow, fun x c => BitVec.ofNat 64 (ofBits 64 fun i => decide (i < (c.raw x.a.sel).toNat))) ]

/-- What each immediate instruction of R338 leaves in its destination. -/
def immResults : List ((IArgs → Instr) × (IArgs → Cur → Word)) :=
  [ (.movi, fun x _ => x.imm.signExtend 64), (.addi, fun x c => wrVal x.ty (c.rd x.ty x.a + x.imm.toInt)),
    (.movhi, fun x c => x.imm ++ (c.raw x.a.sel).truncate 42) ]

/-! ### Special registers (R193) -/

/-- What reading a special register that is not per lane gives, by its number. -/
def specialReads : List (Nat × (State → Cur → Word)) :=
  [ (0x01, fun _ c => BitVec.ofNat 64 c.b.key.idx), (0x02, fun _ c => BitVec.ofNat 64 c.b.key.crew), (0x03, fun _ c => BitVec.ofNat 64 c.b.key.grid),
    (0x04, fun _ c => BitVec.ofNat 64 c.c.core), (0x06, fun _ c => BitVec.ofNat 64 (c.c.core / 128)), (0x07, fun _ c => BitVec.ofNat 64 (c.c.core / 64)),
    (0x0B, fun s _ => BitVec.ofNat 64 s.clock), (0x0C, fun _ c => BitVec.ofNat 64 c.b.ackcnt), (0x0D, fun _ c => BitVec.ofNat 64 c.g.tenant),
    (0x0E, fun _ c => BitVec.ofNat 64 c.g.depth), (0x10, fun _ c => BitVec.ofNat 64 c.g.width), (0x11, fun _ c => BitVec.ofNat 64 c.b.arch.stack.length),
    (0x12, fun _ c => c.p.jt), (0x20, fun _ c => c.b.arch.trap.tcause), (0x21, fun _ c => c.b.arch.trap.tpc), (0x22, fun _ c => c.b.arch.trap.tidx),
    (0x23, fun _ c => c.b.arch.trap.tmask), (0x24, fun _ c => c.b.arch.trap.tm0), (0x25, fun _ c => BitVec.ofNat 64 c.b.arch.tdepth) ]

/-- A named barrier after one more arrival with a count n (R417): the count of the first arrival of a generation stands; 0 counts every live bundle;
the last arrival starts the next generation. -/
def barAfter (live : Nat) (b : Bar) (n : Nat) : Bar :=
  let e := if b.arrived = 0 then n else b.expected
  if (if e = 0 then live else e) ≤ b.arrived + 1 then ⟨(b.gen + 1) % 2 ^ 32, e, 0⟩ else ⟨b.gen, e, b.arrived + 1⟩

/-- The ticket of an arrival: the generation above, status 2 where its count differs from the generation's (R417). -/
def barTicket (b : Bar) (n : Nat) : Word :=
  BitVec.ofNat 64 (b.gen * 2 ^ 32 + if n = (if b.arrived = 0 then n else b.expected) then 0 else 2)

/-! ### Words that the manual writes out (R328, R329 and the encoding tables of chapters 15 to 20) -/

/-- A register field without marks. -/
def srcV (n : Fin 128) : Src := ⟨.v n, false, false⟩
def srcS (n : Fin 64) : Src := ⟨.s n, false, false⟩
def srcM (n : Fin 16) : Src := ⟨.m n, false, false⟩
def srcK (k : Fin 32) : Src := ⟨.const k, false, false⟩

/-- Words of the manual with the class they stand in and the instruction they stand for. -/
def specWords : List (Cls × Word × Instr) :=
  [ (.x, 0x4000000100000000, .sysr ⟨.i8, none, 0, .v 1, .zero, 0⟩),
    (.v, 0x152000000E200408, .vShl ⟨.i32, none, 0, .v 2, srcV 1, srcK 2, .zero⟩),
    (.v, 0x002000000D04040C, .vAdd ⟨.i32, none, 0, .v 3, ⟨.v 1, true, false⟩, ⟨.litS, false, false⟩, .zero⟩),
    (.m, 0x01600040C8040800, .st ⟨.n32, none, .plain, .crew, .mem, ⟨.v 3, true, false⟩, srcS 0, ⟨.v 2, true, false⟩, .v 0, 0⟩),
    (.x, 0x1F00000000000000, .exit ⟨.i8, none, 0, .v 0, .zero, .zero, .zero⟩),
    (.m, 0x00602C0008200C14, .ld ⟨.n32, none, .acquire, .device, .mem, .zero, srcS 2, srcV 3, .v 5, 0⟩),
    (.s, 0x2800000000038F04, .mlow ⟨.i8, none, 0, .m 1, srcK 3, .zero, .zero⟩),
    (.s, 0x8600003045000007, .split ⟨0, none, 0, srcM 1, 5, 7⟩),
    (.s, 0x8300000000000004, .jump ⟨0, none, 0, .zero, 0, 4⟩),
    (.s, 0x8700002140000000, .join ⟨0, none, 0, srcS 5, 0, 0⟩),
    (.v, 0x04A01000D0200410, .vFma ⟨.f32, none, 0x10, .v 4, srcV 1, ⟨.v 2, true, false⟩, srcV 3⟩),
    (.v, 0x17A002000E000708, .vCmp ⟨.f32, none, 2, .m 2, srcV 1, srcK 0, .zero⟩),
    (.v, 0x8020002581051800, .sweep ⟨.add, .i32, none, 0, 600, .stream 4, .stream 5, .stream 6, .stream 0⟩),
    (.m, 0x0260000008038004, .ldb ⟨.n32, none, .plain, .crew, .mem, .zero, srcS 0, srcK 0, .v 1, 0⟩),
    (.m, 0x086000384804080C, .atomAdd ⟨.n32, none, .plain, .crew, .mem, srcK 1, srcS 0, ⟨.v 2, true, false⟩, .v 3, 0⟩),
    (.m, 0x0560503848034000, .sts ⟨.n32, none, .release, .system, .mem, srcK 1, srcS 0, ⟨.litS, false, false⟩, .v 0, 0⟩),
    (.m, 0x200009228892221C, .cp ⟨.i8, none, 9, .s 7, srcS 8, srcS 9, srcS 10⟩),
    (.t, 0x0500000000D00000, .mwp ⟨none, 0, false, false, 0, 0, ⟨.litS, false, false⟩, .zero, 0⟩),
    (.t, 0x0000000000000000, .mz ⟨none, 0, false, false, 0, 0, .zero, .zero, 0⟩),
    (.t, 0x0100001014E03801, .mm ⟨none, 0, false, false, 4, 5, srcK 0, srcK 0, 1⟩),
    (.t, 0x0400000018003800, .mdrain ⟨none, 0, false, false, 0, 6, .zero, srcK 0, 0⟩),
    (.t, 0x0700000000000000, .mwait ⟨none, 0, false, false, 0, 0, .zero, .zero, 0⟩),
    (.x, 0x000000000E038E10, .barArrive ⟨.i8, none, 0, .s 4, srcK 3, srcK 0, .zero⟩),
    (.x, 0x0100000018438E14, .barWait ⟨.i8, none, 0, .s 5, srcK 3, ⟨.s 4, true, false⟩, .zero⟩) ]

/-- Words the manual names as traps of cause illegal-instruction (R323, R328, R329). -/
def illegalWords : List (Cls × Word) :=
  [(.m, 0x00604C0008200C14), (.v, 0xAC2000000E200408), (.t, 0x0110001014E03801), (.s, 0xFF00000000000000)]

/-! ### Class V (R348 to R368) -/

/-- The register-form instructions of class V with their operations (R320). -/
def vectorOps : List (VOp × (RArgs → Instr)) :=
  [ (.add, .vAdd), (.sub, .vSub), (.mul, .vMul), (.mulh, .vMulh), (.fma, .vFma), (.div, .vDiv), (.min, .vMin), (.max, .vMax),
    (.abs, .vAbs), (.neg, .vNeg), (.sqrt, .vSqrt), (.rcp, .vRcp), (.rsqrt, .vRsqrt), (.exp2, .vExp2), (.log2, .vLog2), (.addsat, .vAddsat),
    (.subsat, .vSubsat), (.and, .vAnd), (.or, .vOr), (.xor, .vXor), (.not, .vNot), (.shl, .vShl), (.shr, .vShr), (.cmp, .vCmp),
    (.sel, .vSel), (.mov, .vMov), (.clz, .vClz), (.popc, .vPopc), (.cvt, .cvt), (.pack, .pack), (.unpack, .unpack), (.perm, .perm),
    (.shfl, .shfl), (.bcast, .bcast), (.rdx, .rdx), (.scan, .scan), (.vote, .vote), (.frnd, .frnd), (.cls, .vClass), (.copysign, .copysign),
    (.bfx, .vBfx), (.bfi, .vBfi), (.ldexp, .ldexp), (.fract, .fract) ]

/-- A lane of a vector register, or of a pair for a 64-bit type, holds an n-bit pattern extended as R348 says. -/
def LaneNow (b' : Bundle) (n : Nat) (ty : Ty) (l v : Nat) : Prop :=
  if ty.is64 then b'.v n l = BitVec.ofNat 32 v ∧ b'.v (n + 1) l = BitVec.ofNat 32 (v / 2 ^ 32)
  else b'.v n l = BitVec.ofInt 32 (tyVal ty.bits ty.signed v)

/-- A lane of a register, or of a pair, is as it was. -/
def LaneKept (c : Cur) (b' : Bundle) (n : Nat) (ty : Ty) (l : Nat) : Prop :=
  b'.v n l = c.b.v n l ∧ (ty.is64 = true → b'.v (n + 1) l = c.b.v (n + 1) l)

/-- The bank keys of w lanes of a vector destination. -/
def vecKeys (n : Nat) (ty : Ty) (w : Nat) : List Nat :=
  (List.range w).map (vKey n) ++ if ty.is64 then (List.range w).map (vKey (n + 1)) else []

/-- The type of an operation's result. -/
def resTy (o : VOp) (x : RArgs) : Ty := (vTypes o x.ty x.md.val).2.2.2

/-- The flags that some lanes raise, ORed into fpflags (R353). -/
def flagsAfter (c : Cur) (r : List (Nat × PF)) : Nats := (c.b.arch.orFlags (r.map fun y => (y.1, y.2.2))).fpflags

/-- What an integer instruction of R352, R355 and R358 computes in a lane, from values under the type. -/
def laneInts : List (VOp × (Ty → Int → Int → Int → Int)) :=
  [ (.add, fun _ a b _ => a + b), (.sub, fun _ a b _ => a - b), (.mul, fun _ a b _ => a * b),
    (.mulh, fun t a b _ => a * b / 2 ^ t.bits), (.fma, fun _ a b c => a * b + c),
    (.div, fun _ a b _ => if b = 0 then -1 else a.tdiv b), (.min, fun _ a b _ => min a b), (.max, fun _ a b _ => max a b),
    (.abs, fun _ a _ _ => |a|), (.neg, fun _ a _ _ => -a),
    (.addsat, fun t a b _ => max (tyMin t) (min (tyMax t) (a + b))), (.subsat, fun t a b _ => max (tyMin t) (min (tyMax t) (a - b))),
    (.not, fun _ a _ _ => -a - 1), (.shl, fun t a b _ => a * 2 ^ (b % t.bits).toNat), (.shr, fun t a b _ => a / 2 ^ (b % t.bits).toNat) ]

/-- A finite float as a rational. -/
def FVal.rat : FVal → Option ℚ
  | .fin n m e => some ((if n then -1 else 1) * m * (2 : ℚ) ^ e)
  | _ => none

/-- A compare or a vote completes with a mask destination (R351, R359, R367): the mask's bit of each active lane tells whether its result is nonzero, that of an inactive lane is kept, or is 0 under .z; the
flags of the lanes are ORed into fpflags, and nothing else changes. -/
def WritesMask (i : Instr) (s : State) (c : Cur) (o : VOp) (x : RArgs) (n : Fin 16) : Prop :=
  ∃ t b' m, exec i s = .next t ∧ OwnOnly s t c ∧ t.bundle? c.b.key = some b' ∧
    BundleBut c b' c.b.pend c.b.sq c.b.ackcnt (flagsAfter c (vResults o x c)) ∧ PathNow c b' (needV o x c) x.dst c.past ∧
    RegsBut c b' (dstKeys x.dst ++ killed c (needV o x c)) ∧ (c.active x.pred ≠ 0 ∨ (x.z = true ∧ 0 < c.g.width) → HoldsNow c b' x.dst m) ∧
    (∀ y ∈ vResults o x c, m.getLsbD y.1 = decide (y.2.1 ≠ 0)) ∧
    ((∀ k ∈ (needV o x c).kills, ∀ j, k.1.sel ≠ .m j) → ∀ l, l < c.g.width → inMask (c.active x.pred) l = false → m.getLsbD l = (!x.z && (c.m n.val).getLsbD l))

/-- A send is over: its record is gone, and its bundle has its token, with a count of acknowledgements less by one (R53). -/
def SendEnds (s t : State) (x : Send) (status : Nat) : Prop :=
  t.net.sends = s.net.sends.filter (fun y => y.id != x.id) ∧
    ∀ b, s.bundle? x.owner = some b → ∃ b', t.bundle? x.owner = some b' ∧ b'.ackcnt = b.ackcnt - 1 ∧ b'.pend = b.pend.filter (fun p => p.id != x.pid) ∧
      ∀ n : Fin 64, (Sel.s n, x.pid) ∈ b.arch.awaits → b'.s n.val = wordOf [(32, x.seq), (0, status)] ∧ b'.empty (.s n) = false

/-- A packet of a kind for this module that passes the checks of R46. -/
def Arrives (s : State) (p : Packet) (kind : Nat) : Prop := p.kind = kind ∧ p.dst = s.net.self ∧ p.version = 1 ∧ p.crcOk = true ∧ p.fcsOk = true ∧
  (p.delivery = .uud ∨ p.delivery = .rud)

/-- A send, and a message record, whose fields have the widths of the header (R46), from a profile that is valid (R50). -/
abbrev SendOk (s : State) (x : Send) : Prop :=
  x.tenant < 64 ∧ x.seq < 2 ^ 32 ∧ x.dest < 2 ^ 19 ∧ x.len ≤ 2 ^ 26 ∧ x.tag < 2 ^ 32 ∧ s.net.self < 2 ^ 19 ∧ 1 ≤ fld x.prof 19 14 ∧ fld x.prof 19 14 ≤ 32 ∧ fld x.prof 23 20 ≤ 8
abbrev RecOk (r : NetRec) : Prop := r.src < 2 ^ 19 ∧ r.tenant < 64 ∧ r.seq < 2 ^ 32 ∧ r.decoded.length < 2 ^ 20

/-- The packets sent end with one of this kind, to this module, of this message and stripe, with this body. -/
def LastSent (t : State) (kind dst tenant seq stripe body : Nat) : Prop :=
  ∃ p, t.net.out.getLast? = some p ∧ p.kind = kind ∧ p.dst = dst ∧ p.tenant = tenant ∧ p.seq = seq ∧ p.stripe = stripe ∧ p.body = body ∧ p.version = 1

/-- A token has arrived at its bundle: the result is no longer outstanding, and each scalar register that waited for it holds its value (R187). -/
def TokenNow (s t : State) (k : BKey) (pid : Nat) (v : Word) : Prop :=
  ∀ b, s.bundle? k = some b → ∃ b', t.bundle? k = some b' ∧ b'.pend = b.pend.filter (fun p => p.id != pid) ∧
    ∀ n : Fin 64, (Sel.s n, pid) ∈ b.arch.awaits → b'.s n.val = v ∧ b'.empty (.s n) = false

/-- A party that writes device registers at their addresses (R136): a command processor, a host-die hart, a tenant's supervisor. -/
def OnBus (p : Party) : Prop := p = .cp ∨ p = .host ∨ ∃ t, p = .supervisor t

/-- The command at the head of the ring has this code and a tenant below 64 (R128). -/
def Head (s : State) (code : Nat) (r : List Word) : Prop := s.cmdHead = some r ∧ cmdCode r = code ∧ cmdTenant r < 64

/-- A command is carried out and answered with a value and a status, after which the head has moved on (R128). -/
def Answers (i : Instr) (s : State) (r : List Word) (value status : Nat) (Q : State → Prop) : Prop :=
  ∃ u, exec i s = .next (u.reply r value status) ∧ Q u

/-- The device has been reset (R108, R132, R134): nothing runs and nothing is bound, HUB_BOOT_STATUS gives the cause alone, the firmware floors stand, and each region's sealed end is its last committed one. -/
def Reborn (s t : State) (last : Nat) (powered : Bool) : Prop :=
  t.grids = [] ∧ t.crews = [] ∧ t.bundles = [] ∧ t.inflight = [] ∧ t.xl = State.reset.xl ∧ t.clock = 0 ∧ t.parts.powered = powered ∧ t.reg 0x50 = wordOf [(8, last)] ∧
    (∀ o ∈ [0x30, 0x38, 0x40], t.reg o = s.reg o) ∧
    (keysFrom 0 s.flash.committed = true → ∀ n e, n < 16384 → mapGet s.flash.committed n = some e → t.sealedEnd n = e % 2 ^ 40)

end Sys2Proof.Machine
end

