-- ==== Sys2Proof/Certificates/Slice0/Obligations.lean ====
section
/-! DEFINITION. The statements for the provers. -/

open Sys2Proof Sys2Proof.Machine

/-! ### Decoding and the step -/

/-- The words that the manual writes out decode to the instructions they stand for, and encode to themselves; the words it calls illegal decode to nothing. -/
def Obligations.SpecWordsDecode : Prop :=
  (∀ p ∈ specWords, decodeWord p.1 p.2.1 = .ok p.2.2 ∧ encode p.2.2 = some (p.1, p.2.1.toNat)) ∧
    ∀ p ∈ illegalWords, ∀ i, decodeWord p.1 p.2 ≠ .ok i

/-- Every well-formed instruction of a clause has a word of 64 bits, and decoding that word in its class gives the instruction back (R296 to R328). -/
def Obligations.DecodeOfEncode : Prop :=
  ∀ i : Instr, i.wf = true → i.isWord = true →
    ∃ k n, encode i = some (k, n) ∧ n < 2 ^ 64 ∧ decodeWord k (BitVec.ofNat 64 n) = .ok i

/-- A word that decodes is the word of the instruction it gives, which is well formed: no bit of it is dropped, and no two words of a class decode alike (R328).
A clause header's fields come back from its word (R296); a header that breaks R298 does not decode. -/
def Obligations.DecodingLosesNoBit : Prop :=
  (∀ (k : Cls) (w : Word) (i : Instr), decodeWord k w = .ok i → i.wf = true ∧ encode i = some (k, w.toNat)) ∧
  ((∀ (acc : Nat) (h : Header), h.count < 16 → h.wait0 < 256 → h.wait1 < 256 → waitOk acc h.wait0 = true → waitOk acc h.wait1 = true →
    decodeHeader acc (encodeHeader h) = .ok h) ∧
  (∀ (acc : Nat) (w : Word) (h : Header), decodeHeader acc w = .ok h →
    encodeHeader h = w ∧ h.count < 16 ∧ waitOk acc h.wait0 = true ∧ waitOk acc h.wait1 = true))

/-- Running a turn of the agenda: an event's meaning, the header at the program counter of the path that issues, the decoded word of its clause, the trap of cause illegal-instruction where the word does not
decode (R328), or of cause misaligned where the program counter is no multiple of 8 (R299); then the actions that have come to their thresholds fire (R159), and one cycle passes. Before the turn the step notes since when
each bundle could issue (R155); after it, it takes away what it noted of blocked clauses. A bundle that must give way to another of its core does nothing (R155, R156).
The model's choices it rests on: log 4. -/
def Obligations.StepRunsItsInstruction : Prop :=
  (∀ (s v : State) i rest, s.agenda = .event i :: rest → v = ({ s with agenda := rest } : State).markReady none →
    (∀ t, exec i v = .next t → step s = .next (v.after t).settleArmed.tick) ∧ ∀ f, exec i v = .fault f → step s = .fault f) ∧
  (∀ (s u : State) (c : Cur) b slot rest, s.agenda = .issue b slot :: rest → u = (({ s with agenda := rest } : State).markReady (some b)).aim b slot →
    u.cur = some c → c.eligible = true →
    (u.givesWay b slot = true → step s = .next (u.markReady none).settleArmed.tick) ∧
    (u.givesWay b slot = false →
      (c.p.clause = none → u.saveStops c = false → u.queueBlocked c = false →
        (c.p.pc.toNat % 8 = 0 → ∀ w, u.fetch c c.p.pc = .word w → ∀ t, exec (.clauseHeader w) u = .next t → step s = .next (u.afterIssue t b slot).settleArmed.tick) ∧
        (c.p.pc.toNat % 8 ≠ 0 → step s = .next (u.afterIssue (u.clauseTrap c 0x09 c.p.pc) b slot).settleArmed.tick)) ∧
      ∀ cl k w, c.p.clause = some cl → hdrCls cl.hdr = some k → cl.words[c.p.idx]? = some w →
        (∀ i, decodeWord k w = .ok i → ∀ t, exec i u = .next t → step s = .next (u.afterIssue t b slot).settleArmed.tick) ∧
        ((∀ i, decodeWord k w ≠ .ok i) → u.heldUp c { cls := k } = false →
          step s = .next (u.afterIssue (u.trapAll c 0x01 (c.active (wordPred w))) b slot).settleArmed.tick))) ∧
  (∀ (s : State) (o : Option BKey), ∃ f : Bundle → Option Nat, s.markReady o = { s with bundles := s.bundles.map fun b => { b with ready := f b } }) ∧
  ∀ (s t : State) (b : BKey) (slot : Bool), ∃ f : Bundle → List Bool, s.afterIssue t b slot = { t with bundles := t.bundles.map fun b => { b with stopped := f b } } ∧
    ∃ g : Bundle → List Bool, s.after t = { t with bundles := t.bundles.map fun b => { b with stopped := g b } }

/-- Every step keeps memory and the device's sorted maps in their canonical forms.
The model's choices it rests on: log 2 and 4. -/
def Obligations.CanonicalFormsKept : Prop :=
  ∀ s t : State, s.wf = true → step s = .next t → t.wf = true

/-- After reset the machine is in canonical form, no memory is listed, nothing runs, and the clock is 0.
The model's choices it rests on: log 1 and 2. -/
def Obligations.ResetIsCanonical : Prop :=
  State.reset.wf = true ∧ State.reset.mem = [] ∧ State.reset.bundles = [] ∧ State.reset.clock = 0 ∧
    (∀ a, State.reset.byte a = memUnlisted) ∧ State.reset.grids = [] ∧ State.reset.xl.ctxs = []

/-! ### Memory -/

/-- In a canonical memory a byte written reads back, every other byte reads as before, and the form is kept; equal reads mean equal memories.
A 64-bit word written reads back and leaves every byte outside its eight as it was; its lowest byte lies at its address (R372). -/
def Obligations.MemoryReadsBack : Prop :=
  ((∀ (s : State) (a : Nat) (b : Byte), memWf s.mem = true →
    (s.setByte a b).byte a = b ∧ (∀ x, x ≠ a → (s.setByte a b).byte x = s.byte x) ∧ memWf (s.setByte a b).mem = true) ∧
  ∀ m m' : List Host.Cell, memWf m = true → memWf m' = true → (∀ a, memGet m a = memGet m' a) → m = m') ∧
  (∀ (s : State) (a : Nat) (w : Word), memWf s.mem = true →
    (s.wr64 a w).rd64 a = w ∧ (∀ i, i < 8 → (s.wr64 a w).byte (a + i) = w.extractLsb' (8 * i) 8) ∧
      (∀ x, (x < a ∨ a + 8 ≤ x) → (s.wr64 a w).byte x = s.byte x) ∧ memWf (s.wr64 a w).mem = true)

/-! ### Class S -/

/-- Every integer instruction of R333, R334 and R337 that may issue completes with the result of the table, for every type and operand, and changes nothing else;
so do movi, addi and movhi of R338. -/
def Obligations.ScalarArithmetic : Prop :=
  (∀ p ∈ scalarArith, ∀ (x : RArgs) (s : State) (c : Cur), Ready s c (needS x c) → WritesOne (p.1 x) s c (needS x c) x.dst (p.2 x c)) ∧
  (∀ p ∈ immResults, ∀ (x : IArgs) (s : State) (c : Cur),
    let n : Need := { cls := .s, pred := x.pred, srcs := srcsS [x.a], dsts := [(x.dst, false, true)] }
    Ready s c n → WritesOne (p.1 x) s c n x.dst (p.2 x c))

/-- Every bit instruction of R333, R335 and R336 completes with the result of the table, said bit by bit. -/
def Obligations.ScalarBitOperations : Prop :=
  ∀ p ∈ scalarBits, ∀ (x : RArgs) (s : State) (c : Cur), Ready s c (needS x c) → WritesOne (p.1 x) s c (needS x c) x.dst (p.2 x c)

/-- Every mask instruction of R339 completes with the result of the table on all 64 bits; a source m0 is the path's mask with bits [63:w] as 0, a destination m0
takes bits [w − 1:0] (R174); each encodes type 0 and mod 0. -/
def Obligations.MaskOperations : Prop :=
  (∀ p ∈ maskResults, ∀ (x : RArgs) (s : State) (c : Cur), Ready s c (needS x c) → WritesOne (p.1 x) s c (needS x c) x.dst (p.2 x c)) ∧
  (∀ p ∈ maskResults, ∀ x : RArgs, (p.1 x).wf = true → x.ty.code = 0 ∧ x.md = 0) ∧
  ∀ (c : Cur) (i : Nat), (c.raw (.m 0)).getLsbD i = (c.p.mask.getLsbD i && decide (i < c.g.width) && decide (i < 64))

/-- Division by zero gives −1 and the remainder a; the most negative number divided by −1 gives itself and remainder 0; any other pair gives the quotient
truncated toward zero and the remainder, which is 0 or has the sign of a; none sets a flag or traps (R334). -/
def Obligations.DivisionCorners : Prop :=
  ∀ (x : RArgs) (s : State) (c : Cur), x.ty.isInt = true → Ready s c (needS x c) →
    (c.rd x.ty x.b = 0 → WritesOne (.sDiv x) s c (needS x c) x.dst (BitVec.ofInt 64 (if x.ty.signed then -1 else 2 ^ x.ty.bits - 1)) ∧
      WritesOne (.sRem x) s c (needS x c) x.dst (BitVec.ofInt 64 (c.rd x.ty x.a))) ∧
    (x.ty.signed = true → c.rd x.ty x.a = -2 ^ (x.ty.bits - 1) → c.rd x.ty x.b = -1 →
      WritesOne (.sDiv x) s c (needS x c) x.dst (BitVec.ofInt 64 (-2 ^ (x.ty.bits - 1))) ∧ WritesOne (.sRem x) s c (needS x c) x.dst 0) ∧
    (c.rd x.ty x.b ≠ 0 → ¬(x.ty.signed = true ∧ c.rd x.ty x.a = -2 ^ (x.ty.bits - 1) ∧ c.rd x.ty x.b = -1) →
      ∃ q r : Int, c.rd x.ty x.a = q * c.rd x.ty x.b + r ∧ r.natAbs < (c.rd x.ty x.b).natAbs ∧ (r = 0 ∨ r.sign = (c.rd x.ty x.a).sign) ∧
        WritesOne (.sDiv x) s c (needS x c) x.dst (BitVec.ofInt 64 q) ∧ WritesOne (.sRem x) s c (needS x c) x.dst (BitVec.ofInt 64 r))

/-! ### Class V -/

/-- Every register-form instruction of class V with a vector destination completes: each active lane holds its result, an inactive lane is kept or is 0
under .z, lanes from w up and every other register are kept, and the lanes' flags are ORed into fpflags (R348, R349, R351, R353). -/
def Obligations.VectorDestination : Prop :=
  ∀ p ∈ vectorOps, ∀ (x : RArgs) (s : State) (c : Cur) (n : Fin 128), x.dst = .v n → Ready s c (needV p.1 x c) →
    ∃ t b', exec (p.2 x) s = .next t ∧ OwnOnly s t c ∧ t.bundle? c.b.key = some b' ∧
      BundleBut c b' c.b.pend c.b.sq c.b.ackcnt (flagsAfter c (vResults p.1 x c)) ∧ PathNow c b' (needV p.1 x c) x.dst c.past ∧
      RegsBut c b' (vecKeys n.val (resTy p.1 x) c.g.width ++ killed c (needV p.1 x c)) ∧
      (∀ y ∈ vResults p.1 x c, LaneNow b' n.val (resTy p.1 x) y.1 y.2.1) ∧
      (∀ l, l < c.g.width → l < 64 → inMask (c.active x.pred) l = false →
        if x.z then LaneNow b' n.val (resTy p.1 x) l 0
        else (∀ k ∈ (needV p.1 x c).kills, ∀ j, k.1.sel ≠ .v j) → LaneKept c b' n.val (resTy p.1 x) l)

/-- A compare, and a vote, with a mask destination completes: the bit of each active lane tells whether its result is nonzero, the bit of an inactive lane
is kept or is 0 under .z, and m0 takes bits [w − 1:0] only (R351, R359, R367).
A reduction or vote with a scalar destination writes the common result of the active lanes once, and nothing when no lane is active (R351, R365, R367). -/
def Obligations.VectorMaskAndScalarDestinations : Prop :=
  (∀ (x : RArgs) (s : State) (c : Cur) (n : Fin 16), x.dst = .m n → Ready s c (needV .cmp x c) → WritesMask (.vCmp x) s c .cmp x n) ∧
  (∀ (x : RArgs) (s : State) (c : Cur) (n : Fin 16), x.dst = .m n → Ready s c (needV .vote x c) → WritesMask (.vote x) s c .vote x n) ∧
  (∀ p ∈ vectorOps, ∀ (x : RArgs) (s : State) (c : Cur) (n : Fin 64), x.dst = .s n → x.z = false → Ready s c (needV p.1 x c) →
    ∃ t b', exec (p.2 x) s = .next t ∧ OwnOnly s t c ∧ t.bundle? c.b.key = some b' ∧
      BundleBut c b' c.b.pend c.b.sq c.b.ackcnt (flagsAfter c (vResults p.1 x c)) ∧ PathNow c b' (needV p.1 x c) x.dst c.past ∧
      RegsBut c b' (dstKeys x.dst ++ killed c (needV p.1 x c)) ∧
      ∀ y r, vResults p.1 x c = y :: r →
        HoldsNow c b' x.dst (if (resTy p.1 x).isInt then wrVal (resTy p.1 x) (tyVal (resTy p.1 x).bits (resTy p.1 x).signed y.2.1) else BitVec.ofNat 64 y.2.1))

/-- The integer operations of class V compute in each lane what R352, R355 and R358 say, modulo 2^n but where they clamp, and raise no flag. -/
def Obligations.IntegerLanes : Prop :=
  ∀ p ∈ laneInts, ∀ (ty : Ty) (md a b c old : Nat), ty.isInt = true → a < 2 ^ ty.bits → b < 2 ^ ty.bits → c < 2 ^ ty.bits →
    vLane p.1 ty md a b c old =
      ((p.2 ty (tyVal ty.bits ty.signed a) (tyVal ty.bits ty.signed b) (tyVal ty.bits ty.signed c) % 2 ^ ty.bits).toNat, 0)

/-- The float operations that only move bits: abs clears the sign, neg inverts it, copysign takes b's; none raises a flag (R353, R355).
Every NaN that addition, multiplication, fused multiply-add or division produces is the canonical NaN, and a signalling operand sets invalid (R353, R355). -/
def Obligations.FloatSpecialResults : Prop :=
  (∀ (ty : Ty) (md a b c old : Nat), ty.isFloat = true → a < 2 ^ ty.bits → b < 2 ^ ty.bits →
    (∀ i, ((vLane .abs ty md a b c old).1.testBit i = (a.testBit i && decide (i ≠ ty.bits - 1)))) ∧
    (∀ i, ((vLane .neg ty md a b c old).1.testBit i = (a.testBit i ^^ decide (i = ty.bits - 1)))) ∧
    (∀ i, ((vLane .copysign ty md a b c old).1.testBit i = if i = ty.bits - 1 then b.testBit i else a.testBit i)) ∧
    (vLane .abs ty md a b c old).2 = 0 ∧ (vLane .neg ty md a b c old).2 = 0 ∧ (vLane .copysign ty md a b c old).2 = 0) ∧
  (∀ (ty : Ty) (md a b c old : Nat), ty.isFloat = true → a < 2 ^ ty.bits → b < 2 ^ ty.bits → c < 2 ^ ty.bits →
    ∀ o ∈ [VOp.add, .sub, .mul, .div],
      (((fmtOf ty).val (vLane o ty md a b c old).1).isNan = true → (vLane o ty md a b c old).1 = (fmtOf ty).qnan) ∧
      (((fmtOf ty).val a).isNan = true ∨ ((fmtOf ty).val b).isNan = true → (vLane o ty md a b c old).1 = (fmtOf ty).qnan) ∧
      (((fmtOf ty).val a).isSig = true ∨ ((fmtOf ty).val b).isSig = true → (vLane o ty md a b c old).2 = flV))

/-- Rounding under nearest-even to a float type: no finite value of the type lies nearer the exact value than a finite result does, a result that differs
is inexact, and one that does not raises no flag; under .rz the result never exceeds the exact value in magnitude (R353). -/
def Obligations.RoundingIsNearest : Prop :=
  ∀ (ty : Ty) (neg : Bool) (m : Nat) (e : Int), ty.isFloat = true →
    let f := fmtOf ty
    let x : ℚ := (if neg then -1 else 1) * m * (2 : ℚ) ^ e
    (∀ r, (f.val (f.round 0 neg m e).1).rat = some r →
      (∀ z q, (f.val z).rat = some q → |x - r| ≤ |x - q|) ∧ ((f.round 0 neg m e).2 = 0 ↔ r = x) ∧ ((f.round 0 neg m e).2.testBit 0 ↔ r ≠ x)) ∧
    ∀ r, (f.val (f.round 1 neg m e).1).rat = some r → |r| ≤ |x|

/-- One iteration of a sweep that need not wait for an acquire or an earlier access of its bundle, and whose active lanes' elements are aligned and lie in the window, completes: its elements are queued as one
store to the window, each active lane's with its result; its flags are ORed, progress counts it, and the path stays at the sweep, with the pairs it has read, until the last, which leaves progress 0 and moves on
(R221, R224, R312, R313, R314). No register changes.
The model's choices it rests on: log 25. -/
def Obligations.SweepIteration : Prop :=
  ∀ (x : SweepArgs) (s : State) (c : Cur), Ready s c (needSweep x c) → c.b.windowWaits = false →
    (∀ l ∈ maskLanes c.g.width (c.active x.pred), ∀ f ∈ sweepFields x ++ [(x.fd, (vTypes x.op x.ty x.md.val).2.2.2)], ∀ k, f.1 = .stream k →
      c.segment f.1 c.p.swept f.2.bytes l % f.2.bytes = 0 ∧ c.segment f.1 c.p.swept f.2.bytes l + f.2.bytes ≤ 4096 * c.g.scratch) →
    ∃ t b' parts, exec (.sweep x) s = .next t ∧ OwnOnly s t c ∧ t.bundle? c.b.key = some b' ∧
      b'.sq = c.b.sq ++ (if parts = [] then [] else [⟨s.clock, .store false parts, 0⟩]) ∧
      (∀ q ∈ parts, q.1.space = .ls ∧ q.2.length = (vTypes x.op x.ty x.md.val).2.2.2.bytes ∧ q.1.addr = c.segment x.fd c.p.swept (vTypes x.op x.ty x.md.val).2.2.2.bytes q.1.lane) ∧
      (∀ y ∈ sweepResults x c s.free c.p.swept, ∃ q ∈ parts, q.1.lane = y.1 ∧ q.2 = leBytes (vTypes x.op x.ty x.md.val).2.2.2.bytes y.2.1) ∧
      b'.pend = c.b.pend ∧ b'.ackcnt = c.b.ackcnt ∧ b'.arch.regs = c.b.arch.regs ∧ b'.arch.awaits = c.b.arch.awaits ∧
      b'.arch.fpflags = flagsAfter c (sweepResults x c s.free c.p.swept) ∧
      (c.p.swept + 1 < x.count.val → b'.arch.progress = c.p.swept + 1 ∧
        ∃ l, b'.arch.path c.slot = some { c.begunPath with first := none, held := some (.sweep (c.p.swept + 1) (some l)) }) ∧
      (x.count.val ≤ c.p.swept + 1 → b'.arch.progress = 0 ∧ b'.arch.path c.slot = some c.past)

/-! ### Class M: memory (R369 to R384) -/

/-- A load whose lanes pass their checks and that need not wait completes: its destination goes empty, one outstanding result with exactly those accesses
stands last in its bundle, and no byte of memory, no other bundle and no register changes; with no lane it does nothing (R187, R375 to R377). The number it takes is one that no outstanding result of its bundle has.
The model's choices it rests on: log 9. -/
def Obligations.LoadsLeaveTheirDestinationEmpty : Prop :=
  ∀ p ∈ [(Instr.ld, Shape.lanes), (.ldb, .block), (.lds, .scalar)], ∀ (x : MArgs) (s : State) (c : Cur) (ok : List LaneAcc),
    Ready s c (needLoad x p.2 c) → AllPass s c x p.2 .load ok → NoWait s c x → (∀ q ∈ c.b.pend, q.id ≠ s.free + 1) →
    ∃ t b', exec (p.1 x) s = .next t ∧ (∀ a, t.byte a = s.byte a) ∧ (∀ k, k ≠ c.b.key → t.bundle? k = s.bundle? k) ∧ t.bundle? c.b.key = some b' ∧
      ((∀ a ∈ ok, a.defer = false) → OwnOnly s t c) ∧ PathNow c b' (needLoad x p.2 c) x.dst c.past ∧ RegsBut c b' (killed c (needLoad x p.2 c)) ∧
      (ok = [] → BundleKept c b' ∧ b'.arch.awaits = c.b.arch.awaits) ∧
      (ok ≠ [] → ∃ q : Pend, ((∀ a ∈ ok, a.defer = false) → q.lanes = ok ∧ q.acq = acqScope x) ∧ q.lanes.map (fun a => (a.lane, a.va)) = ok.map (fun a => (a.lane, a.va)) ∧
        q.dst = x.dst ∧ q.ty = x.ty ∧ q.got = [] ∧ q.want = ok.length ∧ q.kind = .load (x.mx.val == 1) ∧ BundleBut c b' (c.b.pend ++ [q]) c.b.sq c.b.ackcnt c.b.arch.fpflags ∧
        EmptiesRegs c b' (regsOf x.dst (x.ty.is64 && p.2 != .scalar)) ∧ ∀ r ∈ regsOf x.dst (x.ty.is64 && p.2 != .scalar), (r, q.id) ∈ b'.arch.awaits)

/-- A store whose lanes pass their checks and that need not wait completes: one entry with each lane's address and its little-endian bytes enters the store
queue, its lines count on the acknowledgement counter, and memory itself is unchanged; with no lane it does nothing (R32, R223, R372, R375). -/
def Obligations.StoresEnterTheStoreQueue : Prop :=
  ∀ p ∈ [(Instr.st, Shape.lanes), (.stb, .block), (.sts, .scalar)], ∀ (x : MArgs) (s : State) (c : Cur) (ok : List LaneAcc),
    Ready s c (needStore x c) → AllPass s c x p.2 .store ok → NoWait s c x → c.b.ackcnt + (accLines ok).length ≤ 512 →
    if ok = [] then Moves (p.1 x) s c (needStore x c) c.past c.b.arch.fpflags
    else Queues (p.1 x) s c (needStore x c)
      (.store (p.2 == .block) (ok.map fun a => (a, leBytes x.ty.bytes (c.lane x.ty x.data.sel a.lane)))) (accLines ok).length

/-- An atomic whose lanes pass their checks and that need not wait completes: it enters the store queue with each lane's operand, and cas with its comparand,
its lines are counted, its destination goes empty; memory itself is unchanged (R187, R378 to R381).
A reduction whose lanes pass their checks and that need not wait enters the store queue and returns nothing (R378, R381). -/
def Obligations.AtomicsEnterTheStoreQueue : Prop :=
  (∀ p ∈ [(Instr.atomAdd, AtomOp.add), (.atomMin, .min), (.atomMax, .max), (.atomAnd, .and), (.atomOr, .or), (.atomXor, .xor), (.atomXchg, .xchg), (.cas, .cas)],
    ∀ (x : MArgs) (s : State) (c : Cur) (ok : List LaneAcc),
    Ready s c (needAtom x p.2 c) → AllPass s c x .lanes .atomic ok → NoWait s c x → c.b.ackcnt + (accLines ok).length ≤ 512 →
    if ok = [] then Moves (p.1 x) s c (needAtom x p.2 c) c.past c.b.arch.fpflags
    else Outcome (p.1 x) s c (needAtom x p.2 c) (fun t => { s with xl := t.xl }) x.dst c.past fun _ b' => ∃ pid,
      BundleBut c b' (c.b.pend ++ [⟨pid, .atom x.ty, x.ty, x.dst, [], ok.length, [], acqScope x, s.clock, none, c.slot⟩])
        (c.b.sq ++ [⟨s.clock, .atom (some pid) p.2 x.ty (ok.map fun a => ⟨a, BitVec.ofNat 64 (c.lane x.ty x.data.sel a.lane),
          if p.2 = .cas then BitVec.ofNat 64 (c.lane x.ty x.dst a.lane) else 0⟩), (accLines ok).length⟩])
        (c.b.ackcnt + (accLines ok).length) c.b.arch.fpflags ∧
      EmptiesRegs c b' (regsOf x.dst x.ty.is64) ∧ ∀ r ∈ regsOf x.dst x.ty.is64, (r, pid) ∈ b'.arch.awaits) ∧
  (∀ p ∈ [(Instr.redAdd, AtomOp.add), (.redMin, .min), (.redMax, .max), (.redAnd, .and), (.redOr, .or), (.redXor, .xor)],
    ∀ (x : MArgs) (s : State) (c : Cur) (ok : List LaneAcc),
    Ready s c (needStore x c) → AllPass s c x .lanes .atomic ok → NoWait s c x → c.b.ackcnt + (accLines ok).length ≤ 512 →
    if ok = [] then Moves (p.1 x) s c (needStore x c) c.past c.b.arch.fpflags
    else Queues (p.1 x) s c (needStore x c)
      (.atom none p.2 x.ty (ok.map fun a => ⟨a, BitVec.ofNat 64 (c.lane x.ty x.data.sel a.lane), 0⟩)) (accLines ok).length)

/-- A fence completes once earlier accesses are performed at its scope, and drops its core's L1 from scope core up; cinvall drops it when a lane is active;
cinv drops no line of another core and every line of its own that an active lane's held translation names; a prefetch changes lines of its own core alone.
None changes memory or a register (R222, R382 to R384).
The model's choices it rests on: log 8 and 118. -/
def Obligations.FencesAndCacheMaintenance : Prop :=
  (∀ (x : MArgs) (s : State) (c : Cur), let n : Need := { cls := .m, sync := true, pred := x.pred }
    Ready s c n → c.b.acquiring = false → s.performed c.b x.scope = true →
    Outcome (.fence x) s c n (fun _ => { s with l1 := if dropsL1 x.scope then l1Without s c.c.core else s.l1 }) .litS c.past fun _ b' =>
      BundleKept c b' ∧ b'.arch.awaits = c.b.arch.awaits) ∧
  (∀ (x : MArgs) (s : State) (c : Cur), let n : Need := { cls := .m, pred := x.pred }
    Ready s c n → Outcome (.cinvall x) s c n (fun _ => { s with l1 := if c.active x.pred = 0 then s.l1 else l1Without s c.c.core }) .litS c.past fun _ b' =>
      BundleKept c b' ∧ b'.arch.awaits = c.b.arch.awaits) ∧
  (∀ (x : MArgs) (s : State) (c : Cur), let n : Need := { cls := .m, pred := x.pred, srcs := memSrcs x false }
    Ready s c n → Outcome (.cinv x) s c n (fun t => { s with l1 := t.l1 }) .litS c.past fun t b' =>
      BundleKept c b' ∧ b'.arch.awaits = c.b.arch.awaits ∧ (∀ l ∈ t.l1, l ∈ s.l1) ∧ (∀ l ∈ s.l1, l.core ≠ c.c.core → l ∈ t.l1) ∧
      ∀ lane ∈ maskLanes c.g.width (c.active x.pred), ∀ pa pb, s.heldPa c (c.addr x .lanes lane) = some (pa, pb) →
        ∀ l ∈ t.l1, l.core = c.c.core → l.line ≠ lineOf pa) ∧
  ∀ (x : MArgs) (s : State) (c : Cur), let n : Need := { cls := .m, pred := x.pred, srcs := memSrcs x false }
    Ready s c n → Outcome (.pf x) s c n (fun t => { s with l1 := t.l1 }) .litS c.past fun t b' =>
      BundleKept c b' ∧ b'.arch.awaits = c.b.arch.awaits ∧ ∀ l, l.core ≠ c.c.core → (l ∈ t.l1 ↔ l ∈ s.l1)

/-- cp and cpt that pass their checks and need not wait append one command to the copy queue their modifier names, with its token's register empty until the
copy ends; no byte moves yet (R212, R386, R387).
cpreset empties the copy queue it names, whatever stood in it, and ends its commands' waits for their tokens; where none of them has written a byte yet it touches no memory, no other crew and no other queue (R388).
The model's choices it rests on: log 15. -/
def Obligations.CopiesAreQueued : Prop :=
  ((∀ (x : RArgs) (s : State) (c : Cur) (k : Fin 64), x.dst = .s k → Ready s c (needCopy x c) → ownCp x s c = .go →
    Outcome (.cp x) s c (needCopy x c) (fun t => { s with crews := t.crews }) .litS c.past fun t b' => ∃ pid,
      t.crew? c.c.key = some { c.c with copies := c.c.copies.modify (x.md.val % 4) fun l => l ++ [⟨c.b.key, pid, s.clock, cpKind x c, (c.raw x.c.sel).toNat, 0, false, none, []⟩] } ∧
      (∀ j, j ≠ c.c.key → t.crew? j = s.crew? j) ∧ BundleBut c b' (c.b.pend ++ [tokenPend c x.dst s.clock pid]) c.b.sq c.b.ackcnt c.b.arch.fpflags ∧
      b'.arch.awaits = (x.dst, pid) :: filled c.b.arch.awaits x.dst) ∧
  (∀ (x : RArgs) (s : State) (c : Cur) (k : Fin 64), x.dst = .s k → Ready s c (needCopy x c) → ownCpt x s c = .go →
    Outcome (.cpt x) s c (needCopy x c) (fun t => { s with crews := t.crews }) .litS c.past fun t b' => ∃ pid len kind,
      t.crew? c.c.key = some { c.c with copies := c.c.copies.modify (x.md.val % 4) fun l => l ++ [⟨c.b.key, pid, s.clock, kind, len, 0, false, none, []⟩] } ∧
      kind = .tile (c.cptTensor s x) (c.row0 x.b) (c.col0 x.b) (spaceNo (x.md.val / 4 % 4)) (c.raw x.c.sel).toNat (x.md.val / 16 % 2 == 1) ∧
      (∀ j, j ≠ c.c.key → t.crew? j = s.crew? j) ∧ BundleBut c b' (c.b.pend ++ [tokenPend c x.dst s.clock pid]) c.b.sq c.b.ackcnt c.b.arch.fpflags ∧
      b'.arch.awaits = (x.dst, pid) :: filled c.b.arch.awaits x.dst) ∧
  ∀ (x : RArgs) (s : State) (c : Cur), Ready s c (needCopy x c) →
    (c.raw x.c.sel).toNat = 0 ∨ 16777216 < (c.raw x.c.sel).toNat →
    exec (.cp x) s = .next (s.takeTrap c 0x14 (c.active x.pred) fun _ => BitVec.ofNat 64 (c.raw x.c.sel).toNat)) ∧
  (∀ (x : RArgs) (s : State) (c : Cur), let n : Need := { cls := .m, sync := true, once := true, pred := x.pred }
    Ready s c n → ∃ t b', exec (.cpreset x) s = .next t ∧ (∀ k, t.crew? c.c.key = some k → (k.copies[x.md.val % 4]?).getD [] = []) ∧
      ((∀ m ∈ (c.c.copies[x.md.val % 4]?).getD [], m.done = 0) → (∀ a, t.byte a = s.byte a) ∧
        t.crew? c.c.key = some { c.c with copies := c.c.copies.modify (x.md.val % 4) fun _ => [] } ∧ ∀ j, j ≠ c.c.key → t.crew? j = s.crew? j) ∧
      (∀ k, k.ck ≠ c.c.key → (∀ m ∈ (c.c.copies[x.md.val % 4]?).getD [], m.owner ≠ k) → t.bundle? k = s.bundle? k) ∧
      t.bundle? c.b.key = some b' ∧ (b'.arch.path c.slot).map (fun q => (q.pc, q.idx)) = some (c.past.pc, c.past.idx) ∧
      ∀ m ∈ (c.c.copies[x.md.val % 4]?).getD [], ∀ b, t.bundle? m.owner = some b → ∀ q ∈ b.pend, q.id ≠ m.pid)

/-- The stream instructions queue their request with its token; app.wr does so once no acquire of the bundle is outstanding and no store of it to the window or the vault waits or flies, and else its clause stops (R221, R390, R391).
The model's choices it rests on: log 15. -/
def Obligations.StreamRequestsAreQueued : Prop :=
  (∀ p ∈ [(Instr.appOpen, 0), (.appSeal, 2), (.appSync, 3), (.appClose, 4)], ∀ (x : RArgs) (s : State) (c : Cur) (k : Fin 64), x.dst = .s k →
    Ready s c (needStream x 1 c) → SendsToken (p.1 x) s c (needStream x 1 c) x.dst (fun pid => .stream pid p.2 (c.raw x.a.sel) .mem 0 0) 0) ∧
  ∀ (x : RArgs) (s : State) (c : Cur) (k : Fin 64), x.dst = .s k → Ready s c (needStream x 3 c) →
    let sp := if x.md.val % 2 = 0 then Space.ls else .vlt
    let len := (c.raw x.c.sel).toNat
    ((1 ≤ len → len ≤ 4096 → s.spaceBad c sp (c.raw x.b.sel).toNat len = none) → c.b.acquiring = false → (c.b.sq.any fun e => e.op.local) = false → s.vaultFlies c.b.key = false →
      SendsToken (.appWr x) s c (needStream x 3 c) x.dst (fun pid => .stream pid 1 (c.raw x.a.sel) sp (c.raw x.b.sel).toNat len) 0) ∧
    (c.b.acquiring = true ∨ (c.b.sq.any fun e => e.op.local) = true ∨ s.vaultFlies c.b.key = true → (1 ≤ len → len ≤ 4096 → s.spaceBad c sp (c.raw x.b.sel).toNat len = none) → exec (.appWr x) s = .next (s.stopAt c))

/-! ### Class T (R393 to R412) -/

/-- A tile instruction with every lane active, whose tile's queue has room and whose operands in the window or the vault may be accessed, joins its tile's queue with the operands and the
width pair latched, and the tile is no longer full; with some lanes but not all it traps with cause 0x0A (R393, R394, R396).
A drain does the same, but leaves the tile as full as it was, counts its output's lines on the acknowledgement counter and one drain of its bundle (R32, R409).
The model's choices it rests on: log 29. -/
def Obligations.TileInstructionsAreQueued : Prop :=
  (∀ (x : TArgs) (s : State) (c : Cur),
    let a := c.opA s x
    let b := c.opB s x
    let A := c.raw x.crda.sel
    let B := c.raw x.crdb.sel
    (Ready s c (needT x [] 1 c) → TileIssues (.mz x) s c x (needT x [] 1 c) false [] (.zero (x.md.val % 4))) ∧
    (Ready s c (needT x [x.crda, x.crdb] 0 c) →
      TileIssues (.mm x) s c x (needT x [x.crda, x.crdb] 0 c) (x.md.val % 2 == 1) (mmSegs a b b.oext (mmSpan a b)) (.mm a.t b.t x.dira x.dirb A B) ∧
      TileIssues (.mmv x) s c x (needT x [x.crda, x.crdb] 0 c) (x.md.val % 2 == 1) (mmSegs a b 1 (mmvSpan a b)) (.mmv a.t b.t x.dira x.dirb A B)) ∧
    (Ready s c (needT x [x.crda] 64 c) →
      TileIssues (.mld x) s c x (needT x [x.crda] 64 c) (x.md.val / 4 % 2 == 1) a.tileSegs (.load (x.md.val % 4) a.t x.dira A))) ∧
  (∀ (x : TArgs) (s : State) (c : Cur),
    let b := c.opB s x
    let n := needT x [x.crdb] 64 c
    Ready s c n →
    (c.active x.pred ≠ 0 → c.allActive x.pred = false → exec (.mdrain x) s = .next (s.takeTrap c 0x0A (c.active x.pred) fun _ => 0)) ∧
    (c.active x.pred ≠ 0 → c.allActive x.pred = true → b.c0 * b.t.c % 8 = 0 → TileMay s c x false (placed b.t (b.outSegs ++ b.outScales)) →
      c.b.ackcnt + b.outLines.length ≤ 512 →
      Outcome (.mdrain x) s c n (fun t => { s with crews := t.crews }) .litS c.past fun t b' =>
        t.crew? c.c.key = some (tileQueued s c x false (.drain b.t x.tfb.val x.dirb (c.raw x.crdb.sel)) fun k => k.full) ∧ (∀ j, j ≠ c.c.key → t.crew? j = s.crew? j) ∧
        b'.drains = c.b.drains + 1 ∧ b'.ackcnt = c.b.ackcnt + b.outLines.length ∧ b'.pend = c.b.pend ∧ b'.sq = c.b.sq ∧ b'.arch.awaits = c.b.arch.awaits))

/-- mwp sets its tile's width pair, and traps with cause illegal-instruction on a value R250 refuses; mwpr and mprog read the pair and the progress register;
mwait and mflag complete on a full tile with nothing queued, merge its flags into the active lanes, and mflag writes them, clearing them under .clr; that is the release point of what the bundle
issued there, whose operands no one wrote since (R399, R401, R410 to R412).
The model's choices it rests on: log 114. -/
def Obligations.TilePairsFlagsAndProgress : Prop :=
  (∀ (x : TArgs) (s : State) (c : Cur), Ready s c (needT x [x.crda] 1 c) → c.active x.pred ≠ 0 → c.allActive x.pred = true →
    (wpOk (c.raw x.crda.sel) = true → ChangesCrew (.mwp x) s c (needT x [x.crda] 1 c) (withTile c x.tile.val fun k => { k with wp := .val (c.raw x.crda.sel) })) ∧
    (wpOk (c.raw x.crda.sel) = false → exec (.mwp x) s = .next (s.takeTrap c 0x01 (c.active x.pred) fun _ => 0))) ∧
  (∀ (x : TArgs) (s : State) (c : Cur) (k : Tile), Ready s c (needRead x true c) → c.tile x.tile = some k →
    WritesOne (.mwpr x) s c (needRead x true c) x.crdb.sel (k.wpWord x.tile.val) ∧ WritesOne (.mprog x) s c (needRead x true c) x.crdb.sel k.progress) ∧
  (∀ (x : TArgs) (s : State) (c : Cur) (k : Tile), c.tile x.tile = some k → k.full = true → k.queue = [] → k.busy = none → c.b.key ∉ k.owed →
    s.crew? c.c.key = some c.c → (∀ m ∈ k.unread, s.stale c.g.ctx (groveOf c.c.core) m = false) →
    (Ready s c (needRead x false c) → Outcome (.mwait x) s c (needRead x false c) (fun t => { s with crews := t.crews }) .litS c.past fun t b' =>
      t.tileNow c.c.key x.tile.val = some (k.seen c.b.key) ∧ (∀ j, j ≠ c.c.key → t.crew? j = s.crew? j) ∧ (k.unread = [] → t.crews = s.crews) ∧
      BundleBut c b' c.b.pend c.b.sq c.b.ackcnt (c.b.arch.orFlags ((maskLanes c.g.width (c.active x.pred)).map fun l => (l, k.flags % 32))).fpflags ∧ b'.arch.awaits = c.b.arch.awaits) ∧
    (Ready s c (needRead x true c) → Outcome (.mflag x) s c (needRead x true c) (fun t => { s with crews := t.crews }) x.crdb.sel c.past fun t b' =>
      HoldsNow c b' x.crdb.sel (BitVec.ofNat 64 k.flags) ∧ b'.arch.fpflags = (c.b.arch.orFlags ((maskLanes c.g.width (c.active x.pred)).map fun l => (l, k.flags % 32))).fpflags ∧
      (x.md.val = 1 → ∃ k' : Crew, t.crew? c.c.key = some k' ∧ (k'.tiles[x.tile.val]?).map (fun y => (y.flags, y.ents)) = some (0, k.ents)) ∧
      (x.md.val ≠ 1 → t.tileNow c.c.key x.tile.val = some (k.seen c.b.key)) ∧ (x.md.val ≠ 1 → k.unread = [] → t.crews = s.crews))) ∧
  ∀ (x : TArgs) (s : State) (c : Cur) (k : Tile), Ready s c (needRead x false c) → c.tile x.tile = some k → (k.full = false ∨ k.queue ≠ [] ∨ k.busy ≠ none) →
    exec (.mwait x) s = .next (s.stopAt c) ∧ (Ready s c (needRead x true c) → exec (.mflag x) s = .next (s.stopAt c))

/-! ### Transfers of control (R341 to R346, R176 to R180) -/

/-- A relative branch goes to its header's address plus eight times its offset when its condition holds, and to the next clause otherwise; br compares
sA with 0 in one of six ways and any other condition code is illegal, bmz and bmnz test the mask's lanes below w, m0 the path's, jump always goes (R342). -/
def Obligations.BranchTargets : Prop :=
  (∀ x : BArgs, ((Instr.br x).wf = true → x.cond.val ≤ 5) ∧ ((Instr.bmz x).wf = true ∨ (Instr.bmnz x).wf = true ∨ (Instr.jump x).wf = true → x.cond.val = 0)) ∧
  (∀ (c : Cur) (l : Nat), l < c.g.width → l < 64 → (c.raw (.m 0)).getLsbD l = c.p.mask.getLsbD l) ∧
  ∀ (x : BArgs) (s : State) (c : Cur), Ready s c (needB x c) → x.cond.val ≤ 5 →
    let v := (c.raw x.a.sel).toInt
    ∀ p ∈ [(Instr.br, [decide (v = 0), decide (v ≠ 0), decide (v < 0), decide (v ≤ 0), decide (0 < v), decide (0 ≤ v)].getD x.cond.val false), (.bmz, decide (∀ l, l < c.g.width → (c.raw x.a.sel).getLsbD l = false)),
        (.bmnz, decide (∃ l, l < c.g.width ∧ (c.raw x.a.sel).getLsbD l = true)), (.jump, true)],
      Moves (p.1 x) s c (needB x c) (if p.2 = true then c.p.goto (c.p.pc + 8 * x.off.signExtend 64) else c.begunPath.nextClause) c.b.arch.fpflags

/-- jump, ret and call through a register go to a target that is a multiple of 8; any other traps with cause misaligned before any effect, with the target in tval.
A call leaves the address of the clause after its own in its link register (R341, R343). -/
def Obligations.RegisterTargetsAndCalls : Prop :=
  (∀ p ∈ [Instr.jumpR, .ret], ∀ (x : BArgs) (s : State) (c : Cur), Ready s c (needB x c) →
    if (c.raw x.a.sel).toNat % 8 = 0 then Moves (p x) s c (needB x c) (c.p.goto (c.raw x.a.sel)) c.b.arch.fpflags
    else exec (p x) s = .next (s.takeTrap c 0x09 (c.active x.pred) fun _ => c.raw x.a.sel)) ∧
  ∀ (x : BArgs) (s : State) (c : Cur), Ready s c (needCall x c) →
    ∀ p ∈ [(Instr.call, c.p.pc + 8 * x.off.signExtend 64, true), (.callR, c.raw x.a.sel, decide ((c.raw x.a.sel).toNat % 8 = 0))],
      if p.2.2 = true then Outcome (p.1 x) s c (needCall x c) (fun _ => s) (.s x.link) (c.p.goto p.2.1) fun _ b' =>
        BundleKept c b' ∧ HoldsNow c b' (.s x.link) (nextClause c.p.pc c.hdr) ∧ b'.arch.awaits = filled c.b.arch.awaits (.s x.link)
      else exec (p.1 x) s = .next (s.takeTrap c 0x09 (c.active x.pred) fun _ => c.raw x.a.sel)

/-- A split sends the path one way when no lane, or every lane, of its mask is in the condition; else it takes the target with the lanes that are, and a second
path goes on at the next clause with the others, the path of the other slot pushed on the divergence stack. The outer join target is saved in sD (R177). -/
def Obligations.SplitMakesTwoPaths : Prop :=
  ∀ (x : BArgs) (s : State) (c : Cur), let n : Need := { needB x c with dsts := [(.s x.link, false, true)] }
    let T := c.m 0 &&& c.raw x.a.sel
    let F := c.m 0 &&& ~~~(c.raw x.a.sel)
    let J := c.p.pc + 8 * c.lit.signExtend 64
    let target := c.p.pc + 8 * x.off.signExtend 64
    Ready s c n → c.b.arch.tdepth = 0 → (T ≠ 0 → F ≠ 0 → (c.b.arch.path (!c.slot)).isSome = true → c.b.arch.stack.length ≠ c.g.dstack) →
    ∃ t b', exec (.split x) s = .next t ∧ OwnOnly s t c ∧ t.bundle? c.b.key = some b' ∧ HoldsNow c b' (.s x.link) c.p.jt ∧
      RegsBut c b' (sKey x.link.val :: killed c n) ∧ b'.sq = c.b.sq ∧ b'.pend = c.b.pend ∧ b'.arch.fpflags = c.b.arch.fpflags ∧
      if T = 0 ∨ F = 0 then
        PathNow c b' n .litS { (if T = 0 then c.begunPath.nextClause else c.p.goto target) with jt := J } ∧ b'.arch.path (!c.slot) = c.b.arch.path (!c.slot) ∧
          b'.arch.stack = c.b.arch.stack
      else
        b'.arch.path c.slot = some { c.p.goto target with mask := T, jt := J } ∧
          b'.arch.path (!c.slot) = some { c.p.nextClause with mask := F, jt := J, first := none, waiting := false, held := none, begun := false } ∧
          b'.arch.stack = (c.b.arch.path (!c.slot)).toList ++ c.b.arch.stack

/-- A join whose header is not the path's join target is passed over; a path that meets it first waits there while its sibling may still come; the second merges
both masks into one path, restores the outer target from sA and frees a slot for the top of the divergence stack; a path without such a sibling goes on alone (R178, R179). -/
def Obligations.JoinMergesPaths : Prop :=
  ∀ (x : BArgs) (s : State) (c : Cur), Ready s c (needJoin x c) → c.b.arch.tdepth = 0 → x.a.sel ≠ .m 0 →
    ∃ t b', exec (.join x) s = .next t ∧ OwnOnly s t c ∧ t.bundle? c.b.key = some b' ∧ b'.sq = c.b.sq ∧ b'.pend = c.b.pend ∧
      RegsBut c b' (killed c (needJoin x c)) ∧
      (c.p.jt ≠ c.p.pc → b'.arch.path c.slot = some c.past ∧ b'.arch.path (!c.slot) = c.b.arch.path (!c.slot) ∧ b'.arch.stack = c.b.arch.stack) ∧
      (c.p.jt = c.p.pc → ∀ q, c.b.arch.path (!c.slot) = some q → q.jt = c.p.pc →
        if q.pc = c.p.pc ∧ q.waiting = true ∧ q.clause.isSome = true then
          b'.arch.path c.slot = some { c.past with jt := c.raw x.a.sel, mask := c.p.mask ||| q.mask, waiting := false } ∧
            b'.arch.path (!c.slot) = c.b.arch.stack.head? ∧ b'.arch.stack = c.b.arch.stack.tail
        else b'.arch.path c.slot = some { c.begunPath with waiting := true, held := some .join } ∧ b'.arch.path (!c.slot) = c.b.arch.path (!c.slot) ∧ b'.arch.stack = c.b.arch.stack) ∧
      (c.p.jt = c.p.pc → (∀ q, c.b.arch.path (!c.slot) = some q → q.jt ≠ c.p.pc) →
        b'.arch.path c.slot = some { c.past with jt := c.raw x.a.sel, waiting := false } ∧ b'.arch.path (!c.slot) = c.b.arch.path (!c.slot) ∧
          b'.arch.stack = c.b.arch.stack)

/-- exit ends its path, which the top of the divergence stack replaces, and lets a sibling that waits at a join go on; halt ends every path of its bundle. With no path left the bundle's exit is queued, past which
it is live no more (R276, R442). nop and yield only move on, yield ranking the bundle last. None touches memory or a register (R179, R441, R442).
The model's choices it rests on: log 16 and 36. -/
def Obligations.ExitHaltNopYield : Prop :=
  (∀ (x : RArgs) (s : State) (c : Cur), Ready s c (needX1 x.pred true c) →
    ∃ t b', exec (.exit x) s = .next t ∧ OwnOnly s t c ∧ t.bundle? c.b.key = some b' ∧ b'.live = true ∧
      b'.arch.regs = c.b.arch.regs ∧ b'.pend = c.b.pend ∧ b'.arch.path c.slot = c.b.arch.stack.head? ∧ b'.arch.stack = c.b.arch.stack.tail ∧
      b'.arch.path (!c.slot) = (c.b.arch.path (!c.slot)).map (fun q => if q.held = some .join then { q with waiting := false } else q) ∧ b'.arch.tdepth = 0 ∧
      b'.sq = c.b.sq ++ if c.b.arch.stack = [] ∧ c.b.arch.path (!c.slot) = none then [⟨s.clock, .exit, 0⟩] else []) ∧
  (∀ (x : RArgs) (s : State) (c : Cur), Ready s c (needX1 x.pred true c) →
    ∃ t b', exec (.halt x) s = .next t ∧ OwnOnly s t c ∧ t.bundle? c.b.key = some b' ∧
      b'.live = true ∧ b'.arch.regs = c.b.arch.regs ∧ b'.arch.slot0 = none ∧ b'.arch.slot1 = none ∧ b'.arch.stack = [] ∧ b'.sq = c.b.sq ++ [⟨s.clock, .exit, 0⟩] ∧ b'.pend = c.b.pend) ∧
  (∀ (s : State) (k : BKey) (b : Bundle) (c : Crew) (g : Grid) (t0 : Nat) (rest : List SqEntry), s.bundle? k = some b → s.crew? k.ck = some c → s.grid? k.grid = some g →
    b.sq = ⟨t0, .exit, 0⟩ :: rest → b.parked = none →
    ∃ t b', exec (.storeQueueLeave k) s = .next t ∧ t.bundle? k = some b' ∧ b'.live = false ∧ b'.sq = rest ∧ b'.pend = b.pend ∧ (∀ a, t.byte a = s.byte a) ∧ ∀ j, j ≠ k → t.bundle? j = s.bundle? j) ∧
  ∀ (x : RArgs) (s : State) (c : Cur), Ready s c (needX1 x.pred false c) →
    Moves (.nop x) s c (needX1 x.pred false c) c.past c.b.arch.fpflags ∧
    ∃ t b', exec (.yield x) s = .next t ∧ OwnOnly s t c ∧ t.bundle? c.b.key = some b' ∧ b'.yielded = true ∧ BundleKept c b' ∧ b'.arch.path c.slot = some c.past ∧
      b'.arch.regs = c.b.arch.regs ∧ b'.arch.awaits = c.b.arch.awaits

/-! ### Traps (R194 to R198) -/

/-- Taking a trap outside a handler saves the cause, the clause address, the index, the lanes, the mask and each lane's address, enters privileged mode at depth 1 and
sends the path to the handler with those lanes; in a handler only causes 0x10 and 0x11 nest, saving the outer trap state too; nothing else changes (R195, R196). -/
def Obligations.TrapEntrySavesState : Prop :=
  ∀ (s : State) (c : Cur) (cause : Nat) (F : Word) (addr : Nat → Word), s.cur = some c → cause ≠ 0x20 →
    c.b.arch.tdepth = 0 ∨ (c.b.arch.tdepth = 1 ∧ (cause = 0x10 ∨ cause = 0x11)) →
    let t := s.takeTrap c cause F addr
    ∃ b', t = { s with bundles := t.bundles } ∧ (∀ k, k ≠ c.b.key → t.bundle? k = s.bundle? k) ∧ t.bundle? c.b.key = some b' ∧
      b'.arch.trap.tcause = BitVec.ofNat 64 cause ∧ b'.arch.trap.tpc = c.p.pc ∧ b'.arch.trap.tidx = BitVec.ofNat 64 c.p.idx ∧ b'.arch.trap.tmask = F ∧
      b'.arch.trap.tm0 = c.m 0 ∧ (∀ l, b'.arch.trap.tvalOf l = if inMask F l = true ∧ l < c.g.width then addr l else 0) ∧
      b'.arch.tdepth = c.b.arch.tdepth + 1 ∧ b'.arch.sup = true ∧ b'.arch.hslot = c.slot ∧ (c.b.arch.tdepth = 1 → b'.arch.trap1 = c.b.arch.trap) ∧
      (b'.arch.path c.slot).map (fun q => (q.pc, q.idx, q.clause, q.mask)) = some (0xFFFFFFFFFFFF0000, 0, none, F) ∧
      b'.arch.path (!c.slot) = c.b.arch.path (!c.slot) ∧ b'.arch.regs = c.b.arch.regs ∧ b'.arch.awaits = c.b.arch.awaits ∧ b'.arch.fpflags = c.b.arch.fpflags ∧
      b'.arch.stack = c.b.arch.stack ∧ b'.pend = c.b.pend ∧ b'.sq = c.b.sq ∧ b'.ackcnt = c.b.ackcnt

/-- trap and brk take the trap of their cause in the active lanes, of which there may be none, with their immediate as every lane's address and themselves as tidx, charging one plane
cycle; as control transfers they must be last in their clause (R153, R195, R441).
A trap that may not nest halts its bundle: it exits, its crew is abandoned, its waiting effects and results are dropped, and its halt is counted (R196, R280). -/
def Obligations.SoftTrapsAndHalts : Prop :=
  (∀ (x : IArgs) (s : State) (c : Cur), Ready s c (needX0 x.pred true c) → c.b.arch.tdepth = 0 → SoftTrapped (.trap x) s c 0x0D x) ∧
  (∀ (x : IArgs) (s : State) (c : Cur), Ready s c (needX0 x.pred true c) → c.b.arch.tdepth = 0 → SoftTrapped (.brk x) s c 0x0E x) ∧
  (∀ (x : IArgs) (s : State) (c : Cur), Ready s c (needX0 x.pred true c) →
    exec (.trap x) s = .next ((s.charged c.c.core c.g.tenant 1).takeTrap c 0x0D (c.active x.pred) fun _ => x.imm.zeroExtend 64) ∧
    exec (.brk x) s = .next ((s.charged c.c.core c.g.tenant 1).takeTrap c 0x0E (c.active x.pred) fun _ => x.imm.zeroExtend 64)) ∧
  (∀ i ∈ [Instr.trap, .brk], ∀ (x : IArgs) (s : State) (c : Cur), s.cur = some c → c.eligible = true → s.heldUp c (needX0 x.pred true c) = false → c.lastInClause = false →
    exec (i x) s = .next (s.trapAll c 0x01 (c.active x.pred))) ∧
  (∀ (s : State) (c : Cur) (cause : Nat) (F : Word) (addr : Nat → Word), s.cur = some c →
    cause = 0x20 ∨ c.b.arch.tdepth = 2 ∨ (c.b.arch.tdepth = 1 ∧ cause ≠ 0x10 ∧ cause ≠ 0x11) →
    let t := s.takeTrap c cause F addr
    ∃ b' k', t.bundle? c.b.key = some b' ∧ b'.live = false ∧ b'.sq = [] ∧ b'.pend = [] ∧ b'.ackcnt = 0 ∧ b'.arch.slot0 = none ∧ b'.arch.slot1 = none ∧
      t.crew? c.c.key = some k' ∧ k'.abandoned = true ∧ ∀ k, k ≠ c.b.key → t.bundle? k = s.bundle? k)

/-- sret in a handler returns: the path goes to tpc and tidx with the saved mask, its first instruction held to the saved lanes, depth and mode step back,
and the outer trap state stands again; outside a handler it traps with cause 0x04 (R197).
The model's choices it rests on: log 24. -/
def Obligations.SretRestores : Prop :=
  (∀ (x : RArgs) (s : State) (c : Cur), let n : Need := { needX1 x.pred true c with sync := false, hand := true, sup := true }
    Ready s c n → ∃ t b', exec (.sret x) s = .next t ∧ OwnOnly s t c ∧ t.bundle? c.b.key = some b' ∧
      (b'.arch.path c.slot).map (fun q => (q.pc, q.idx, q.clause, q.mask)) =
        some (c.b.arch.trap.tpc, c.b.arch.trap.tidx.toNat, none, c.b.arch.trap.tm0 &&& lanesOf c.g.width) ∧
      (b'.arch.path c.slot).map (fun q => q.first) = some (some c.b.arch.trap.tmask) ∧
      b'.arch.tdepth = c.b.arch.tdepth - 1 ∧ b'.arch.sup = decide (c.b.arch.tdepth - 1 ≠ 0) ∧ (c.b.arch.tdepth = 2 → b'.arch.trap = c.b.arch.trap1) ∧
      b'.arch.path (!c.slot) = c.b.arch.path (!c.slot) ∧ b'.arch.regs = c.b.arch.regs ∧ b'.arch.awaits = c.b.arch.awaits ∧ b'.arch.stack = c.b.arch.stack ∧
      b'.sq = c.b.sq ∧ b'.pend = c.b.pend) ∧
  ∀ (x : RArgs) (s : State) (c : Cur), s.cur = some c → c.eligible = true → s.heldUp c { needX1 x.pred true c with sync := false, hand := true, sup := true } = false →
    c.lastInClause = true → x.pred = none →
    c.b.role = 0 → c.b.arch.tdepth = 0 → exec (.sret x) s = .next (s.trapAll c 0x04 (c.active x.pred))

/-- The checks before an issue come in R302's order, shown on class V: a role other than G traps with cause 0x03; then a register beyond the bundle's blocks with 0x05; then
an empty source with its trap bit with 0x07; an empty source without it stops the clause and changes nothing else.
An instruction of class S whose predicate leaves no lane active is passed over: nothing but its path and its charge changes; so is one of class V without .z, a memory instruction, and one that acts on a tile, where no lane
is active (R175, R332, R351, R371, R393).
The model's choices it rests on: log 11 and 74. -/
def Obligations.IssueChecksInOrder : Prop :=
  (∀ p ∈ vectorOps, ∀ (x : RArgs) (s : State) (c : Cur), s.cur = some c → c.eligible = true → s.heldUp c (needV p.1 x c) = false →
    let n := needV p.1 x c
    let outside := (n.srcs.any fun y => (vRegs y.1.sel y.2).any fun v => decide (c.vLimit ≤ v)) || (n.dsts.any fun y => (vRegs y.1 y.2.1).any fun v => decide (c.vLimit ≤ v))
    (c.b.role ≠ 0 → exec (p.2 x) s = .next (s.trapAll c 0x03 (c.active x.pred))) ∧
    (c.b.role = 0 → outside = true → exec (p.2 x) s = .next (s.trapAll c 0x05 (c.active x.pred))) ∧
    (c.b.role = 0 → outside = false → (∃ y ∈ n.srcs, y.1.trap = true ∧ c.srcEmpty y = true) → exec (p.2 x) s = .next (s.trapAll c 0x07 (c.active x.pred))) ∧
    (c.b.role = 0 → outside = false → (∀ y ∈ n.srcs, y.1.trap = true → c.srcEmpty y = false) → (∃ y ∈ n.srcs, c.srcEmpty y = true) → exec (p.2 x) s = .next (s.stopAt c))) ∧
  (∀ p ∈ scalarArith ++ scalarBits ++ maskResults, ∀ (x : RArgs) (s : State) (c : Cur), MayIssue s c (needS x c) → x.pred.isSome = true → c.active x.pred = 0 → PassedOver (p.1 x) s c c.past) ∧
  (∀ p ∈ vectorOps, ∀ (x : RArgs) (s : State) (c : Cur), x.z = false → MayIssue s c (needV p.1 x c) → c.active x.pred = 0 → PassedOver (p.2 x) s c c.past) ∧
  (∀ (x : MArgs) (s : State) (c : Cur), c.active x.pred = 0 →
    (∀ p ∈ [(Instr.ld, Shape.lanes), (.ldb, .block), (.lds, .scalar)], MayIssue s c (needLoad x p.2 c) → PassedOver (p.1 x) s c c.past) ∧
    (∀ i ∈ [Instr.st, .stb, .sts, .redAdd, .redMin, .redMax, .redAnd, .redOr, .redXor], MayIssue s c (needStore x c) → PassedOver (i x) s c c.past) ∧
    ∀ p ∈ [(Instr.atomAdd, AtomOp.add), (.atomMin, .min), (.atomMax, .max), (.atomAnd, .and), (.atomOr, .or), (.atomXor, .xor), (.atomXchg, .xchg), (.cas, .cas)],
      MayIssue s c (needAtom x p.2 c) → PassedOver (p.1 x) s c c.past) ∧
  ∀ (x : TArgs) (s : State) (c : Cur), c.active x.pred = 0 →
    (MayIssue s c (needT x [] 1 c) → PassedOver (.mz x) s c c.past) ∧
    (∀ i ∈ [Instr.mm, .mmv], MayIssue s c (needT x [x.crda, x.crdb] 0 c) → PassedOver (i x) s c c.past) ∧
    (MayIssue s c (needT x [x.crda] 64 c) → PassedOver (.mld x) s c c.past) ∧ (MayIssue s c (needT x [x.crdb] 64 c) → PassedOver (.mdrain x) s c c.past) ∧
    (MayIssue s c (needT x [x.crda] 1 c) → PassedOver (.mwp x) s c c.past)

/-- A bundle at a clause header whose words fetch, whose waits hold on no tile that poison was read for it by, and which is entered from its start, has that clause in hand; a header that is not
aligned traps with cause 0x09, one that breaks R298 with cause 0x02, one whose waits do not hold leaves the path waiting. The instructions that the bundle issued to the tiles it waited for have then reached their release
points. Past the first instruction, or once it has issued, the waits are not evaluated again (R168, R181, R296 to R299, R399).
The model's choices it rests on: log 10, 24, 74 and 114. -/
def Obligations.ClauseHeaderEntersItsClause : Prop :=
  ∀ (w : Word) (s : State) (c : Cur), s.cur = some c → c.eligible = true → s.saveStops c = false → s.queueBlocked c = false → c.p.clause = none →
    (c.p.pc.toNat % 8 ≠ 0 → exec (.clauseHeader w) s = .next (s.clauseTrap c 0x09 c.p.pc)) ∧
    (c.p.pc.toNat % 8 = 0 → (∀ h, decodeHeader c.g.acc w ≠ .ok h) → exec (.clauseHeader w) s = .next (s.clauseTrap c 0x02 0)) ∧
    ∀ h ws, c.p.pc.toNat % 8 = 0 → decodeHeader c.g.acc w = .ok h → c.p.idx ≤ h.count → s.fetchWords c (h.count + 1) (c.p.pc + 8) = .ok ws →
      let tiles := waitTile h.wait0 ++ waitTile h.wait1
      (c.p.idx ≠ 0 ∨ c.p.begun = true → exec (.clauseHeader w) s = .next ((s.countFetch c (h.count + 2)).onPath c fun p => p.enter ⟨w, ws⟩)) ∧
      (c.p.idx = 0 → c.p.begun = false → (c.waitHolds h.wait0 = false ∨ c.waitHolds h.wait1 = false) →
        exec (.clauseHeader w) s = .next (s.onPath c fun p =>
          { p with waiting := true, held := some (.tiles (c.p.metEmpty ++ tiles.filter fun i => !c.waitHolds (128 + i)).eraseDups) })) ∧
      (c.p.idx = 0 → c.p.begun = false → c.waitHolds h.wait0 = true → c.waitHolds h.wait1 = true →
        (∀ i ∈ tiles, ∀ t, c.c.tiles[i]? = some t → c.b.key ∉ t.owed) →
        ∃ t b', exec (.clauseHeader w) s = .next t ∧ t = { s with bundles := t.bundles, crews := t.crews, free := t.free, regs := (s.countFetch c (h.count + 2)).regs } ∧
          (∀ k, k ≠ c.b.key → t.bundle? k = s.bundle? k) ∧
          (∀ i ∈ tiles, ∀ x, t.tileNow c.c.key i = some x → ∀ m ∈ x.unread, m.owner ≠ c.b.key) ∧
          ((∀ i ∈ tiles, ∀ x, s.tileNow c.c.key i = some x → x.unread = []) → t = { s with bundles := t.bundles, regs := t.regs }) ∧
          t.bundle? c.b.key = some b' ∧ b'.arch.path c.slot = some (c.p.enter ⟨w, ws⟩) ∧ ws.length = h.count + 1 ∧
          b'.arch.regs = c.b.arch.regs ∧ b'.arch.awaits = c.b.arch.awaits)

/-! ### Class X (R413 to R440) -/

/-- An arrival at a named barrier waits in the store queue with a token; as it leaves it counts by R417 and the token brings its ticket. In an abandoned crew it writes 1 and counts nothing; a wait completes with 0 once its
ticket's generation has passed, waits before, and completes with 1 in an abandoned crew; a barrier number of 16 or more traps (R276, R417, R418, R424).
bar.sync arrives once, through the store queue too, and stands without a ticket, then with it; it completes with the ticket's status once that generation has passed, and waits before (R418).
The model's choices it rests on: log 23. -/
def Obligations.NamedBarriers : Prop :=
  (∀ (x : RArgs) (s : State) (c : Cur) (old : Bar), let n := needX x true 2 c
    let b := (c.raw x.a.sel).toNat
    Ready s c n → b < 16 → c.c.bars[b]? = some old →
      (c.c.abandoned = true → WritesOne (.barArrive x) s c n x.dst 1 ∧ WritesOne (.barWait x) s c n x.dst 1 ∧ (c.p.held = none → WritesOne (.barSync x) s c n x.dst 1)) ∧
      (∀ k : Fin 64, x.dst = .s k → c.c.abandoned = false → s.performed c.b .crew = true →
        SendsToken (.barArrive x) s c n x.dst (fun pid => .barArrive pid b (barCount (c.raw x.b.sel))) 0) ∧
      (c.c.abandoned = false → if passed old.gen (fld (c.raw x.b.sel) 63 32) = true then WritesOne (.barWait x) s c n x.dst 0
        else exec (.barWait x) s = .next (s.stopAt c))) ∧
  (∀ p ∈ [Instr.barArrive, .barWait, .barSync], ∀ (x : RArgs) (s : State) (c : Cur), Ready s c (needX x true 2 c) → 16 ≤ (c.raw x.a.sel).toNat → c.p.held = none →
    exec (p x) s = .next (s.takeTrap c 0x14 (c.active x.pred) fun _ => c.raw x.a.sel)) ∧
  (∀ (k : BKey) (s : State) (b : Bundle) (c : Crew) (g : Grid) (e : SqEntry) (r : List SqEntry) (pid i n : Nat) (old : Bar),
    s.bundle? k = some b → s.crew? k.ck = some c → s.grid? k.grid = some g → b.parked = none → b.sq = e :: r → e.op = .barArrive pid i n → s.tooEarly b e = false →
      c.abandoned = false → i < 16 → c.bars[i]? = some old →
        ∃ t, exec (.storeQueueLeave k) s = .next t ∧ (t.crew? k.ck).map (fun x => x.bars) = some (c.bars.set i (barAfter (s.liveBundles c.key) old n)) ∧
          (∀ j, j ≠ k.ck → t.crew? j = s.crew? j) ∧ (t.bundle? k).map (fun x => x.sq) = some r ∧ TokenNow s t k pid (barTicket old n) ∧
          ∀ l p j, b.arch.path l = some p → p.held = some (.barSync j pid none) →
            (t.bundle? k).bind (fun x => x.arch.path l) = some { p with held := some (.barSync j pid (some (old.gen, if n = (if old.arrived = 0 then n else old.expected) then 0 else 2))) }) ∧
  ∀ (x : RArgs) (s : State) (c : Cur) (old : Bar), let n := needX x true 2 c
    let b := (c.raw x.a.sel).toNat
    c.c.abandoned = false →
      (Ready s c n → b < 16 → c.p.held = none → s.performed c.b .crew = true →
        ∃ t b' id, exec (.barSync x) s = .next t ∧ OwnOnly s t c ∧ t.bundle? c.b.key = some b' ∧
          BundleBut c b' c.b.pend (c.b.sq ++ [⟨s.clock, .barArrive id b (barCount (c.raw x.b.sel)), 0⟩]) c.b.ackcnt c.b.arch.fpflags ∧
          PathNow c b' n .litS { c.begunPath with held := some (.barSync b id none) } ∧ RegsBut c b' (killed c n) ∧ b'.arch.awaits = c.b.arch.awaits) ∧
      ∀ j id, Ready s c { n with srcs := [] } →
        (c.p.held = some (.barSync j id none) → exec (.barSync x) s = .next (s.stopAt c)) ∧
        ∀ g st, c.p.held = some (.barSync j id (some (g, st))) → c.c.bars[j]? = some old →
          if passed old.gen g = true then WritesOne (.barSync x) s c { n with srcs := [] } x.dst (BitVec.ofNat 64 st) else exec (.barSync x) s = .next (s.stopAt c)

/-- abo.init queues the object's 32 bytes as one store; arrivals at an object, event adds and armings queue their effect with a token, each counting one line
(R32, R415, R419 to R426).
The model's choices it rests on: log 28, 115, 118 and 119. -/
def Obligations.BarrierObjectsAndCounters : Prop :=
  ∀ (x : RArgs) (s : State) (c : Cur) (a : LaneAcc), c.b.acquiring = false → c.b.ackcnt < 512 →
    (Ready s c (needX x true 2 c) → s.xAccess c .atomic x.pred 32 (c.raw x.a.sel) = .ok a → 1 ≤ (c.raw x.b.sel).toNat → (c.raw x.b.sel).toNat ≤ 65535 →
      Queues (.aboInit x) s c (needX x true 2 c)
        (.aboInit a (aboBytes (c.raw x.b.sel).toNat x.md.val c.g.id c.c.key.crew)) 1 ∧
      (∀ k : Fin 64, x.dst = .s k → s.lineBusy c.b a.addr = false → s.performed c.b (s.aboScope a.addr) = true →
        SendsToken (.aboArrive x) s c (needX x true 2 c) x.dst (fun pid => .aboArrive pid a (c.raw x.b.sel).toNat) 1)) ∧
    (∀ k : Fin 64, x.dst = .s k → Ready s c (needX x true 2 c) → s.xAccess c .atomic x.pred 8 (c.raw x.a.sel) = .ok a → (x.md.val = 1 → s.performed c.b .system = true) →
      SendsToken (.evAdd x) s c (needX x true 2 c) x.dst (fun pid => .evAdd pid a (c.raw x.b.sel)) 1) ∧
    ∀ (k : Fin 64) (r : List Word), x.dst = .s k → Ready s c (needArm x c) → s.xAccess c .atomic x.pred 8 (c.raw x.a.sel) = .ok a →
      s.armRecord c x = .ok r → (c.raw x.a.sel).toNat % 8 = 0 → (c.raw x.c.sel).toNat % (if x.md.val = 0 then 64 else if x.md.val = 1 then 32 else 8) = 0 →
      ∀ u, ((x.md.val ≠ 0 ∧ u = s) ∨ ∃ d, x.md.val = 0 ∧ s.xRead c x.pred 64 (c.raw x.c.sel) = .ok d ∧ u = s.recRead c d) →
        SendsTokenAfter (.evArm x) s u c (needArm x c) x.dst (fun pid => .evArm pid a x.md.val (c.raw x.b.sel) (c.raw x.c.sel) (c.raw x.dst) r) 1

/-- A wait or a test on a barrier object whose phase has passed completes with the result word, acquires at the object's scope and merges its flags into the active
lanes; a test before that completes with done 0; a wait before that stands with its ticket (R222, R422). Of an object whose state is unspecified the words are free values.
The model's choices it rests on: log 28, 115 and 119. -/
def Obligations.BarrierObjectWaits : Prop :=
  ∀ (x : RArgs) (s : State) (c : Cur) (a : LaneAcc), let n := needX x true 2 c
    Ready s c n → s.xAccess c .atomic x.pred 32 (c.raw x.a.sel) = .ok a → s.aboHeld c.b a.addr = false → s.aboAbandoned c a.addr = false → c.p.held = none →
      let w := s.objWord a.addr 0
      let r := aboResult w (s.objWord a.addr 1) true
      let l1 := s.l1.filter fun l => !(l.core == c.c.core && l.line == lineOf a.addr)
      if passed (fld w 63 32) (fld (c.raw x.b.sel) 63 32) = true then
        ∀ i ∈ [Instr.aboWait, .aboTest], Outcome (i x) s c n
          (fun _ => { s with l1 := if dropsL1 (s.aboScope a.addr) then l1Without s c.c.core else l1 }) x.dst c.past fun _ b' =>
            HoldsNow c b' x.dst r ∧ b'.arch.fpflags = (c.b.arch.orFlags ((maskLanes c.g.width (c.active x.pred)).map fun l => (l, fld r 4 0))).fpflags ∧
            b'.sq = c.b.sq ∧ b'.pend = c.b.pend
      else
        Outcome (.aboTest x) s c n (fun _ => { s with l1 := l1 }) x.dst c.past (fun _ b' => BundleKept c b' ∧ HoldsNow c b' x.dst (aboResult w (s.objWord a.addr 1) false)) ∧
        exec (.aboWait x) s = .next ((s.onPath c fun p => { p with held := some (.abo a.addr (fld (c.raw x.b.sel) 63 32) none) }).stopAt c)

/-- ring.init sets a ring and queues zeros for its stage words; a bad descriptor traps; post and free queue their effect on an existing stage, post with a token;
wait completes with 0 on a stage full in the awaited phase, and waits otherwise; a ring that was never set traps with cause 0x01 (R423, R424, R460).
The model's choices it rests on: log 115 and 118. -/
def Obligations.StageRings : Prop :=
  (∀ (x : RArgs) (s : State) (c : Cur), let n := needX x true 3 c
    Ready s c n →
      if ringBad (4096 * c.g.scratch) (c.raw x.a.sel) (c.raw x.b.sel) (c.raw x.c.sel) = true then
        exec (.ringInit x) s = .next (s.takeTrap c 0x14 (c.active x.pred) fun _ => c.raw x.b.sel)
      else Outcome (.ringInit x) s c n (fun t => { s with crews := t.crews }) .litS c.past fun t b' =>
        let count := fld (c.raw x.c.sel) 4 0
        let base := (c.raw x.b.sel).toNat
        t.crew? c.c.key = some { c.c with rings := mapPut c.c.rings (c.raw x.a.sel).toNat ⟨base, 64 * fld (c.raw x.c.sel) 19 8, count, false⟩ } ∧
        (∀ j, j ≠ c.c.key → t.crew? j = s.crew? j) ∧
        BundleBut c b' c.b.pend (c.b.sq ++ [⟨s.clock, .ringInit (c.raw x.a.sel).toNat ((List.range count).map fun i => (⟨i, .ls, base + 8 * i, base + 8 * i, 0, 0, false, 1⟩, [0, 0, 0, 0, 0, 0, 0, 0])), 0⟩])
          c.b.ackcnt c.b.arch.fpflags) ∧
  (∀ (x : RArgs) (s : State) (c : Cur) (r : Ring), mapGet c.c.rings (c.raw x.a.sel).toNat = some r → (c.raw x.b.sel).toNat < r.count →
    (Ready s c (needX x true 2 c) → s.performed c.b .crew = true →
      (∀ k : Fin 64, x.dst = .s k → SendsToken (.ringPost x) s c (needX x true 2 c) x.dst (fun pid => .ringPost pid (c.raw x.a.sel).toNat (c.raw x.b.sel).toNat) 0) ∧
      Queues (.ringFree x) s c (needX x true 2 c) (.ringFree (c.raw x.a.sel).toNat (c.raw x.b.sel).toNat) 0) ∧
    (Ready s c (needX x true 3 c) → c.b.acquiring = false →
      (c.b.sq.any fun e => e.op.onStage (c.raw x.a.sel).toNat (c.raw x.b.sel).toNat (r.base + 8 * (c.raw x.b.sel).toNat)) = false →
      if s.stageReady c r (c.raw x.b.sel).toNat (c.raw x.c.sel) = true then WritesOne (.ringWait x) s c (needX x true 3 c) x.dst 0
      else if c.c.abandoned = true then WritesOne (.ringWait x) s c (needX x true 3 c) x.dst 1 else exec (.ringWait x) s = .next (s.stopAt c))) ∧
  ∀ p ∈ [Instr.ringPost, .ringFree], ∀ (x : RArgs) (s : State) (c : Cur), Ready s c (needX x true 2 c) → mapGet c.c.rings (c.raw x.a.sel).toNat = none →
    exec (p x) s = .next (s.takeTrap c 0x01 (c.active x.pred) fun _ => 0)

/-- launch reads its record and queues it with a token, and traps with cause 0x0B at depth 10; cwait on a grid that is no child completes with 1, on every child
with 0 once none is left, and on a child stands until it is over; step moves on unless a change of the die set is announced, and stands then, charged once, until it is released (R152, R427 to R429).
The model's choices it rests on: log 20, 28, 118 and 119. -/
def Obligations.LaunchWaitStep : Prop :=
  (∀ (x : RArgs) (s : State) (c : Cur), Ready s c (needX x false 1 c) →
    (10 ≤ c.g.depth → exec (.launch x) s = .next (s.takeTrap c 0x0B (c.active x.pred) fun _ => 0)) ∧
    (∀ (a : LaneAcc) (k : Fin 64), x.dst = .s k → c.g.depth < 10 → s.xRead c x.pred 64 (c.raw x.a.sel) = .ok a → c.b.acquiring = false → s.performed c.b .device = true →
      s.tableFull = false → SendsTokenAfter (.launch x) s (s.recRead c a) c (needX x false 1 c) x.dst (fun pid => .launch pid (s.readRec c a 8)) 0) ∧
    ((c.raw x.a.sel).toNat % 2 ^ 32 = 0xFFFFFFFF → c.b.children = [] → c.b.launching = false →
      Outcome (.cwait x) s c (needX x false 1 c) (fun _ => { s with l1 := l1Without s c.c.core }) x.dst c.past fun _ b' => HoldsNow c b' x.dst 0) ∧
    ((c.raw x.a.sel).toNat % 2 ^ 32 ≠ 0xFFFFFFFF → (c.raw x.a.sel).toNat % 2 ^ 32 ∉ c.b.children → c.b.launching = false → c.p.held = none →
      WritesOne (.cwait x) s c (needX x false 1 c) x.dst 1) ∧
    ((c.raw x.a.sel).toNat % 2 ^ 32 = 0xFFFFFFFF → c.b.children ≠ [] → exec (.cwait x) s = .next (s.stopAt c)) ∧
    ((c.raw x.a.sel).toNat % 2 ^ 32 ≠ 0xFFFFFFFF → (c.raw x.a.sel).toNat % 2 ^ 32 ∈ c.b.children → c.p.held = none →
      exec (.cwait x) s = .next ((s.onPath c fun p => { p with held := some (.child ((c.raw x.a.sel).toNat % 2 ^ 32)) }).stopAt c))) ∧
  ∀ (x : RArgs) (s : State) (c : Cur), Ready s c (needX x true 0 c) →
    (c.g.announce = none → c.p.held ≠ some .step → Moves (.step x) s c (needX x true 0 c) c.past c.b.arch.fpflags) ∧
    (c.g.announce.isSome = true → c.p.held ≠ some .step →
      exec (.step x) s = .next (((s.charged c.c.core c.g.tenant 1).onPath c fun p => { p with held := some .step }).stopAt c)) ∧
    (c.p.held = some .step → exec (.step x) s = .next (s.stopAt c))

/-- send under a valid profile queues its message with a token and counts one line; an invalid profile traps with cause 0x0C, a length above 64 MiB with 0x14; narm queues its
descriptor and launch record, a narm whose descriptor address is 0 its cancelling; coll queues its operands with the tensor as it stands (R430 to R433).
The model's choices it rests on: log 27, 28, 118 and 119. -/
def Obligations.MessagesAndCollectivesQueue : Prop :=
  (∀ (x : RArgs) (s : State) (c : Cur), Ready s c (needX x false 3 c) →
    ((s.profile c.g.tenant x.md.val).getLsbD 0 = false → exec (.send x) s = .next (s.takeTrap c 0x0C (c.active x.pred) fun _ => 0)) ∧
    ((s.profile c.g.tenant x.md.val).getLsbD 0 = true → 67108864 < (c.raw x.b.sel).toNat →
      exec (.send x) s = .next (s.takeTrap c 0x14 (c.active x.pred) fun _ => c.raw x.b.sel)) ∧
    ∀ k : Fin 64, x.dst = .s k → (s.profile c.g.tenant x.md.val).getLsbD 0 = true → (c.raw x.b.sel).toNat ≤ 67108864 → c.b.acquiring = false → s.writesDone c.b = true →
      c.b.ackcnt < 512 → SendsToken (.send x) s c (needX x false 3 c) x.dst
        (fun pid => .send pid (s.profile c.g.tenant x.md.val) (c.raw x.a.sel) (c.raw x.b.sel).toNat (c.raw x.c.sel)) 1) ∧
  (∀ p ∈ [Instr.narm, .narmCancel], ∀ (x : RArgs) (s : State) (c : Cur) (k : Fin 64), x.dst = .s k → Ready s c (needNarm x c) →
    (c.raw x.a.sel = 0 → SendsToken (p x) s c (needNarm x c) x.dst (fun pid => .narmCancel pid (c.raw x.b.sel)) 0) ∧
    ∀ w l, c.raw x.a.sel ≠ 0 → s.narmWords c x = .ok (w, l) → c.b.acquiring = false →
      SendsTokenAfter (p x) s ((s.narmReads c x).foldl (fun t a => t.recRead c a) s) c (needNarm x c) x.dst (fun pid => .narm pid w l) 0) ∧
  ∀ (x : RArgs) (s : State) (c : Cur), Ready s c (needX x true 3 c) → c.b.acquiring = false → s.performed c.b .system = true →
    s.collFull c (fld (c.raw x.a.sel) 7 0) = false →
    Queues (.coll x) s c (needX x true 3 c)
      (.coll x.md.val (c.raw x.a.sel) (c.raw x.b.sel) (c.raw x.c.sel) (s.tensor c.g.tenant (fld (c.raw x.a.sel) 15 8))) 0

/-- racq and a successful rtry extend their bundle by the granules asked for, whose registers are unspecified; a request past 16 granules traps with cause 0x05; a racq that finds others waiting, or too
few granules free, waits in its order; rtry writes all lanes or 0; rrel gives granules back from the top (R183 to R185, R434).
The model's choices it rests on: log 36, 105 and 107. -/
def Obligations.RegisterBlocks : Prop :=
  ∀ (x : RArgs) (s : State) (c : Cur), let n := needX x false 1 c
    let g := (c.raw x.a.sel).toNat
    let keys := (List.range g).flatMap fun j => granKeys (c.g.regs + c.b.arch.ext + j)
    Ready s c n →
    (16 < c.g.regs + c.b.arch.ext + g → exec (.rtry x) s = .next (s.takeTrap c 0x05 (c.active x.pred) fun _ => 0) ∧
      (0 < g → exec (.racq x) s = .next (s.takeTrap c 0x05 (c.active x.pred) fun _ => 0))) ∧
    (c.g.regs + c.b.arch.ext + g ≤ 16 → s.pendingRacq c.c.core = [] → g ≤ s.freeRegs c.c.core → c.p.held = none →
      (∃ t b', exec (.racq x) s = .next t ∧ OwnOnly { s with hub := t.hub, parts := t.parts } t c ∧ t.bundle? c.b.key = some b' ∧ b'.arch.ext = c.b.arch.ext + g ∧
        PathNow c b' n .litS c.past ∧ RegsBut c b' (keys ++ killed c n) ∧ b'.sq = c.b.sq ∧ b'.pend = c.b.pend) ∧
      ∃ t b', exec (.rtry x) s = .next t ∧ OwnOnly { s with hub := t.hub, parts := t.parts } t c ∧ t.bundle? c.b.key = some b' ∧ b'.arch.ext = c.b.arch.ext + g ∧
        HoldsNow c b' x.dst (lanesOf c.g.width) ∧ PathNow c b' n x.dst c.past ∧ RegsBut c b' (keys ++ dstKeys x.dst ++ killed c n)) ∧
    (c.g.regs + c.b.arch.ext + g ≤ 16 → (s.pendingRacq c.c.core ≠ [] ∨ s.freeRegs c.c.core < g) → WritesOne (.rtry x) s c n x.dst 0) ∧
    (0 < g → c.g.regs + c.b.arch.ext + g ≤ 16 → (s.pendingRacq c.c.core ≠ [] ∨ s.freeRegs c.c.core < g) → c.p.held = none →
      exec (.racq x) s = .next ((({ s with hub := { s.hub with nextOrder := s.hub.nextOrder + 1 } }).onPath c fun p =>
        { p with held := some (.racq g s.hub.nextOrder s.hub.nextOrder) }).stopAt c)) ∧
    ∃ t b', exec (.rrel x) s = .next t ∧ OwnOnly s t c ∧ t.bundle? c.b.key = some b' ∧ b'.arch.ext = c.b.arch.ext - g ∧ PathNow c b' n .litS c.past ∧
      RegsBut c b' (killed c n) ∧ b'.sq = c.b.sq ∧ b'.pend = c.b.pend

/-- tft.set replaces an entry with its image and writes 0, or 1 and nothing for a refused image, once the histograms its bundle reads are read; tft.get queues the entry's 64-byte image as a store; tft.hist queues the
reading of its histogram, which stores the counters, and clears them where asked, as it leaves the queue; other entries stay (R276, R435 to R437).
The model's choices it rests on: log 26, 28 and 119. -/
def Obligations.TensorFormatTable : Prop :=
  (∀ (x : RArgs) (s : State) (c : Cur) (a : LaneAcc), let e := fld (c.raw x.a.sel) 7 0
    (Ready s c (needX x false 2 c) → s.xRead c x.pred 64 (c.raw x.b.sel) = .ok a → (∀ q ∈ c.b.sq, q.op.isHist = false) →
      let w := s.readRec c a 8
      if imageBad w = true then
        Outcome (.tftSet x) s c (needX x false 2 c) (fun _ => s.recRead c a) x.dst c.past fun _ b' => BundleKept c b' ∧ HoldsNow c b' x.dst 1
      else Outcome (.tftSet x) s c (needX x false 2 c) (fun t => { s.recRead c a with tft := t.tft }) x.dst c.past fun t b' =>
        HoldsNow c b' x.dst 0 ∧ t.tensor c.g.tenant e = tensorOf w (if (w.getD 0 0).getLsbD 0 then [] else (s.tensor c.g.tenant e).hist) ∧
        ∀ k, k ≠ 256 * c.g.tenant + e → mapGet t.tft k = mapGet s.tft k) ∧
    (c.b.acquiring = false → c.b.ackcnt < 512 → Ready s c (needX x false 2 c) → s.xAccess c .store x.pred 64 (c.raw x.b.sel) = .ok a →
      Queues (.tftGet x) s c (needX x false 2 c) (.store false [(a, (s.tensor c.g.tenant e).image.flatMap fun w => leBytes 8 w.toNat)]) 1) ∧
    (c.b.acquiring = false → c.b.ackcnt < 512 → Ready s c (needX x false 3 c) → s.xAccess c .store x.pred 128 (c.raw x.b.sel) = .ok a →
      Queues (.tftHist x) s c (needX x false 3 c) (.hist a e ((c.raw x.c.sel).getLsbD 0)) 1)) ∧
  ∀ (s : State) (k : BKey) (b : Bundle) (c : Crew) (g : Grid) (e : SqEntry) (r : List SqEntry) (a : LaneAcc) (n : Nat) (clear : Bool),
    s.bundle? k = some b → s.crew? k.ck = some c → s.grid? k.grid = some g → b.parked = none → b.sq = e :: r → e.op = .hist a n clear → s.tooEarly b e = false →
    a.space = .mem → a.pbmt ≠ 2 → n < 256 →
      ∃ t, exec (.storeQueueLeave k) s = .next t ∧ t.bundle? k = some { b with sq := r } ∧ (∀ j, j ≠ k → t.bundle? j = s.bundle? j) ∧
        t = { s with clock := max s.clock (e.time + 40), bundles := t.bundles, l1 := t.l1, tft := t.tft,
                     inflight := s.inflight ++ storeFlights k c.core false [(a, (List.range 32).flatMap fun i => leBytes 4 (natsGet (s.tensor g.tenant n).hist i))] } ∧
        if clear = true then t.tensor g.tenant n = { s.tensor g.tenant n with hist := [] } ∧ ∀ j, j ≠ 256 * g.tenant + n → mapGet t.tft j = mapGet s.tft j
        else t.tft = s.tft

/-- fmap in a handler queues its mapping with a token when its plan fails or a frame is there; tlbh writes 0 and clears the gathered marks of its grid's context (R438, R439).
The model's choices it rests on: log 14. -/
def Obligations.MappingAndHarvest : Prop :=
  (∀ (x : RArgs) (s : State) (c : Cur) (k : Fin 64), let n : Need := { needX x false 2 c with hand := true, sup := true }
    x.dst = .s k → Ready s c n → ((∀ p, s.fmapPlan c.g.ctx x.md.val (c.raw x.a.sel) (c.raw x.b.sel) ≠ .ok p) ∨ s.hasFrame c.g.tenant x.md.val = true) →
    SendsToken (.fmap x) s c n x.dst (fun pid => .fmap pid x.md.val (c.raw x.a.sel) (c.raw x.b.sel)) 0) ∧
  ∀ (x : RArgs) (s : State) (c : Cur), Ready s c (needX x false 0 c) →
    ∃ t b', exec (.tlbh x) s = .next t ∧ t.bundle? c.b.key = some b' ∧ HoldsNow c b' x.dst 0 ∧ PathNow c b' (needX x false 0 c) x.dst c.past ∧
      (∀ e ∈ t.xl.tlb, e.2.ctx = c.g.ctx → e.2.a = false ∧ e.2.d = false) ∧ (∀ e ∈ s.xl.tlb, e.2.ctx ≠ c.g.ctx → e ∈ t.xl.tlb) ∧
      (∀ a, (∀ e ∈ s.xl.tlb, e.2.ctx = c.g.ctx → ∀ h ∈ e.2.homes, a < h.1 ∨ h.1 + 8 ≤ a) → t.byte a = s.byte a)

/-- sysr writes the special register it names, whole into a scalar register or lane by lane into a vector register; sysw writes tpc, tidx, tmask, tm0 and the scratch
registers from a scalar and fpflags from a vector, bits [31:5] as 0; a privileged number outside a handler traps with cause 0x04 (R193, R440). -/
def Obligations.SpecialRegisters : Prop :=
  (∀ (x : IArgs) (s : State) (c : Cur) (d : Fin 64), x.dst = .s d → Ready s c (needSysr x c) →
    (∀ p ∈ specialReads, x.imm.toNat % 256 = p.1 → WritesOne (.sysr x) s c (needSysr x c) x.dst (p.2 s c)) ∧
    ∀ i : Fin 4, x.imm.toNat % 256 = 0x28 + i.val → WritesOne (.sysr x) s c (needSysr x c) x.dst ((c.b.arch.scratch[i.val]?).getD 0)) ∧
  (∀ (x : IArgs) (s : State) (c : Cur) (d : Fin 128), x.dst = .v d → Ready s c (needSysr x c) →
    ∃ t b', exec (.sysr x) s = .next t ∧ OwnOnly s t c ∧ t.bundle? c.b.key = some b' ∧ BundleKept c b' ∧ PathNow c b' (needSysr x c) x.dst c.past ∧
      RegsBut c b' ((List.range c.g.width).map (vKey d.val)) ∧
      ∀ l ∈ maskLanes c.g.width (c.active x.pred),
        (x.imm.toNat % 256 = 0 → b'.v d.val l = BitVec.ofNat 32 l) ∧ (x.imm.toNat % 256 = 0x0F → b'.v d.val l = BitVec.ofNat 32 (natsGet c.b.arch.fpflags l)) ∧
        (x.imm.toNat % 256 = 0x26 → b'.v d.val l = (c.b.arch.trap.tvalOf l).extractLsb' 0 32) ∧
        (x.imm.toNat % 256 = 0x27 → b'.v d.val l = (c.b.arch.trap.tvalOf l).extractLsb' 32 32)) ∧
  (∀ (x : IArgs) (s : State) (c : Cur) (q : Fin 64), let n : Need := { cls := .x, hand := true, sup := sysSuper (fld (x.imm.zeroExtend 64) 7 0), pred := x.pred, srcs := [(x.a, false)] }
    x.a.sel = .s q → Ready s c n →
    ∃ t b', exec (.sysw x) s = .next t ∧ OwnOnly s t c ∧ t.bundle? c.b.key = some b' ∧ PathNow c b' n .litS c.past ∧ RegsBut c b' (killed c n) ∧
      b'.arch.awaits = c.b.arch.awaits ∧ b'.sq = c.b.sq ∧ b'.arch.fpflags = c.b.arch.fpflags ∧ b'.arch.tdepth = c.b.arch.tdepth ∧ b'.arch.trap.tcause = c.b.arch.trap.tcause ∧
      (x.imm.toNat % 256 = 0x21 → b'.arch.trap = { c.b.arch.trap with tpc := c.raw x.a.sel }) ∧ (x.imm.toNat % 256 = 0x22 → b'.arch.trap = { c.b.arch.trap with tidx := c.raw x.a.sel }) ∧
      (x.imm.toNat % 256 = 0x23 → b'.arch.trap = { c.b.arch.trap with tmask := c.raw x.a.sel }) ∧ (x.imm.toNat % 256 = 0x24 → b'.arch.trap = { c.b.arch.trap with tm0 := c.raw x.a.sel }) ∧
      ∀ i : Fin 4, x.imm.toNat % 256 = 0x28 + i.val → b'.arch.trap = c.b.arch.trap ∧ b'.arch.scratch = c.b.arch.scratch.set i.val (c.raw x.a.sel)) ∧
  (∀ (x : IArgs) (s : State) (c : Cur) (r : Fin 128), let n : Need := { cls := .x, hand := true, sup := sysSuper (fld (x.imm.zeroExtend 64) 7 0), pred := x.pred, srcs := [(x.a, false)] }
    x.a.sel = .v r → Ready s c n → Moves (.sysw x) s c n c.past
      (((maskLanes c.g.width (c.active x.pred)).foldl (fun f l => natsPut f l ((c.b.v r.val l).toNat % 32)) c.b.arch.fpflags))) ∧
  ∀ (x : IArgs) (s : State) (c : Cur), s.cur = some c → c.eligible = true → c.b.role = 0 → c.b.arch.tdepth = 0 → 0x20 ≤ x.imm.toNat % 256 →
    (s.heldUp c (needSysr x c) = false → exec (.sysr x) s = .next (s.trapAll c 0x04 (c.active x.pred))) ∧
    (s.heldUp c { cls := .x, hand := true, sup := sysSuper (fld (x.imm.zeroExtend 64) 7 0), pred := x.pred, srcs := [(x.a, false)] } = false →
      exec (.sysw x) s = .next (s.trapAll c 0x04 (c.active x.pred)))

/-! ### The machine's own events -/

/-- The store queue and the fabric. A store to memory that no earlier access of its bundle holds back leaves its queue past the strike horizon as one write in flight for each line; a write in flight that no earlier one holds
back becomes visible at its home slice, byte for byte, leaves the state of a barrier object that it meets unspecified, and its acknowledgement sets out; an acknowledgement counts down its bundle's counter; an arriving load fills
its register with the bytes of memory, its own bundle's queued stores first (R32, R187, R206, R223, R419).
The model's choices it rests on: log 5, 7, 8, 38, 39, 78, 82, 83, 110, 115 and 125. -/
def Obligations.WritesTravelToTheirHome : Prop :=
  (∀ (s : State) (k : BKey) (b : Bundle) (c : Crew) (g : Grid) (e : SqEntry) (rest : List SqEntry) (block : Bool) (parts : List (LaneAcc × List Byte)),
    s.bundle? k = some b → s.crew? k.ck = some c → s.grid? k.grid = some g → b.parked = none → b.sq = e :: rest →
    e.op = .store block parts → parts ≠ [] → (∀ p ∈ parts, p.1.space = .mem ∧ p.1.pbmt ≠ 2) → s.tooEarly b e = false →
    ∃ t, exec (.storeQueueLeave k) s = .next t ∧ t.bundle? k = some { b with sq := rest } ∧ (∀ k', k' ≠ k → t.bundle? k' = s.bundle? k') ∧
      t = { s with clock := max s.clock (e.time + 40), bundles := t.bundles, l1 := t.l1, inflight := s.inflight ++ storeFlights k c.core block parts }) ∧
  (∀ (s : State) (i : Nat) (f : Flight) (block : Bool) (parts : List (Nat × Byte)), memWf s.mem = true → s.inflight[i]? = some f → heldBack (s.inflight.take i) f = false →
    s.rowBusy f.line = false → f.op = .bytes block parts → (parts.map fun p => p.1).Nodup → (∀ p ∈ parts, s.windowOf p.1 = none) → (∀ x ∈ s.armed, ∀ p ∈ parts, x.pa ≠ p.1 / 8 * 8) → s.net.narms = [] →
    ∃ t, exec (.homeSliceWrite i) s = .next t ∧ (∀ p ∈ parts, t.byte p.1 = p.2) ∧ (∀ a, (∀ p ∈ parts, p.1 ≠ a) → t.byte a = s.byte a) ∧
      t.acks = s.acks ++ [{ f with op := .bytes false [] }] ∧ t.inflight = s.inflight.eraseIdx i ∧
      t = { s with mem := t.mem, memOpen := t.memOpen, poison := t.poison, mended := t.mended, poisonBy := t.poisonBy, bundles := t.bundles, acks := t.acks, inflight := t.inflight,
                   hub := { s.hub with wrote := t.hub.wrote, objs := t.hub.objs, hosts := t.hub.hosts } } ∧
      ∀ pa, (∃ b, (pa, b) ∈ s.hub.objs) → (∃ p ∈ parts, pa ≤ p.1 ∧ p.1 < pa + 32) → t.objSpoilt pa = true) ∧
  (∀ (s : State) (i : Nat) (f : Flight) (k : BKey) (b : Bundle), s.acks[i]? = some f → f.owner = .bundle k → f.op = .bytes false [] → s.bundle? k = some b →
    ∃ t, exec (.acknowledgement i) s = .next t ∧ t.bundle? k = some { b with ackcnt := b.ackcnt - 1 } ∧ (∀ k', k' ≠ k → t.bundle? k' = s.bundle? k') ∧
      t = { s with acks := s.acks.eraseIdx i, bundles := t.bundles }) ∧
  ∀ (s : State) (k : BKey) (b : Bundle) (c : Crew) (g : Grid) (p : Pend) (a : LaneAcc) (na : Bool) (n : Fin 64) (i : Instr),
    s.bundle? k = some b → s.crew? k.ck = some c → s.grid? k.grid = some g → b.live = true → b.oldest = some p → p.kind = .load na → p.lanes = [a] → p.want = 1 →
    p.got = [] → p.bad = none → p.acq = none → p.dst = .s n → p.ty.isInt = true → a.space = .mem → a.pbmt ≠ 2 → a.defer = false → s.flashWaits c g a = false →
    s.lanePoison c g a = none → s.laneWaits b p.time a = false → (∀ q ∈ b.pend, q.id = p.id → q = p) → (∀ r, (r, p.id) ∈ b.arch.awaits ↔ r = .s n) →
    (i = .loadResponse ⟨k, none⟩ ∨ (inFlash (lineOf a.addr) = true ∧ (s.bundles.map fun x => x.key).Nodup ∧
      (∀ x ∈ s.bundles, x.key ≠ k → ∀ q, x.oldest = some q → q.readsLine (lineOf a.addr) = false) ∧ ∃ r ≤ 8, i = .flashReadComplete (lineOf a.addr) r)) →
    ∃ t b', exec i s = .next t ∧ t.bundle? k = some b' ∧ b'.empty (.s n) = false ∧ b'.pend = b.pend.filter (fun q => q.id != p.id) ∧
      b'.s n.val = wrVal p.ty (tyVal p.ty.bits p.ty.signed (leNat ((List.range p.ty.bytes).map fun j => s.bundleByte (b.asOf p.time) c.core g.tenant a.pbmt (a.addr + j)))) ∧
      (∀ x, t.byte x = s.byte x) ∧ t = { s with bundles := t.bundles, regs := t.regs, l1 := t.l1, free := t.free, flash := { s.flash with l2 := t.flash.l2 } }

/-- What takes bundles back or away. A demoted bundle is restored 8,192 cycles after its demotion (R156). A strike report takes the bundles of the region back to the state before
their oldest instruction past the horizon, their queued stores and outstanding results with it (R277). An error that a scrub meets in a vector register is served from the copy and counted on a mirrored core,
and leaves its lane poison elsewhere, in the checkpoints too that hold the same word (R186, R278, R285). A core whose bundles all wait in racq reclaims the blocks acquired last, whose contents
stay the bundle's, where the save area has room and the oldest request cannot be granted (R184). A load, or a read of a record, deferred for 20 ms ends with its bundle halted (R94, R95); a line whose retries are exhausted is poison, and the bundle that waits for it halts (R91, R206, R279).
The model's choices it rests on: log 19, 35, 36, 58, 98, 117 and 119. -/
def Obligations.BundlesTakenBack : Prop :=
  (∀ (s : State) (k : BKey) (b : Bundle) (n : Nat), s.bundle? k = some b → b.spin.demoted = some n →
    ∃ t, exec (.demotionTimeout k) s = .next t ∧ t.bundle? k = some { b with spin := { b.spin with demoted := none, takings := 0 } } ∧
      (∀ k', k' ≠ k → t.bundle? k' = s.bundle? k') ∧ t = { s with clock := max s.clock (n + 8192), bundles := t.bundles }) ∧
  (∀ (s : State) (g col : Nat) (k : BKey) (b : Bundle) (c : Crew) (l r : List (Nat × Arch)) (n : Nat) (a : Arch), (s.crews.map fun x => x.key).Nodup →
    s.bundle? k = some b → b.live = true → s.crew? k.ck = some c → c.st = .resident → c.core ∈ strikeCores (.column g col) →
    b.window = l ++ (n, a) :: r → s.clock < n + 40 → (∀ x ∈ r, x.1 + 40 ≤ s.clock) →
    ∃ t b', exec (.strikeReport ⟨.column g col, []⟩) s = .next t ∧ t.bundle? k = some b' ∧ b'.arch = a ∧ b'.window = [] ∧
      b'.sq = b.sq.filter (fun e => decide (e.time + 40 ≤ s.clock)) ∧ b'.pend = b.pend.filter (fun p => decide (p.time + 40 ≤ s.clock)) ∧
      (∀ x, t.byte x = s.byte x) ∧ t = { s with bundles := t.bundles, crews := t.crews, regs := t.regs }) ∧
  (∀ (s : State) (r : StrikeRegion) (k : BKey) (b : Bundle) (c : Crew) (g : Grid) (n : Fin 128) (lane : Nat), strikeCores r = [] →
    s.bundle? k = some b → s.crew? k.ck = some c → s.grid? k.grid = some g → b.live = true → c.st = .resident → n.val < 8 * (g.regs + b.arch.ext) → lane < g.width →
    ∃ t, exec (.strikeReport ⟨r, [⟨.reg k (.v n) lane, true⟩]⟩) s = .next t ∧
      if s.mirrored c.core = true then t = { s with regs := t.regs } ∧ t.reg (offCoreRas c.core) = satAdd (s.reg (offCoreRas c.core)) 31 16 1
      else t = { s with bundles := t.bundles } ∧ ∃ b', t.bundle? k = some b' ∧ vKey n.val lane ∈ b'.arch.bad ∧
        (∀ x ∈ b'.window, mapGet x.2.regs (vKey n.val lane) = mapGet b.arch.regs (vKey n.val lane) → vKey n.val lane ∈ x.2.bad) ∧ b' = { b with arch := { b.arch with bad := b'.arch.bad }, window := b'.window }) ∧
  (∀ (s : State) (core : Nat) (b : Bundle), let all := s.bundles.filter fun x => (s.residents core).any fun c => c.key == x.key.ck
    let bs := all.filter fun x => x.live
    s.returnBlocks core bs = none → bs ≠ [] → (∀ x ∈ bs, x.inRacq = true) → (∀ c ∈ s.residents core, c.save = none ∧ s.liveBundles c.key ≠ 0) →
    s.bundle? b.key = some b → maxBy Bundle.extAt (all.filter fun x => x.arch.ext != 0 && !x.reclaimed) = some b →
    s.areaUsed (fun _ => false) + extGranules b.arch.ext ≤ 262144 →
    (∀ x ∈ bs, x.reclaimed = false → ∀ y ∈ x.racqs, (∀ z ∈ s.pendingRacq core, y.2 ≤ z.2) → s.freeRegs core < y.1) →
    ∃ t b', exec (.coreReclaim core) s = .next t ∧ t.bundle? b.key = some b' ∧ b'.reclaimed = true ∧ b'.arch.regs = b.arch.regs ∧ b'.arch.ext = b.arch.ext ∧
      (∀ k', k' ≠ b.key → t.bundle? k' = s.bundle? k') ∧ t = { s with bundles := t.bundles, hub := { s.hub with nextOrder := s.hub.nextOrder + 1 } }) ∧
  (∀ (s : State) (i : Nat) (d : Deferral) (b : Bundle) (c : Crew) (g : Grid), s.flash.deferred[i]? = some d → s.bundle? d.owner = some b → s.crew? d.owner.ck = some c →
    s.grid? d.owner.grid = some g → (b.readsRecord d.pid = true ∨ ∃ p ∈ b.pend, p.id = d.pid) → (∀ y ∈ s.flash.deferred, y.grove ≠ Config.groves) →
    (∀ x ∈ s.bundles, x.key ≠ d.owner → ∀ p ∈ x.pend, ∀ a ∈ p.lanes, a.defer = true → ∃ y ∈ s.flash.deferred, y.pid = p.id ∧ y.lane = a.lane ∧ ¬(y.owner = d.owner ∧ y.pid = d.pid)) →
    ∃ t b', exec (.deferralTimeout i) s = .next t ∧ t.bundle? d.owner = some b' ∧ b'.live = false ∧ b'.pend = [] ∧ b'.sq = [] ∧
      t.flash.deferred = s.flash.deferred.filter (fun x => !(x.owner == d.owner && x.pid == d.pid)) ∧
      t.clock = max s.clock (d.since + 20000 * Config.cyclesPerUs)) ∧
  ∀ (s : State) (k : BKey) (b : Bundle) (c : Crew) (g : Grid) (p : Pend) (a : LaneAcc) (na : Bool), let line := lineOf a.addr
    s.bundle? k = some b → s.crew? k.ck = some c → s.grid? k.grid = some g → b.live = true → b.oldest = some p → p.kind = .load na → a ∈ p.lanes → a.space = .mem → a.defer = false →
    inFlash line = true → (∀ x ∈ p.lanes, x.defer = false → s.laneWaits b p.time x = false) → s.flashWaits c g a = false → s.l1Hit c.core g.tenant a.pbmt a.addr = none →
    ({ s with poison := [line] }).poisonAt g.tenant a.addr = true → (∀ x ∈ s.bundles, x.key ≠ k → ∀ q, x.oldest = some q → q.readsLine line = false) →
    (s.bundles.map fun x => x.key).Nodup →
    ∃ t b', exec (.flashReadComplete line 9) s = .next t ∧ line ∈ t.poison ∧ t.bundle? k = some b' ∧ b'.live = false ∧ b'.pend = [] ∧ b'.sq = []

/-- Vertical links and bridges. The expected good beat passes on and is held until it is acknowledged; a beat with a bad CRC is not delivered, is counted, and starts the lane test;
an acknowledgement frees the beats up to its number as far as they were delivered. A lane test without a failed lane starts the replay, and so does the end of a retraining; one failed lane of a
group takes the group's spare, and a group of the control lanes beyond repair takes the half down, the writes that its undelivered beats brought poisoned; a failure found while the half steers or replays is
queued, and what is queued is tested for when the step ends (R13 to R18, R28, R29).
The model's choices it rests on: log 68, 80 and 83. -/
def Obligations.LinksReplayAndSpare : Prop :=
  (∀ (s : State) (id : LinkId) (b : Beat), let l := s.link id
    linkExists id = true → l.state = 0 → b.seq = l.next → l.unacked.length < 128 → (∀ x ∈ l.unacked, x.seq ≠ b.seq) →
    b.payload.length = 4 * dataGroups id → b.lines.length ≤ dataGroups id / 32 →
    ∃ t, exec (.vlinkBeatReceive id b) s = .next t ∧ (∀ j, j ≠ id → t.link j = s.link j) ∧ t = { s with links := t.links } ∧
      let sent := { l with next := (l.next + 1) % 256, unacked := l.unacked ++ [b] }
      (b.ok = true → b.seq = l.expect → t.link id = { sent with expect := (l.expect + 1) % 256, got := l.got ++ [(b, false)] }) ∧
      (b.ok = true → b.seq ≠ l.expect → t.link id = sent) ∧
      (b.ok = false → t.link id = { sent with crcErrors := min (l.crcErrors + 1) 0xFFFF, state := 1, testing := true, queued := false })) ∧
  (∀ (s : State) (id : LinkId) (n i : Nat) (nak : Bool), let l := s.link id
    linkExists id = true → l.state ≠ 3 → (l.unacked.findIdx? fun x => x.seq == n) = some i → i + 1 ≤ l.delivered →
    ∃ t, exec (.vlinkAckReceive id n nak) s = .next t ∧ t.link id = { l with unacked := l.unacked.drop (if nak then i else i + 1) } ∧
      (∀ j, j ≠ id → t.link j = s.link j) ∧ t = { s with links := t.links }) ∧
  (∀ (s : State) (id : LinkId) (i : Instr), let l := s.link id
    linkExists id = true → l.state = 1 → ((i = .laneTestDone id [] ∧ l.testing = true) ∨ (i = .laneRetrainDone id ∧ l.testing = false)) →
    ∃ t, exec i s = .next t ∧ (∀ j, j ≠ id → t.link j = s.link j) ∧ t = { s with links := t.links } ∧
      let r := { l with testing := false, replays := min (l.replays + 1) 0xFFFF, replayEnd := ((l.unacked.getLast?).map fun (x : Beat) => x.seq).getD l.expect }
      (l.queued = false → t.link id = { r with state := if l.unacked = [] then 0 else 2 }) ∧ (l.queued = true → t.link id = { l with testing := true, queued := false })) ∧
  (∀ (s : State) (id : LinkId) (g k : Nat), let l := s.link id
    linkExists id = true → (l.state = 1 ∨ l.state = 2) → l.testing = false → (g < dataGroups id ∨ g = 0xFE) →
    ∃ t, exec (.laneTestDone id [(g, k)]) s = .next t ∧ t.link id = { l with queued := true } ∧ (∀ j, j ≠ id → t.link j = s.link j) ∧ t = { s with links := t.links }) ∧
  (∀ (s : State) (id : LinkId) (g k : Nat), let l := s.link id
    linkExists id = true → l.state = 1 → l.testing = true → (g < dataGroups id ∨ g = 0xFE) → l.width ≠ 3 → l.widthNow = l.width → g ∉ l.spared →
    ∃ t, exec (.laneTestDone id [(g, k)]) s = .next t ∧ t.link id = { l with testing := false, spared := l.spared ++ [g] } ∧
      t.reg 0x208 = satAdd (s.reg 0x208) 39 16 1 ∧ (∀ j, j ≠ id → t.link j = s.link j) ∧ t = { s with links := t.links, regs := t.regs }) ∧
  ∀ (s : State) (id : LinkId) (k : Nat), let l := s.link id
    linkExists id = true → l.state = 1 → l.testing = true → 0xFE ∈ l.spared →
    ∃ t l', exec (.laneTestDone id [(0xFE, k)]) s = .next t ∧ t.link id = l' ∧ l'.state = 3 ∧ l'.width = 3 ∧ l'.unacked = [] ∧
      l'.got = l.got ++ (l.unacked.drop l.delivered).map (fun (x : Beat) => (x, true)) ∧
      (∀ g n, id = .vlink g n → (g, n / 4) ∈ t.parts.retiredCols ∧ (n / 2 % 2 = 1 → (g, n / 4) ∈ t.parts.downVaults)) ∧
      (∀ x ∈ l.unacked.drop l.delivered, ∀ b n, .write b n ∈ x.lines → (∃ f ∈ s.inflight, f.owner.bundle? = b ∧ f.line = n) →
        ∃ f ∈ t.inflight, f.owner.bundle? = b ∧ f.line = n ∧ f.bad = true) ∧
      (∀ j, j ≠ id → t.link j = s.link j) ∧ (∀ a, t.byte a = s.byte a)

/-- DRAM rows, heat and spares: a row is refreshed at the interval of its bin, halved above 85 °C; the patrol moves a row to a lower bin, or onto a spare, and firmware may assign what it measured; a failing core or vault
row takes a spare and is counted, a core once its crews have been saved; throttling moves by one step of sixteen; a column is hot from its threshold (R20, R21, R25, R215, R283, R284).
The model's choices it rests on: log 55, 69, 70 and 78. -/
def Obligations.RowsHeatAndSpares : Prop :=
  (∀ (s : State) (r : RowId), r.stack < 12 → s.bin r ≠ 0 → s.bin r < 4 →
    ∃ t, exec (.rowRefresh r) s = .next t ∧ assoc t.phys.refresh r = some t.clock ∧
      t.clock = max s.clock ((assoc s.phys.refresh r).getD 0 + (2 ^ (s.bin r + 3) * 1000 * Config.cyclesPerUs) / (if r.stack ∈ s.phys.hot then 2 else 1)) ∧
      t = { s with clock := t.clock, phys := { s.phys with refresh := t.phys.refresh } }) ∧
  (∀ (s : State) (r : RowId) (ms : Nat) (assign : Bool), r.stack < 12 → let bin := if ms < 32 then 0 else if ms < 64 then 1 else if ms < 128 then 2 else 3
    bin < s.bin r ∨ (s.bin r ≠ 0 ∧ assign = true) →
    ∃ t, exec (.retentionPatrol r ⟨ms, assign⟩) s = .next t ∧ (∀ q, q ≠ r → t.bin q = s.bin q) ∧ t = { s with phys := t.phys, regs := t.regs } ∧
      (bin ≠ 0 → t.bin r = bin ∧ t.regs = s.regs) ∧
      (bin = 0 → (assoc s.phys.spares (r.stack, r.bank)).getD 0 < 128 → t.bin r = 0 ∧ r ∈ t.phys.remaps ∧ t.reg 0x218 = satAdd (satAdd (s.reg 0x218) 39 16 1) 15 8 0 ∧
        assoc t.phys.spares (r.stack, r.bank) = some ((assoc s.phys.spares (r.stack, r.bank)).getD 0 + 1)) ∧
      (bin = 0 → 128 ≤ (assoc s.phys.spares (r.stack, r.bank)).getD 0 → t.bin r = 1 ∧ t.reg 0x218 = satAdd (satAdd (s.reg 0x218) 39 16 0) 15 8 1)) ∧
  (∀ (s : State) (r : RowId), s.hubFx = [] → (∀ a ∈ s.armed, a.waits = false) → ∃ t, exec (.rowRemapCopyDone r) s = .next t ∧ (∀ q, q ∈ t.phys.remaps ↔ q ∈ s.phys.remaps ∧ q ≠ r) ∧
    t = { s with phys := { s.phys with remaps := t.phys.remaps } }) ∧
  (∀ (s : State) (k : Nat) (hot : Bool), k < 12 → ∃ t, exec (.dramTemperatureChange k hot) s = .next t ∧
    (∀ q, q ∈ t.phys.hot ↔ (q ≠ k ∧ q ∈ s.phys.hot) ∨ (q = k ∧ hot = true)) ∧ t = { s with phys := { s.phys with hot := t.phys.hot } }) ∧
  (∀ (s : State) (d : Option (Fin 24)) (raise : Bool), let k := match d with | none => 0 | some x => x.val + 1
    keysFrom 0 s.phys.throttle = true → ∃ t, exec (.throttle (d.map fun x => x.val) raise) s = .next t ∧
      natsGet t.phys.throttle k = (if raise then min (natsGet s.phys.throttle k + 1) 16 else natsGet s.phys.throttle k - 1) ∧
      t = { s with phys := { s.phys with throttle := t.phys.throttle } }) ∧
  (∀ (s : State) (core : Nat), core < 1536 → core ∉ s.parts.retiredCores →
    ∃ t, exec (.coreSpareBringIn core) s = .next t ∧
      if natsGet s.parts.spareCores (core / 64) < 2 then t.parts.retiredCores = s.parts.retiredCores ∧
        (s.residents core = [] → natsGet t.parts.spareCores (core / 64) = natsGet s.parts.spareCores (core / 64) + 1 ∧ t.reg 0x200 = satAdd (satAdd (s.reg 0x200) 39 16 1) 15 8 0 ∧
          core ∉ t.parts.sparing ∧ ∀ x ∈ t.l1, x.core ≠ core) ∧
        (s.residents core ≠ [] → core ∈ t.parts.sparing ∧ t.parts.spareCores = s.parts.spareCores ∧ t.reg 0x200 = s.reg 0x200)
      else t.parts.retiredCores = s.parts.retiredCores ++ [core] ∧ t.parts.spareCores = s.parts.spareCores ∧ t.reg 0x200 = satAdd (satAdd (s.reg 0x200) 39 16 0) 15 8 1) ∧
  (∀ (s : State) (g col row : Nat), g < 12 → col < 32 →
    (s.phys.vaultRows.filter fun x => x.1.1 == g && x.1.2.1 == col).length < 512 →
    ∃ t, exec (.vaultRowRemap g col row) s = .next t ∧ t.reg 0x210 = satAdd (satAdd (s.reg 0x210) 39 16 1) 15 8 0 ∧
      t = { s with phys := { s.phys with vaultRows := t.phys.vaultRows }, regs := t.regs } ∧ ∃ n, ((g, col, row), n) ∈ t.phys.vaultRows) ∧
  ∀ (s : State) (g col temp : Nat), g < 12 → col < 32 → temp < 256 → let o := 0x10000600 + 0x100000 * g + 8 * col
    let th := fld (s.reg o) 23 16
    ∃ t, exec (.columnHot g col temp) s = .next t ∧ fld (t.reg o) 15 8 = temp ∧ (th ≤ temp → fld (t.reg o) 0 0 = 1) ∧ (temp < th → temp ≤ th - 5 → fld (t.reg o) 0 0 = 0) ∧
      (temp < th → th - 5 < temp → fld (t.reg o) 0 0 = fld (s.reg o) 0 0)

/-- The links of PCI Express and the ingress ordering point. A link trains when it is enabled and comes up within the limits that stood then; its loss takes it to recovery or to training anew; stream_clear ends the error state
of the port's streams. A posted write with nothing before it leaves at once, one write in flight for each line; one behind an unacknowledged write is held, and is forwarded once nothing of its stream is before it;
a read answers with the bytes of memory; an MSI reaches the host die; an acknowledgement frees its line, and a poisoned one puts its stream into error; a translation request gets the page's address, and a page request for a tier-3
page starts its migration (R34 to R40, R87, R445 to R447, R463).
The model's choices it rests on: log 41, 71, 79, 82 and 122. -/
def Obligations.IngressIsOrdered : Prop :=
  (∀ (s : State) (port : Fin 2) (v : Word), let o := 0x100 + 0x10 * port.val
    ∃ t, exec (.pcieLinkEnable port v) s = .next t ∧ (t.reg o).getLsbD 0 = v.getLsbD 0 ∧
      (v.getLsbD 0 = true → (s.reg o).getLsbD 0 = false → fld (t.reg (o + 8)) 1 0 = 1 ∧ t.trainLimits port.val = (fld (t.reg o) 27 24, fld (t.reg o) 19 16)) ∧
      (v.getLsbD 0 = false → fld (t.reg (o + 8)) 1 0 = 0) ∧
      (v.getLsbD 0 = true → (s.reg o).getLsbD 0 = true → t.reg (o + 8) = s.reg (o + 8)) ∧
      (∀ r, r ≠ o → r ≠ o + 8 → t.reg r = s.reg r) ∧ exec (.pcieStreamClear port v) s = .next t ∧
      (v.getLsbD 2 = true → ∀ x ∈ t.pcie.errs, x.1 ≠ port) ∧ (v.getLsbD 2 = false → t.pcie = { s.pcie with limits := t.pcie.limits })) ∧
  (∀ (s : State) (port : Fin 2) (speed width : Nat), let o := 0x100 + 0x10 * port.val
    (fld (s.reg (o + 8)) 1 0 = 1 ∨ fld (s.reg (o + 8)) 1 0 = 3) → 0 < speed → speed < 16 → width < 16 → speed ≤ (s.trainLimits port.val).1 → width ≤ (s.trainLimits port.val).2 →
    ∃ t, exec (.pcieTrainingDone port speed width) s = .next t ∧ fld (t.reg (o + 8)) 1 0 = 2 ∧ fld (t.reg (o + 8)) 15 12 = speed ∧ fld (t.reg (o + 8)) 11 8 = width ∧
      ∀ r, r ≠ o + 8 → t.reg r = s.reg r) ∧
  (∀ (s : State) (port : Fin 2), let o := 0x100 + 0x10 * port.val
    2 ≤ fld (s.reg (o + 8)) 1 0 → ∃ t u, exec (.pcieLinkLoss port true) s = .next t ∧ exec (.pcieLinkLoss port false) s = .next u ∧
      fld (t.reg (o + 8)) 1 0 = 3 ∧ fld (t.reg (o + 8)) 15 8 = fld (s.reg (o + 8)) 15 8 ∧ fld (u.reg (o + 8)) 1 0 = 1 ∧ fld (u.reg (o + 8)) 15 8 = 0 ∧
      ∀ r, r ≠ o + 8 → t.reg r = s.reg r ∧ u.reg r = s.reg r) ∧
  (∀ (s : State) (w : IngressWrite), let k := s.streamKey w.port w.rid w.pasid
    let p := s.streamFor w.port k
    let ls := cutLines (w.data.length + 1) w.addr w.data
    2 ≤ fld (s.reg (0x108 + 0x10 * w.port.val)) 1 0 → requesterOk w.rid w.pasid = true → w.data.length ≤ 512 → s.inError w.port k = false → w.ctx = none →
    (∀ x ∈ ls, inHbm x.1 = true ∨ inLp x.1 = true) →
    (p.flying = [] → p.targets = [] → (∀ h ∈ s.pcie.held, p.holds h = false) →
      let out := ls.map fun x => (s.pcie.nextId, lineOf x.1)
      ∃ t, exec (.ingressPostedWrite w) s = .next t ∧ t.pstream w.port (p.rid, p.pasid) = { p with flying := out, targets := out } ∧
        t = { s with pcie := t.pcie, inflight := s.inflight ++ ls.map fun x => ⟨none, .stream s.pcie.nextId, lineOf x.1, .bytes (ls.length == 1) (partsFrom x.1 x.2), false⟩ }) ∧
    (s.relaxed w = false → (∃ x ∈ p.flying, x.1 < s.pcie.nextId) →
      exec (.ingressPostedWrite w) s = .next { s with pcie := { s.pcie with nextId := s.pcie.nextId + 1, held := s.pcie.held ++ [⟨s.pcie.nextId, p.port, p.rid, p.pasid, k, .write w⟩] } })) ∧
  (∀ (s : State) (i : Nat) (h : HeldTx) (w : IngressWrite), let p := s.pstream h.port (h.rid, h.pasid)
    let ls := cutLines (w.data.length + 1) w.addr w.data
    s.pcie.held[i]? = some h → h.tx = .write w → w.ctx = none → (∀ x ∈ ls, inHbm x.1 = true ∨ inLp x.1 = true) → p.flying = [] → p.targets = [] → ls.length ≤ 1024 →
    (∀ q ∈ s.pcie.held, p.holds q = true → h.id ≤ q.id) →
    ∃ t, exec (.heldWriteForward i) s = .next t ∧ t.pcie.held = s.pcie.held.eraseIdx i ∧
      t = { s with pcie := t.pcie, inflight := s.inflight ++ ls.map fun x => ⟨none, .stream h.id, lineOf x.1, .bytes (ls.length == 1) (partsFrom x.1 x.2), false⟩ }) ∧
  (∀ (s : State) (r : IngressRead), let p := s.streamFor r.port (s.streamKey r.port r.rid r.pasid)
    2 ≤ fld (s.reg (0x108 + 0x10 * r.port.val)) 1 0 → requesterOk r.rid r.pasid = true → r.len ≤ 4096 → r.ctx = none → (∀ j < r.len, inHbm (r.addr + j) = true) →
    p.flying = [] → (∀ h ∈ s.pcie.held, p.holds h = false) → s.inHeld r = false →
    exec (.ingressReadRequest r) s = .next { s with pcie := { s.pcie with nextId := s.pcie.nextId + 1, replies := s.pcie.replies ++ [(r.port, r.addr, (List.range r.len).map fun j => s.byte (r.addr + j))] } }) ∧
  (∀ (s : State) (w : IngressWrite), let k := s.streamKey w.port w.rid w.pasid
    let p := s.streamFor w.port k
    2 ≤ fld (s.reg (0x108 + 0x10 * w.port.val)) 1 0 → requesterOk w.rid w.pasid = true → w.data.length ≤ 512 → s.inError w.port k = false →
    p.flying = [] → (∀ h ∈ s.pcie.held, p.holds h = false) →
    exec (.ingressMsi w) s = .next { s with pcie := { s.pcie with nextId := s.pcie.nextId + 1 }, hub := { s.hub with msis := s.hub.msis ++ [128 + w.port.val] } }) ∧
  (∀ (s : State) (i id : Nat) (f : Flight) (p : PStream), s.acks[i]? = some f → f.owner = .stream id →
    s.pcie.streams.find? (fun p => p.flying.contains (id, f.line)) = some p →
    let k := (mapGet s.pcie.owners id).getD (p.rid, p.pasid)
    ∃ t q, exec (.orderingPointAck i) s = .next t ∧ t.acks = s.acks.eraseIdx i ∧ t.pstream p.port (p.rid, p.pasid) = q ∧ q.flying = p.flying.erase (id, f.line) ∧
      ((∀ x ∈ q.flying, x.1 ≠ id) → ∀ x ∈ q.targets, x.1 ≠ id) ∧ t.inError p.port k = (s.inError p.port k || f.bad) ∧
      t = { s with acks := t.acks, pcie := t.pcie, regs := t.regs, hub := t.hub } ∧
      (f.bad = true → ∀ h ∈ t.pcie.held, h.port = p.port → h.own = k → id < h.id → h.tx.isWrite = false)) ∧
  (∀ (s : State) (r : IngressRead), 2 ≤ fld (s.reg (0x108 + 0x10 * r.port.val)) 1 0 → requesterOk r.rid r.pasid = true → r.ctx = none → inHbm r.addr = true →
    exec (.atsTranslationRequest r) s = .next { s with pcie := { s.pcie with ats := s.pcie.ats ++ [(r.port, r.addr, if (s.reg (0x100 + 0x10 * r.port.val)).getLsbD 6 = true then some r.addr else none)] } }) ∧
  ∀ (s : State) (r : IngressRead) (c pte lvl : Nat) (l : Word), let va := BitVec.ofNat 64 r.addr
    2 ≤ fld (s.reg (0x108 + 0x10 * r.port.val)) 1 0 → requesterOk r.rid r.pasid = true → (s.reg (0x100 + 0x10 * r.port.val)).getLsbD 5 = true → r.ctx = some c → s.walk c false .load va = .tier3 pte l lvl →
    ∃ t, exec (.priPageRequest r) s = .next t ∧ (c, vpnOf va / leafPages lvl l * leafPages lvl l) ∈ t.pcie.asked ∧
      ∃ m ∈ t.xl.migs, m.ctx = c ∧ m.vpn = vpnOf va / leafPages lvl l * leafPages lvl l

/-- Translation's own steps. A miss starts its walk within its tenant's quota and the grove's 128, else it is counted once; a walk's end in a context of one stage installs the leaf with A set for its waiter, or parks the waiter on a
migration, or leaves it the fault; a migration ends with the page copied, its entries naming the new frame and its waiters going on; a shoot-down is taken up by the tenant's own contexts only, and at its end
no entry in scope is held; a harvest moves the gathered marks into the leaves; a new pool tail resumes what the empty pool held (R69, R74 to R77, R80, R82, R83).
The model's choices it rests on: log 14, 21, 59, 90, 97, 98, 99, 100 and 120. -/
def Obligations.TranslationMovesOn : Prop :=
  (∀ (s : State) (i : Nat) (m : Miss), let o := 0x10000400 + 0x100000 * m.grove + 8 * m.tenant
    let mine := (s.xl.misses.filter fun x => x.walking && x.grove == m.grove && x.tenant == m.tenant).length
    s.xl.misses[i]? = some m → m.walking = false → (∀ x ∈ s.xl.misses.take i, x.grove = m.grove → x.tenant = m.tenant → x.walking = true) →
    (mine < fld (s.reg o) 7 0 → (s.xl.misses.filter fun x => x.walking && x.grove == m.grove).length < 128 →
      exec (.walkStart i) s = .next { s with xl := { s.xl with misses := s.xl.misses.set i { m with walking := true } } }) ∧
    (fld (s.reg o) 7 0 ≤ mine → m.waited = false →
      exec (.walkStart i) s = .next ({ s with xl := { s.xl with misses := s.xl.misses.set i { m with waited := true } } }.setReg o (satAdd (s.reg o) 31 24 1)))) ∧
  (∀ (s : State) (i : Nat) (m : Miss) (k : BKey) (w : Waiter) (b : Bundle), let u := (s.setMisses (s.xl.misses.eraseIdx i)).pwFill m.grove m.ctx (vpnVa m.vpn)
    let walk := u.gwalk m.grove m.ctx w.sup w.acc w.va
    memWf s.mem = true → s.xl.misses[i]? = some m → m.walking = true → m.stale = false → s.walkHeld m.ctx (vpnVa m.vpn) = false → (∀ x, s.ctx? m.ctx = some x → s.guestRoot x = none) → m.waiters = [w] → w.who = some k → s.bundle? k = some b →
    s.hubFx = [] → (∀ a ∈ s.armed, a.waits = false) → (∀ x ∈ s.xl.tlb, x.2.a = false ∧ x.2.d = false) →
    (s.xl.pwc = [] → vpnOf w.va = vpnOf (vpnVa m.vpn) → walk = s.walk m.ctx w.sup w.acc w.va) ∧
    ∃ t, exec (.walkComplete i) s = .next t ∧ t.xl.misses = s.xl.misses.eraseIdx i ∧
      (∀ pte l lvl pa, walk = .ok pte l lvl pa →
        t.rd64 pte = s.rd64 pte ||| 0x40 ∧ (∀ a, a < pte ∨ pte + 8 ≤ a → t.byte a = s.byte a) ∧
        let e : TlbEnt := ⟨m.ctx, vpnOf w.va / leafPages lvl l * leafPages lvl l, leafPages lvl l, l ||| 0x40, pte, true, false, []⟩
        (.grove m.grove, e) ∈ t.xl.tlb ∧ (if w.acc = .fetch then TlbAt.inst (s.coreOfB k) else .core (s.coreOfB k), e) ∈ t.xl.tlb) ∧
      (∀ pte l lvl, walk = .tier3 pte l lvl →
        (∃ b', t.bundle? k = some b' ∧ b'.parked = some 192) ∧ ∃ g ∈ t.xl.migs, g.ctx = m.ctx ∧ g.vpn = vpnOf w.va / leafPages lvl l * leafPages lvl l) ∧
      (∀ q, walk = .fault q → t.bundle? k = some { b with notes := b.notes ++ [⟨m.vpn, w.acc, .fault q⟩] } ∧ t.xl.tlb = s.xl.tlb)) ∧
  (∀ (s : State) (i : Nat) (m : Mig) (f : Nat × Nat), let n := zPages m.size * 4096
    let src := leafPpn (m.leaf.headD 0) / zPages m.size * n
    let dst := f.2 * 4096
    let q := fld (s.reg (offFq m.tenant)) 55 12 * 4096
    let ring := fun (a : Nat) => q ≤ a ∧ a < q + 32 * 2 ^ fld (s.reg (offFq m.tenant)) 4 0
    memWf s.mem = true → s.xl.migs[i]? = some m → m.frame = some f → m.entries.map s.rd64 = m.leaf → s.hubFx = [] → (∀ a ∈ s.armed, a.waits = false) → s.flash.deferred = [] →
    (∀ e ∈ m.entries, e + 8 ≤ dst ∨ dst + n ≤ e) → (∀ e ∈ m.entries, ∀ j < 8, ¬ ring (e + j)) → (∀ j < n, ¬ ring (dst + j)) →
    ∃ t, exec (.migrationCopyDone i) s = .next t ∧ (∀ j < n, t.byte (dst + j) = s.byte (src + j)) ∧ (∀ x ∈ m.entries.zip m.leaf, t.rd64 x.1 = migLeaf m.size f x.2) ∧
      t.xl.migs = s.xl.migs.eraseIdx i ∧ ∀ k ∈ m.waiters, ∀ b, t.bundle? k = some b → b.parked ≠ some 192) ∧
  (∀ p ∈ [(0, Instr.shootdownPage), (1, .shootdownContext), (2, .shootdownTenant), (3, .shootdownHarvest)], ∀ (s : State) (t : Fin 64) (v : Word),
    let o := 0x1000000 + 0x10000 * t.val
    let ctx := fld v 63 54
    fld v 49 48 = p.1 → v.getLsbD 0 = true → (s.reg (o + 8)).getLsbD 0 = false →
    ∃ u, exec (p.2 t v) s = .next u ∧
      if p.1 = 2 ∨ ∃ c ∈ s.xl.ctxs, c.num = ctx ∧ c.tenant = t.val then
        u.xl = { s.xl with shoots := s.xl.shoots ++ [⟨t.val, p.1, ctx, fld (s.reg o) 56 12⟩] } ∧ (u.reg (o + 8)).getLsbD 0 = true
      else u.xl = s.xl ∧ fld (u.reg (o + 8)) 2 1 = 1 ∧ (u.reg (o + 8)).getLsbD 0 = false) ∧
  (∀ (s : State) (t : Fin 64) (d : Shoot), s.xl.shoots.find? (fun d => d.tenant == t.val) = some d → (d.kind = 3 ∨ s.sdWaits d = false) → s.flash.deferred = [] →
    s.hubFx = [] → (∀ a ∈ s.armed, a.waits = false) →
    ∃ u, exec (.shootdownDone t) s = .next u ∧ (u.reg (0x1000008 + 0x10000 * t.val)).getLsbD 0 = false ∧ (∀ x ∈ u.xl.shoots, x.tenant ≠ t.val) ∧
      (∀ x ∈ u.xl.tlb, s.sdCovers d x.2.ctx x.2.vpn x.2.pages = true → d.kind = 3 ∧ x.2.a = false ∧ x.2.d = false) ∧
      ∀ x ∈ s.xl.tlb, s.sdCovers d x.2.ctx x.2.vpn x.2.pages = false → x ∈ u.xl.tlb) ∧
  (∀ (s : State) (g : Nat), memWf s.mem = true → (∀ x ∈ s.xl.tlb, ∀ h ∈ x.2.homes, h.1 % 8 = 0) →
    ∃ t, exec (.harvestTimer g) s = .next t ∧ (∀ x ∈ t.xl.tlb, x.1.ofGrove g = true → x.2.a = false ∧ x.2.d = false) ∧ (∀ x ∈ s.xl.tlb, x.1.ofGrove g = false → x ∈ t.xl.tlb) ∧
      (∀ x ∈ s.xl.tlb, x.1.ofGrove g = true → ∀ h ∈ x.2.homes, leafV (s.rd64 h.1) = true → leafPpn (s.rd64 h.1) = h.2 →
        (x.2.a = true → (t.rd64 h.1).getLsbD 6 = true) ∧ (x.2.d = true → (t.rd64 h.1).getLsbD 7 = true)) ∧
      (∀ a, (∀ x ∈ s.xl.tlb, x.1.ofGrove g = true → ∀ h ∈ x.2.homes, a < h.1 ∨ h.1 + 8 ≤ a) → t.byte a = s.byte a)) ∧
  ∀ (s : State) (n : Fin 192) (v : Word), let o := 0x1000018 + 0x10000 * (n.val / 3) + 0x10 * (n.val % 3)
    (∀ m ∈ s.xl.migs, 3 * m.tenant + m.size = n.val → m.size = 3 ∨ m.frame ≠ none) →
    ∃ t, exec (.poolTailWrite n v) s = .next t ∧ fld (t.reg o) 63 48 = fld (s.reg o) 63 48 ∧ fld (t.reg o) 47 8 = fld v 47 8 ∧
      (fld v 47 32 ≠ fld (s.reg o) 47 32 → ∀ b ∈ t.bundles, b.parked ≠ some n.val) ∧ (∀ r, r ≠ o → t.reg r = s.reg r)

/-- The sender of Xoxia. A stripe is read and sent as its k data fragments, cut from the message in order, and m parity fragments; a repair request has the fragments it names sent again; confirmations move the window on;
a message confirmation, a refusal, a ninth busy, a loss notice, a closed answer or its absence ends the send with its status in the token; the first busy stops it for one horizon and it begins again; an unconfirmed
stripe's deadline sends a loss notice; a failed lane takes the port's spare, then halves the port (R41, R43, R45, R47, R52 to R55, R59).
The model's choices it rests on: log 5, 42, 44, 84, 85, 86 and 124. -/
def Obligations.SendersFinish : Prop :=
  (∀ (s u : State) (x : Send) (data : List Byte) (bad : Bool), let f := 512 * 2 ^ fld x.prof 25 24
    let k := x.k x.next
    let off := x.next * fld x.prof 19 14 * f
    s.send? x.id = some x → SendOk s x → x.ph = .tx → x.stall = none → x.next < x.stripes → x.next < x.confirmed + 16 → x.len ≠ 0 → (∀ w ∈ s.hub.wrote, w.time < x.since) →
    s.engRead x.eng .mem ((x.buf + off) % 2 ^ 64) (min (k * f) (x.len - off)) = .ok (u, data, bad) →
    ∃ t ps, exec (.stripeTransmit x.id x.next) s = .next t ∧ t.net.out = u.net.out ++ ps ∧ ps.length = k + x.m ∧
      (∀ i p, ps[i]? = some p → p.findex = i ∧ p.stripe = x.next ∧ p.kind = (if i < k then 0 else 1) ∧ p.seq = x.seq ∧ p.tenant = x.tenant ∧ p.dst = x.dest ∧ p.k = k ∧ p.m = x.m ∧
        p.length = x.len ∧ p.delivery = .uud ∧ p.entropy = (fld x.prof 47 32 + (i + x.next) % max 1 (fld x.prof 31 26)) % 65536 ∧ p.port = s.net.egress p.entropy ∧ (bad = false → p.crcOk = true) ∧ (i < k → p.payload = (data.drop (i * f)).take f ++ List.replicate (f - ((data.drop (i * f)).take f).length) 0)) ∧
      t.net.sends = u.net.sends.map (fun y => if y.id = x.id then { x with next := x.next + 1, dues := mapPut x.dues x.next (s.clock + x.limit) } else y) ∧
      t = { u with net := t.net, free := u.free + 1 }) ∧
  (∀ (s u : State) (p : Packet) (x : Send) (data : List Byte) (bad : Bool), let f := 512 * 2 ^ fld x.prof 25 24
    let off := p.stripe * fld x.prof 19 14 * f
    Arrives s p 2 → s.sendFor p = some x → SendOk s x → x.ph = .tx → x.stall = none → p.stripe < x.next →
    s.engRead x.eng .mem ((x.buf + off) % 2 ^ 64) (min (x.k p.stripe * f) (x.len - off)) = .ok (u, data, bad) →
    ∃ t ps, exec (.repairRequestReceive p) s = .next t ∧ t.net.out = u.net.out ++ ps ∧
      ps.map (fun q => q.findex) = (List.range (x.k p.stripe + x.m)).filter (fun i => (p.body % 2 ^ 40).testBit i) ∧ ∀ q ∈ ps, q.stripe = p.stripe ∧ q.seq = x.seq ∧ q.dst = x.dest) ∧
  (∀ (s : State) (p : Packet) (x : Send), Arrives s p 2 → s.sendFor p = some x → s.send? x.id = some x → (x.ph = .backoff ∨ (x.ph = .tx ∧ x.next ≤ p.stripe)) →
    exec (.repairRequestReceive p) s = .next (s.putSend { x with asks := (x.asks.filter fun a => a.1 != p.stripe) ++ [(p.stripe, p.body / 2 ^ 40 % 4, p.body % 2 ^ 40)] })) ∧
  (∀ (s : State) (p : Packet), Arrives s p 2 → s.sendFor p = none →
    ∃ t, exec (.repairRequestReceive p) s = .next t ∧ LastSent t 8 p.src p.tenant p.seq p.stripe 0 ∧ t = { s with net := { s.net with out := t.net.out } }) ∧
  (∀ (s : State) (p : Packet) (x : Send), s.sendFor p = some x →
    (Arrives s p 3 → exec (.stripeConfirmationReceive p) s = .next (s.putSend { x with confirmed := max x.confirmed (p.body % 2 ^ 20) })) ∧
    (Arrives s p 4 → ∃ t, exec (.messageConfirmationReceive p) s = .next t ∧ SendEnds s t x 0 ∧ t.regs = s.regs) ∧
    (Arrives s p 5 → p.body % 256 = 2 ∨ p.body % 256 = 3 → ∃ t, exec (.refusalReceive p) s = .next t ∧ SendEnds s t x (p.body % 256)) ∧
    (Arrives s p 6 → x.ph = .tx →
      (x.busies < 8 → exec (.busyReceive p) s = .next (s.putSend { x with ph := .backoff, busies := x.busies + 1, due := s.clock + profHorizon x.prof * Config.cyclesPerUs })) ∧
      (8 ≤ x.busies → ∃ t, exec (.busyReceive p) s = .next t ∧ SendEnds s t x 4)) ∧
    (Arrives s p 7 → p.body % 256 = 1 ∨ p.body % 256 = 6 → ∃ t, exec (.lossNoticeReceiveSender p) s = .next t ∧ SendEnds s t x (p.body % 256)) ∧
    (Arrives s p 8 → x.ph = .lossWait → ∃ t, exec (.closedReceiveSender p) s = .next t ∧ SendEnds s t x 5)) ∧
  (∀ (s : State) (x : Send), s.send? x.id = some x →
    (x.ph = .backoff → exec (.busyBackoffExpiry x.id) s = .next ({ s with clock := max s.clock x.due }.putSend { x with ph := .tx, next := 0, confirmed := 0, dues := [] })) ∧
    (x.ph = .lossWait → ∃ t, exec (.lossNoticeWaitExpiry x.id) s = .next t ∧ SendEnds s t x 5 ∧ t.clock = max s.clock x.due) ∧
    ∀ d ∈ x.dues, SendOk s x → d.1 < 2 ^ 20 → x.ph ≠ .lossWait → x.confirmed ≤ d.1 → (∀ e ∈ x.dues, x.confirmed ≤ e.1 → e ≠ d → d.2 < e.2) →
      ∃ t, exec (.senderDeadlineExpiry x.id) s = .next t ∧ t.clock = max s.clock d.2 ∧ LastSent t 7 x.dest x.tenant x.seq d.1 5 ∧
        t.net.sends = s.net.sends.map (fun y => if y.id = x.id then { x with ph := .lossWait, due := t.clock + x.limit } else y)) ∧
  (∀ (s : State) (port lane : Nat), port < 16 → lane < 9 →
    ∃ t, exec (.netLaneFail port lane) s = .next t ∧
      if port ∈ s.net.spared then t.net.lanesOf port = min 4 (s.net.lanesOf port) ∧ port ∈ t.net.broken ∧ t.reg 0x228 = satAdd (satAdd (s.reg 0x228) 39 16 0) 15 8 1
      else port ∈ t.net.spared ∧ t.net.lanes = s.net.lanes ∧ t.reg 0x228 = satAdd (satAdd (s.reg 0x228) 39 16 1) 15 8 0) ∧
  ∀ (s : State) (port : Nat) (lanes : Option Nat), keysFrom 0 s.net.lanes = true → port < 16 → (∀ n, lanes = some n → n = 2 ∨ n = 4 ∨ (n = 8 ∧ port ∉ s.net.broken)) →
    ∃ t, exec (.networkPortStateChange port lanes) s = .next t ∧ (∀ q, q ∈ t.net.down ↔ (q ≠ port ∧ q ∈ s.net.down) ∨ (q = port ∧ lanes = none)) ∧
      (∀ n, lanes = some n → t.net.lanesOf port = n) ∧ t = { s with net := { s.net with down := t.net.down, lanes := t.net.lanes } }

/-- The receiver of Xoxia. A fragment of a known message enters its stripe's slot and goes straight into the receive buffer; the slot decodes with k of them; the first fragment of a message claims the oldest armed receive of its tag, and without one is refused; what was missing of a decoded stripe
is written into the buffer; its acknowledgement confirms stripes, and the last one the message, whose bytes then stand in the frames of its buffer; a timer asks for what is missing twice and then the message fails, its identity entering the filter; the sender's loss notice is answered by what became of the
message (R56 to R63).
The model's choices it rests on: log 43, 44, 45, 46, 84, 85, 87, 88, 89, 111, 124 and 125. -/
def Obligations.ReceiversFinish : Prop :=
  (∀ (s u : State) (p : Packet) (i kf : Nat) (r : NetRec) (x : NetSlot) (a : Narm), p.kind < 2 → Arrives s p p.kind → s.recIdx p = some i → s.net.recs[i]? = some r →
    r.slot p.stripe = some x → x.st = .filling → x.stripe = p.stripe → (∀ h ∈ x.held, h.1 ≠ p.findex) → p.trimmed = false →
    let y := { x with held := x.held ++ [(p.findex, p.payload)], st := if x.k ≤ x.held.length + 1 then .decoding else .filling }
    let v := s.setRec i { r with slots := r.slots.set (p.stripe % 16) y }
    (p.findex < x.k + r.m → r.kfull = none → s.net.landing = none → exec (.fragmentReceive p) s = .next v) ∧
    let off := p.stripe * kf * (512 * 2 ^ r.fsize) + p.findex * (512 * 2 ^ r.fsize)
    (p.findex < x.k → r.kfull = some kf → s.narmOf r.handle = some a → (∀ h ∈ x.held, h.1 < x.k → h.1 ∈ x.placed) → p.findex ∉ x.placed → p.payload.take (r.length - off) ≠ [] →
      v.engWrite (hubEng a.tenant a.ctx a.gtag) .mem ((a.buf + off) % 2 ^ 64) (p.payload.take (r.length - off)) false false = .ok u →
      exec (.fragmentReceive p) s = .next ({ u with hub := { u.hub with wrote := s.hub.wrote } }.setRec i
        { r with slots := r.slots.set (p.stripe % 16) { y with placed := x.placed ++ [p.findex] }, got := r.got ++ [(off, p.payload.take (r.length - off))] }))) ∧
  (∀ (s : State) (p : Packet), p.kind < 2 → Arrives s p p.kind → s.recIdx p = none → s.lateFor p = none → p.stripe < 16 → s.net.recs.length < 512 →
    (s.net.recs.filter fun r => r.tenant == p.tenant).length < fld (s.reg (0x6000 + 8 * p.tenant)) 63 54 →
    (s.matchNarm p.tenant p.tag = none → ∃ t, exec (.fragmentReceive p) s = .next t ∧ LastSent t 5 p.src p.tenant p.seq p.stripe 2 ∧ t = { s with net := { s.net with out := t.net.out } }) ∧
    ∀ a, s.matchNarm p.tenant p.tag = some a →
      (a.len < p.length → ∃ t, exec (.fragmentReceive p) s = .next t ∧ LastSent t 5 p.src p.tenant p.seq p.stripe 3 ∧ t = { s with net := { s.net with out := t.net.out } }) ∧
      (p.length ≤ a.len → p.trimmed = false → p.findex < p.k + p.m →
        ∃ t r x, exec (.fragmentReceive p) s = .next t ∧ t.net.recs = s.net.recs ++ [r] ∧ r.src = p.src ∧ r.tenant = p.tenant ∧ r.seq = p.seq ∧ r.handle = a.handle ∧
          r.slot p.stripe = some x ∧ x.k = p.k ∧ x.held = [(p.findex, p.payload)] ∧ x.due = s.clock + max 1 p.horizon * Config.cyclesPerUs ∧
          ∀ n ∈ t.net.narms, n.handle = a.handle → n.claimed = true)) ∧
  (∀ (s u : State) (rec stripe kf j : Nat) (r : NetRec) (x : NetSlot) (a : Narm) (d : List Byte), s.net.recs[rec]? = some r → r.slot stripe = some x → s.narmOf r.handle = some a →
    x.st = .decoding → x.stripe = stripe → r.length ≠ 0 → r.kfull = some kf → (∀ i < x.k, i ≠ j → i ∈ x.placed) → j < x.k → j ∉ x.placed →
    (decodeStripe x.k r.m (x.held.take x.k))[j]? = some d → let off := stripe * kf * (512 * 2 ^ r.fsize) + j * (512 * 2 ^ r.fsize)
    d.take (r.length - off) ≠ [] → s.engWrite (hubEng a.tenant a.ctx a.gtag) .mem ((a.buf + off) % 2 ^ 64) (d.take (r.length - off)) false false = .ok u →
    ∃ t r', exec (.decodeComplete rec stripe) s = .next t ∧ t = { u with net := { u.net with recs := u.net.recs.set rec r' }, hub := { u.hub with wrote := s.hub.wrote } } ∧
      (∀ j, j % 16 ≠ stripe % 16 → r'.slot j = r.slot j) ∧ r'.slot stripe = some { x with placed := x.placed ++ [j], st := .written } ∧ r'.got = r.got ++ [(off, d.take (r.length - off))]) ∧
  (∀ (s : State) (rec stripe : Nat) (r : NetRec) (x : NetSlot), s.net.recs[rec]? = some r → r.slot stripe = some x → x.st = .written → x.stripe = stripe → RecOk r → s.hub.wrote = [] →
    let total := stripesOf r.length (512 * 2 ^ r.fsize) (r.kfull.getD 1)
    (r.decoded.length + 1 < total → ∃ t r', exec (.stripeDecoded rec stripe) s = .next t ∧ t.net.recs = s.net.recs.set rec r' ∧ r'.slot stripe = some { x with st := .decoded } ∧
      r'.decoded = r.decoded ++ [stripe] ∧ t = { s with net := t.net } ∧
      (4 ≤ r.decoded.length + 1 - r.told → LastSent t 3 r.src r.tenant r.seq 0 r'.pending ∧ r'.told = r.decoded.length + 1 ∧ r'.unconf = none)) ∧
    (total ≤ r.decoded.length + 1 → (∀ a, s.narmOf r.handle = some a → a.launch = [] ∨ s.tableFull = false) → ∃ t, exec (.stripeDecoded rec stripe) s = .next t ∧ LastSent t 4 r.src r.tenant r.seq 0 0 ∧
      (∀ a, s.narmOf r.handle = some a → a.obj = 0 → a.launch = [] →
        t.net.filter.getLast? = some ⟨r.src, r.tenant, r.seq, true, s.clock⟩ ∧ (∀ n ∈ t.net.narms, n.handle ≠ r.handle) ∧
        t = { s with net := t.net, mem := t.mem, memOpen := t.memOpen, regs := t.regs, hub := { s.hub with hosts := t.hub.hosts } } ∧
        ∀ off d va n pa, memWf s.mem = true → r.got = [(off, d)] → pageCuts (a.buf + off) d.length = [(va, n)] → s.frameOf a.ctx va = some pa → t.rdMem pa n = leNat d))) ∧
  (∀ (s : State) (rec n : Nat) (r : NetRec), s.net.recs[rec]? = some r → RecOk r → r.unconf = some n →
    ∃ t, exec (.stripeConfirmTimer rec) s = .next t ∧ t.clock = max s.clock n ∧ LastSent t 3 r.src r.tenant r.seq 0 r.pending ∧
      t.net.recs = s.net.recs.set rec { r with told := r.decoded.length, unconf := none }) ∧
  (∀ (s : State) (rec stripe : Nat) (r : NetRec) (x : NetSlot), s.net.recs[rec]? = some r → r.slot stripe = some x → x.st = .filling → x.stripe = stripe →
    RecOk r → stripe < 2 ^ 20 → x.k + r.m ≤ 40 →
    (x.repairs < 2 → ∃ t, exec (.horizonTimerExpiry rec stripe) s = .next t ∧ t.clock = max s.clock x.due ∧
      LastSent t 2 r.src r.tenant r.seq stripe ((x.repairs + 1) * 2 ^ 40 + ((2 ^ (x.k + r.m) - 1) - x.heldBits)) ∧
      t.net.recs = s.net.recs.set rec { r with slots := r.slots.set (stripe % 16) { x with repairs := x.repairs + 1, due := t.clock + r.horizon * Config.cyclesPerUs } }) ∧
    (2 ≤ x.repairs → (∀ a, s.narmOf r.handle = some a → a.obj = 0) → ∃ t, exec (.horizonTimerExpiry rec stripe) s = .next t ∧ t.clock = max s.clock x.due ∧
      LastSent t 7 r.src r.tenant r.seq stripe 1 ∧ t.net.filter.getLast? = some ⟨r.src, r.tenant, r.seq, false, t.clock⟩ ∧ (∀ n ∈ t.net.narms, n.handle ≠ r.handle))) ∧
  (∀ (s : State) (p : Packet), Arrives s p 7 → p.body % 256 = 5 → s.recIdx p = none →
    (∀ x, s.lateFor p = some x → ∃ t, exec (.lossNoticeReceiveReceiver p) s = .next t ∧ LastSent t (if x.ok then 4 else 8) p.src p.tenant p.seq p.stripe 0 ∧ t = { s with net := { s.net with out := t.net.out } }) ∧
    (s.lateFor p = none → ∃ t, exec (.lossNoticeReceiveReceiver p) s = .next t ∧ LastSent t 8 p.src p.tenant p.seq p.stripe 0 ∧
      t.net.filter.getLast? = some ⟨p.src, p.tenant, p.seq, false, s.clock⟩)) ∧
  (∀ (s : State) (p : Packet) (i : Nat) (r : NetRec), Arrives s p 8 → s.recIdx p = some i → s.net.recs[i]? = some r → RecOk r → (∀ a, s.narmOf r.handle = some a → a.obj = 0) →
    ∃ t, exec (.closedReceiveReceiver p) s = .next t ∧ LastSent t 7 r.src r.tenant r.seq p.stripe 1 ∧ (∀ x ∈ t.net.recs, x ≠ r) ∧
      t.net.filter.getLast? = some ⟨r.src, r.tenant, r.seq, false, s.clock⟩) ∧
  ∀ (s : State) (i : Nat) (x : Late), s.net.filter[i]? = some x →
    exec (.filterEntryExpiry i) s = .next { s with clock := max s.clock (x.since + 1000 * Config.cyclesPerUs), net := { s.net with filter := s.net.filter.eraseIdx i } }

/-- The flash tier. An engine accepts its stack's oldest request: an open takes a free slot and gives the sealed end, a write takes the next bytes of the region, a request on a slot that is not its tenant's has status 5. A write's token comes when
its bytes are staged, and the last one that a seal covers completes the seal; a commit moves the region's committed end; staging drains; an error in staging stops the stream, and poisons what a closed one has left there; a failed block is counted, and a stack without spares is read-only.
A unit under relocation is marked in its leaf and held, and unmarked at the switch; an erased region is free (R92 to R113).
The model's choices it rests on: log 48, 51, 52, 73, 76 and 108. -/
def Obligations.StreamsReachFlash : Prop :=
  (∀ (s : State) (k : Fin 4) (q : SkReq) (r : List SkReq), mapGet s.flash.reqs k.val = some (q :: r) →
    (q.op = 0 → let n := q.handle.toNat
      let stack := fld (s.reg (offRegion n)) 49 24 / 16777216
      n < 16384 → s.openStatus q.tenant n = 0 →
      ∃ t h, exec (.skidderRequestAccept k) s = .next t ∧ 64 * stack ≤ h ∧ h < 64 * stack + 64 ∧ fld (s.reg (offStream h)) 63 62 = 0 ∧ t.reg (offStream h) = streamReg 1 q.tenant n (s.sealedEnd n) ∧
        (t.reg (offRegionEnd n)).getLsbD 63 = true ∧ TokenNow s t q.owner q.pid (streamToken (s.sealedEnd n) h 0)) ∧
    (q.op = 0 → s.openStatus q.tenant q.handle.toNat ≠ 0 → ∃ t, exec (.skidderRequestAccept k) s = .next t ∧ TokenNow s t q.owner q.pid (streamToken 0 0 (s.openStatus q.tenant q.handle.toNat))) ∧
    (q.op ≠ 0 → (256 ≤ q.handle.toNat ∨ s.streamState q.handle.toNat ≠ 1 ∨ s.streamTenant q.handle.toNat ≠ q.tenant) →
      ∃ t, exec (.skidderRequestAccept k) s = .next t ∧ TokenNow s t q.owner q.pid (streamToken 0 0 5)) ∧
    ∀ f, q.op = 1 → q.handle.toNat < 256 → s.streamState q.handle.toNat = 1 → s.streamTenant q.handle.toNat = q.tenant → s.fstream q.handle.toNat = some f → f.handle = q.handle.toNat →
      let n := s.streamRegion f.handle
      let p := s.appendPtr f.handle
      0 < q.len → q.len ≤ 4096 → fld (s.reg (offRegion n)) 63 62 ≠ 2 → s.readOnly (f.handle / 64) = false → p + q.len ≤ s.regionBytes n → p + q.len < 2 ^ 40 →
      ∃ t, exec (.skidderRequestAccept k) s = .next t ∧ t.appendPtr f.handle = p + q.len ∧
        t.fstream f.handle = some { f with count := f.count + 1, extents := f.extents ++ [(f.count, ⟨p, q.len, q.owner, q.pid, q.space, q.src, false, false, [], q.since⟩)] } ∧
        (∀ a, t.byte a = s.byte a) ∧ t.bundles = s.bundles) ∧
  (∀ (s u : State) (h i : Nat) (f : FStream) (x : Extent) (e : Eng) (data : List Byte), s.fstream h = some f → f.handle = h → mapGet f.extents i = some x → x.staged = false →
    natsGet s.flash.staging (h / 64) + x.len ≤ 67108864 → s.crewEng x.owner.ck = some e → s.engRead e x.space x.src x.len = .ok (u, data, false) → u.bundles = s.bundles → u.flash = s.flash → u.hub.wrote = [] → 0 < x.len →
    ((∀ y ∈ f.seals, y.done = true) → ∃ t, exec (.extentStaged h i) s = .next t ∧ TokenNow s t x.owner x.pid (streamToken x.off 0 0) ∧
      natsGet t.flash.staging (h / 64) = natsGet s.flash.staging (h / 64) + x.len ∧
      t.fstream h = some { f with extents := f.extents.map (fun e => if e.1 = i then (i, { x with staged := true, bad := false, data := data }) else e) }) ∧
    ∀ l y, f.seals = l ++ [y] → (∀ z ∈ l, z.done = true) → y.done = false → f.broken = false → y.endAt < 2 ^ 40 →
      (∀ e ∈ f.extents, f.sealed ≤ e.1 → e.1 < y.covers → e.1 = i ∨ e.2.staged = true) →
      ∃ t f', exec (.extentStaged h i) s = .next t ∧ t.sealedEnd (u.streamRegion h) = y.endAt ∧ t.fstream h = some f' ∧ f'.seals = l ++ [{ y with done := true }] ∧ f'.sealed = y.covers) ∧
  (∀ (s : State) (h i : Nat) (f : FStream) (x : Seal), s.fstream h = some f → f.handle = h → (f.seals.findIdx? fun x => x.done && !x.committed) = some i → f.seals[i]? = some x → f.broken = false →
    ∃ t, exec (.sealCommit h) s = .next t ∧ mapGet t.flash.committed (s.streamRegion h) = some x.endAt ∧ (∀ n, n ≠ s.streamRegion h → mapGet t.flash.committed n = mapGet s.flash.committed n) ∧
      ∀ a, t.byte a = s.byte a) ∧
  (∀ (s : State) (k : Fin 4) (n : Nat), keysFrom 0 s.flash.staging = true → ∃ t, exec (.stagingDrain k n) s = .next t ∧
    natsGet t.flash.staging k.val = natsGet s.flash.staging k.val - n ∧ (∀ x ∈ t.flash.left, x ∈ s.flash.left) ∧
    t = { s with flash := { s.flash with staging := t.flash.staging, left := t.flash.left } }) ∧
  (∀ (s : State) (h i : Nat) (f : FStream) (x : Extent), s.fstream h = some f → f.handle = h → mapGet f.extents i = some x → x.staged = true →
    ∃ t f', exec (.stagingError h i) s = .next t ∧ t.fstream h = some f' ∧ f'.broken = true ∧ (∀ y, (i, y) ∈ f'.extents → y.bad = true) ∧
      (i < f.sealed → ∀ l ∈ linesIn (s.regionBase (s.streamRegion h) + x.off) x.len, l ∈ t.poison)) ∧
  (∀ (s : State) (h i base : Nat) (x : Extent), s.fstream h = none → s.flash.left.find? (fun y => y.1 == h && y.2.1 == i) = some (h, i, base, x) →
    ∃ t, exec (.stagingError h i) s = .next t ∧ ∀ l ∈ linesIn (base + x.off) x.len, l ∈ t.poison) ∧
  (∀ (s : State) (k : Fin 4) (ex : Bool), let o := 0x30000000 + 8 * k.val
    ∃ t, exec (.flashBlockFail k ex) s = .next t ∧ t.reg 0x220 = satAdd (satAdd (s.reg 0x220) 39 16 (if ex then 0 else 1)) 15 8 (if ex then 1 else 0) ∧
      (ex = true → (t.reg o).getLsbD 0 = true ∧ fld (t.reg o) 55 48 = 100 ∧ fld (t.reg o) 63 56 = fld (s.reg o) 63 56 ∧ fld (t.reg o) 47 1 = fld (s.reg o) 47 1) ∧ (ex = false → fld (t.reg o) 63 56 = fld (s.reg o) 63 56 ∧ fld (t.reg o) 47 0 = fld (s.reg o) 47 0) ∧
      (∀ r, r ≠ o → r ≠ 0x220 → t.reg r = s.reg r) ∧ t = { s with regs := t.regs, free := s.free + 1 }) ∧
  (∀ (s : State) (u : Nat) (l : List Nat), memWf s.mem = true → s.unitSealed u = true → u ∉ s.flash.switching → s.anchorOf u = some l →
    ∃ t, exec (.relocationBegin u) s = .next t ∧ u ∈ t.flash.switching ∧ (∀ a ∈ l, (t.rd64 a).getLsbD 54 = true) ∧ ∀ a, (∀ p ∈ l, a < p ∨ p + 8 ≤ a) → t.byte a = s.byte a) ∧
  (∀ (s : State) (u : Nat) (l : List Nat), memWf s.mem = true → s.flash.switching.count u = 1 → s.anchorOf u = some l →
    (∀ d ∈ s.flash.deferred, d.cause.isNone = true → d.unit ≠ u ∧ (d.pa.isNone = true → s.sharesLeaf u d.unit = false)) →
    ∃ t, exec (.relocationSwitchEnd u) s = .next t ∧ u ∉ t.flash.switching ∧ (∀ a ∈ l, (t.rd64 a).getLsbD 54 = false) ∧ ∀ a, (∀ p ∈ l, a < p ∨ p + 8 ≤ a) → t.byte a = s.byte a) ∧
  (∀ (s : State) (u pa : Nat) (d : Deferral) (b : Bundle) (c : Crew) (g : Grid) (p : Pend), u ∈ s.flash.busy → s.flash.deferred = [d] → d.unit = u → d.cause = none → d.pa = some pa → unitOf pa = u → u ∉ s.flash.switching →
    s.bundle? d.owner = some b → s.crew? d.owner.ck = some c → s.grid? d.owner.grid = some g → c.st = .resident → b.pend.find? (fun p => p.id == d.pid) = some p →
    (∀ x ∈ s.bundles, ∀ q ∈ x.pend, ∀ a ∈ q.lanes, a.defer = true → x.key = d.owner ∧ q.id = d.pid ∧ a.lane = d.lane) →
    ∃ t, exec (.flashDieFree u) s = .next t ∧ u ∉ t.flash.busy ∧ t.flash.deferred = []) ∧
  ∀ (s : State) (n : Nat), let w := s.reg (offRegion n)
    let lo := 0x40000000000 + 65536 * fld w 49 24
    let hi := lo + 65536 * fld w 23 0
    n < 16384 → fld w 63 62 = 3 → ∃ t, exec (.regionEraseDone n) s = .next t ∧ fld (t.reg (offRegion n)) 63 62 = 0 ∧ fld (t.reg (offRegion n)) 61 0 = fld w 61 0 ∧ t.reg (offRegionEnd n) = 0 ∧
      (∀ l ∈ t.poison, l ∈ s.poison ∧ ¬(lo ≤ l ∧ l < hi)) ∧ (∀ a, ¬(lo ≤ a ∧ a < hi) → t.byte a = s.byte a)

/-- The host's commands and launches. A command that is answered has its reply at its address, and the ring's head past it; each command of R128 and R266 does what it says, answers 3 where its object is not the tenant's, and an unknown code has status 1.
64 bytes written to an enabled window page enter its queue; the record at a queue's head becomes a grid of the queue's tenant, or is rejected (R50, R70, R73, R75, R89, R97, R109, R121 to R124, R128 to R130, R266).
The model's choices it rests on: log 57, 60, 72, 92, 93, 95, 96 and 101. -/
def Obligations.CommandsAndLaunches : Prop :=
  (∀ (u : State) (r : List Word) (v st : Nat), memWf u.mem = true → u.net.narms = [] → v < 2 ^ 24 → st < 256 → u.windowOf (recW r 7).toNat = none →
    (∀ x ∈ u.armed, ∀ j < 8, x.pa ≠ ((recW r 7).toNat + j) / 8 * 8) →
    let t := u.reply r v st
    t.rd64 (recW r 7).toNat = wordOf [(32, fld (recW r 0) 31 0), (8, v), (0, st)] ∧ fld (t.reg 8) 47 32 = (fld (u.reg 8) 47 32 + 1) % 2 ^ fld (u.reg 0) 4 0 % 2 ^ 16 ∧
      (∀ o, o ≠ 8 → t.reg o = u.reg o) ∧ (∀ a, a < (recW r 7).toNat ∨ (recW r 7).toNat + 8 ≤ a → t.byte a = u.byte a)) ∧
  (∀ (s : State) (r : List Word), let ctx := fun (n : Nat) => (⟨n, cmdTenant r, opnum r 1, opnum r 2, opnum r 3 / 4096, s.clock⟩ : Ctx)
    Head s 1 r → rootOk (opnum r 3) = true →
    (∀ c, s.livePair r = some c → Answers .cmdBindContext s r c.num 0 fun u => u.ctx? c.num = some { c with root := opnum r 3 / 4096 } ∧ ∀ m, m ≠ c.num → u.ctx? m = s.ctx? m) ∧
    (s.livePair r = none →
      (∀ n < 1024, s.ctx? n = none → (∀ m < n, s.ctx? m ≠ none) →
        Answers .cmdBindContext s r n 0 fun u => u.ctx? n = some (ctx n) ∧ ∀ m, m ≠ n → u.ctx? m = s.ctx? m) ∧
      ∀ c, (∀ m < 1024, s.ctx? m ≠ none) → oldestCtx s.xl.ctxs = some c → (s.sdWaits c.shoot = true → exec .cmdBindContext s = .next s) ∧
        (s.sdWaits c.shoot = false → Answers .cmdBindContext s r c.num 0 fun u => u.ctx? c.num = some (ctx c.num)))) ∧
  (∀ (s : State) (r : List Word), Head s 2 r → opnum r 1 < 1024 →
    (∀ c, s.ctx? (opnum r 1) = some c → c.tenant = cmdTenant r → (s.sdWaits c.shoot = true → exec .cmdUnbindContext s = .next s) ∧
      (s.sdWaits c.shoot = false → Answers .cmdUnbindContext s r 0 0 fun u => u.ctx? (opnum r 1) = none)) ∧
    ((∀ c, s.ctx? (opnum r 1) = some c → c.tenant ≠ cmdTenant r) → Answers .cmdUnbindContext s r 0 3 fun u => u = s)) ∧
  (∀ (s : State) (r : List Word), Head s 3 r → opnum r 1 < 91552 → opnum r 2 < 8 →
    (s.frameReserved (opnum r 1) = true ∨ 2 ≤ (s.frameTenants (opnum r 1)).length → Answers .cmdSetFrameScheme s r 0 3 fun u => u = s) ∧
    (s.frameReserved (opnum r 1) = false → (s.frameTenants (opnum r 1)).length < 2 → s.scheme (opnum r 1 * 0x600000) ≠ some (opnum r 2) →
      Answers .cmdSetFrameScheme s r 0 0 fun u => u.scheme (opnum r 1 * 0x600000) = some (opnum r 2) ∧
        (∀ a, a < opnum r 1 * 0x600000 ∨ opnum r 1 * 0x600000 + 0x600000 ≤ a → u.byte a = s.byte a))) ∧
  (∀ (s : State) (r : List Word) (i : Nat), Head s 4 r → opnum r 1 < 4 → opnum r 2 / 16777216 = opnum r 1 → 0 < opnum r 3 → (opnum r 2 + opnum r 3 - 1) / 16777216 = opnum r 1 → opnum r 3 < 16777216 →
    s.unitsTaken (opnum r 2) (opnum r 3) = false → i < 16384 → s.regionState i = 0 → (∀ j < i, s.regionState j ≠ 0) →
    Answers .cmdGrantRegion s r i 0 fun u => u.regionState i = 1 ∧ u.regionTenant i = cmdTenant r ∧ fld (u.reg (offRegion i)) 49 24 = opnum r 2 ∧ fld (u.reg (offRegion i)) 23 0 = opnum r 3 ∧ u.sealedEnd i = 0) ∧
  (∀ (s : State) (r : List Word) (n : Nat), n = opnum r 1 → n < 16384 → s.regionHeld r n = true →
    fld (s.reg (offRegion n)) 23 0 ≠ 0 → (fld (s.reg (offRegion n)) 49 24 + fld (s.reg (offRegion n)) 23 0 - 1) / 16777216 = fld (s.reg (offRegion n)) 49 24 / 16777216 →
    (Head s 5 r → s.regionAnchored n = false → (s.reg (offRegionEnd n)).getLsbD 63 = false → Answers .cmdFreeRegion s r 0 0 fun u => u.regionState n = 3 ∧ ∀ o, o ≠ offRegion n → u.reg o = s.reg o) ∧
    (Head s 5 r → s.regionAnchored n = true → Answers .cmdFreeRegion s r 0 3 fun u => u = s) ∧
    (Head s 6 r → Answers .cmdSetRegionReadOnly s r 0 0 fun u => u.regionState n = 2 ∧ u.regionTenant n = s.regionTenant n ∧ ∀ o, o ≠ offRegion n → u.reg o = s.reg o)) ∧
  (∀ (s : State) (r : List Word) (size : Nat), Head s 7 r → opnum r 2 = size → 1 ≤ size → size ≤ 3 → opnum r 1 % 8 = 0 → (inHbm (opnum r 1) || inLp (opnum r 1)) = true → s.anchorOk size (s.rd64 (opnum r 1)) = true →
    let u0 := unitOf (leafBase (size - 1) (s.rd64 (opnum r 1)) * 4096)
    let n := leafPages (size - 1) (s.rd64 (opnum r 1)) / 16
    (∀ i < n, ∃ k ∈ s.regionNums, s.regionHeld r k = true ∧ fld (s.reg (offRegion k)) 49 24 ≤ u0 + i ∧ u0 + i < fld (s.reg (offRegion k)) 49 24 + fld (s.reg (offRegion k)) 23 0) →
    (∀ a ∈ s.flash.anchors, u0 + n ≤ a.1 ∨ a.1 + a.2.1 ≤ u0) →
    Answers .cmdAnchorFlashLeaf s r 0 0 fun u => u.flash.anchors = s.flash.anchors ++ [(u0, n, if size = 1 then opnum r 1 / 128 * 128 else opnum r 1, size)]) ∧
  (∀ (s : State) (r : List Word), Head s 8 r → opnum r 1 < 16 → let o := 0x4000 + 8 * (16 * cmdTenant r + opnum r 1)
    Answers .cmdWriteCodeProfile s r 0 0 fun u => fld (u.reg o) 57 11 = fld (recW r 2) 57 11 ∧ ∀ q, q ≠ o → u.reg q = s.reg q) ∧
  (∀ (s : State) (r : List Word), Head s 9 r → opnum r 1 ≤ 512 → 0 < opnum r 2 → opnum r 2 ≤ 128 →
    Answers .cmdSetQuotas s r 0 0 fun u => fld (u.reg (0x6000 + 8 * cmdTenant r)) 63 54 = opnum r 1 ∧ ∀ g < 12, fld (u.reg (0x10000400 + 0x100000 * g + 8 * cmdTenant r)) 7 0 = opnum r 2) ∧
  (∀ (s : State) (r : List Word), let im := s.header (opnum r 1) (some (opnum r 2))
    let ctl := 8 + 8 * im.target
    Head s 10 r → 1 ≤ im.target → im.target ≤ 3 →
    (fld (s.reg ctl) 7 5 ∈ [1, 2, 4] ∨ (mapGet s.cp.swaps im.target).isSome = true → Answers .cmdLoadFirmwareImage s r 0 4 fun u => u = s) ∧
    (fld (s.reg ctl) 7 5 ∉ [1, 2, 4] → mapGet s.cp.swaps im.target = none → memWf s.mem = true →
      Answers .cmdLoadFirmwareImage s r 0 0 fun u => fld (u.reg ctl) 7 5 = 2 ∧ u.active im.target = s.active im.target ∧ u.image im.target (1 - s.active im.target) = im ∧
        ∀ j < opnum r 2, j < slotBytes → u.byte (slotAt im.target (1 - s.active im.target) + j) = s.byte (opnum r 1 + j))) ∧
  (∀ (s : State) (r : List Word), Head s 11 r → 1 ≤ opnum r 1 → opnum r 1 ≤ 3 → let v := (s.image (opnum r 1) (s.active (opnum r 1))).minVer
    v < 2 ^ 64 → Answers .cmdCommitFirmware s r 0 0 fun u => (u.reg (0x28 + 8 * opnum r 1)).toNat = max (s.reg (0x28 + 8 * opnum r 1)).toNat v) ∧
  (∀ (s : State) (r : List Word) (f : FStream), Head s 12 r → opnum r 1 < 256 → s.fstream (opnum r 1) = some f → f.handle = opnum r 1 → s.streamTenant (opnum r 1) = cmdTenant r →
    keysFrom 0 s.flash.streams = true → Answers .cmdAbortStream s r 0 0 fun u => u.fstream (opnum r 1) = none ∧ u.streamState (opnum r 1) = 0) ∧
  (∀ (s : State) (r : List Word) (e : Engine), Head s 13 r → opnum r 1 ≠ 0xFFFF → (engines.find? fun e => engineNo e == opnum r 1) = some e →
    Answers .cmdResetEngine s r 0 0 fun u =>
      (∀ g, e = .copy g → ∀ c ∈ u.crews, groveOf c.core = g → ∀ q ∈ c.copies, q = []) ∧ (∀ g, e = .walker g → ∀ m ∈ u.xl.misses, m.grove = g → m.walking = false)) ∧
  (∀ (s : State) (r : List Word), Head s 13 r → opnum r 1 = 0xFFFF → ∃ t, exec .cmdResetDevice s = .next t ∧ t.reg 0x50 = wordOf [(8, 4)] ∧ t.grids = [] ∧ t.crews = [] ∧ t.bundles = [] ∧ t.xl = State.reset.xl ∧ t.clock = 0) ∧
  (∀ (s : State) (r : List Word) (n : Nat) (me : Word), let w := recW r 1
    let l := (List.range (opnum r 4)).map fun i => s.rd64 (opnum r 3 + 8 * i)
    Head s 16 r → 2 ≤ fld w 61 58 → fld w 53 42 ≠ 0 → 0 < opnum r 2 → opnum r 2 ≤ 1048575 → opnum r 4 ≤ 524288 → memWf s.mem = true → n < 256 → s.commState n = 0 → (∀ m < n, s.commState m ≠ 0) →
    (∀ k < 12, (fld w 53 42).testBit k = true → fld w 61 58 ≤ s.bufsFree k) → (s.profile (cmdTenant r) (fld w 57 54)).getLsbD 0 = true → memberOk (opnum r 2) l = true →
    l.filter (fun x => memModule x == s.net.self) = [me] → memRanks me ≤ 65535 →
    Answers .cmdCreateCommunicator s r n 0 fun u => u.commState n = 1 ∧ u.commTenant n = cmdTenant r ∧ u.commBufs n = fld w 61 58 ∧ u.commStacks n = fld w 53 42 ∧ u.nranks n = opnum r 2 ∧ u.rankBase n = memBase me ∧
      u.localRanks n = memRanks me ∧ natsGet u.coll.members n = opnum r 4 ∧ ∀ i < opnum r 4, u.rd64 (memberAt n + 8 * i) = (l[i]?).getD 0) ∧
  (∀ (s : State) (r : List Word), Head s 17 r → opnum r 1 < 256 → s.commState (opnum r 1) ≠ 0 → s.commTenant (opnum r 1) = cmdTenant r →
    ((∀ x ∈ s.coll.recs, x.comm ≠ opnum r 1) → Answers .cmdDestroyCommunicator s r 0 0 fun u => u.commState (opnum r 1) = 0) ∧
    ((∃ x ∈ s.coll.recs, x.comm = opnum r 1) → Answers .cmdDestroyCommunicator s r 0 4 fun u => u = s)) ∧
  (∀ (s : State) (r : List Word), s.cmdHead = some r → cmdCode r ∉ cmdCodes → Answers .cmdUnknownCode s r 0 1 fun u => u = s) ∧
  (∀ (s : State) (i n pa : Nat) (f : Flight) (d : List Byte), memWf s.mem = true → s.net.narms = [] → s.inflight[i]? = some f → heldBack (s.inflight.take i) f = false → s.rowBusy f.line = false → f.op = .bytes true (partsFrom pa d) → d.length = 64 → pa % 64 = 0 → f.line = lineOf pa →
    s.windowOf pa = some n → s.resetting (n / 4) = false → (s.queue n).length < 64 → (∀ x ∈ s.armed, x.pa < pa ∨ pa + 64 ≤ x.pa) →
    ∃ t, exec (.launchWindowWrite i) s = .next t ∧ t.queue n = s.queue n ++ [(List.range 8).map fun j => BitVec.ofNat 64 (leNat ((d.drop (8 * j)).take 8))] ∧ ∀ m, m ≠ n → t.queue m = s.queue m) ∧
  ∀ (s : State) (q : Nat) (r : List Word) (l : List (List Word)), s.queue q = r :: l → q < 256 → 5 ≤ fld (s.reg 0x50) 7 4 → q ∉ s.cp.served →
    let g := { gridOf r with tenant := q / 4 }
    (s.launchReason r g true = none → s.tableFull = false → ∃ t g', exec (.launchRecord q) s = .next t ∧ t.grids = s.grids ++ [g'] ∧ g' = { g with id := s.hub.nextGrid, limiting := g.limit.2, order := s.hub.nextOrder }) ∧
    ∀ k, s.launchReason r g true = some k → ∃ t, exec (.launchRecord q) s = .next t ∧ t.grids = s.grids ∧ q ∈ t.cp.served

/-- Power, boot, firmware and the watchdog. Power good starts boot, which goes through its stages at their times and stops at a verification that both slots fail; loss of power, undervoltage, over-temperature and the hub's timer reset the device;
a verified image is handed over hart by hart at quiescent points, which also advance queue heads; a hand-over that times out is given up; a kick restarts its intervals; a stalled queue is level 0, a missed kick level 1, an engine without progress
level 4 and then level 5 (R25, R26, R108, R118, R119, R130 to R135).
The model's choices it rests on: log 5, 65, 66, 92, 101, 103, 104 and 123. -/
def Obligations.BootFirmwareWatchdog : Prop :=
  (∀ s : State, s.parts.powered = false ∨ fld (s.reg 0x50) 7 4 = 0 → ∃ t, exec .powerGood s = .next t ∧ t.parts.powered = true ∧ fld (t.reg 0x50) 7 4 = 1) ∧
  (∀ (s : State) (a o : SlotCheck), let n := fld (s.reg 0x50) 7 4
    let passes := (n = 2 → (a.own = true ∨ o.own = true) ∧ (a.sawyer = true ∨ o.sawyer = true)) ∧ (n = 5 → a.own = true ∨ o.own = true)
    1 ≤ n → n < 6 → (s.reg 0x50).getLsbD 1 = false → s.parts.powered = true →
    ∃ t, exec (.bootStep a o) s = .next t ∧ t.clock = max s.clock (([0, 150, 250, 250, 260, 300][n]?).getD 0 * 1000 * Config.cyclesPerUs) ∧
      (¬ passes → (t.reg 0x50).getLsbD 1 = true ∧ fld (t.reg 0x50) 7 4 = n) ∧
      (passes → (t.reg 0x50).getLsbD 1 = false ∧ fld (t.reg 0x50) 7 4 = n + 1 ∧ (n = 5 → (t.reg 0x50).getLsbD 0 = true)) ∧
      (n = 2 → t.active 1 = (if a.own = false ∧ o.own = true then 1 - s.active 1 else s.active 1) ∧ t.active 2 = (if a.sawyer = false ∧ o.sawyer = true then 1 - s.active 2 else s.active 2)) ∧
      (n = 3 → ∀ h < 16, (t.fwHart (16 + h)).pc = s.fwEntry 2 (s.active 2) ∧ (t.fwHart (16 + h)).x11 = 2) ∧
      (n = 4 → (∀ h < 16, (t.fwHart h).pc = s.fwEntry 1 (s.active 1) ∧ (t.fwHart h).x11 = 2) ∧ t.xl.reserved = Config.reserved ∧
        t.net.landing = some (Config.landingFrame * Config.frameBytes))) ∧
  (∀ s : State, s.parts.powered = true →
    (∃ t, exec .inputPowerLoss s = .next t ∧ Reborn s t 0 false) ∧ (∃ t, exec .undervoltage s = .next t ∧ Reborn s t 3 true) ∧
    (∀ d, ∃ t, exec (.overTemperature d) s = .next t ∧ Reborn s t 2 true)) ∧
  (∀ s : State, 5 ≤ fld (s.reg 0x50) 7 4 → ∃ t, exec .hubTimerExpiry s = .next t ∧ Reborn s t 1 true) ∧
  (∀ (s : State) (x took : Nat), 1 ≤ x → x ≤ 3 → fld (s.reg (8 + 8 * x)) 7 5 = 2 →
    let im := s.image x (1 - s.active x)
    let ok := s.signed x (1 - s.active x) = true ∧ im.formed = true ∧ (s.reg (0x28 + 8 * x)).toNat ≤ im.version ∧
      (im.ckfmt = (s.image x (s.active x)).ckfmt ∨ im.ckfmt = (s.image x (s.active x)).ckfmt + 1)
    ∃ t, exec (.fwVerifyDone x took) s = .next t ∧ t.clock = s.clock + took ∧ (¬ ok → fld (t.reg (8 + 8 * x)) 7 5 = 5 ∧ t.active x = s.active x ∧ t.cp = s.cp) ∧
      (ok → fld (t.reg (8 + 8 * x)) 7 5 = 3 ∧ (x ≠ 3 → t.active x = s.active x ∧ mapGet t.cp.swaps x = some ⟨0, [], t.clock⟩) ∧
        (x = 3 → t.active 3 = 1 - s.active 3 ∧ (t.reg 0x20).getLsbD 4 = true))) ∧
  (∀ (s : State) (h : Fin 16), 5 ≤ fld (s.reg 0x50) 7 4 → s.cp.served.Nodup → keysFrom 0 s.hub.queues = true →
    ∃ t, exec (.cpQuiesceWrite ⟨false, h⟩) s = .next t ∧ (∀ q ∈ s.cp.served, q % 16 = h.val → t.queue q = (s.queue q).tail ∧ q ∉ t.cp.served) ∧
      ∀ q, q ∉ s.cp.served ∨ q % 16 ≠ h.val → t.queue q = s.queue q) ∧
  (∀ (s : State) (saw : Bool) (h : Fin 16) (w : Swap) (im : FwImage), let x := if saw then 2 else 1
    let k := 16 * (x - 1) + h.val
    (if saw then 4 else 5) ≤ fld (s.reg 0x50) 7 4 → mapGet s.cp.swaps x = some w → w.waiting = h.val → mapGet s.cp.images (2 * x + (1 - s.active x)) = some im → keysFrom 0 s.cp.swaps = true → keysFrom 0 (s.fwHart k).x = true →
    ∃ t, exec (.cpQuiesceWrite ⟨saw, h⟩) s = .next t ∧ (t.fwHart k).pc = slotAt x (1 - s.active x) + 64 + im.entry ∧ (t.fwHart k).x11 = 1 ∧ (t.fwHart k).x10 = (s.fwHart k).chkpt ∧
      (h.val < 15 → fld (t.reg (8 + 8 * x)) 7 5 = 4 ∧ t.active x = s.active x ∧ mapGet t.cp.swaps x = some ⟨h.val + 1, w.handed ++ [h.val], s.clock⟩) ∧
      (h.val = 15 → fld (t.reg (8 + 8 * x)) 7 5 = 0 ∧ t.active x = 1 - s.active x ∧ (t.reg (8 + 8 * x)).getLsbD 4 = true ∧ mapGet t.cp.swaps x = none)) ∧
  (∀ (s : State) (saw : Bool) (h : Fin 16) (im : FwImage), let x := if saw then 2 else 1
    let k := 16 * (x - 1) + h.val
    (if saw then 4 else 5) ≤ fld (s.reg 0x50) 7 4 → mapGet s.cp.swaps x = none → mapGet s.cp.images (2 * x + s.active x) = some im → k ∈ s.cp.back →
    ∃ t, exec (.cpQuiesceWrite ⟨saw, h⟩) s = .next t ∧ (t.fwHart k).pc = slotAt x (s.active x) + 64 + im.entry ∧ (t.fwHart k).x11 = 1 ∧ k ∉ t.cp.back) ∧
  (∀ (s : State) (saw : Bool) (h : Fin 16) (w : Swap), let x := if saw then 2 else 1
    mapGet s.cp.swaps x = some w → w.waiting = h.val → keysFrom 0 s.cp.swaps = true →
    ∃ t, exec (.handoverTimeout ⟨saw, h⟩) s = .next t ∧ t.clock = max s.clock (w.since + 50000 * Config.cyclesPerUs) ∧ fld (t.reg (8 + 8 * x)) 7 5 = 5 ∧ t.active x = s.active x ∧
      mapGet t.cp.swaps x = none ∧ t.cp.back = s.cp.back ++ w.handed.map (fun j => 16 * (x - 1) + j)) ∧
  (∀ (s : State) (h : Fin 16) (v : Word), keysFrom 0 s.cp.kicked = true → ∃ t w, exec (.cpWdogKick h v) s = .next t ∧ mapGet t.cp.wdog h.val = some w ∧
    (v.getLsbD 0 = true → natsGet t.cp.kicked h.val = s.clock ∧ t.cp.hubKick = s.clock) ∧ (1 ≤ fld v 15 8 → fld v 15 8 ≤ 100 → fld w 15 8 = fld v 15 8) ∧ t = { s with cp := t.cp }) ∧
  (∀ (s : State) (q : Nat), let now := max s.clock (natsGet s.cp.headAt q + 2000 * Config.cyclesPerUs)
    s.queue q ≠ [] → 5 ≤ fld (s.reg 0x50) 7 4 → since s.cp.level2 q (now - 1000000 * Config.cyclesPerUs) = 0 → since s.cp.level0 q (now - 20000 * Config.cyclesPerUs) < 2 →
    ∃ t, exec (.watchdogQueueStall q) s = .next t ∧ t.clock = now ∧ t.reg 0x48 = setFld (satAdd (s.reg 0x48) 63 48 1) 2 0 0 ∧ (q, now) ∈ t.cp.level0 ∧ (t.fwHart (q % 16)).irq = true ∧ t.queue q = s.queue q) ∧
  (∀ (s : State) (h : Fin 16), let now := max s.clock (s.kickDue h.val)
    5 ≤ fld (s.reg 0x50) 7 4 → since s.cp.level1 h.val (now - 100000 * Config.cyclesPerUs) = 0 → keysFrom 0 s.cp.swaps = true → keysFrom 0 (s.fwHart h.val).x = true →
    ∃ t, exec (.watchdogKickMissed h) s = .next t ∧ t.clock = now ∧ t.reg 0x48 = setFld (satAdd (s.reg 0x48) 47 32 1) 2 0 1 ∧
      (t.fwHart h.val).pc = s.fwEntry 1 (s.hartSlot h.val) ∧ (t.fwHart h.val).x11 = 0 ∧ (h.val, now) ∈ t.cp.level1 ∧
      ∀ x ∈ [1, 2], mapGet t.cp.swaps x = none ∧ ((mapGet s.cp.swaps x).isSome = true → fld (t.reg (8 + 8 * x)) 7 5 = 5)) ∧
  ∀ (s : State) (e : EngineStall), let now := s.clock + 20000 * Config.cyclesPerUs
    let last := s.cp.level4.find? fun x => x.1 == e.engine
    s.engineWork e.engine ≠ [] →
    (e.restored = false ∧ last.isSome = true → ∃ t, exec (.engineNoProgress e) s = .next t ∧ Reborn s t 1 true) ∧
    (e.restored = true ∨ last = none → ∀ g, e.engine = .walker g →
      ∃ t, exec (.engineNoProgress e) s = .next t ∧ t.clock = now ∧ t.reg 0x48 = setFld (satAdd (s.reg 0x48) 15 8 1) 2 0 4 ∧ (e.engine, now) ∈ t.cp.level4 ∧
        ∀ m ∈ t.xl.misses, m.grove = g → m.walking = false)

/-- Tenants, grids and crews. A tenant reset stops everything of the tenant and its completion is counted; a grid takes its die set; the first waiting crew that fits is placed with its bundles at their start; crews and grids retire when nothing of
theirs is left; a die-set change is announced and made at a step; a crew with a cause is saved at its pre-emption point and restored on a core that takes it, and a restore that finds none is recorded (R126, R127, R138, R140, R146 to R152, R154, R161 to R165).
The model's choices it rests on: log 37, 47, 61, 62, 63, 64, 105, 106 and 107. -/
def Obligations.CrewsComeAndGo : Prop :=
  (∀ (s : State) (t : Fin 64) (v : Word), s.resetting t.val = false → v.getLsbD 0 = true → (∀ r ∈ s.net.recs, r.tenant ≠ t.val) → (∀ r ∈ s.coll.recs, s.commTenant r.comm ≠ t.val) →
    (∀ d ∈ s.flash.deferred, ∀ g ∈ s.grids, g.id = d.owner.grid → g.tenant ≠ t.val) →
    ∃ u, exec (.tenantReset t v) s = .next u ∧ u.resetting t.val = true ∧ u.grids = s.grids.filter (fun g => g.tenant != t.val) ∧
      (∀ b ∈ u.bundles, b ∈ s.bundles ∧ ∀ g ∈ s.grids, g.id = b.key.grid → g.tenant ≠ t.val) ∧ (∀ c ∈ u.crews, c ∈ s.crews ∧ ∀ g ∈ s.grids, g.id = c.key.grid → g.tenant ≠ t.val) ∧
      (∀ q ∈ u.hub.queues, q.1 / 4 ≠ t.val) ∧ (∀ a ∈ u.armed, a.tenant ≠ t.val) ∧ (∀ n < 256, s.commState n = 1 → s.commTenant n = t.val → u.commState n = 2)) ∧
  (∀ (s : State) (t : Fin 64), s.resetting t.val = true → s.sdWaits ⟨t.val, 2, 0, 0⟩ = false → s.orphans = false → s.flash.deferred = [] → s.hubFx = [] → (∀ a ∈ s.armed, a.waits = false) →
    ∃ u, exec (.tenantResetComplete t) s = .next u ∧ u.resetting t.val = false ∧ fld (u.reg (0x1000070 + 0x10000 * t.val)) 15 8 = min (fld (s.reg (0x1000070 + 0x10000 * t.val)) 15 8 + 1) 255 ∧
      ∀ x ∈ u.xl.tlb, ∀ c, s.ctx? x.2.ctx = some c → c.tenant ≠ t.val) ∧
  (∀ (s : State) (x : Grid) (ds : List Nat), s.grid? x.id = some x → x.st = .waiting → s.findDies x = some ds →
    let y := { x with st := .running, dies := ds }
    (x.coop = true → exec (.gridDieSet x.id) s = .next ((State.placeAll y (fun i k => !s.taken x i k) (List.range y.ncrews) (s.putGrid y)).getD s)) ∧
    (x.coop = false → ∃ t, exec (.gridDieSet x.id) s = .next t ∧ t.grid? x.id = some { x with st := .running, dies := ds } ∧ (∀ g, g ≠ x.id → t.grid? g = s.grid? g) ∧ t = { s with grids := t.grids })) ∧
  (∀ (s : State) (die i k : Nat) (x : Grid) (l r : List Cand), s.cands die = l ++ ⟨x, i, false⟩ :: r → 
    (∀ y ∈ l, y.saved = true ∨ s.bestCore y.g y.crew true ((dieCores die).filter fun k => !s.taken y.g y.crew k) = none) → s.bestCore x i true ((dieCores die).filter fun k => !s.taken x i k) = some k →
    ∃ t c bs, exec (.crewPlace die) s = .next t ∧ t.crews = s.crews ++ [c] ∧ c.key = ⟨x.id, i⟩ ∧ c.core = k ∧ c.st = .resident ∧ t.bundles = s.bundles ++ bs ∧ bs.length = x.bundles ∧
      (∀ (j : Nat) (b : Bundle), bs[j]? = some b → b.key = ⟨x.id, i, j⟩ ∧ b.live = true ∧ b.s 0 = x.args ∧ b.s 1 = BitVec.ofNat 64 x.ncrews ∧
        b.arch.slot0 = some (startPath x) ∧ b.arch.slot1 = none ∧ b.sq = [] ∧ b.pend = [] ∧ b.ackcnt = 0) ∧ c.grans = s.freeGrans k x.scratchNeed ∧ (∀ y ∈ t.l1, y.core ≠ k) ∧ (∀ a, t.byte a = s.byte a)) ∧
  (∀ (s : State) (k : CKey) (c : Crew), s.crew? k = some c → c.st = .resident → (∀ b ∈ s.crewBundles k, b.live = false ∧ b.sq = [] ∧ b.drains = 0) → (∀ q ∈ c.copies, q = []) → (∀ t ∈ c.tiles, t.busy = none ∧ t.queue = []) →
    s.crewChildren k = [] → c.save = none →
    ∃ t, exec (.crewRetire k) s = .next t ∧ t.crew? k = some { c with st := .retired, record := false, backing := [], places := [], grove := none, save := none, area := 0 } ∧
      (∀ j, j ≠ k → t.crew? j = s.crew? j) ∧ t = { s with crews := t.crews }) ∧
  (∀ (s : State) (x : Grid), s.grid? x.id = some x → x.ncrews ≤ (s.crews.filter fun c => c.key.grid == x.id).length → (∀ c ∈ s.crews, c.key.grid = x.id → c.st = .retired) →
    (∀ y ∈ s.grids, ∀ b, y.parent = some b → b.grid ≠ x.id) → s.gridFlies x.id = false → x.done = 0 → (∀ a ∈ s.armed, a.waits = false) →
    ∃ t, exec (.gridRetire x.id) s = .next t ∧ t.grids = s.grids.filter (fun y => y.id != x.id) ∧ (∀ c ∈ t.crews, c.key.grid ≠ x.id) ∧ (∀ b ∈ t.bundles, b.key.grid ≠ x.id) ∧
      (∀ e ∈ t.xl.tlb, e.2.ctx = x.ctx → e.2.a = false ∧ e.2.d = false)) ∧
  (∀ (s : State) (x : Grid) (add : Bool), s.grid? x.id = some x → x.st = .running →
    (x.announce = none → x.minDies < x.maxDies → s.newDies x add ≠ x.dies → ∃ t, exec (.stepAnnounce x.id add) s = .next t ∧ t.grid? x.id = some { x with announce := some add } ∧ t = { s with grids := t.grids }) ∧
    (x.announce = some add → (∀ c ∈ s.crews, c.key.grid = x.id → c.save ≠ some .dieLeft ∧ (c.st = .resident → ∀ b ∈ s.crewBundles c.key, b.atStep = true)) →
      ∃ t y, exec (.stepChange x.id) s = .next t ∧ t.grid? x.id = some y ∧ y.dies = (if s.steps x.id = true then s.newDies x add else x.dies) ∧
        ((∀ c ∈ t.crews, c.key.grid = x.id → c.save ≠ some .dieLeft) → y.announce = none ∧ y.oldDies = none) ∧ ((∃ c ∈ t.crews, c.key.grid = x.id ∧ c.save = some .dieLeft) → y.announce = some add ∧ y.oldDies = some x.dies) ∧
        (∀ c ∈ t.crews, c.key.grid = x.id → c.st = .resident → y.dies ≠ x.dies → dieOf c.core ≠ dieOfCrew y c.key.crew → c.save = some .dieLeft))) ∧
  (∀ (s : State) (k : CKey) (why : PreemptWhy) (c : Crew) (g : Grid), let now := if why = .ranked ∧ s.outranked g c = true then max s.clock (c.since + 100 * Config.cyclesPerUs) else s.clock
    s.crew? k = some c → s.grid? k.grid = some g → g.coop = false → c.st = .resident → c.save = none → { s with clock := now }.causeHolds g c why = true →
    ∃ t, exec (.preemptRequest k why) s = .next t ∧ t.crew? k = some { c with save := some why, copyHold := why == .hotColumn } ∧ (∀ j, j ≠ k → t.crew? j = s.crew? j) ∧
      t = { s with clock := now, crews := t.crews }) ∧
  (∀ (s : State) (k : CKey) (c : Crew) (g : Grid), s.crew? k = some c → s.grid? k.grid = some g → g.coop = false → c.st = .resident → c.save ≠ none → (c.save = some .hotColumn → (s.restoreCore g c fun _ => true).isSome = true) →
    saveGranules g (s.crewBundles k) + s.areaUsed (fun j => j == k) ≤ 262144 → s.atPoint c = true → s.flash.deferred = [] →
    ∃ t c', exec (.crewSave k) s = .next t ∧ t.crew? k = some c' ∧ c'.st = .saved ∧ c'.area = saveGranules g (s.crewBundles k) ∧ c'.win = c.win ∧ c'.bars = c.bars ∧
      t.clock = max s.clock (s.lastIssue k + 40) ∧ (∀ j, j ≠ k → t.crew? j = s.crew? j) ∧ (∀ a, t.byte a = s.byte a) ∧
      ∀ b, s.bundle? b.key = some b → b.key.ck = k → t.bundle? b.key = some { b with window := [], results := [], grans := [], hold := [], ready := none }) ∧
  (∀ (s : State) (k : CKey) (c : Crew) (g : Grid), s.crew? k = some c → s.grid? k.grid = some g → g.coop = false → c.st = .saved → c.areaBad = false →
    (∀ core, s.restoreCore g c (fun j => !s.taken g k.crew j) = some core → g.vault = 0 → s.flash.deferred = [] →
      ∃ t c', exec (.crewRestore k) s = .next t ∧ t.crew? k = some c' ∧ c'.st = .resident ∧ c'.core = core ∧ c'.die = dieOf core ∧ c'.save = none ∧ c'.area = 0 ∧ c'.win = c.win ∧
        c'.grans = s.freeGrans core g.scratchNeed ∧ c'.tileAt = s.freeTiles core g.acc ∧ (∀ y ∈ t.l1, y.core ≠ core) ∧ c'.plgen = (if core = c.core then c.plgen else (c.plgen + 1) % 2 ^ 32)) ∧
    ((s.restoreCore g c fun _ => true) = none → ∃ t, exec (.crewRestore k) s = .next t ∧ t.crew? k = some { c with restFault := true })) ∧
  ∀ s : State, ∃ t, exec .shareDecay s = .next t ∧ t = { s with regs := t.regs } ∧
    ∀ n < 64, fld (t.reg (0x400 + 8 * n)) 55 0 = fld (s.reg (0x400 + 8 * n)) 55 0 / 2 ∧ fld (t.reg (0x400 + 8 * n)) 63 56 = fld (s.reg (0x400 + 8 * n)) 63 56

/-- The engines. A copy at the head of its queue moves its bytes and writes its token, or stalls at the byte that faults; the tile unit takes the oldest head, accumulates a product of operands that no one wrote since their fence block by block, and completes it past the strike horizon; a zeroed tile holds zeros;
a block's integer products add exactly, modulo 2^64. A module's ranks agree before data moves, and their regions are read then; a chunk takes a free slot with its credits, and where its data stand; its end frees the slot, sends what goes to other modules and gives back the credits of the buffers it consumed; the loss of a message, or a failure notice, fails the communicator (R85, R212, R213, R235, R236, R255, R269, R273, R394, R399, R400, R403).
The model's choices it rests on: log 31, 32, 33, 53, 54, 92, 113 and 114. -/
def Obligations.EnginesRunTheirQueues : Prop :=
  (∀ (s : State) (k : CKey) (q : Fin 4) (m : CopyCmd) (l : List CopyCmd) (c : Crew) (g : Grid) (dst src : Nat), s.crew? k = some c → s.grid? k.grid = some g → c.copies[q.val]? = some (m :: l) →
    m.kind = .bytes .ls .ls dst src → m.done = 0 → m.bad = false → m.hurt = [] → m.stall = none → c.bad = [] → (∀ w ∈ s.hub.wrote, w.writer = none ∨ w.time < m.time) → 0 < m.len → (dst + m.len ≤ src ∨ src + m.len ≤ dst) →
    ∃ t c', exec (.copyComplete k q) s = .next t ∧ t.crew? k = some c' ∧ c'.copies = c.copies.set q.val l ∧ (∀ j < m.len, c'.winByte (dst + j) = c.winByte (src + j)) ∧
      (∀ a, a < dst ∨ dst + m.len ≤ a → c'.winByte a = c.winByte a) ∧ TokenNow s t m.owner m.pid (copyToken m.len 0) ∧ t.clock = max s.clock (m.time + 40) ∧ ∀ a, t.byte a = s.byte a) ∧
  (∀ (s : State) (k : CKey) (q : Fin 4) (m : CopyCmd) (l : List CopyCmd) (c : Crew) (g : Grid) (dst src cause : Nat), s.crew? k = some c → s.grid? k.grid = some g → c.copies[q.val]? = some (m :: l) →
    m.kind = .bytes .ls .mem dst src → m.done = 0 → m.bad = false → m.stall = none → 0 < m.len → s.walk g.ctx false .load (BitVec.ofNat 64 src) = .fault cause →
    ∃ t c', exec (.copyFaultStall k q) s = .next t ∧ t.crew? k = some c' ∧ c'.copies = c.copies.set q.val ({ m with stall := some (cause, src) } :: l) ∧ c'.win = c.win ∧ t.bundles = s.bundles) ∧
  (∀ (s : State) (core n : Nat) (k : CKey) (m : TileCmd) (c : Crew) (x : Tile), s.tileRuns core = false → firstIssued (s.tileHeads core) = some (k, n, m) → s.crew? k = some c → c.tiles[n]? = some x →
    ∃ t c', exec (.tileInstructionStart core) s = .next t ∧ t.crew? k = some c' ∧ c'.tiles[n]? = some { x with busy := some m, queue := x.queue.tail } ∧ (∀ i, i ≠ n → c'.tiles[i]? = c.tiles[i]?) ∧
      t = { s with clock := max s.clock (m.time + 40), crews := t.crews }) ∧
  (∀ (s u : State) (k : CKey) (n : Fin 8) (c : Crew) (x : Tile) (m : TileCmd) (e : Eng) (p : Prod) (md fl : Nat) (ents : Bank) (bad : Bool), s.tileBusy k n.val = some (c, x, m) → s.crewEng k = some e → m.op.prod = some p →
    x.mode = some md → m.block < p.blocks → s.stale e.ctx e.grove m = false → s.block e p (m.wpv n.val) m.block x = .ok (u, ents, fl, bad) → u.crews = s.crews →
    ∃ t c' x', exec (.tileBlockDone k n) s = .next t ∧ t.crew? k = some c' ∧ c'.tiles[n.val]? = some x' ∧ x'.ents = ents ∧ x'.flags = x.flags ||| fl ∧ x'.poisoned = (x.poisoned || bad) ∧ x'.owed = x.owedBy bad m ∧
      x'.busy.map (fun b => b.block) = some (m.block + 1) ∧ x'.lastEnd = u.clock ∧ (∀ i, i ≠ n.val → c'.tiles[i]? = c.tiles[i]?)) ∧
  (∀ (s : State) (k : CKey) (n : Fin 8) (c : Crew) (x : Tile) (m : TileCmd) (e : Eng), s.tileBusy k n.val = some (c, x, m) → s.crewEng k = some e →
    (∀ p, m.op.prod = some p → p.blocks ≤ m.block → (∀ y ∈ x.unread ++ [m], s.stale e.ctx (groveOf c.core) y = false) →
      ∃ t c' x', exec (.tileInstructionComplete k n) s = .next t ∧ t.crew? k = some c' ∧ c'.tiles[n.val]? = some x' ∧ x'.busy = none ∧ x'.ents = x.ents ∧ x'.flags = x.flags ∧ x'.unread = x.unread ++ [m] ∧
      t = { s with clock := max s.clock (x.lastEnd + 40), crews := t.crews }) ∧
    ∀ md, m.op = .zero md → ∃ t c' x', exec (.tileInstructionComplete k n) s = .next t ∧ t.crew? k = some c' ∧ c'.tiles[n.val]? = some x' ∧ x'.busy = none ∧ x'.mode = some md ∧ x'.flags = 0 ∧ x'.poisoned = false ∧ x'.owed = [] ∧ x'.unread = [] ∧
      (∀ j < 4096, bankGet x'.ents x'.fid j = 0) ∧ t = { s with crews := t.crews }) ∧
  (∀ (acc : Word) (l : List (Int × Int)), accumulate 0 acc (l.map fun x => (FVal.ofInt x.1 0).mul (FVal.ofInt x.2 0)) = (acc + BitVec.ofInt 64 (l.map fun x => x.1 * x.2).sum, 0)) ∧
  (∀ (s : State) (comm seq : Nat) (others : List CollOutcome), let rs := s.coll.recs.filter fun r => r.comm == comm && r.seq == seq && s.hasRank comm r.tenant r.crew.crew && r.started && !r.agreed
    let shapes := (rs.flatMap fun r => r.issues.map CollIss.shape) ++ others.map outShape
    (∀ r ∈ s.coll.recs, r.comm = comm → r.started = true) → s.commState comm = 1 → rs.length = s.localRanks comm →
    (∀ j < s.nranks comm, (∃ r ∈ rs, s.rankOf r = j) ∨ ∃ o ∈ others, o.rank = j) → (∀ o ∈ others, o.rank < s.rankBase comm ∨ s.rankBase comm + s.localRanks comm ≤ o.rank) →
    (∀ r ∈ s.coll.recs, r.comm = comm → s.hasRank comm r.tenant r.crew.crew = true → seq ≤ r.seq) → (∀ r ∈ rs, s.collOwn r ≠ 5) → (∀ o ∈ others, o.status ≠ 5 ∧ o.status ≠ 4) → (∀ x ∈ shapes, ∀ y ∈ shapes, x = y) →
    ∃ t, exec (.collOutcomeExchange comm seq others) s = .next t ∧
      t.coll = { s.coll with recs := s.coll.recs.map fun r => if r.comm = comm ∧ r.seq = seq ∧ s.hasRank comm r.tenant r.crew.crew = true then { r with agreed := true, snap := s.snapOf r } else r } ∧
      ((∀ r ∈ rs, r.head.op = opBar) → t = { s with coll := t.coll })) ∧
  (∀ (s : State) (stack i : Nat) (ch : ChunkCmd), keysFrom 0 s.coll.queues = true → stack < 12 → (s.commStacks ch.comm).testBit stack = true → s.commState ch.comm = 1 → s.chunkQueue stack = [] →
    (∃ r ∈ s.coll.recs, r.comm = ch.comm ∧ r.seq = ch.seq ∧ r.agreed = true ∧ r.closing = false ∧ r.head.holds ch = true ∧ s.chunkHome r ch stack = true) → i < 4 → (∀ x ∈ s.coll.slots, x.1 ≠ (stack, i)) → (∀ j < i, ∃ x ∈ s.coll.slots, x.1 = (stack, j)) →
    s.fillsOk ch = true → (∀ f ∈ ch.fills, ((stack, ch.comm), f) ∉ s.coll.credits) →
    ∃ t, exec (.chunkCommandArrive stack ch) s = .next t ∧ t.coll.slots = s.coll.slots ++ [((stack, i), ch)] ∧ t.coll.credits = s.coll.credits ++ ch.fills.map (fun f => ((stack, ch.comm), f)) ∧
      ∀ r ∈ t.coll.recs, r.comm = ch.comm → r.seq = ch.seq → ch.last = true → r.closing = true) ∧
  (∀ (s : State) (stack : Nat) (i : Fin 4) (x : (Nat × Nat) × ChunkCmd), let here := 12 * s.net.self + stack
    let comm := x.2.comm
    s.coll.slots.find? (fun x => x.1 == (stack, i.val)) = some x → stack < 12 → (∀ k < 12, s.chunkQueue k = []) →
    (∃ r ∈ s.coll.recs, r.comm = comm ∧ r.seq = x.2.seq ∧ r.agreed = true ∧ r.closing = false) →
    ∃ t, exec (.chunkEnd stack (.slot i)) s = .next t ∧ t.coll.slots = s.coll.slots.filter (fun y => y.1 != (stack, i.val)) ∧ t = { s with coll := t.coll } ∧
      (∀ y ∈ s.coll.credits, y.1.2 = comm ∧ y.2.1 = here ∧ y.2.2 ∈ x.2.takes → (∀ z ∈ t.coll.slots, z.1.1 = y.1.1 → z.2.comm = comm → y.2 ∉ z.2.fills) → y ∉ t.coll.credits) ∧
      (∀ y ∈ s.coll.credits, y.1.2 ≠ comm ∨ y.2.1 ≠ here ∨ y.2.2 ∉ x.2.takes → y ∈ t.coll.credits) ∧
      ∀ f ∈ x.2.fills, f.1 / 12 ≠ s.net.self → ⟨comm, x.2.seq, f.1, f.2, fld (s.reg (offComm comm)) 49 46, fld (s.reg (offComm comm)) 31 0⟩ ∈ t.coll.msgs) ∧
  (∀ (s : State) (dest comm sender : Nat) (bufs : List Nat), dest / 12 ≠ s.net.self → (∀ k < 12, s.chunkQueue k = []) →
    ∃ t, exec (.chunkEnd dest (.returned comm sender bufs)) s = .next t ∧ t = { s with coll := t.coll } ∧ t.coll.slots = s.coll.slots ∧
      ∀ y ∈ s.coll.credits, (y ∈ t.coll.credits ↔ ¬(y.1 = (sender, comm) ∧ y.2.1 = dest ∧ y.2.2 ∈ bufs ∧ ∀ z ∈ s.coll.slots, z.1.1 = sender → z.2.comm = comm → y.2 ∉ z.2.fills))) ∧
  (∀ (s : State) (stack dest : Nat) (m : CollMsg), m ∈ s.coll.msgs → m.dest = dest → m.comm < 256 → s.commState m.comm = 1 → (∀ r ∈ s.coll.recs, r.comm = m.comm → r.started = false) →
    ∃ t, exec (.chunkEnd stack (.lost m.comm dest m.buf)) s = .next t ∧ t.commState m.comm = 2 ∧ t.coll.notices = s.coll.notices ++ (s.others m.comm).map fun n => (m.comm, n, 2)) ∧
  ∀ (s : State) (comm st : Nat), comm < 256 → s.commState comm = 1 → st ∈ [1, 2, 4, 6] → (∀ r ∈ s.coll.recs, r.comm = comm → r.started = false) →
    ∃ t, exec (.collFailureNotice comm st) s = .next t ∧ t.commState comm = 2 ∧ (∀ x ∈ t.coll.slots, x.2.comm ≠ comm) ∧ ∀ n, (∀ c ∈ t.chunkQueue n, c.comm ≠ comm)

/-- Device registers and the host. A write takes the fields that software may write and a party that a register excludes changes nothing; a bank's new role stands as its field at once and takes effect only when the bank is free; a host hart's
store and atomic leave for their home slices line by line, its fence and load change no memory; its CSRs, reservations and exceptions are its own. A command-processor hart reaches device registers through its PMP
(R7, R87, R115 to R117, R136, R141, R154, R201, R202, R238).
The model's choices it rests on: log 14, 56, 67, 102, 104, 121 and 122. -/
def Obligations.RegistersAndHost : Prop :=
  (∀ (s : State) (p : Party) (o : Nat) (v : Word), o % 8 = 0 → o < 2 ^ 32 → OnBus p → let a := Config.regBase + o
    (regExists o = false → exec (.registerWrite p a v) s = .next s) ∧
    (∀ t < 64, o = 0x400 + 8 * t → ∃ u, exec (.registerWrite p a v) s = .next u ∧ fld (u.reg o) 55 0 = fld (s.reg o) 55 0 ∧ (∀ q, q ≠ o → u.reg q = s.reg q) ∧
      fld (u.reg o) 63 56 = (if p = .cp then fld v 63 56 else fld (s.reg o) 63 56)) ∧
    (∀ n < 256, o = 0x1800 + 8 * n → ∃ u, exec (.registerWrite p a v) s = .next u ∧ u.reg o = (if p = .cp then v else s.reg o) ∧ ∀ q, q ≠ o → u.reg q = s.reg q) ∧
    (∀ c < 1536, o = 0x20000010 + 0x1000 * c → ∃ u, exec (.registerWrite p a v) s = .next u ∧ fld (u.reg o) 63 8 = fld v 63 8 ∧ fld (u.reg o) 7 0 = fld (s.reg o) 7 0 ∧ ∀ q, q ≠ o → u.reg q = s.reg q) ∧
    (∀ c < 1536, o = 0x20000000 + 0x1000 * c → p ≠ .cp → exec (.registerWrite p a v) s = .next s)) ∧
  (∀ (s : State) (k n : Nat) (v : Word), let h := s.fwHart k
    let views := [0x100, 0x104, 0x144, 0x320]
    k < 32 → ∃ t, exec (.registerWrite (.csr k) n v) s = .next t ∧
      (cpHasCsr n = false ∨ h.mode < n / 256 % 4 → h.mode = 3 ∨ (h.csr 0x302).getLsbD 2 = false →
        (t.fwHart k).pc = fld (h.csr 0x305) 63 2 * 4 ∧ (t.fwHart k).mode = 3 ∧ (t.fwHart k).csr 0x342 = 2 ∧ (t.fwHart k).csr 0x341 = BitVec.ofNat 64 h.pc ∧ t = { s with cp := t.cp }) ∧
      (h.mode = 3 → (n ∈ [0xFC0, 0xFC1, 0xFC2] → t = s) ∧ (n = 0x7C0 → t.cpCsr k n = wordOf [(12, fld v 55 12)] ∧ (t.fwHart k).chkpt = fld v 55 12 * 4096) ∧
        (n = 0xB00 ∨ (n ∈ stdCsrs ∧ n ∉ views ∧ n < 0x3A0) → t.cpCsr k n = v ∧ t = { s with cp := t.cp }))) ∧
  (∀ (s : State) (k rd n : Nat), let h := s.fwHart k
    k < 32 → (if k < 16 then 5 else 4) ≤ fld (s.reg 0x50) 7 4 → 0 < rd → rd < 32 → keysFrom 0 h.x = true → cpHasCsr n = true → n / 256 % 4 ≤ h.mode →
    ∃ t, exec (.registerWrite (.csrLoad k rd) n 0) s = .next t ∧ (t.fwHart k).get rd = (s.cpCsr k n).toNat ∧ t = { s with cp := t.cp, free := s.free + 1 }) ∧
  (∀ (s : State) (k rd o : Nat) (v : Word), let h := s.fwHart k
    let a := Config.regBase + o
    k < 16 → 5 ≤ fld (s.reg 0x50) 7 4 → h.mode = 3 → (h.csr 0x300).getLsbD 17 = false → o % 8 = 0 → o < 2 ^ 32 → s.rowBusy a = false →
    (h.pmpOk 3 .load a 8 = true → 0 < rd → rd < 32 → keysFrom 0 h.x = true → ∃ t, exec (.registerWrite (.load k rd 8 false) a v) s = .next t ∧ (t.fwHart k).get rd = (s.regRead o).toNat) ∧
    (h.pmpOk 3 .store a 8 = true → exec (.registerWrite (.store k 8) a v) s = exec (.registerWrite .cp a v) s) ∧
    (h.pmpOk 3 .store a 8 = false → ∃ t, exec (.registerWrite (.store k 8) a v) s = .next t ∧ (t.fwHart k).pc = fld (h.csr 0x305) 63 2 * 4 ∧ (t.fwHart k).csr 0x342 = 7 ∧
      (t.fwHart k).csr 0x343 = BitVec.ofNat 64 a ∧ t = { s with cp := t.cp })) ∧
  (∀ (s : State) (k pc rd m : Nat) (v : Word), let h := s.fwHart k
    k < 32 → (if k < 16 then 5 else 4) ≤ fld (s.reg 0x50) 7 4 →
    exec (.registerWrite (.compute k rd) pc v) s = .next (s.putHart k { h.put rd v.toNat with pc := pc }) ∧
    (h.mode = 3 → ∃ t, exec (.registerWrite (.ret k true) m v) s = .next t ∧ (t.fwHart k).pc = (h.csr 0x341).toNat ∧ (t.fwHart k).mode = fld (h.csr 0x300) 12 11)) ∧
  (∀ (s : State) (core : Nat) (v : Word), core < 1536 → keysFrom 0 s.parts.oldRoles = true → ∃ t, exec (.bankRoleWrite core v) s = .next t ∧
    ∀ b < 32, t.bankEff core b = s.bankEff core b ∧ t.bankRole core b = (if fld v (2 * b + 1) (2 * b) = 3 then s.bankRole core b else fld v (2 * b + 1) (2 * b))) ∧
  (∀ (s : State) (core : Nat) (b : Fin 32), keysFrom 0 s.parts.oldRoles = true → s.bankPending core b.val = true → s.bankFree core b.val = true →
    ∃ t, exec (.bankRoleEffect core b) s = .next t ∧ t.bankEff core b.val = s.bankRole core b.val ∧ t.bankPending core b.val = false ∧
      (s.bankEff core b.val = 0 ∨ s.bankRole core b.val = 0 → ∀ l ∈ t.l1, l.core ≠ core) ∧ (s.bankEff core b.val ≠ 0 ∧ s.bankRole core b.val ≠ 0 → t.l1 = s.l1)) ∧
  (∀ (s : State) (a : HostAccess), (s.reg 0x50).getLsbD 0 = false → exec (.hostHartAccess a) s = .next s) ∧
  (∀ (s : State) (a : HostAccess), (s.reg 0x50).getLsbD 0 = true → a.hart < 64 →
    (s.hostAcquires a.hart = true ∨ ((a.rel = true ∨ a.op = .fence true) ∧ s.hostFlies a.hart = true) → exec (.hostHartAccess a) s = .next s) ∧
    (s.hostWaits a = false → ∀ w, a.op = .fence w → exec (.hostHartAccess a) s = .next (s.onHost a.hart fun h => { h with fences := h.fences + 1 }))) ∧
  (∀ (s : State) (a : HostAccess) (pa pbmt n : Nat) (acc : Acc), let h := s.host a.hart
    (s.reg 0x50).getLsbD 0 = true → a.hart < 64 → s.hostWaits a = false → 0 < n → a.va % 128 + n ≤ 128 →
    ((∃ bank signed, a.op = .load bank n signed ∧ acc = .load) ∨ (a.op = .fetch n ∧ acc = .fetch) ∨ ∃ d, a.op = .store d ∧ d.length = n ∧ acc = .store) →
    (∀ cause, s.hostAt h a.ctx acc a.va = .fault cause → exec (.hostHartAccess a) s = .next (s.onHost a.hart fun h => h.trap cause a.va)) ∧
    (s.hostAt h a.ctx acc a.va = .waits → exec (.hostHartAccess a) s = .next s) ∧
    (s.hostAt h a.ctx acc a.va = .ok pa pbmt → inRegs pa = false → inPcie pa = false →
      (∀ d, a.op = .store d → exec (.hostHartAccess a) s =
        .next { s with inflight := s.inflight ++ [⟨none, .post a.hart, lineOf pa, .bytes (d.length == 64 && a.va % 64 == 0) (partsFrom pa d), false⟩] }) ∧
      ∀ x : HostHart, x = { h with got := bytesFrom (s.hostByte a.hart (s.ctxOwner a.ctx)) pa n, bad := (linesIn pa n).any (s.poisonAt (s.ctxOwner a.ctx)) } → s.hostAtoms a.hart = [] →
        (∀ bank signed, a.op = .load bank n signed → ∃ t, exec (.hostHartAccess a) s = .next t ∧ t.host a.hart = x.put bank a.rd (loadValue bank signed x.got) ∧
          t = { s with regs := t.regs, hub := { s.hub with hosts := t.hub.hosts } }) ∧
        (a.op = .fetch n → ∃ t, exec (.hostHartAccess a) s = .next t ∧ t.host a.hart = { x with pc := a.va } ∧ t = { s with regs := t.regs, hub := { s.hub with hosts := t.hub.hosts } }))) ∧
  (∀ (s : State) (a : HostAccess) (pa pbmt n v : Nat), let h := s.host a.hart
    (s.reg 0x50).getLsbD 0 = true → a.hart < 64 → s.hostWaits a = false →
    (∀ op, a.op = .amo op n v →
      (amoOk n a.va = false → exec (.hostHartAccess a) s = .next (s.onHost a.hart fun h => h.trap 6 a.va)) ∧
      (amoOk n a.va = true → s.hostAt h a.ctx .atomic a.va = .ok pa pbmt → pbmt ≠ 2 → exec (.hostHartAccess a) s =
        .next { s with inflight := s.inflight ++ [⟨none, .post a.hart, lineOf pa, .atom (some (hostTag a.rd (n == 4) a.aq)) (hostAmo op).1 (hostTy n (hostAmo op).2)
          [⟨⟨0, .mem, pa, a.va, pbmt, 0, false, 1⟩, BitVec.ofNat 64 v, 0⟩], false⟩] })) ∧
    (a.op = .lr n → amoOk n a.va = true → s.hostAt h a.ctx .load a.va = .ok pa pbmt → inRegs pa = false → inPcie pa = false → s.hostAtoms a.hart = [] →
      ∃ t, exec (.hostHartAccess a) s = .next t ∧ (t.host a.hart).resv = some (pa, n) ∧ (t.host a.hart).got = bytesFrom (s.hostByte a.hart (s.ctxOwner a.ctx)) pa n) ∧
    (a.op = .sc n v → amoOk n a.va = true → s.hostAt h a.ctx .store a.va = .ok pa pbmt → pbmt ≠ 2 → s.rowBusy pa = false → (∀ f ∈ s.inflight, f.owner ≠ .post a.hart) →
      exec (.hostHartAccess a) s = .next (if h.resv = some (pa, n)
        then (s.visible none false (partsFrom pa (leBytes n v)) false).onHost a.hart fun h => { h.put .x a.rd 0 with resv := none }
        else s.onHost a.hart fun h => { h.put .x a.rd 1 with resv := none }))) ∧
  (∀ (s : State) (a : HostAccess) (n : Nat) (v : Word), let h := s.host a.hart
    (s.reg 0x50).getLsbD 0 = true → a.hart < 64 → s.hostWaits a = false →
    (a.op = .csrRead n → h.csrBad n false = none → exec (.hostHartAccess a) s = .next { (s.onHost a.hart fun h => h.put .x a.rd (s.hostCsr a.hart n).toNat) with free := s.free + 1 }) ∧
    (a.op = .csrWrite n v → h.csrBad n true = none → exec (.hostHartAccess a) s = .next (s.hostCsrWrite a.hart n v)) ∧
    (∀ c w, (a.op = .csrRead n ∧ w = false) ∨ (a.op = .csrWrite n v ∧ w = true) → h.csrBad n w = some c → exec (.hostHartAccess a) s = .next (s.onHost a.hart fun h => h.trap c 0)) ∧
    (∀ m, (a.op = .mret ∧ m = true) ∨ (a.op = .sret ∧ m = false) → exec (.hostHartAccess a) s = .next (s.onHost a.hart fun h => h.ret m)) ∧
    (∀ i id, a.op = .msi i → s.hub.msis[i]? = some id → ∃ t, exec (.hostHartAccess a) s = .next t ∧ (t.host a.hart).eip = insNat id h.eip ∧ t.hub.msis = s.hub.msis.eraseIdx i) ∧
    ∀ bank w pc, a.op = .compute bank w pc → exec (.hostHartAccess a) s = .next (s.onHost a.hart fun h => { h.put bank a.rd w with pc := pc }))

/-- After reset the device registers read the reset values of their tables. A core's bank roles are as R201 says: the register gives each bank's role, banks 0 to 3 are cache
after reset, banks 4 and 5 operand buffer, banks 6 to 31 scratchpad, hence 256 KiB of L1 and 416 granules; only the command processors write it; a field of 3
is ignored; and the pending register tells which banks have been given a role that is not yet in effect. -/
def Obligations.ResetAndBankRoles : Prop :=
  ((∀ n < 2, State.reset.regRead (0x100 + 0x10 * n) = 0x7040180 ∧ State.reset.regRead (0x108 + 0x10 * n) = 0) ∧
  (∀ t < 64, State.reset.regRead (0x400 + 8 * t) = 0x0100000000000000 ∧ State.reset.regRead (0x6000 + 8 * t) = 0 ∧
    ∀ k < 15, State.reset.regRead (0x1000000 + 0x10000 * t + 8 * k) = 0) ∧
  (∀ n < 1024, State.reset.regRead (0x4000 + 8 * n) = 0) ∧ (∀ n < 256, State.reset.regRead (0x1000 + 8 * n) = 0 ∧ State.reset.regRead (0x2000 + 8 * n) = 0) ∧
  (∀ x < 3, fld (State.reset.regRead (0x10 + 8 * x)) 63 56 = x + 1 ∧ fld (State.reset.regRead (0x10 + 8 * x)) 55 1 = 0) ∧
  (∀ o ∈ [0, 8, 0x48], State.reset.regRead o = 0) ∧
  (∀ g < 12, (∀ n < 128, State.reset.regRead (0x10000000 + 0x100000 * g + 8 * n) = 0xFF00) ∧ (∀ t < 64, State.reset.regRead (0x10000400 + 0x100000 * g + 8 * t) = 8) ∧
    (∀ n < 32, fld (State.reset.regRead (0x10000600 + 0x100000 * g + 8 * n)) 63 16 = 95 ∧ fld (State.reset.regRead (0x10000600 + 0x100000 * g + 8 * n)) 7 0 = 0) ∧
    State.reset.regRead (0x10000700 + 0x100000 * g) = 0) ∧
  (∀ c < 1536, State.reset.regRead (0x20000000 + 0x1000 * c) = 0x5555555555555A00 ∧ State.reset.regRead (0x20000008 + 0x1000 * c) = 0 ∧
    State.reset.regRead (0x20000010 + 0x1000 * c) = 0) ∧
  (∀ n < 16384, State.reset.regRead (0x30010000 + 8 * n) = 0) ∧ (∀ n < 256, State.reset.regRead (0x30050000 + 8 * n) = 0 ∧ State.reset.regRead (0x30050800 + 8 * n) = 0) ∧
  ∀ o, stallCause o = true → State.reset.regRead o = 0) ∧
  (∀ c < 1536, (∀ b < 32, State.reset.bankRole c b = if b < 4 then 0 else if b < 6 then 2 else 1) ∧ State.reset.scratchCap c = 416 ∧
    0x10000 * ((List.range 32).filter fun b => State.reset.bankEff c b == 0).length = 0x40000) ∧
  (∀ (s : State) (c : Nat), c < 1536 → let o := 0x20000000 + 0x1000 * c
    (∀ b < 32, s.bankRole c b = fld (s.regRead o) (2 * b + 1) (2 * b)) ∧ (∀ i < 64, (s.regRead (o + 8)).getLsbD i = (decide (i < 32) && s.bankPending c i)) ∧
    ∀ (p : Party) (v : Word), OnBus p → keysFrom 0 s.parts.oldRoles = true → ∃ t, exec (.registerWrite p (Config.regBase + o) v) s = .next t ∧
      (∀ q, q ≠ o → t.reg q = s.reg q) ∧ (p ≠ .cp → t = s) ∧
      (p = .cp → ∀ b < 32, let r := fld v (2 * b + 1) (2 * b)
        t.bankRole c b = (if r = 3 then s.bankRole c b else r) ∧ t.bankEff c b = s.bankEff c b ∧
          t.bankPending c b = (if r = 3 then s.bankPending c b else decide (r ≠ s.bankEff c b))))
end

