-- ==== Sys2Proof/Laws/Map.lean ====
section
/-! SUPPORT. Laws of the sorted maps: what a put or a delete does to a read, and that the keys stay strictly rising. -/

namespace Sys2Proof.Machine

variable {α : Type}

@[simp] theorem mapGet_nil (k : Nat) : mapGet ([] : List (Nat × α)) k = none := rfl

theorem mapGet_mapPut_self (l : List (Nat × α)) (k : Nat) (x : α) : mapGet (mapPut l k x) k = some x := by
  induction l with
  | nil => simp [mapPut, mapGet]
  | cons c r ih =>
    obtain ⟨j, v⟩ := c
    unfold mapPut
    split
    · simp [mapGet]
    · split
      · simp [mapGet]
      · rename_i h
        simp only [mapGet, beq_iff_eq]
        rw [if_neg (fun e => h e.symm)]
        exact ih

theorem mapGet_mapPut_ne (l : List (Nat × α)) {k j : Nat} (x : α) (h : j ≠ k) : mapGet (mapPut l k x) j = mapGet l j := by
  induction l with
  | nil => simp [mapPut, mapGet, Ne.symm h]
  | cons c r ih =>
    obtain ⟨i, v⟩ := c
    unfold mapPut
    split
    · simp [mapGet, Ne.symm h]
    · split
      · rename_i e
        subst e
        simp [mapGet, Ne.symm h]
      · simp only [mapGet]
        split
        · rfl
        · exact ih

theorem keysFrom_mono {l : List (Nat × α)} {lo lo' : Nat} (h : lo' ≤ lo) (hl : keysFrom lo l = true) : keysFrom lo' l = true := by
  cases l with
  | nil => rfl
  | cons c r => simp_all [keysFrom]; omega

theorem keysFrom_mapPut {l : List (Nat × α)} {lo k : Nat} (x : α) (hl : keysFrom lo l = true) (hk : lo ≤ k) :
    keysFrom lo (mapPut l k x) = true := by
  induction l generalizing lo with
  | nil => simp [mapPut, keysFrom, hk]
  | cons c r ih =>
    obtain ⟨j, v⟩ := c
    simp only [keysFrom, Bool.and_eq_true, decide_eq_true_eq] at hl
    unfold mapPut
    split
    · simp only [keysFrom, Bool.and_eq_true, decide_eq_true_eq]
      exact ⟨hk, by omega, hl.2⟩
    · split
      · rename_i e
        subst e
        simp only [keysFrom, Bool.and_eq_true, decide_eq_true_eq]
        exact hl
      · simp only [keysFrom, Bool.and_eq_true, decide_eq_true_eq]
        exact ⟨hl.1, ih hl.2 (by omega)⟩

theorem keysFrom_mapDel {l : List (Nat × α)} {lo : Nat} (k : Nat) (hl : keysFrom lo l = true) : keysFrom lo (mapDel l k) = true := by
  induction l generalizing lo with
  | nil => rfl
  | cons c r ih =>
    obtain ⟨j, v⟩ := c
    simp only [keysFrom, Bool.and_eq_true, decide_eq_true_eq] at hl
    unfold mapDel
    split
    · exact keysFrom_mono (by omega) hl.2
    · simp only [keysFrom, Bool.and_eq_true, decide_eq_true_eq]
      exact ⟨hl.1, ih hl.2⟩

theorem mapGet_below {l : List (Nat × α)} {lo k : Nat} (hl : keysFrom lo l = true) (h : k < lo) : mapGet l k = none := by
  induction l generalizing lo with
  | nil => rfl
  | cons c r ih =>
    obtain ⟨j, v⟩ := c
    simp only [keysFrom, Bool.and_eq_true, decide_eq_true_eq] at hl
    simp only [mapGet, beq_iff_eq]
    rw [if_neg (by omega)]
    exact ih hl.2 (by omega)

theorem mapGet_mapDel_self {l : List (Nat × α)} {lo : Nat} (k : Nat) (hl : keysFrom lo l = true) : mapGet (mapDel l k) k = none := by
  induction l generalizing lo with
  | nil => rfl
  | cons c r ih =>
    obtain ⟨j, v⟩ := c
    simp only [keysFrom, Bool.and_eq_true, decide_eq_true_eq] at hl
    unfold mapDel
    split
    · rename_i e
      subst e
      exact mapGet_below hl.2 (by omega)
    · rename_i e
      simp only [mapGet, beq_iff_eq, e, if_false]
      exact ih hl.2

theorem mapGet_mapDel_ne (l : List (Nat × α)) {k j : Nat} (h : j ≠ k) : mapGet (mapDel l k) j = mapGet l j := by
  induction l with
  | nil => rfl
  | cons c r ih =>
    obtain ⟨i, v⟩ := c
    unfold mapDel
    split
    · rename_i e
      subst e
      simp [mapGet, Ne.symm h]
    · simp only [mapGet]
      split
      · rfl
      · exact ih

theorem keysFrom_filter {l : List (Nat × α)} {lo : Nat} (f : Nat × α → Bool) (hl : keysFrom lo l = true) : keysFrom lo (l.filter f) = true := by
  induction l generalizing lo with
  | nil => rfl
  | cons c r ih =>
    obtain ⟨j, v⟩ := c
    simp only [keysFrom, Bool.and_eq_true, decide_eq_true_eq] at hl
    rw [List.filter_cons]
    split
    · simp only [keysFrom, Bool.and_eq_true, decide_eq_true_eq]
      exact ⟨hl.1, ih hl.2⟩
    · exact keysFrom_mono (by omega) (ih hl.2)

theorem keysFrom_natsPut {m : Nats} {lo k : Nat} (v : Nat) (hl : keysFrom lo m = true) (hk : lo ≤ k) : keysFrom lo (natsPut m k v) = true := by
  unfold natsPut
  split
  · exact keysFrom_mapDel k hl
  · exact keysFrom_mapPut v hl hk

theorem mem_mapPut {l : List (Nat × α)} {k : Nat} {x : α} {c : Nat × α} (h : c ∈ mapPut l k x) : c = (k, x) ∨ c ∈ l := by
  induction l with
  | nil => simpa [mapPut] using h
  | cons d r ih =>
    obtain ⟨j, v⟩ := d
    unfold mapPut at h
    split at h
    · simpa using h
    · split at h
      · simp only [List.mem_cons] at h ⊢
        tauto
      · simp only [List.mem_cons] at h ⊢
        rcases h with h | h
        · exact .inr (.inl h)
        · rcases ih h with h | h
          · exact .inl h
          · exact .inr (.inr h)

theorem mem_mapDel {l : List (Nat × α)} {k : Nat} {c : Nat × α} (h : c ∈ mapDel l k) : c ∈ l := by
  induction l with
  | nil => exact h
  | cons d r ih =>
    obtain ⟨j, v⟩ := d
    unfold mapDel at h
    split at h
    · exact List.mem_cons_of_mem _ h
    · simp only [List.mem_cons] at h ⊢
      exact h.imp id ih

end Sys2Proof.Machine
end

