-- ==== Sys2Proof/Laws/Memory.lean ====
section
/-! SUPPORT. Laws of memory: a read after a write, the bytes a write leaves alone, and the canonical form that every memory operation keeps. -/

namespace Sys2Proof.Machine

theorem memWf_memPut {m : List Host.Cell} (a : Nat) (b : Byte) (h : memWf m = true) : memWf (memPut m a b) = true := by
  simp only [memWf, Bool.and_eq_true, List.all_eq_true] at h ⊢
  unfold memPut
  split
  · exact ⟨keysFrom_mapDel a h.1, fun c hc => h.2 c (mem_mapDel hc)⟩
  · rename_i hb
    refine ⟨keysFrom_mapPut b h.1 (Nat.zero_le _), fun c hc => ?_⟩
    rcases mem_mapPut hc with rfl | hc
    · simpa using hb
    · exact h.2 c hc

theorem memGet_memPut_self {m : List Host.Cell} (a : Nat) (b : Byte) (h : memWf m = true) : memGet (memPut m a b) a = b := by
  simp only [memWf, Bool.and_eq_true] at h
  unfold memGet memPut
  split
  · rename_i hb
    rw [mapGet_mapDel_self a h.1, hb]
    rfl
  · rw [mapGet_mapPut_self]
    rfl

theorem memGet_memPut_ne (m : List Host.Cell) {a x : Nat} (b : Byte) (h : x ≠ a) : memGet (memPut m a b) x = memGet m x := by
  unfold memGet memPut
  split
  · rw [mapGet_mapDel_ne m h]
  · rw [mapGet_mapPut_ne m b h]

theorem memWf_filter {m : List Host.Cell} (f : Host.Cell → Bool) (h : memWf m = true) : memWf (m.filter f) = true := by
  simp only [memWf, Bool.and_eq_true, List.all_eq_true] at h ⊢
  exact ⟨keysFrom_filter f h.1, fun c hc => h.2 c (List.mem_filter.1 hc).1⟩

theorem openAt_openCut_self (r : List (Nat × Nat × Nat)) (a : Nat) : openAt (openCut r a) a = none := by
  simp only [openAt, openCut, List.find?_eq_none, List.mem_flatMap]
  rintro ⟨lo, len, n⟩ ⟨x, -, hx⟩
  split at hx
  · rename_i h
    simp only [List.mem_filter, List.mem_cons, List.not_mem_nil, or_false] at hx
    rcases hx.1 with e | e <;> (cases e; simp; try omega)
  · rename_i h
    simp only [List.mem_singleton] at hx
    subst hx
    simpa using h

theorem openAt_append (r q : List (Nat × Nat × Nat)) (x : Nat) : openAt (r ++ q) x = (openAt r x).or (openAt q x) := by
  simp [openAt, List.find?_append]

theorem memWf_setByte (s : State) (a : Nat) (b : Byte) (h : memWf s.mem = true) : memWf (s.setByte a b).mem = true :=
  memWf_memPut a b h

theorem memWf_setBytes (s : State) (a : Nat) (l : List Byte) (h : memWf s.mem = true) : memWf (s.setBytes a l).mem = true := by
  induction l generalizing s a with
  | nil => exact h
  | cons b r ih => exact ih _ _ (memWf_setByte s a b h)

theorem memWf_wr64 (s : State) (a : Nat) (w : Word) (h : memWf s.mem = true) : memWf (s.wr64 a w).mem = true :=
  memWf_setBytes s a _ h

theorem memWf_openRange (s : State) (lo len : Nat) (h : memWf s.mem = true) : memWf (s.openRange lo len).mem = true :=
  memWf_filter _ h

theorem byte_setByte_self (s : State) (a : Nat) (b : Byte) (h : memWf s.mem = true) : (s.setByte a b).byte a = b := by
  simp only [State.byte, State.setByte, openAt_openCut_self]
  exact memGet_memPut_self a b h

theorem openAt_openCut_ne (r : List (Nat × Nat × Nat)) {a x : Nat} (h : x ≠ a) :
    (openAt (openCut r a) x).map (fun y => y.2.2) = (openAt r x).map fun y => y.2.2 := by
  induction r with
  | nil => rfl
  | cons c r ih =>
    obtain ⟨lo, len, n⟩ := c
    have hc : openCut ((lo, len, n) :: r) a = openCut [(lo, len, n)] a ++ openCut r a := by simp [openCut]
    rw [hc, openAt_append]
    have hr : openAt ((lo, len, n) :: r) x = (openAt [(lo, len, n)] x).or (openAt r x) := openAt_append [_] r x
    rw [hr]
    have h1 : (openAt (openCut [(lo, len, n)] a) x).map (fun y => y.2.2) = (openAt [(lo, len, n)] x).map fun y => y.2.2 := by
      have one : ∀ (q : Nat × Nat × Nat), (openAt [q] x).map (fun y => y.2.2) = if q.1 ≤ x ∧ x < q.1 + q.2.1 then some q.2.2 else none := by
        intro q
        by_cases hq : q.1 ≤ x ∧ x < q.1 + q.2.1 <;> simp [openAt, hq]
      simp only [openCut, List.flatMap_cons, List.flatMap_nil, List.append_nil, one]
      split
      · simp only [openAt, List.find?_filter, List.find?_cons, List.find?_nil]
        split
        · rename_i e
          simp at e
          rw [if_pos (by omega)]
          rfl
        · split
          · rename_i e
            simp at e
            rw [if_pos (by omega)]
            rfl
          · rename_i _ e _ e'
            simp at e e'
            rw [if_neg (by omega)]
            rfl
      · exact one _
    revert h1
    cases openAt (openCut [(lo, len, n)] a) x <;> cases openAt [(lo, len, n)] x <;> simp [ih]

theorem byte_setByte_ne (s : State) {a x : Nat} (b : Byte) (h : x ≠ a) : (s.setByte a b).byte x = s.byte x := by
  have e := openAt_openCut_ne s.memOpen h
  simp only [State.byte, State.setByte]
  revert e
  cases openAt (openCut s.memOpen a) x <;> cases openAt s.memOpen x <;> simp_all [memGet_memPut_ne]

theorem byte_setBytes_out (s : State) (a : Nat) (l : List Byte) (x : Nat) (h : x < a ∨ a + l.length ≤ x) :
    (s.setBytes a l).byte x = s.byte x := by
  induction l generalizing s a with
  | nil => rfl
  | cons b r ih =>
    simp only [List.length_cons] at h
    rw [State.setBytes, ih _ _ (by omega), byte_setByte_ne _ _ (by omega)]

theorem leBytes_length (n v : Nat) : (leBytes n v).length = n := by
  induction n generalizing v with
  | zero => rfl
  | succ n ih => simp [leBytes, ih]

theorem byte_wr64_out (s : State) (a : Nat) (w : Word) (x : Nat) (h : x < a ∨ a + 8 ≤ x) : (s.wr64 a w).byte x = s.byte x :=
  byte_setBytes_out s a _ x (by rw [leBytes_length]; exact h)

theorem State.reset_memWf : memWf State.reset.mem = true := rfl

end Sys2Proof.Machine
end

