-- ==== Sys2Proof/Laws/State.lean ====
section
/-! SUPPORT. Laws of State: what each update of it leaves in each field, and what the updates of a bundle or a crew do to the others. -/

namespace Sys2Proof.Machine

/-! ### setByte -/

@[simp] theorem setByte_clock (s : State) (a : Nat) (b : Byte) : (s.setByte a b).clock = s.clock := rfl
@[simp] theorem setByte_focus (s : State) (a : Nat) (b : Byte) : (s.setByte a b).focus = s.focus := rfl
@[simp] theorem setByte_agenda (s : State) (a : Nat) (b : Byte) : (s.setByte a b).agenda = s.agenda := rfl
@[simp] theorem setByte_free (s : State) (a : Nat) (b : Byte) : (s.setByte a b).free = s.free := rfl
@[simp] theorem setByte_poison (s : State) (a : Nat) (b : Byte) : (s.setByte a b).poison = s.poison := rfl
@[simp] theorem setByte_mended (s : State) (a : Nat) (b : Byte) : (s.setByte a b).mended = s.mended := rfl
@[simp] theorem setByte_poisonBy (s : State) (a : Nat) (b : Byte) : (s.setByte a b).poisonBy = s.poisonBy := rfl
@[simp] theorem setByte_l1 (s : State) (a : Nat) (b : Byte) : (s.setByte a b).l1 = s.l1 := rfl
@[simp] theorem setByte_inflight (s : State) (a : Nat) (b : Byte) : (s.setByte a b).inflight = s.inflight := rfl
@[simp] theorem setByte_acks (s : State) (a : Nat) (b : Byte) : (s.setByte a b).acks = s.acks := rfl
@[simp] theorem setByte_armed (s : State) (a : Nat) (b : Byte) : (s.setByte a b).armed = s.armed := rfl
@[simp] theorem setByte_grids (s : State) (a : Nat) (b : Byte) : (s.setByte a b).grids = s.grids := rfl
@[simp] theorem setByte_crews (s : State) (a : Nat) (b : Byte) : (s.setByte a b).crews = s.crews := rfl
@[simp] theorem setByte_bundles (s : State) (a : Nat) (b : Byte) : (s.setByte a b).bundles = s.bundles := rfl
@[simp] theorem setByte_tft (s : State) (a : Nat) (b : Byte) : (s.setByte a b).tft = s.tft := rfl
@[simp] theorem setByte_xl (s : State) (a : Nat) (b : Byte) : (s.setByte a b).xl = s.xl := rfl
@[simp] theorem setByte_regs (s : State) (a : Nat) (b : Byte) : (s.setByte a b).regs = s.regs := rfl
@[simp] theorem setByte_charge (s : State) (a : Nat) (b : Byte) : (s.setByte a b).charge = s.charge := rfl
@[simp] theorem setByte_hub (s : State) (a : Nat) (b : Byte) : (s.setByte a b).hub = s.hub := rfl
@[simp] theorem setByte_parts (s : State) (a : Nat) (b : Byte) : (s.setByte a b).parts = s.parts := rfl
@[simp] theorem setByte_net (s : State) (a : Nat) (b : Byte) : (s.setByte a b).net = s.net := rfl
@[simp] theorem setByte_hubFx (s : State) (a : Nat) (b : Byte) : (s.setByte a b).hubFx = s.hubFx := rfl
@[simp] theorem setByte_links (s : State) (a : Nat) (b : Byte) : (s.setByte a b).links = s.links := rfl
@[simp] theorem setByte_phys (s : State) (a : Nat) (b : Byte) : (s.setByte a b).phys = s.phys := rfl
@[simp] theorem setByte_pcie (s : State) (a : Nat) (b : Byte) : (s.setByte a b).pcie = s.pcie := rfl
@[simp] theorem setByte_cp (s : State) (a : Nat) (b : Byte) : (s.setByte a b).cp = s.cp := rfl
@[simp] theorem setByte_flash (s : State) (a : Nat) (b : Byte) : (s.setByte a b).flash = s.flash := rfl
@[simp] theorem setByte_coll (s : State) (a : Nat) (b : Byte) : (s.setByte a b).coll = s.coll := rfl

/-! ### setReg -/

@[simp] theorem setReg_clock (s : State) (o : Nat) (w : Word) : (s.setReg o w).clock = s.clock := rfl
@[simp] theorem setReg_focus (s : State) (o : Nat) (w : Word) : (s.setReg o w).focus = s.focus := rfl
@[simp] theorem setReg_agenda (s : State) (o : Nat) (w : Word) : (s.setReg o w).agenda = s.agenda := rfl
@[simp] theorem setReg_free (s : State) (o : Nat) (w : Word) : (s.setReg o w).free = s.free := rfl
@[simp] theorem setReg_mem (s : State) (o : Nat) (w : Word) : (s.setReg o w).mem = s.mem := rfl
@[simp] theorem setReg_memOpen (s : State) (o : Nat) (w : Word) : (s.setReg o w).memOpen = s.memOpen := rfl
@[simp] theorem setReg_poison (s : State) (o : Nat) (w : Word) : (s.setReg o w).poison = s.poison := rfl
@[simp] theorem setReg_mended (s : State) (o : Nat) (w : Word) : (s.setReg o w).mended = s.mended := rfl
@[simp] theorem setReg_poisonBy (s : State) (o : Nat) (w : Word) : (s.setReg o w).poisonBy = s.poisonBy := rfl
@[simp] theorem setReg_l1 (s : State) (o : Nat) (w : Word) : (s.setReg o w).l1 = s.l1 := rfl
@[simp] theorem setReg_inflight (s : State) (o : Nat) (w : Word) : (s.setReg o w).inflight = s.inflight := rfl
@[simp] theorem setReg_acks (s : State) (o : Nat) (w : Word) : (s.setReg o w).acks = s.acks := rfl
@[simp] theorem setReg_armed (s : State) (o : Nat) (w : Word) : (s.setReg o w).armed = s.armed := rfl
@[simp] theorem setReg_grids (s : State) (o : Nat) (w : Word) : (s.setReg o w).grids = s.grids := rfl
@[simp] theorem setReg_crews (s : State) (o : Nat) (w : Word) : (s.setReg o w).crews = s.crews := rfl
@[simp] theorem setReg_bundles (s : State) (o : Nat) (w : Word) : (s.setReg o w).bundles = s.bundles := rfl
@[simp] theorem setReg_tft (s : State) (o : Nat) (w : Word) : (s.setReg o w).tft = s.tft := rfl
@[simp] theorem setReg_xl (s : State) (o : Nat) (w : Word) : (s.setReg o w).xl = s.xl := rfl
@[simp] theorem setReg_charge (s : State) (o : Nat) (w : Word) : (s.setReg o w).charge = s.charge := rfl
@[simp] theorem setReg_hub (s : State) (o : Nat) (w : Word) : (s.setReg o w).hub = s.hub := rfl
@[simp] theorem setReg_parts (s : State) (o : Nat) (w : Word) : (s.setReg o w).parts = s.parts := rfl
@[simp] theorem setReg_net (s : State) (o : Nat) (w : Word) : (s.setReg o w).net = s.net := rfl
@[simp] theorem setReg_hubFx (s : State) (o : Nat) (w : Word) : (s.setReg o w).hubFx = s.hubFx := rfl
@[simp] theorem setReg_links (s : State) (o : Nat) (w : Word) : (s.setReg o w).links = s.links := rfl
@[simp] theorem setReg_phys (s : State) (o : Nat) (w : Word) : (s.setReg o w).phys = s.phys := rfl
@[simp] theorem setReg_pcie (s : State) (o : Nat) (w : Word) : (s.setReg o w).pcie = s.pcie := rfl
@[simp] theorem setReg_cp (s : State) (o : Nat) (w : Word) : (s.setReg o w).cp = s.cp := rfl
@[simp] theorem setReg_flash (s : State) (o : Nat) (w : Word) : (s.setReg o w).flash = s.flash := rfl
@[simp] theorem setReg_coll (s : State) (o : Nat) (w : Word) : (s.setReg o w).coll = s.coll := rfl

/-! ### putGrid -/

@[simp] theorem putGrid_clock (s : State) (g : Grid) : (s.putGrid g).clock = s.clock := rfl
@[simp] theorem putGrid_focus (s : State) (g : Grid) : (s.putGrid g).focus = s.focus := rfl
@[simp] theorem putGrid_agenda (s : State) (g : Grid) : (s.putGrid g).agenda = s.agenda := rfl
@[simp] theorem putGrid_free (s : State) (g : Grid) : (s.putGrid g).free = s.free := rfl
@[simp] theorem putGrid_mem (s : State) (g : Grid) : (s.putGrid g).mem = s.mem := rfl
@[simp] theorem putGrid_memOpen (s : State) (g : Grid) : (s.putGrid g).memOpen = s.memOpen := rfl
@[simp] theorem putGrid_poison (s : State) (g : Grid) : (s.putGrid g).poison = s.poison := rfl
@[simp] theorem putGrid_mended (s : State) (g : Grid) : (s.putGrid g).mended = s.mended := rfl
@[simp] theorem putGrid_poisonBy (s : State) (g : Grid) : (s.putGrid g).poisonBy = s.poisonBy := rfl
@[simp] theorem putGrid_l1 (s : State) (g : Grid) : (s.putGrid g).l1 = s.l1 := rfl
@[simp] theorem putGrid_inflight (s : State) (g : Grid) : (s.putGrid g).inflight = s.inflight := rfl
@[simp] theorem putGrid_acks (s : State) (g : Grid) : (s.putGrid g).acks = s.acks := rfl
@[simp] theorem putGrid_armed (s : State) (g : Grid) : (s.putGrid g).armed = s.armed := rfl
@[simp] theorem putGrid_crews (s : State) (g : Grid) : (s.putGrid g).crews = s.crews := rfl
@[simp] theorem putGrid_bundles (s : State) (g : Grid) : (s.putGrid g).bundles = s.bundles := rfl
@[simp] theorem putGrid_tft (s : State) (g : Grid) : (s.putGrid g).tft = s.tft := rfl
@[simp] theorem putGrid_xl (s : State) (g : Grid) : (s.putGrid g).xl = s.xl := rfl
@[simp] theorem putGrid_regs (s : State) (g : Grid) : (s.putGrid g).regs = s.regs := rfl
@[simp] theorem putGrid_charge (s : State) (g : Grid) : (s.putGrid g).charge = s.charge := rfl
@[simp] theorem putGrid_hub (s : State) (g : Grid) : (s.putGrid g).hub = s.hub := rfl
@[simp] theorem putGrid_parts (s : State) (g : Grid) : (s.putGrid g).parts = s.parts := rfl
@[simp] theorem putGrid_net (s : State) (g : Grid) : (s.putGrid g).net = s.net := rfl
@[simp] theorem putGrid_hubFx (s : State) (g : Grid) : (s.putGrid g).hubFx = s.hubFx := rfl
@[simp] theorem putGrid_links (s : State) (g : Grid) : (s.putGrid g).links = s.links := rfl
@[simp] theorem putGrid_phys (s : State) (g : Grid) : (s.putGrid g).phys = s.phys := rfl
@[simp] theorem putGrid_pcie (s : State) (g : Grid) : (s.putGrid g).pcie = s.pcie := rfl
@[simp] theorem putGrid_cp (s : State) (g : Grid) : (s.putGrid g).cp = s.cp := rfl
@[simp] theorem putGrid_flash (s : State) (g : Grid) : (s.putGrid g).flash = s.flash := rfl
@[simp] theorem putGrid_coll (s : State) (g : Grid) : (s.putGrid g).coll = s.coll := rfl

/-! ### putCrew -/

@[simp] theorem putCrew_clock (s : State) (c : Crew) : (s.putCrew c).clock = s.clock := rfl
@[simp] theorem putCrew_focus (s : State) (c : Crew) : (s.putCrew c).focus = s.focus := rfl
@[simp] theorem putCrew_agenda (s : State) (c : Crew) : (s.putCrew c).agenda = s.agenda := rfl
@[simp] theorem putCrew_free (s : State) (c : Crew) : (s.putCrew c).free = s.free := rfl
@[simp] theorem putCrew_mem (s : State) (c : Crew) : (s.putCrew c).mem = s.mem := rfl
@[simp] theorem putCrew_memOpen (s : State) (c : Crew) : (s.putCrew c).memOpen = s.memOpen := rfl
@[simp] theorem putCrew_poison (s : State) (c : Crew) : (s.putCrew c).poison = s.poison := rfl
@[simp] theorem putCrew_mended (s : State) (c : Crew) : (s.putCrew c).mended = s.mended := rfl
@[simp] theorem putCrew_poisonBy (s : State) (c : Crew) : (s.putCrew c).poisonBy = s.poisonBy := rfl
@[simp] theorem putCrew_l1 (s : State) (c : Crew) : (s.putCrew c).l1 = s.l1 := rfl
@[simp] theorem putCrew_inflight (s : State) (c : Crew) : (s.putCrew c).inflight = s.inflight := rfl
@[simp] theorem putCrew_acks (s : State) (c : Crew) : (s.putCrew c).acks = s.acks := rfl
@[simp] theorem putCrew_armed (s : State) (c : Crew) : (s.putCrew c).armed = s.armed := rfl
@[simp] theorem putCrew_grids (s : State) (c : Crew) : (s.putCrew c).grids = s.grids := rfl
@[simp] theorem putCrew_bundles (s : State) (c : Crew) : (s.putCrew c).bundles = s.bundles := rfl
@[simp] theorem putCrew_tft (s : State) (c : Crew) : (s.putCrew c).tft = s.tft := rfl
@[simp] theorem putCrew_xl (s : State) (c : Crew) : (s.putCrew c).xl = s.xl := rfl
@[simp] theorem putCrew_regs (s : State) (c : Crew) : (s.putCrew c).regs = s.regs := rfl
@[simp] theorem putCrew_charge (s : State) (c : Crew) : (s.putCrew c).charge = s.charge := rfl
@[simp] theorem putCrew_hub (s : State) (c : Crew) : (s.putCrew c).hub = s.hub := rfl
@[simp] theorem putCrew_parts (s : State) (c : Crew) : (s.putCrew c).parts = s.parts := rfl
@[simp] theorem putCrew_net (s : State) (c : Crew) : (s.putCrew c).net = s.net := rfl
@[simp] theorem putCrew_hubFx (s : State) (c : Crew) : (s.putCrew c).hubFx = s.hubFx := rfl
@[simp] theorem putCrew_links (s : State) (c : Crew) : (s.putCrew c).links = s.links := rfl
@[simp] theorem putCrew_phys (s : State) (c : Crew) : (s.putCrew c).phys = s.phys := rfl
@[simp] theorem putCrew_pcie (s : State) (c : Crew) : (s.putCrew c).pcie = s.pcie := rfl
@[simp] theorem putCrew_cp (s : State) (c : Crew) : (s.putCrew c).cp = s.cp := rfl
@[simp] theorem putCrew_flash (s : State) (c : Crew) : (s.putCrew c).flash = s.flash := rfl
@[simp] theorem putCrew_coll (s : State) (c : Crew) : (s.putCrew c).coll = s.coll := rfl

/-! ### putBundle -/

@[simp] theorem putBundle_clock (s : State) (b : Bundle) : (s.putBundle b).clock = s.clock := rfl
@[simp] theorem putBundle_focus (s : State) (b : Bundle) : (s.putBundle b).focus = s.focus := rfl
@[simp] theorem putBundle_agenda (s : State) (b : Bundle) : (s.putBundle b).agenda = s.agenda := rfl
@[simp] theorem putBundle_free (s : State) (b : Bundle) : (s.putBundle b).free = s.free := rfl
@[simp] theorem putBundle_mem (s : State) (b : Bundle) : (s.putBundle b).mem = s.mem := rfl
@[simp] theorem putBundle_memOpen (s : State) (b : Bundle) : (s.putBundle b).memOpen = s.memOpen := rfl
@[simp] theorem putBundle_poison (s : State) (b : Bundle) : (s.putBundle b).poison = s.poison := rfl
@[simp] theorem putBundle_mended (s : State) (b : Bundle) : (s.putBundle b).mended = s.mended := rfl
@[simp] theorem putBundle_poisonBy (s : State) (b : Bundle) : (s.putBundle b).poisonBy = s.poisonBy := rfl
@[simp] theorem putBundle_l1 (s : State) (b : Bundle) : (s.putBundle b).l1 = s.l1 := rfl
@[simp] theorem putBundle_inflight (s : State) (b : Bundle) : (s.putBundle b).inflight = s.inflight := rfl
@[simp] theorem putBundle_acks (s : State) (b : Bundle) : (s.putBundle b).acks = s.acks := rfl
@[simp] theorem putBundle_armed (s : State) (b : Bundle) : (s.putBundle b).armed = s.armed := rfl
@[simp] theorem putBundle_grids (s : State) (b : Bundle) : (s.putBundle b).grids = s.grids := rfl
@[simp] theorem putBundle_crews (s : State) (b : Bundle) : (s.putBundle b).crews = s.crews := rfl
@[simp] theorem putBundle_tft (s : State) (b : Bundle) : (s.putBundle b).tft = s.tft := rfl
@[simp] theorem putBundle_xl (s : State) (b : Bundle) : (s.putBundle b).xl = s.xl := rfl
@[simp] theorem putBundle_regs (s : State) (b : Bundle) : (s.putBundle b).regs = s.regs := rfl
@[simp] theorem putBundle_charge (s : State) (b : Bundle) : (s.putBundle b).charge = s.charge := rfl
@[simp] theorem putBundle_hub (s : State) (b : Bundle) : (s.putBundle b).hub = s.hub := rfl
@[simp] theorem putBundle_parts (s : State) (b : Bundle) : (s.putBundle b).parts = s.parts := rfl
@[simp] theorem putBundle_net (s : State) (b : Bundle) : (s.putBundle b).net = s.net := rfl
@[simp] theorem putBundle_hubFx (s : State) (b : Bundle) : (s.putBundle b).hubFx = s.hubFx := rfl
@[simp] theorem putBundle_links (s : State) (b : Bundle) : (s.putBundle b).links = s.links := rfl
@[simp] theorem putBundle_phys (s : State) (b : Bundle) : (s.putBundle b).phys = s.phys := rfl
@[simp] theorem putBundle_pcie (s : State) (b : Bundle) : (s.putBundle b).pcie = s.pcie := rfl
@[simp] theorem putBundle_cp (s : State) (b : Bundle) : (s.putBundle b).cp = s.cp := rfl
@[simp] theorem putBundle_flash (s : State) (b : Bundle) : (s.putBundle b).flash = s.flash := rfl
@[simp] theorem putBundle_coll (s : State) (b : Bundle) : (s.putBundle b).coll = s.coll := rfl

/-! ### openRange -/

@[simp] theorem openRange_clock (s : State) (lo n : Nat) : (s.openRange lo n).clock = s.clock := rfl
@[simp] theorem openRange_focus (s : State) (lo n : Nat) : (s.openRange lo n).focus = s.focus := rfl
@[simp] theorem openRange_agenda (s : State) (lo n : Nat) : (s.openRange lo n).agenda = s.agenda := rfl
@[simp] theorem openRange_poison (s : State) (lo n : Nat) : (s.openRange lo n).poison = s.poison := rfl
@[simp] theorem openRange_mended (s : State) (lo n : Nat) : (s.openRange lo n).mended = s.mended := rfl
@[simp] theorem openRange_poisonBy (s : State) (lo n : Nat) : (s.openRange lo n).poisonBy = s.poisonBy := rfl
@[simp] theorem openRange_l1 (s : State) (lo n : Nat) : (s.openRange lo n).l1 = s.l1 := rfl
@[simp] theorem openRange_inflight (s : State) (lo n : Nat) : (s.openRange lo n).inflight = s.inflight := rfl
@[simp] theorem openRange_acks (s : State) (lo n : Nat) : (s.openRange lo n).acks = s.acks := rfl
@[simp] theorem openRange_armed (s : State) (lo n : Nat) : (s.openRange lo n).armed = s.armed := rfl
@[simp] theorem openRange_grids (s : State) (lo n : Nat) : (s.openRange lo n).grids = s.grids := rfl
@[simp] theorem openRange_crews (s : State) (lo n : Nat) : (s.openRange lo n).crews = s.crews := rfl
@[simp] theorem openRange_bundles (s : State) (lo n : Nat) : (s.openRange lo n).bundles = s.bundles := rfl
@[simp] theorem openRange_tft (s : State) (lo n : Nat) : (s.openRange lo n).tft = s.tft := rfl
@[simp] theorem openRange_xl (s : State) (lo n : Nat) : (s.openRange lo n).xl = s.xl := rfl
@[simp] theorem openRange_regs (s : State) (lo n : Nat) : (s.openRange lo n).regs = s.regs := rfl
@[simp] theorem openRange_charge (s : State) (lo n : Nat) : (s.openRange lo n).charge = s.charge := rfl
@[simp] theorem openRange_hub (s : State) (lo n : Nat) : (s.openRange lo n).hub = s.hub := rfl
@[simp] theorem openRange_parts (s : State) (lo n : Nat) : (s.openRange lo n).parts = s.parts := rfl
@[simp] theorem openRange_net (s : State) (lo n : Nat) : (s.openRange lo n).net = s.net := rfl
@[simp] theorem openRange_hubFx (s : State) (lo n : Nat) : (s.openRange lo n).hubFx = s.hubFx := rfl
@[simp] theorem openRange_links (s : State) (lo n : Nat) : (s.openRange lo n).links = s.links := rfl
@[simp] theorem openRange_phys (s : State) (lo n : Nat) : (s.openRange lo n).phys = s.phys := rfl
@[simp] theorem openRange_pcie (s : State) (lo n : Nat) : (s.openRange lo n).pcie = s.pcie := rfl
@[simp] theorem openRange_cp (s : State) (lo n : Nat) : (s.openRange lo n).cp = s.cp := rfl
@[simp] theorem openRange_flash (s : State) (lo n : Nat) : (s.openRange lo n).flash = s.flash := rfl
@[simp] theorem openRange_coll (s : State) (lo n : Nat) : (s.openRange lo n).coll = s.coll := rfl

theorem onBundle_frame (s : State) (k : BKey) (f : Bundle → Bundle) : s.onBundle k f = { s with bundles := (s.onBundle k f).bundles } := by
  unfold State.onBundle; split <;> rfl

theorem onCrew_frame (s : State) (k : CKey) (f : Crew → Crew) : s.onCrew k f = { s with crews := (s.onCrew k f).crews } := by
  unfold State.onCrew; split <;> rfl

theorem setBytes_frame (s : State) (a : Nat) (l : List Byte) :
    s.setBytes a l = { s with mem := (s.setBytes a l).mem, memOpen := (s.setBytes a l).memOpen } := by
  induction l generalizing s a with
  | nil => rfl
  | cons b r ih => rw [State.setBytes, ih]; rfl

/-! ### onBundle -/

@[simp] theorem onBundle_clock (s : State) (k : BKey) (f : Bundle → Bundle) : (s.onBundle k f).clock = s.clock := by rw [onBundle_frame]
@[simp] theorem onBundle_focus (s : State) (k : BKey) (f : Bundle → Bundle) : (s.onBundle k f).focus = s.focus := by rw [onBundle_frame]
@[simp] theorem onBundle_agenda (s : State) (k : BKey) (f : Bundle → Bundle) : (s.onBundle k f).agenda = s.agenda := by rw [onBundle_frame]
@[simp] theorem onBundle_free (s : State) (k : BKey) (f : Bundle → Bundle) : (s.onBundle k f).free = s.free := by rw [onBundle_frame]
@[simp] theorem onBundle_mem (s : State) (k : BKey) (f : Bundle → Bundle) : (s.onBundle k f).mem = s.mem := by rw [onBundle_frame]
@[simp] theorem onBundle_memOpen (s : State) (k : BKey) (f : Bundle → Bundle) : (s.onBundle k f).memOpen = s.memOpen := by rw [onBundle_frame]
@[simp] theorem onBundle_poison (s : State) (k : BKey) (f : Bundle → Bundle) : (s.onBundle k f).poison = s.poison := by rw [onBundle_frame]
@[simp] theorem onBundle_mended (s : State) (k : BKey) (f : Bundle → Bundle) : (s.onBundle k f).mended = s.mended := by rw [onBundle_frame]
@[simp] theorem onBundle_poisonBy (s : State) (k : BKey) (f : Bundle → Bundle) : (s.onBundle k f).poisonBy = s.poisonBy := by rw [onBundle_frame]
@[simp] theorem onBundle_l1 (s : State) (k : BKey) (f : Bundle → Bundle) : (s.onBundle k f).l1 = s.l1 := by rw [onBundle_frame]
@[simp] theorem onBundle_inflight (s : State) (k : BKey) (f : Bundle → Bundle) : (s.onBundle k f).inflight = s.inflight := by rw [onBundle_frame]
@[simp] theorem onBundle_acks (s : State) (k : BKey) (f : Bundle → Bundle) : (s.onBundle k f).acks = s.acks := by rw [onBundle_frame]
@[simp] theorem onBundle_armed (s : State) (k : BKey) (f : Bundle → Bundle) : (s.onBundle k f).armed = s.armed := by rw [onBundle_frame]
@[simp] theorem onBundle_grids (s : State) (k : BKey) (f : Bundle → Bundle) : (s.onBundle k f).grids = s.grids := by rw [onBundle_frame]
@[simp] theorem onBundle_crews (s : State) (k : BKey) (f : Bundle → Bundle) : (s.onBundle k f).crews = s.crews := by rw [onBundle_frame]
@[simp] theorem onBundle_tft (s : State) (k : BKey) (f : Bundle → Bundle) : (s.onBundle k f).tft = s.tft := by rw [onBundle_frame]
@[simp] theorem onBundle_xl (s : State) (k : BKey) (f : Bundle → Bundle) : (s.onBundle k f).xl = s.xl := by rw [onBundle_frame]
@[simp] theorem onBundle_regs (s : State) (k : BKey) (f : Bundle → Bundle) : (s.onBundle k f).regs = s.regs := by rw [onBundle_frame]
@[simp] theorem onBundle_charge (s : State) (k : BKey) (f : Bundle → Bundle) : (s.onBundle k f).charge = s.charge := by rw [onBundle_frame]
@[simp] theorem onBundle_hub (s : State) (k : BKey) (f : Bundle → Bundle) : (s.onBundle k f).hub = s.hub := by rw [onBundle_frame]
@[simp] theorem onBundle_parts (s : State) (k : BKey) (f : Bundle → Bundle) : (s.onBundle k f).parts = s.parts := by rw [onBundle_frame]
@[simp] theorem onBundle_net (s : State) (k : BKey) (f : Bundle → Bundle) : (s.onBundle k f).net = s.net := by rw [onBundle_frame]
@[simp] theorem onBundle_hubFx (s : State) (k : BKey) (f : Bundle → Bundle) : (s.onBundle k f).hubFx = s.hubFx := by rw [onBundle_frame]
@[simp] theorem onBundle_links (s : State) (k : BKey) (f : Bundle → Bundle) : (s.onBundle k f).links = s.links := by rw [onBundle_frame]
@[simp] theorem onBundle_phys (s : State) (k : BKey) (f : Bundle → Bundle) : (s.onBundle k f).phys = s.phys := by rw [onBundle_frame]
@[simp] theorem onBundle_pcie (s : State) (k : BKey) (f : Bundle → Bundle) : (s.onBundle k f).pcie = s.pcie := by rw [onBundle_frame]
@[simp] theorem onBundle_cp (s : State) (k : BKey) (f : Bundle → Bundle) : (s.onBundle k f).cp = s.cp := by rw [onBundle_frame]
@[simp] theorem onBundle_flash (s : State) (k : BKey) (f : Bundle → Bundle) : (s.onBundle k f).flash = s.flash := by rw [onBundle_frame]
@[simp] theorem onBundle_coll (s : State) (k : BKey) (f : Bundle → Bundle) : (s.onBundle k f).coll = s.coll := by rw [onBundle_frame]

/-! ### onCrew -/

@[simp] theorem onCrew_clock (s : State) (k : CKey) (f : Crew → Crew) : (s.onCrew k f).clock = s.clock := by rw [onCrew_frame]
@[simp] theorem onCrew_focus (s : State) (k : CKey) (f : Crew → Crew) : (s.onCrew k f).focus = s.focus := by rw [onCrew_frame]
@[simp] theorem onCrew_agenda (s : State) (k : CKey) (f : Crew → Crew) : (s.onCrew k f).agenda = s.agenda := by rw [onCrew_frame]
@[simp] theorem onCrew_free (s : State) (k : CKey) (f : Crew → Crew) : (s.onCrew k f).free = s.free := by rw [onCrew_frame]
@[simp] theorem onCrew_mem (s : State) (k : CKey) (f : Crew → Crew) : (s.onCrew k f).mem = s.mem := by rw [onCrew_frame]
@[simp] theorem onCrew_memOpen (s : State) (k : CKey) (f : Crew → Crew) : (s.onCrew k f).memOpen = s.memOpen := by rw [onCrew_frame]
@[simp] theorem onCrew_poison (s : State) (k : CKey) (f : Crew → Crew) : (s.onCrew k f).poison = s.poison := by rw [onCrew_frame]
@[simp] theorem onCrew_mended (s : State) (k : CKey) (f : Crew → Crew) : (s.onCrew k f).mended = s.mended := by rw [onCrew_frame]
@[simp] theorem onCrew_poisonBy (s : State) (k : CKey) (f : Crew → Crew) : (s.onCrew k f).poisonBy = s.poisonBy := by rw [onCrew_frame]
@[simp] theorem onCrew_l1 (s : State) (k : CKey) (f : Crew → Crew) : (s.onCrew k f).l1 = s.l1 := by rw [onCrew_frame]
@[simp] theorem onCrew_inflight (s : State) (k : CKey) (f : Crew → Crew) : (s.onCrew k f).inflight = s.inflight := by rw [onCrew_frame]
@[simp] theorem onCrew_acks (s : State) (k : CKey) (f : Crew → Crew) : (s.onCrew k f).acks = s.acks := by rw [onCrew_frame]
@[simp] theorem onCrew_armed (s : State) (k : CKey) (f : Crew → Crew) : (s.onCrew k f).armed = s.armed := by rw [onCrew_frame]
@[simp] theorem onCrew_grids (s : State) (k : CKey) (f : Crew → Crew) : (s.onCrew k f).grids = s.grids := by rw [onCrew_frame]
@[simp] theorem onCrew_bundles (s : State) (k : CKey) (f : Crew → Crew) : (s.onCrew k f).bundles = s.bundles := by rw [onCrew_frame]
@[simp] theorem onCrew_tft (s : State) (k : CKey) (f : Crew → Crew) : (s.onCrew k f).tft = s.tft := by rw [onCrew_frame]
@[simp] theorem onCrew_xl (s : State) (k : CKey) (f : Crew → Crew) : (s.onCrew k f).xl = s.xl := by rw [onCrew_frame]
@[simp] theorem onCrew_regs (s : State) (k : CKey) (f : Crew → Crew) : (s.onCrew k f).regs = s.regs := by rw [onCrew_frame]
@[simp] theorem onCrew_charge (s : State) (k : CKey) (f : Crew → Crew) : (s.onCrew k f).charge = s.charge := by rw [onCrew_frame]
@[simp] theorem onCrew_hub (s : State) (k : CKey) (f : Crew → Crew) : (s.onCrew k f).hub = s.hub := by rw [onCrew_frame]
@[simp] theorem onCrew_parts (s : State) (k : CKey) (f : Crew → Crew) : (s.onCrew k f).parts = s.parts := by rw [onCrew_frame]
@[simp] theorem onCrew_net (s : State) (k : CKey) (f : Crew → Crew) : (s.onCrew k f).net = s.net := by rw [onCrew_frame]
@[simp] theorem onCrew_hubFx (s : State) (k : CKey) (f : Crew → Crew) : (s.onCrew k f).hubFx = s.hubFx := by rw [onCrew_frame]
@[simp] theorem onCrew_links (s : State) (k : CKey) (f : Crew → Crew) : (s.onCrew k f).links = s.links := by rw [onCrew_frame]
@[simp] theorem onCrew_phys (s : State) (k : CKey) (f : Crew → Crew) : (s.onCrew k f).phys = s.phys := by rw [onCrew_frame]
@[simp] theorem onCrew_pcie (s : State) (k : CKey) (f : Crew → Crew) : (s.onCrew k f).pcie = s.pcie := by rw [onCrew_frame]
@[simp] theorem onCrew_cp (s : State) (k : CKey) (f : Crew → Crew) : (s.onCrew k f).cp = s.cp := by rw [onCrew_frame]
@[simp] theorem onCrew_flash (s : State) (k : CKey) (f : Crew → Crew) : (s.onCrew k f).flash = s.flash := by rw [onCrew_frame]
@[simp] theorem onCrew_coll (s : State) (k : CKey) (f : Crew → Crew) : (s.onCrew k f).coll = s.coll := by rw [onCrew_frame]

/-! ### setBytes -/

@[simp] theorem setBytes_clock (s : State) (a : Nat) (l : List Byte) : (s.setBytes a l).clock = s.clock := by rw [setBytes_frame]
@[simp] theorem setBytes_focus (s : State) (a : Nat) (l : List Byte) : (s.setBytes a l).focus = s.focus := by rw [setBytes_frame]
@[simp] theorem setBytes_agenda (s : State) (a : Nat) (l : List Byte) : (s.setBytes a l).agenda = s.agenda := by rw [setBytes_frame]
@[simp] theorem setBytes_free (s : State) (a : Nat) (l : List Byte) : (s.setBytes a l).free = s.free := by rw [setBytes_frame]
@[simp] theorem setBytes_poison (s : State) (a : Nat) (l : List Byte) : (s.setBytes a l).poison = s.poison := by rw [setBytes_frame]
@[simp] theorem setBytes_mended (s : State) (a : Nat) (l : List Byte) : (s.setBytes a l).mended = s.mended := by rw [setBytes_frame]
@[simp] theorem setBytes_poisonBy (s : State) (a : Nat) (l : List Byte) : (s.setBytes a l).poisonBy = s.poisonBy := by rw [setBytes_frame]
@[simp] theorem setBytes_l1 (s : State) (a : Nat) (l : List Byte) : (s.setBytes a l).l1 = s.l1 := by rw [setBytes_frame]
@[simp] theorem setBytes_inflight (s : State) (a : Nat) (l : List Byte) : (s.setBytes a l).inflight = s.inflight := by rw [setBytes_frame]
@[simp] theorem setBytes_acks (s : State) (a : Nat) (l : List Byte) : (s.setBytes a l).acks = s.acks := by rw [setBytes_frame]
@[simp] theorem setBytes_armed (s : State) (a : Nat) (l : List Byte) : (s.setBytes a l).armed = s.armed := by rw [setBytes_frame]
@[simp] theorem setBytes_grids (s : State) (a : Nat) (l : List Byte) : (s.setBytes a l).grids = s.grids := by rw [setBytes_frame]
@[simp] theorem setBytes_crews (s : State) (a : Nat) (l : List Byte) : (s.setBytes a l).crews = s.crews := by rw [setBytes_frame]
@[simp] theorem setBytes_bundles (s : State) (a : Nat) (l : List Byte) : (s.setBytes a l).bundles = s.bundles := by rw [setBytes_frame]
@[simp] theorem setBytes_tft (s : State) (a : Nat) (l : List Byte) : (s.setBytes a l).tft = s.tft := by rw [setBytes_frame]
@[simp] theorem setBytes_xl (s : State) (a : Nat) (l : List Byte) : (s.setBytes a l).xl = s.xl := by rw [setBytes_frame]
@[simp] theorem setBytes_regs (s : State) (a : Nat) (l : List Byte) : (s.setBytes a l).regs = s.regs := by rw [setBytes_frame]
@[simp] theorem setBytes_charge (s : State) (a : Nat) (l : List Byte) : (s.setBytes a l).charge = s.charge := by rw [setBytes_frame]
@[simp] theorem setBytes_hub (s : State) (a : Nat) (l : List Byte) : (s.setBytes a l).hub = s.hub := by rw [setBytes_frame]
@[simp] theorem setBytes_parts (s : State) (a : Nat) (l : List Byte) : (s.setBytes a l).parts = s.parts := by rw [setBytes_frame]
@[simp] theorem setBytes_net (s : State) (a : Nat) (l : List Byte) : (s.setBytes a l).net = s.net := by rw [setBytes_frame]
@[simp] theorem setBytes_hubFx (s : State) (a : Nat) (l : List Byte) : (s.setBytes a l).hubFx = s.hubFx := by rw [setBytes_frame]
@[simp] theorem setBytes_links (s : State) (a : Nat) (l : List Byte) : (s.setBytes a l).links = s.links := by rw [setBytes_frame]
@[simp] theorem setBytes_phys (s : State) (a : Nat) (l : List Byte) : (s.setBytes a l).phys = s.phys := by rw [setBytes_frame]
@[simp] theorem setBytes_pcie (s : State) (a : Nat) (l : List Byte) : (s.setBytes a l).pcie = s.pcie := by rw [setBytes_frame]
@[simp] theorem setBytes_cp (s : State) (a : Nat) (l : List Byte) : (s.setBytes a l).cp = s.cp := by rw [setBytes_frame]
@[simp] theorem setBytes_flash (s : State) (a : Nat) (l : List Byte) : (s.setBytes a l).flash = s.flash := by rw [setBytes_frame]
@[simp] theorem setBytes_coll (s : State) (a : Nat) (l : List Byte) : (s.setBytes a l).coll = s.coll := by rw [setBytes_frame]

/-! ### wr64 -/

@[simp] theorem wr64_clock (s : State) (a : Nat) (w : Word) : (s.wr64 a w).clock = s.clock := setBytes_clock s a _
@[simp] theorem wr64_focus (s : State) (a : Nat) (w : Word) : (s.wr64 a w).focus = s.focus := setBytes_focus s a _
@[simp] theorem wr64_agenda (s : State) (a : Nat) (w : Word) : (s.wr64 a w).agenda = s.agenda := setBytes_agenda s a _
@[simp] theorem wr64_free (s : State) (a : Nat) (w : Word) : (s.wr64 a w).free = s.free := setBytes_free s a _
@[simp] theorem wr64_poison (s : State) (a : Nat) (w : Word) : (s.wr64 a w).poison = s.poison := setBytes_poison s a _
@[simp] theorem wr64_mended (s : State) (a : Nat) (w : Word) : (s.wr64 a w).mended = s.mended := setBytes_mended s a _
@[simp] theorem wr64_poisonBy (s : State) (a : Nat) (w : Word) : (s.wr64 a w).poisonBy = s.poisonBy := setBytes_poisonBy s a _
@[simp] theorem wr64_l1 (s : State) (a : Nat) (w : Word) : (s.wr64 a w).l1 = s.l1 := setBytes_l1 s a _
@[simp] theorem wr64_inflight (s : State) (a : Nat) (w : Word) : (s.wr64 a w).inflight = s.inflight := setBytes_inflight s a _
@[simp] theorem wr64_acks (s : State) (a : Nat) (w : Word) : (s.wr64 a w).acks = s.acks := setBytes_acks s a _
@[simp] theorem wr64_armed (s : State) (a : Nat) (w : Word) : (s.wr64 a w).armed = s.armed := setBytes_armed s a _
@[simp] theorem wr64_grids (s : State) (a : Nat) (w : Word) : (s.wr64 a w).grids = s.grids := setBytes_grids s a _
@[simp] theorem wr64_crews (s : State) (a : Nat) (w : Word) : (s.wr64 a w).crews = s.crews := setBytes_crews s a _
@[simp] theorem wr64_bundles (s : State) (a : Nat) (w : Word) : (s.wr64 a w).bundles = s.bundles := setBytes_bundles s a _
@[simp] theorem wr64_tft (s : State) (a : Nat) (w : Word) : (s.wr64 a w).tft = s.tft := setBytes_tft s a _
@[simp] theorem wr64_xl (s : State) (a : Nat) (w : Word) : (s.wr64 a w).xl = s.xl := setBytes_xl s a _
@[simp] theorem wr64_regs (s : State) (a : Nat) (w : Word) : (s.wr64 a w).regs = s.regs := setBytes_regs s a _
@[simp] theorem wr64_charge (s : State) (a : Nat) (w : Word) : (s.wr64 a w).charge = s.charge := setBytes_charge s a _
@[simp] theorem wr64_hub (s : State) (a : Nat) (w : Word) : (s.wr64 a w).hub = s.hub := setBytes_hub s a _
@[simp] theorem wr64_parts (s : State) (a : Nat) (w : Word) : (s.wr64 a w).parts = s.parts := setBytes_parts s a _
@[simp] theorem wr64_net (s : State) (a : Nat) (w : Word) : (s.wr64 a w).net = s.net := setBytes_net s a _
@[simp] theorem wr64_hubFx (s : State) (a : Nat) (w : Word) : (s.wr64 a w).hubFx = s.hubFx := setBytes_hubFx s a _
@[simp] theorem wr64_links (s : State) (a : Nat) (w : Word) : (s.wr64 a w).links = s.links := setBytes_links s a _
@[simp] theorem wr64_phys (s : State) (a : Nat) (w : Word) : (s.wr64 a w).phys = s.phys := setBytes_phys s a _
@[simp] theorem wr64_pcie (s : State) (a : Nat) (w : Word) : (s.wr64 a w).pcie = s.pcie := setBytes_pcie s a _
@[simp] theorem wr64_cp (s : State) (a : Nat) (w : Word) : (s.wr64 a w).cp = s.cp := setBytes_cp s a _
@[simp] theorem wr64_flash (s : State) (a : Nat) (w : Word) : (s.wr64 a w).flash = s.flash := setBytes_flash s a _
@[simp] theorem wr64_coll (s : State) (a : Nat) (w : Word) : (s.wr64 a w).coll = s.coll := setBytes_coll s a _

/-! ### onArch -/

@[simp] theorem onArch_clock (s : State) (k : BKey) (f : Arch → Arch) : (s.onArch k f).clock = s.clock := onBundle_clock s k _
@[simp] theorem onArch_focus (s : State) (k : BKey) (f : Arch → Arch) : (s.onArch k f).focus = s.focus := onBundle_focus s k _
@[simp] theorem onArch_agenda (s : State) (k : BKey) (f : Arch → Arch) : (s.onArch k f).agenda = s.agenda := onBundle_agenda s k _
@[simp] theorem onArch_free (s : State) (k : BKey) (f : Arch → Arch) : (s.onArch k f).free = s.free := onBundle_free s k _
@[simp] theorem onArch_mem (s : State) (k : BKey) (f : Arch → Arch) : (s.onArch k f).mem = s.mem := onBundle_mem s k _
@[simp] theorem onArch_memOpen (s : State) (k : BKey) (f : Arch → Arch) : (s.onArch k f).memOpen = s.memOpen := onBundle_memOpen s k _
@[simp] theorem onArch_poison (s : State) (k : BKey) (f : Arch → Arch) : (s.onArch k f).poison = s.poison := onBundle_poison s k _
@[simp] theorem onArch_mended (s : State) (k : BKey) (f : Arch → Arch) : (s.onArch k f).mended = s.mended := onBundle_mended s k _
@[simp] theorem onArch_poisonBy (s : State) (k : BKey) (f : Arch → Arch) : (s.onArch k f).poisonBy = s.poisonBy := onBundle_poisonBy s k _
@[simp] theorem onArch_l1 (s : State) (k : BKey) (f : Arch → Arch) : (s.onArch k f).l1 = s.l1 := onBundle_l1 s k _
@[simp] theorem onArch_inflight (s : State) (k : BKey) (f : Arch → Arch) : (s.onArch k f).inflight = s.inflight := onBundle_inflight s k _
@[simp] theorem onArch_acks (s : State) (k : BKey) (f : Arch → Arch) : (s.onArch k f).acks = s.acks := onBundle_acks s k _
@[simp] theorem onArch_armed (s : State) (k : BKey) (f : Arch → Arch) : (s.onArch k f).armed = s.armed := onBundle_armed s k _
@[simp] theorem onArch_grids (s : State) (k : BKey) (f : Arch → Arch) : (s.onArch k f).grids = s.grids := onBundle_grids s k _
@[simp] theorem onArch_crews (s : State) (k : BKey) (f : Arch → Arch) : (s.onArch k f).crews = s.crews := onBundle_crews s k _
@[simp] theorem onArch_tft (s : State) (k : BKey) (f : Arch → Arch) : (s.onArch k f).tft = s.tft := onBundle_tft s k _
@[simp] theorem onArch_xl (s : State) (k : BKey) (f : Arch → Arch) : (s.onArch k f).xl = s.xl := onBundle_xl s k _
@[simp] theorem onArch_regs (s : State) (k : BKey) (f : Arch → Arch) : (s.onArch k f).regs = s.regs := onBundle_regs s k _
@[simp] theorem onArch_charge (s : State) (k : BKey) (f : Arch → Arch) : (s.onArch k f).charge = s.charge := onBundle_charge s k _
@[simp] theorem onArch_hub (s : State) (k : BKey) (f : Arch → Arch) : (s.onArch k f).hub = s.hub := onBundle_hub s k _
@[simp] theorem onArch_parts (s : State) (k : BKey) (f : Arch → Arch) : (s.onArch k f).parts = s.parts := onBundle_parts s k _
@[simp] theorem onArch_net (s : State) (k : BKey) (f : Arch → Arch) : (s.onArch k f).net = s.net := onBundle_net s k _
@[simp] theorem onArch_hubFx (s : State) (k : BKey) (f : Arch → Arch) : (s.onArch k f).hubFx = s.hubFx := onBundle_hubFx s k _
@[simp] theorem onArch_links (s : State) (k : BKey) (f : Arch → Arch) : (s.onArch k f).links = s.links := onBundle_links s k _
@[simp] theorem onArch_phys (s : State) (k : BKey) (f : Arch → Arch) : (s.onArch k f).phys = s.phys := onBundle_phys s k _
@[simp] theorem onArch_pcie (s : State) (k : BKey) (f : Arch → Arch) : (s.onArch k f).pcie = s.pcie := onBundle_pcie s k _
@[simp] theorem onArch_cp (s : State) (k : BKey) (f : Arch → Arch) : (s.onArch k f).cp = s.cp := onBundle_cp s k _
@[simp] theorem onArch_flash (s : State) (k : BKey) (f : Arch → Arch) : (s.onArch k f).flash = s.flash := onBundle_flash s k _
@[simp] theorem onArch_coll (s : State) (k : BKey) (f : Arch → Arch) : (s.onArch k f).coll = s.coll := onBundle_coll s k _

/-! ### onPath -/

@[simp] theorem onPath_clock (s : State) (c : Cur) (f : Path → Path) : (s.onPath c f).clock = s.clock := onBundle_clock s _ _
@[simp] theorem onPath_focus (s : State) (c : Cur) (f : Path → Path) : (s.onPath c f).focus = s.focus := onBundle_focus s _ _
@[simp] theorem onPath_agenda (s : State) (c : Cur) (f : Path → Path) : (s.onPath c f).agenda = s.agenda := onBundle_agenda s _ _
@[simp] theorem onPath_free (s : State) (c : Cur) (f : Path → Path) : (s.onPath c f).free = s.free := onBundle_free s _ _
@[simp] theorem onPath_mem (s : State) (c : Cur) (f : Path → Path) : (s.onPath c f).mem = s.mem := onBundle_mem s _ _
@[simp] theorem onPath_memOpen (s : State) (c : Cur) (f : Path → Path) : (s.onPath c f).memOpen = s.memOpen := onBundle_memOpen s _ _
@[simp] theorem onPath_poison (s : State) (c : Cur) (f : Path → Path) : (s.onPath c f).poison = s.poison := onBundle_poison s _ _
@[simp] theorem onPath_mended (s : State) (c : Cur) (f : Path → Path) : (s.onPath c f).mended = s.mended := onBundle_mended s _ _
@[simp] theorem onPath_poisonBy (s : State) (c : Cur) (f : Path → Path) : (s.onPath c f).poisonBy = s.poisonBy := onBundle_poisonBy s _ _
@[simp] theorem onPath_l1 (s : State) (c : Cur) (f : Path → Path) : (s.onPath c f).l1 = s.l1 := onBundle_l1 s _ _
@[simp] theorem onPath_inflight (s : State) (c : Cur) (f : Path → Path) : (s.onPath c f).inflight = s.inflight := onBundle_inflight s _ _
@[simp] theorem onPath_acks (s : State) (c : Cur) (f : Path → Path) : (s.onPath c f).acks = s.acks := onBundle_acks s _ _
@[simp] theorem onPath_armed (s : State) (c : Cur) (f : Path → Path) : (s.onPath c f).armed = s.armed := onBundle_armed s _ _
@[simp] theorem onPath_grids (s : State) (c : Cur) (f : Path → Path) : (s.onPath c f).grids = s.grids := onBundle_grids s _ _
@[simp] theorem onPath_crews (s : State) (c : Cur) (f : Path → Path) : (s.onPath c f).crews = s.crews := onBundle_crews s _ _
@[simp] theorem onPath_tft (s : State) (c : Cur) (f : Path → Path) : (s.onPath c f).tft = s.tft := onBundle_tft s _ _
@[simp] theorem onPath_xl (s : State) (c : Cur) (f : Path → Path) : (s.onPath c f).xl = s.xl := onBundle_xl s _ _
@[simp] theorem onPath_regs (s : State) (c : Cur) (f : Path → Path) : (s.onPath c f).regs = s.regs := onBundle_regs s _ _
@[simp] theorem onPath_charge (s : State) (c : Cur) (f : Path → Path) : (s.onPath c f).charge = s.charge := onBundle_charge s _ _
@[simp] theorem onPath_hub (s : State) (c : Cur) (f : Path → Path) : (s.onPath c f).hub = s.hub := onBundle_hub s _ _
@[simp] theorem onPath_parts (s : State) (c : Cur) (f : Path → Path) : (s.onPath c f).parts = s.parts := onBundle_parts s _ _
@[simp] theorem onPath_net (s : State) (c : Cur) (f : Path → Path) : (s.onPath c f).net = s.net := onBundle_net s _ _
@[simp] theorem onPath_hubFx (s : State) (c : Cur) (f : Path → Path) : (s.onPath c f).hubFx = s.hubFx := onBundle_hubFx s _ _
@[simp] theorem onPath_links (s : State) (c : Cur) (f : Path → Path) : (s.onPath c f).links = s.links := onBundle_links s _ _
@[simp] theorem onPath_phys (s : State) (c : Cur) (f : Path → Path) : (s.onPath c f).phys = s.phys := onBundle_phys s _ _
@[simp] theorem onPath_pcie (s : State) (c : Cur) (f : Path → Path) : (s.onPath c f).pcie = s.pcie := onBundle_pcie s _ _
@[simp] theorem onPath_cp (s : State) (c : Cur) (f : Path → Path) : (s.onPath c f).cp = s.cp := onBundle_cp s _ _
@[simp] theorem onPath_flash (s : State) (c : Cur) (f : Path → Path) : (s.onPath c f).flash = s.flash := onBundle_flash s _ _
@[simp] theorem onPath_coll (s : State) (c : Cur) (f : Path → Path) : (s.onPath c f).coll = s.coll := onBundle_coll s _ _

/-! ### Bundles and crews by name -/

theorem bundle?_key {s : State} {k : BKey} {b : Bundle} (h : s.bundle? k = some b) : b.key = k := by
  simpa using List.find?_some h

theorem crew?_key {s : State} {k : CKey} {c : Crew} (h : s.crew? k = some c) : c.key = k := by
  simpa using List.find?_some h

theorem find?_map_put {α κ : Type} [DecidableEq κ] (key : α → κ) (l : List α) (x : α) (j : κ) :
    (l.map fun y => if key y == key x then x else y).find? (fun y => key y == j)
      = if j = key x then (l.find? fun y => key y == j).map fun _ => x else l.find? fun y => key y == j := by
  induction l with
  | nil => simp
  | cons a r ih =>
    simp only [List.map_cons, List.find?_cons, ih]
    by_cases h : key a = key x <;> by_cases hj : j = key x
    · subst hj; simp [h]
    · have h' : (key x == j) = false := by simpa using Ne.symm hj
      simp [h, hj, h']
    · subst hj
      have h' : (key a == key x) = false := by simpa using h
      simp [h, h']
    · simp [h, hj]

theorem bundle?_putBundle (s : State) (b : Bundle) (j : BKey) :
    (s.putBundle b).bundle? j = if j = b.key then (s.bundle? j).map fun _ => b else s.bundle? j := find?_map_put Bundle.key s.bundles b j

theorem crew?_putCrew (s : State) (c : Crew) (j : CKey) :
    (s.putCrew c).crew? j = if j = c.key then (s.crew? j).map fun _ => c else s.crew? j := find?_map_put Crew.key s.crews c j

theorem bundle?_onBundle_self {s : State} {k : BKey} {b : Bundle} {f : Bundle → Bundle} (h : s.bundle? k = some b) (hf : (f b).key = b.key) :
    (s.onBundle k f).bundle? k = some (f b) := by
  have e := bundle?_key h
  simp only [State.onBundle, h, bundle?_putBundle, hf, e, if_true, Option.map_some]

theorem bundle?_onBundle_ne {s : State} {k j : BKey} {f : Bundle → Bundle} (hf : ∀ b, (f b).key = b.key) (hj : j ≠ k) :
    (s.onBundle k f).bundle? j = s.bundle? j := by
  unfold State.onBundle
  cases h : s.bundle? k with
  | none => rfl
  | some b => simp [bundle?_putBundle, hf, bundle?_key h, hj]

theorem crew?_onCrew_self {s : State} {k : CKey} {c : Crew} {f : Crew → Crew} (h : s.crew? k = some c) (hf : (f c).key = c.key) :
    (s.onCrew k f).crew? k = some (f c) := by
  have e := crew?_key h
  simp only [State.onCrew, h, crew?_putCrew, hf, e, if_true, Option.map_some]

theorem crew?_onCrew_ne {s : State} {k j : CKey} {f : Crew → Crew} (hf : ∀ c, (f c).key = c.key) (hj : j ≠ k) :
    (s.onCrew k f).crew? j = s.crew? j := by
  unfold State.onCrew
  cases h : s.crew? k with
  | none => rfl
  | some c => simp [crew?_putCrew, hf, crew?_key h, hj]

@[simp] theorem crew?_onBundle (s : State) (k : BKey) (f : Bundle → Bundle) (j : CKey) : (s.onBundle k f).crew? j = s.crew? j := by
  simp [State.crew?]

@[simp] theorem bundle?_onCrew (s : State) (k : CKey) (f : Crew → Crew) (j : BKey) : (s.onCrew k f).bundle? j = s.bundle? j := by
  simp [State.bundle?]

/-! ### Device registers -/

theorem reg_setReg_self (s : State) (o : Nat) (w : Word) : (s.setReg o w).reg o = w := by
  simp [State.reg, State.setReg, mapGet_mapPut_self]

theorem reg_setReg_ne (s : State) {o j : Nat} (w : Word) (h : j ≠ o) : (s.setReg o w).reg j = s.reg j := by
  simp [State.reg, State.setReg, mapGet_mapPut_ne _ _ h]

/-! ### The issuer -/

theorem cur_bundle {s : State} {c : Cur} (h : s.cur = some c) : s.bundle? c.b.key = some c.b := by
  unfold State.cur at h
  split at h
  · cases h
  · split at h
    · rename_i b _ _ hb _ _
      split at h
      · split at h
        · cases h
          rw [bundle?_key hb]
          exact hb
        · cases h
      · cases h
    · cases h

theorem cur_path {s : State} {c : Cur} (h : s.cur = some c) : c.b.arch.path c.slot = some c.p := by
  unfold State.cur at h
  split at h
  · cases h
  · split at h
    · split at h
      · split at h
        · cases h
          assumption
        · cases h
      · cases h
    · cases h

end Sys2Proof.Machine
end

