-- ==== Sys2Proof/Laws/Issue.lean ====
section
/-! SUPPORT. What an issue can do, once for all instructions, and what an issue leaves before the instruction's own effect. -/

namespace Sys2Proof.Machine

/-- Where no lane is shared, an issue's effect stays as it is (R340). -/
theorem clashed_none {t : State} {c : Cur} {n : Need} (h : c.b.arch.clash = 0) : t.clashed c n = t := by
  simp [State.clashed, h]

/-- An instruction that may issue and meets no fault of its own has its effect. -/
theorem issue_ready {s : State} {c : Cur} {need : Cur → Need} {own : Cur → Own} {skip : Path → Path} {body : Cur → State → State}
    (h : Ready s c (need c)) (ho : own c = .go) : s.issue need own skip body = .next (body c (s.issued c (need c))) := by
  obtain ⟨h1, h2, h3, h4, h5, h6, h7⟩ := h
  simp [State.issue, h1, h2, h3, h4, h5, h6, ho, clashed_none h7]

/-- The ends of an issue with the needs n, the answer q of the instruction's own checks, the path after it under a false predicate, and its effect. -/
inductive IssueEnd (s : State) (c : Cur) (n : Need) (q : Own) (skip : Path → Path) (effect : State → State) : State → Prop
  | notYet (h : (!c.eligible || s.heldUp c n) = true) : IssueEnd s c n q skip effect (s.notIssued c)
  | checked (k : Nat) (h : gate c n = .trap k) : IssueEnd s c n q skip effect (s.trapAll c k (c.active n.pred))
  | blocked (h : gate c n = .block ∨ q = .block) : IssueEnd s c n q skip effect (s.stopAt c)
  | ignored (h : c.ignored n = true) : IssueEnd s c n q skip effect ((s.issued c { cls := n.cls, cost := n.cost }).onPath c skip)
  | poisoned (h : c.badSrc n = true) : IssueEnd s c n q skip effect (s.haltBundle c 0x20 0 0)
  | waits (f : State → State) (h : q = .wait f) : IssueEnd s c n q skip effect ((f s).stopAt c)
  | leaves (f : State → State) (h : q = .hold f) : IssueEnd s c n q skip effect (f s)
  | traps (k : Nat) (F : Word) (a : Nat → Word) (h : q = .trap k F a) : IssueEnd s c n q skip effect (s.takeTrap c k F a)
  | done (h : q = .go) : IssueEnd s c n q skip effect ((effect (s.issued c n)).clashed c n)

/-- Everything an issue can do. -/
theorem issue_cases {s t : State} {need : Cur → Need} {own : Cur → Own} {skip : Path → Path} {body : Cur → State → State}
    (h : s.issue need own skip body = .next t) : ∃ c, s.cur = some c ∧ IssueEnd s c (need c) (own c) skip (body c) t := by
  unfold State.issue at h
  split at h
  · cases h
  rename_i c hc
  refine ⟨c, hc, ?_⟩
  split at h
  · cases h; exact .notYet ‹_›
  split at h
  · cases h; exact .checked _ ‹_›
  · cases h; exact .blocked (Or.inl ‹_›)
  split at h
  · cases h; exact .ignored ‹_›
  split at h
  · cases h; exact .poisoned ‹_›
  split at h <;> cases h
  · exact .blocked (Or.inr ‹_›)
  · exact .waits _ ‹_›
  · exact .leaves _ ‹_›
  · exact .traps _ _ _ ‹_›
  · exact .done ‹_›

/-- An issue stops only where no bundle issues. -/
theorem issue_answers {s : State} {c : Cur} {need : Cur → Need} {own : Cur → Own} {skip : Path → Path} {body : Cur → State → State}
    (h : s.cur = some c) : ∃ t, s.issue need own skip body = .next t := by
  unfold State.issue
  rw [h]
  dsimp only
  repeat' split
  all_goals exact ⟨_, rfl⟩

/-- A trap of the checks. -/
theorem issue_trap {s : State} {c : Cur} {need : Cur → Need} {own : Cur → Own} {skip : Path → Path} {body : Cur → State → State} {k : Nat}
    (h : s.cur = some c) (he : c.eligible = true) (hp : s.heldUp c (need c) = false) (hg : gate c (need c) = .trap k) :
    s.issue need own skip body = .next (s.trapAll c k (c.active (need c).pred)) := by
  simp [State.issue, h, he, hp, hg]

/-- An instruction that blocks stops its clause and changes nothing else. -/
theorem issue_block {s : State} {c : Cur} {need : Cur → Need} {own : Cur → Own} {skip : Path → Path} {body : Cur → State → State}
    (h : s.cur = some c) (he : c.eligible = true) (hp : s.heldUp c (need c) = false) (hg : gate c (need c) = .block) :
    s.issue need own skip body = .next (s.stopAt c) := by
  simp [State.issue, h, he, hp, hg]

/-- An instruction whose own checks block stops its clause and changes nothing else. -/
theorem issue_own_block {s : State} {c : Cur} {need : Cur → Need} {own : Cur → Own} {skip : Path → Path} {body : Cur → State → State}
    (h : Ready s c (need c)) (ho : own c = .block) : s.issue need own skip body = .next (s.stopAt c) := by
  obtain ⟨h1, h2, h3, h4, h5, h6, _⟩ := h
  simp [State.issue, h1, h2, h3, h4, h5, h6, ho]

/-- A stopped clause changes only its bundle's lane blocks and the slots known to be blocked. -/
theorem stopAt_bundle {s : State} {c : Cur} (h : s.cur = some c) : (s.stopAt c).bundle? c.b.key = some (c.b.stop c.slot) :=
  bundle?_onBundle_self (f := fun b => b.stop c.slot) (cur_bundle h) rfl

theorem stopAt_frame (s : State) (c : Cur) : s.stopAt c = { s with bundles := (s.stopAt c).bundles } := onBundle_frame _ _ _

theorem noteCharge_frame (s : State) (k t n : Nat) : s.noteCharge k t n = { s with charge := (s.noteCharge k t n).charge } := rfl

theorem charged_frame (s : State) (k t n : Nat) : s.charged k t n = { s with regs := (s.charged k t n).regs, charge := (s.charged k t n).charge } := by
  unfold State.charged
  dsimp only
  split <;> rfl

theorem charged_reg (s : State) (k t n : Nat) {o : Nat} (h : o ≠ 0x400 + 8 * t) : (s.charged k t n).reg o = s.reg o := by
  unfold State.charged
  dsimp only
  split
  · rfl
  · rw [reg_setReg_ne _ _ h]; rfl

@[simp] theorem charged_bundle? (s : State) (k t n : Nat) (b : BKey) : (s.charged k t n).bundle? b = s.bundle? b := by
  rw [charged_frame]; rfl

@[simp] theorem charged_byte (s : State) (k t n a : Nat) : (s.charged k t n).byte a = s.byte a := by
  rw [charged_frame]; rfl

theorem issued_frame (s : State) (c : Cur) (n : Need) :
    s.issued c n = { s with bundles := (s.issued c n).bundles, free := (s.issued c n).free, regs := (s.issued c n).regs, charge := (s.issued c n).charge } := by
  unfold State.issued
  dsimp only
  rw [charged_frame, onBundle_frame]

theorem issued_reg (s : State) (c : Cur) (n : Need) {o : Nat} (h : o ≠ 0x400 + 8 * c.g.tenant) : (s.issued c n).reg o = s.reg o := by
  unfold State.issued
  dsimp only
  rw [charged_reg _ _ _ _ h, onBundle_frame]
  rfl

@[simp] theorem issued_byte (s : State) (c : Cur) (n : Need) (a : Nat) : (s.issued c n).byte a = s.byte a := by
  rw [issued_frame]; rfl

theorem issued_bundle {s : State} {c : Cur} (h : s.cur = some c) (n : Need) :
    (s.issued c n).bundle? c.b.key = some ((c.b.issued c.slot c.g.width s.clock s.free n.kills).enter c n s.clock) := by
  unfold State.issued
  dsimp only
  rw [charged_bundle?]
  exact bundle?_onBundle_self (f := fun b => (b.issued c.slot c.g.width s.clock s.free n.kills).enter c n s.clock) (cur_bundle h) rfl

theorem issued_others (s : State) (c : Cur) (n : Need) {k : BKey} (h : k ≠ c.b.key) : (s.issued c n).bundle? k = s.bundle? k := by
  unfold State.issued
  dsimp only
  rw [charged_bundle?]
  exact bundle?_onBundle_ne (fun _ => rfl) h

end Sys2Proof.Machine
end

