-- ==== Sys2Proof/Laws/Bundle.lean ====
section
/-! SUPPORT. What the issue of an instruction and the write of one register leave in the issuing bundle. -/

namespace Sys2Proof.Machine

theorem onArch_bundle {s : State} {k : BKey} {b : Bundle} (f : Arch → Arch) (h : s.bundle? k = some b) :
    (s.onArch k f).bundle? k = some { b with arch := f b.arch } := bundle?_onBundle_self (f := fun b => { b with arch := f b.arch }) h rfl

theorem bankGet_mapPut_self (r : Bank) (fid k : Nat) (v : Word) : bankGet (mapPut r k (.val v)) fid k = v := by
  simp [bankGet, mapGet_mapPut_self]
theorem bankGet_mapPut_ne (r : Bank) (fid : Nat) {k j : Nat} (v : RVal) (h : j ≠ k) : bankGet (mapPut r k v) fid j = bankGet r fid j := by
  simp [bankGet, mapGet_mapPut_ne _ _ h]

theorem bankGet_free (ks : List Nat) (r : Bank) (fid id j : Nat) (h : j ∉ ks) :
    bankGet (ks.foldl (fun r k => bankFree r k id) r) fid j = bankGet r fid j := by
  induction ks generalizing r with
  | nil => rfl
  | cons k ks ih =>
    simp only [List.mem_cons, not_or] at h
    rw [List.foldl_cons, ih _ h.2]
    exact bankGet_mapPut_ne _ _ _ h.1

theorem path_setPath (a : Arch) (s : Bool) (p : Option Path) : (a.setPath s p).path s = p := by cases s <;> rfl
theorem path_setPath_not (a : Arch) (s : Bool) (p : Option Path) : (a.setPath s p).path (!s) = a.path (!s) := by cases s <;> rfl
theorem setPath_regs (a : Arch) (s : Bool) (p : Option Path) : (a.setPath s p).regs = a.regs := by cases s <;> rfl
theorem setPath_awaits (a : Arch) (s : Bool) (p : Option Path) : (a.setPath s p).awaits = a.awaits := by cases s <;> rfl
theorem setPath_rest (a : Arch) (s : Bool) (p : Option Path) : a.setPath s p = { a with slot0 := (a.setPath s p).slot0, slot1 := (a.setPath s p).slot1 } := by
  cases s <;> rfl

/-- Kill marks change registers they name and, for m0, the mask of the issuing path (R191). -/
theorem killed_spec (a : Arch) (slot : Bool) (w id : Nat) (ks : List (Src × Bool)) (p : Path) (hp : a.path slot = some p) (fid : Nat) :
    ∃ q, (a.killed slot w id ks).path slot = some q ∧ { q with mask := p.mask } = p ∧ ((∀ k ∈ ks, k.1.sel ≠ .m 0) → q.mask = p.mask) ∧
      (a.killed slot w id ks).path (!slot) = a.path (!slot) ∧
      a.killed slot w id ks = { a with regs := (a.killed slot w id ks).regs, slot0 := (a.killed slot w id ks).slot0, slot1 := (a.killed slot w id ks).slot1 } ∧
      ∀ k, k ∉ ks.flatMap (killKeys w) → bankGet (a.killed slot w id ks).regs fid k = bankGet a.regs fid k := by
  unfold Arch.killed
  dsimp only
  split
  · rename_i h
    have hp' : ({ a with regs := (ks.flatMap (killKeys w)).foldl (fun r k => bankFree r k id) a.regs } : Arch).path slot = some p := by
      cases slot <;> exact hp
    rw [hp']
    simp only [path_setPath, Option.map_some, path_setPath_not]
    refine ⟨_, rfl, rfl, ?_, ?_, ?_, ?_⟩
    · intro hk
      exfalso
      obtain ⟨y, hy, hs⟩ := List.any_eq_true.1 h
      exact hk y hy (by simpa using hs)
    · cases slot <;> rfl
    · cases slot <;> rfl
    · intro k hk
      rw [show (Arch.setPath _ slot _).regs = _ by cases slot <;> rfl]
      exact bankGet_free _ _ _ _ _ hk
  · refine ⟨p, by cases slot <;> exact hp, rfl, fun _ => rfl, by cases slot <;> rfl, rfl, fun k hk => bankGet_free _ _ _ _ _ hk⟩

/-- What an issue leaves of the bundle's architectural state: the kill marks' doing, and the issuing path's clause begun (R168, R191). -/
theorem entered_spec (c : Cur) (n : Need) (now id : Nat) (hp : c.b.arch.path c.slot = some c.p) (fid : Nat) :
    ∃ a q, ((c.b.issued c.slot c.g.width now id n.kills).enter c n now).arch = a ∧ a.path c.slot = some q ∧ { q with mask := c.p.mask } = c.begunPath ∧
      ((∀ k ∈ n.kills, k.1.sel ≠ .m 0) → q.mask = c.p.mask) ∧ a.path (!c.slot) = c.b.arch.path (!c.slot) ∧
      a = { c.b.arch with regs := a.regs, slot0 := a.slot0, slot1 := a.slot1 } ∧
      ∀ k, k ∉ killed c n → bankGet a.regs fid k = bankGet c.b.arch.regs fid k := by
  obtain ⟨q, h1, h2, h3, h4, h5, h6⟩ := killed_spec c.b.arch c.slot c.g.width id n.kills c.p hp fid
  have e : ((c.b.issued c.slot c.g.width now id n.kills).enter c n now).arch =
      (c.b.arch.killed c.slot c.g.width id n.kills).setPath c.slot (((c.b.arch.killed c.slot c.g.width id n.kills).path c.slot).map fun p => { p with begun := true }) := rfl
  rw [h1] at e
  refine ⟨_, { q with begun := true }, e, path_setPath _ _ _, congrArg (fun r : Path => { r with begun := true }) h2, h3, ?_, ?_, fun k hk => ?_⟩
  · rw [path_setPath_not, h4]
  · rw [setPath_rest, h5]
  · rw [setPath_regs]
    exact h6 k hk

/-- Poison after keys have been written: it leaves just those. -/
theorem mem_filter_ne {k j : Nat} {l : List Nat} (h : k ≠ j) : (k ∈ l.filter fun x => x != j) ↔ k ∈ l := by
  simp [h]

/-- What writing a scalar or mask destination does to an arch that does not hold m0 poisoned. -/
theorem setDst_spec (a : Arch) (slot : Bool) (w : Nat) (d : Sel) (v : Word) (p : Path) (hp : a.path slot = some p) (hm : mKey 0 ∉ a.bad) :
    ∃ q, (a.setDst slot w d v).path slot = some q ∧ { q with mask := p.mask } = p ∧ (d ≠ .m 0 → q.mask = p.mask) ∧ (d = .m 0 → q.mask = v &&& lanesOf w) ∧
      (a.setDst slot w d v).path (!slot) = a.path (!slot) ∧
      (a.setDst slot w d v) = { a with regs := (a.setDst slot w d v).regs, bad := (a.setDst slot w d v).bad, awaits := filled a.awaits d, slot0 := (a.setDst slot w d v).slot0, slot1 := (a.setDst slot w d v).slot1 } ∧
      (∀ fid k, k ∉ dstKeys d → bankGet (a.setDst slot w d v).regs fid k = bankGet a.regs fid k ∧ (k ∈ (a.setDst slot w d v).bad ↔ k ∈ a.bad)) ∧
      ∀ fid k, k ∈ dstKeys d → bankGet (a.setDst slot w d v).regs fid k = v := by
  cases d with
  | s n =>
    refine ⟨p, by cases slot <;> exact hp, rfl, fun _ => rfl, by simp, by cases slot <;> rfl, ?_, ?_, ?_⟩
    · simp [Arch.setDst, Arch.setS, Arch.put, Arch.fill, filled]
    · intro fid k hk
      simp only [dstKeys, List.mem_singleton] at hk
      simp only [Arch.setDst, Arch.setS, Arch.put, Arch.fill]
      exact ⟨bankGet_mapPut_ne _ _ _ hk, mem_filter_ne hk⟩
    · intro fid k hk
      simp only [dstKeys, List.mem_singleton] at hk
      subst hk
      simp only [Arch.setDst, Arch.setS, Arch.put, Arch.fill]
      exact bankGet_mapPut_self _ _ _ _
  | m n =>
    by_cases hn : n.val = 0
    · have hn' : n = 0 := Fin.ext hn
      subst hn'
      have hb : (a.bad.filter fun x => x != mKey 0) = a.bad := List.filter_eq_self.2 fun x hx => by
        rw [bne_iff_ne]; rintro rfl; exact hm hx
      simp only [Arch.setDst, Arch.setM, Fin.val_zero, if_true, hp, dstKeys, hb]
      refine ⟨{ p with mask := v &&& lanesOf w }, by cases slot <;> rfl, rfl, by simp, by simp, by cases slot <;> rfl, ?_, ?_, by simp⟩
      · cases slot <;> rfl
      · intro fid k _; cases slot <;> exact ⟨rfl, Iff.rfl⟩
    · have hn' : n ≠ 0 := fun e => hn (by rw [e]; rfl)
      simp only [Arch.setDst, Arch.setM, hn, if_false, dstKeys]
      refine ⟨p, by cases slot <;> exact hp, rfl, fun _ => rfl, by simp [hn'], by cases slot <;> rfl, ?_, ?_, ?_⟩
      · simp [Arch.put, Arch.fill, filled]
      · intro fid k hk
        simp only [List.mem_singleton] at hk
        simp only [Arch.put, Arch.fill]
        exact ⟨bankGet_mapPut_ne _ _ _ hk, mem_filter_ne hk⟩
      · intro fid k hk
        simp only [List.mem_singleton] at hk
        subst hk
        simp only [Arch.put, Arch.fill]
        exact bankGet_mapPut_self _ _ _ _
  | v n => exact ⟨p, hp, rfl, fun _ => rfl, by simp, rfl, rfl, fun _ _ _ => ⟨rfl, Iff.rfl⟩, by simp [dstKeys]⟩
  | litS => exact ⟨p, hp, rfl, fun _ => rfl, by simp, rfl, rfl, fun _ _ _ => ⟨rfl, Iff.rfl⟩, by simp [dstKeys]⟩
  | litZ => exact ⟨p, hp, rfl, fun _ => rfl, by simp, rfl, rfl, fun _ _ _ => ⟨rfl, Iff.rfl⟩, by simp [dstKeys]⟩
  | const n => exact ⟨p, hp, rfl, fun _ => rfl, by simp, rfl, rfl, fun _ _ _ => ⟨rfl, Iff.rfl⟩, by simp [dstKeys]⟩

theorem bundle_arch_path (b : Bundle) (a : Arch) : ({ b with arch := a } : Bundle).arch = a := rfl

theorem onArch_others (s : State) {k j : BKey} (f : Arch → Arch) (h : j ≠ k) : (s.onArch k f).bundle? j = s.bundle? j :=
  bundle?_onBundle_ne (fun _ => rfl) h

theorem onArch_frame (s : State) (k : BKey) (f : Arch → Arch) : s.onArch k f = { s with bundles := (s.onArch k f).bundles } := onBundle_frame _ _ _

theorem ownOnly_onArch {s t : State} {c : Cur} (f : Arch → Arch) (h : OwnOnly s t c) : OwnOnly s (t.onArch c.b.key f) c := by
  obtain ⟨h1, h2, h3, h4⟩ := h
  rw [onArch_frame]
  refine ⟨?_, ?_, ?_, ?_⟩
  · rw [h1]
  · intro a
    rw [← h2 a]; rfl
  · intro k hk
    rw [← h3 k hk, ← onArch_others t f hk]; rfl
  · intro o ho
    rw [← h4 o ho]; rfl

theorem ownOnly_issued {s : State} {c : Cur} (n : Need) : OwnOnly s (s.issued c n) c :=
  ⟨issued_frame s c n, fun a => issued_byte s c n a, fun _ h => issued_others s c n h, fun _ h => issued_reg s c n h⟩

theorem advance_mask (p : Path) : p.advance.mask = p.mask := by
  unfold Path.advance Path.goto
  split
  · rfl
  · split <;> rfl

theorem advance_withMask (p : Path) (m : Word) : ({ p with mask := m } : Path).advance = { p.advance with mask := m } := by
  unfold Path.advance Path.goto
  dsimp only
  split
  · rfl
  · split <;> rfl

theorem onPath_spec (a : Arch) (slot : Bool) (f : Path → Path) (p : Path) (hp : a.path slot = some p) :
    a.setPath slot ((a.path slot).map f) = a.setPath slot (some (f p)) := by rw [hp]; rfl

/-- An instruction that may issue reads no poisoned m0. -/
theorem ready_m0 {s : State} {c : Cur} {n : Need} (h : Ready s c n) : mKey 0 ∉ c.b.arch.bad := fun hm => by
  have h6 := h.2.2.2.2.2
  have he : c.b.arch.bad.isEmpty = false := by cases hb : c.b.arch.bad with | nil => rw [hb] at hm; cases hm | cons => rfl
  simp [Cur.badSrc, he, hm] at h6

/-- An instruction whose meaning is the write of one scalar or mask register and an advance. -/
theorem writesOne_of {s : State} {c : Cur} {n : Need} {i : Instr} {d : Sel} {v : Word} (hc : s.cur = some c)
    (hm : mKey 0 ∉ c.b.arch.bad) (h : exec i s = .next (((s.issued c n).setDst c d v).advance c)) : WritesOne i s c n d v := by
  have hb := issued_bundle hc n
  obtain ⟨a, q, ha, hq1, hq2, hq3, hq4, hq5, hq6⟩ := entered_spec c n s.clock s.free (cur_path hc) c.b.fid
  have hkb : a.bad = c.b.arch.bad := by rw [hq5]
  obtain ⟨r, hr1, hr2, hr3, hr4, hr5, hr6, hr7, hr8⟩ := setDst_spec _ c.slot c.g.width d v q hq1 (by rw [hkb]; exact hm)
  have h1 := onArch_bundle (fun a => a.setDst c.slot c.g.width d v) hb
  have h2 := onArch_bundle (fun a => a.setPath c.slot ((a.path c.slot).map Path.advance)) h1
  have hO : OwnOnly s (((s.issued c n).setDst c d v).advance c) c := by
    unfold State.advance State.onPath State.setDst
    exact ownOnly_onArch _ (ownOnly_onArch _ (ownOnly_issued n))
  refine ⟨_, _, h, hO, h2, ?_⟩
  simp only [ha]
  generalize hA : a.setDst c.slot c.g.width d v = A at *
  rw [hr1]
  simp only [Option.map_some]
  have regs : ∀ x, (A.setPath c.slot x).regs = A.regs := fun x => setPath_regs _ _ _
  have aw : ∀ x, (A.setPath c.slot x).awaits = A.awaits := fun x => setPath_awaits _ _ _
  have awA : A.awaits = filled c.b.arch.awaits d := by
    rw [hr6]
    show filled _ d = _
    rw [hq5]
  have full : ∀ (m : Bool), (match d with | .s _ | .m _ => (filled c.b.arch.awaits d).any fun x => x.1 == d | _ => false) = false := by
    intro _
    cases d <;> simp [filled]
  refine ⟨⟨rfl, ?_, ?_⟩, ⟨r.advance, by simp [path_setPath], ?_, ?_⟩, ?_, ?_, ?_⟩
  · dsimp only
    rw [setPath_rest, hr6, hq5]
  · rw [path_setPath_not, hr5, hq4]
  · have e : ({ r with mask := c.p.mask } : Path) = c.begunPath := by rw [← hr2] at hq2; exact hq2
    rw [Cur.past, advance_mask]
    exact (advance_withMask r c.p.mask).symm.trans (congrArg Path.advance e)
  · intro hd hk
    rw [advance_mask, hr3 hd, hq3 hk]
  · have hm : ∀ k ∈ dstKeys d, bankGet A.regs c.b.fid k = v := fun k hk => hr8 _ _ hk
    have := full true
    cases d with
    | s m =>
      refine ⟨?_, ?_⟩
      · show bankGet (A.setPath c.slot _).regs _ _ = v
        rw [regs]; exact hm _ (by simp [dstKeys])
      · show (A.setPath c.slot _).awaits.any _ = false
        rw [aw, awA]; exact this
    | m m =>
      refine ⟨?_, ?_⟩
      · split
        · rename_i hz
          have : m = 0 := Fin.ext hz
          subst this
          rw [path_setPath, Option.map_some, advance_mask, hr4 rfl]
        · rename_i hz
          show bankGet (A.setPath c.slot _).regs _ _ = v
          rw [regs]; exact hm _ (by simp [dstKeys, hz])
      · show (A.setPath c.slot _).awaits.any _ = false
        rw [aw, awA]; exact this
    | _ => trivial
  · intro k hk
    simp only [List.mem_append, not_or] at hk
    refine ⟨?_, ?_⟩
    · show bankGet (A.setPath c.slot _).regs _ k = _
      rw [regs]
      exact (hr7 c.b.fid k hk.1).1.trans (hq6 k hk.2)
    · show k ∈ (A.setPath c.slot _).bad ↔ _
      rw [show (A.setPath c.slot _).bad = A.bad by rw [setPath_rest], (hr7 c.b.fid k hk.1).2, hkb]
  · show (A.setPath c.slot _).awaits = _
    rw [aw, awA]
end Sys2Proof.Machine
end

