-- ==== Sys2Proof/Laws/PerInstr.lean ====
section
/-! SUPPORT. Per instruction: its word, if it has one, is of 64 bits (R299). -/

namespace Sys2Proof.Laws.Fits
open Sys2Proof

/-- The instruction's word, if it has one, fits in 64 bits. -/
def Statement (i : Instr) : Prop := ∀ k n, encode i = some (k, n) → n < 2 ^ 64

/-- Packed fields fit in the sum of their widths. -/
theorem pack_lt : ∀ l : List (Nat × Nat), pack l < 2 ^ (l.map Prod.fst).sum
  | [] => by simp [pack]
  | (w, v) :: r => by
    have h1 := Nat.mod_lt v (Nat.two_pow_pos w)
    have h2 := pack_lt r
    have h3 : 2 ^ w * (pack r + 1) ≤ 2 ^ w * 2 ^ (r.map Prod.fst).sum := Nat.mul_le_mul_left _ h2
    simp only [pack, List.map_cons, List.sum_cons, Nat.pow_add]
    rw [Nat.mul_add] at h3
    omega

theorem encR_lt (x : RArgs) (op : Nat) : encR x op < 2 ^ 64 := pack_lt _
theorem encI_lt (x : IArgs) (op : Nat) : encI x op < 2 ^ 64 := pack_lt _
theorem encB_lt (x : BArgs) (op : Nat) : encB x op < 2 ^ 64 := pack_lt _
theorem encM_lt (x : MArgs) (op : Nat) : encM x op < 2 ^ 64 := pack_lt _
theorem encT_lt (x : TArgs) (op : Nat) : encT x op < 2 ^ 64 := pack_lt _
theorem encSweep_lt (x : SweepArgs) : encSweep x < 2 ^ 64 := pack_lt _

/-- An instruction with a word. -/
theorem of_word {i : Instr} {k : Cls} {n : Nat} (h : encode i = some (k, n)) (hn : n < 2 ^ 64) : Statement i := by
  intro k' n' h'
  rw [h] at h'
  cases h'
  exact hn

/-- A header and an event have no instruction word. -/
theorem of_none {i : Instr} (h : encode i = none) : Statement i := by
  intro k n h'
  rw [h] at h'
  cases h'

theorem clauseHeader : ∀ a, Statement (.clauseHeader a) := fun _ => of_none rfl
theorem sAdd : ∀ x, Statement (.sAdd x) := fun _ => of_word rfl (encR_lt _ _)
theorem sSub : ∀ x, Statement (.sSub x) := fun _ => of_word rfl (encR_lt _ _)
theorem sMul : ∀ x, Statement (.sMul x) := fun _ => of_word rfl (encR_lt _ _)
theorem sMulh : ∀ x, Statement (.sMulh x) := fun _ => of_word rfl (encR_lt _ _)
theorem sDiv : ∀ x, Statement (.sDiv x) := fun _ => of_word rfl (encR_lt _ _)
theorem sRem : ∀ x, Statement (.sRem x) := fun _ => of_word rfl (encR_lt _ _)
theorem sAbs : ∀ x, Statement (.sAbs x) := fun _ => of_word rfl (encR_lt _ _)
theorem sMin : ∀ x, Statement (.sMin x) := fun _ => of_word rfl (encR_lt _ _)
theorem sMax : ∀ x, Statement (.sMax x) := fun _ => of_word rfl (encR_lt _ _)
theorem sAnd : ∀ x, Statement (.sAnd x) := fun _ => of_word rfl (encR_lt _ _)
theorem sOr : ∀ x, Statement (.sOr x) := fun _ => of_word rfl (encR_lt _ _)
theorem sXor : ∀ x, Statement (.sXor x) := fun _ => of_word rfl (encR_lt _ _)
theorem sAndn : ∀ x, Statement (.sAndn x) := fun _ => of_word rfl (encR_lt _ _)
theorem sShl : ∀ x, Statement (.sShl x) := fun _ => of_word rfl (encR_lt _ _)
theorem sShr : ∀ x, Statement (.sShr x) := fun _ => of_word rfl (encR_lt _ _)
theorem sRotl : ∀ x, Statement (.sRotl x) := fun _ => of_word rfl (encR_lt _ _)
theorem sRotr : ∀ x, Statement (.sRotr x) := fun _ => of_word rfl (encR_lt _ _)
theorem sCmp : ∀ x, Statement (.sCmp x) := fun _ => of_word rfl (encR_lt _ _)
theorem sSel : ∀ x, Statement (.sSel x) := fun _ => of_word rfl (encR_lt _ _)
theorem sMov : ∀ x, Statement (.sMov x) := fun _ => of_word rfl (encR_lt _ _)
theorem sClz : ∀ x, Statement (.sClz x) := fun _ => of_word rfl (encR_lt _ _)
theorem sCtz : ∀ x, Statement (.sCtz x) := fun _ => of_word rfl (encR_lt _ _)
theorem sPopc : ∀ x, Statement (.sPopc x) := fun _ => of_word rfl (encR_lt _ _)
theorem sBfx : ∀ x, Statement (.sBfx x) := fun _ => of_word rfl (encR_lt _ _)
theorem sBfi : ∀ x, Statement (.sBfi x) := fun _ => of_word rfl (encR_lt _ _)
theorem lea : ∀ x, Statement (.lea x) := fun _ => of_word rfl (encR_lt _ _)
theorem sext : ∀ x, Statement (.sext x) := fun _ => of_word rfl (encR_lt _ _)
theorem mand : ∀ x, Statement (.mand x) := fun _ => of_word rfl (encR_lt _ _)
theorem mor : ∀ x, Statement (.mor x) := fun _ => of_word rfl (encR_lt _ _)
theorem mxor : ∀ x, Statement (.mxor x) := fun _ => of_word rfl (encR_lt _ _)
theorem mandn : ∀ x, Statement (.mandn x) := fun _ => of_word rfl (encR_lt _ _)
theorem mnot : ∀ x, Statement (.mnot x) := fun _ => of_word rfl (encR_lt _ _)
theorem mmov : ∀ x, Statement (.mmov x) := fun _ => of_word rfl (encR_lt _ _)
theorem mpop : ∀ x, Statement (.mpop x) := fun _ => of_word rfl (encR_lt _ _)
theorem mfirst : ∀ x, Statement (.mfirst x) := fun _ => of_word rfl (encR_lt _ _)
theorem mlow : ∀ x, Statement (.mlow x) := fun _ => of_word rfl (encR_lt _ _)
theorem movi : ∀ x, Statement (.movi x) := fun _ => of_word rfl (encI_lt _ _)
theorem addi : ∀ x, Statement (.addi x) := fun _ => of_word rfl (encI_lt _ _)
theorem movhi : ∀ x, Statement (.movhi x) := fun _ => of_word rfl (encI_lt _ _)
theorem br : ∀ x, Statement (.br x) := fun _ => of_word rfl (encB_lt _ _)
theorem bmz : ∀ x, Statement (.bmz x) := fun _ => of_word rfl (encB_lt _ _)
theorem bmnz : ∀ x, Statement (.bmnz x) := fun _ => of_word rfl (encB_lt _ _)
theorem jump : ∀ x, Statement (.jump x) := fun _ => of_word rfl (encB_lt _ _)
theorem jumpR : ∀ x, Statement (.jumpR x) := fun _ => of_word rfl (encB_lt _ _)
theorem call : ∀ x, Statement (.call x) := fun _ => of_word rfl (encB_lt _ _)
theorem callR : ∀ x, Statement (.callR x) := fun _ => of_word rfl (encB_lt _ _)
theorem ret : ∀ x, Statement (.ret x) := fun _ => of_word rfl (encB_lt _ _)
theorem split : ∀ x, Statement (.split x) := fun _ => of_word rfl (encB_lt _ _)
theorem join : ∀ x, Statement (.join x) := fun _ => of_word rfl (encB_lt _ _)
theorem vAdd : ∀ x, Statement (.vAdd x) := fun _ => of_word rfl (encR_lt _ _)
theorem vSub : ∀ x, Statement (.vSub x) := fun _ => of_word rfl (encR_lt _ _)
theorem vMul : ∀ x, Statement (.vMul x) := fun _ => of_word rfl (encR_lt _ _)
theorem vMulh : ∀ x, Statement (.vMulh x) := fun _ => of_word rfl (encR_lt _ _)
theorem vFma : ∀ x, Statement (.vFma x) := fun _ => of_word rfl (encR_lt _ _)
theorem vDiv : ∀ x, Statement (.vDiv x) := fun _ => of_word rfl (encR_lt _ _)
theorem vMin : ∀ x, Statement (.vMin x) := fun _ => of_word rfl (encR_lt _ _)
theorem vMax : ∀ x, Statement (.vMax x) := fun _ => of_word rfl (encR_lt _ _)
theorem vAbs : ∀ x, Statement (.vAbs x) := fun _ => of_word rfl (encR_lt _ _)
theorem vNeg : ∀ x, Statement (.vNeg x) := fun _ => of_word rfl (encR_lt _ _)
theorem vSqrt : ∀ x, Statement (.vSqrt x) := fun _ => of_word rfl (encR_lt _ _)
theorem vRcp : ∀ x, Statement (.vRcp x) := fun _ => of_word rfl (encR_lt _ _)
theorem vRsqrt : ∀ x, Statement (.vRsqrt x) := fun _ => of_word rfl (encR_lt _ _)
theorem vExp2 : ∀ x, Statement (.vExp2 x) := fun _ => of_word rfl (encR_lt _ _)
theorem vLog2 : ∀ x, Statement (.vLog2 x) := fun _ => of_word rfl (encR_lt _ _)
theorem vAddsat : ∀ x, Statement (.vAddsat x) := fun _ => of_word rfl (encR_lt _ _)
theorem vSubsat : ∀ x, Statement (.vSubsat x) := fun _ => of_word rfl (encR_lt _ _)
theorem vAnd : ∀ x, Statement (.vAnd x) := fun _ => of_word rfl (encR_lt _ _)
theorem vOr : ∀ x, Statement (.vOr x) := fun _ => of_word rfl (encR_lt _ _)
theorem vXor : ∀ x, Statement (.vXor x) := fun _ => of_word rfl (encR_lt _ _)
theorem vNot : ∀ x, Statement (.vNot x) := fun _ => of_word rfl (encR_lt _ _)
theorem vShl : ∀ x, Statement (.vShl x) := fun _ => of_word rfl (encR_lt _ _)
theorem vShr : ∀ x, Statement (.vShr x) := fun _ => of_word rfl (encR_lt _ _)
theorem vCmp : ∀ x, Statement (.vCmp x) := fun _ => of_word rfl (encR_lt _ _)
theorem vSel : ∀ x, Statement (.vSel x) := fun _ => of_word rfl (encR_lt _ _)
theorem vMov : ∀ x, Statement (.vMov x) := fun _ => of_word rfl (encR_lt _ _)
theorem vClz : ∀ x, Statement (.vClz x) := fun _ => of_word rfl (encR_lt _ _)
theorem vPopc : ∀ x, Statement (.vPopc x) := fun _ => of_word rfl (encR_lt _ _)
theorem cvt : ∀ x, Statement (.cvt x) := fun _ => of_word rfl (encR_lt _ _)
theorem pack : ∀ x, Statement (.pack x) := fun _ => of_word rfl (encR_lt _ _)
theorem unpack : ∀ x, Statement (.unpack x) := fun _ => of_word rfl (encR_lt _ _)
theorem perm : ∀ x, Statement (.perm x) := fun _ => of_word rfl (encR_lt _ _)
theorem shfl : ∀ x, Statement (.shfl x) := fun _ => of_word rfl (encR_lt _ _)
theorem bcast : ∀ x, Statement (.bcast x) := fun _ => of_word rfl (encR_lt _ _)
theorem rdx : ∀ x, Statement (.rdx x) := fun _ => of_word rfl (encR_lt _ _)
theorem scan : ∀ x, Statement (.scan x) := fun _ => of_word rfl (encR_lt _ _)
theorem vote : ∀ x, Statement (.vote x) := fun _ => of_word rfl (encR_lt _ _)
theorem frnd : ∀ x, Statement (.frnd x) := fun _ => of_word rfl (encR_lt _ _)
theorem vClass : ∀ x, Statement (.vClass x) := fun _ => of_word rfl (encR_lt _ _)
theorem copysign : ∀ x, Statement (.copysign x) := fun _ => of_word rfl (encR_lt _ _)
theorem vBfx : ∀ x, Statement (.vBfx x) := fun _ => of_word rfl (encR_lt _ _)
theorem vBfi : ∀ x, Statement (.vBfi x) := fun _ => of_word rfl (encR_lt _ _)
theorem ldexp : ∀ x, Statement (.ldexp x) := fun _ => of_word rfl (encR_lt _ _)
theorem fract : ∀ x, Statement (.fract x) := fun _ => of_word rfl (encR_lt _ _)
theorem sweep : ∀ x, Statement (.sweep x) := fun _ => of_word rfl (encSweep_lt _)
theorem ld : ∀ x, Statement (.ld x) := fun _ => of_word rfl (encM_lt _ _)
theorem st : ∀ x, Statement (.st x) := fun _ => of_word rfl (encM_lt _ _)
theorem ldb : ∀ x, Statement (.ldb x) := fun _ => of_word rfl (encM_lt _ _)
theorem stb : ∀ x, Statement (.stb x) := fun _ => of_word rfl (encM_lt _ _)
theorem lds : ∀ x, Statement (.lds x) := fun _ => of_word rfl (encM_lt _ _)
theorem sts : ∀ x, Statement (.sts x) := fun _ => of_word rfl (encM_lt _ _)
theorem atomAdd : ∀ x, Statement (.atomAdd x) := fun _ => of_word rfl (encM_lt _ _)
theorem atomMin : ∀ x, Statement (.atomMin x) := fun _ => of_word rfl (encM_lt _ _)
theorem atomMax : ∀ x, Statement (.atomMax x) := fun _ => of_word rfl (encM_lt _ _)
theorem atomAnd : ∀ x, Statement (.atomAnd x) := fun _ => of_word rfl (encM_lt _ _)
theorem atomOr : ∀ x, Statement (.atomOr x) := fun _ => of_word rfl (encM_lt _ _)
theorem atomXor : ∀ x, Statement (.atomXor x) := fun _ => of_word rfl (encM_lt _ _)
theorem atomXchg : ∀ x, Statement (.atomXchg x) := fun _ => of_word rfl (encM_lt _ _)
theorem cas : ∀ x, Statement (.cas x) := fun _ => of_word rfl (encM_lt _ _)
theorem redAdd : ∀ x, Statement (.redAdd x) := fun _ => of_word rfl (encM_lt _ _)
theorem redMin : ∀ x, Statement (.redMin x) := fun _ => of_word rfl (encM_lt _ _)
theorem redMax : ∀ x, Statement (.redMax x) := fun _ => of_word rfl (encM_lt _ _)
theorem redAnd : ∀ x, Statement (.redAnd x) := fun _ => of_word rfl (encM_lt _ _)
theorem redOr : ∀ x, Statement (.redOr x) := fun _ => of_word rfl (encM_lt _ _)
theorem redXor : ∀ x, Statement (.redXor x) := fun _ => of_word rfl (encM_lt _ _)
theorem fence : ∀ x, Statement (.fence x) := fun _ => of_word rfl (encM_lt _ _)
theorem pf : ∀ x, Statement (.pf x) := fun _ => of_word rfl (encM_lt _ _)
theorem cinv : ∀ x, Statement (.cinv x) := fun _ => of_word rfl (encM_lt _ _)
theorem cinvall : ∀ x, Statement (.cinvall x) := fun _ => of_word rfl (encM_lt _ _)
theorem cp : ∀ x, Statement (.cp x) := fun _ => of_word rfl (encR_lt _ _)
theorem cpt : ∀ x, Statement (.cpt x) := fun _ => of_word rfl (encR_lt _ _)
theorem cpreset : ∀ x, Statement (.cpreset x) := fun _ => of_word rfl (encR_lt _ _)
theorem appOpen : ∀ x, Statement (.appOpen x) := fun _ => of_word rfl (encR_lt _ _)
theorem appWr : ∀ x, Statement (.appWr x) := fun _ => of_word rfl (encR_lt _ _)
theorem appSeal : ∀ x, Statement (.appSeal x) := fun _ => of_word rfl (encR_lt _ _)
theorem appSync : ∀ x, Statement (.appSync x) := fun _ => of_word rfl (encR_lt _ _)
theorem appClose : ∀ x, Statement (.appClose x) := fun _ => of_word rfl (encR_lt _ _)
theorem mz : ∀ x, Statement (.mz x) := fun _ => of_word rfl (encT_lt _ _)
theorem mm : ∀ x, Statement (.mm x) := fun _ => of_word rfl (encT_lt _ _)
theorem mmv : ∀ x, Statement (.mmv x) := fun _ => of_word rfl (encT_lt _ _)
theorem mld : ∀ x, Statement (.mld x) := fun _ => of_word rfl (encT_lt _ _)
theorem mdrain : ∀ x, Statement (.mdrain x) := fun _ => of_word rfl (encT_lt _ _)
theorem mwp : ∀ x, Statement (.mwp x) := fun _ => of_word rfl (encT_lt _ _)
theorem mwpr : ∀ x, Statement (.mwpr x) := fun _ => of_word rfl (encT_lt _ _)
theorem mwait : ∀ x, Statement (.mwait x) := fun _ => of_word rfl (encT_lt _ _)
theorem mflag : ∀ x, Statement (.mflag x) := fun _ => of_word rfl (encT_lt _ _)
theorem mprog : ∀ x, Statement (.mprog x) := fun _ => of_word rfl (encT_lt _ _)
theorem barArrive : ∀ x, Statement (.barArrive x) := fun _ => of_word rfl (encR_lt _ _)
theorem barWait : ∀ x, Statement (.barWait x) := fun _ => of_word rfl (encR_lt _ _)
theorem barSync : ∀ x, Statement (.barSync x) := fun _ => of_word rfl (encR_lt _ _)
theorem aboInit : ∀ x, Statement (.aboInit x) := fun _ => of_word rfl (encR_lt _ _)
theorem aboArrive : ∀ x, Statement (.aboArrive x) := fun _ => of_word rfl (encR_lt _ _)
theorem aboWait : ∀ x, Statement (.aboWait x) := fun _ => of_word rfl (encR_lt _ _)
theorem aboTest : ∀ x, Statement (.aboTest x) := fun _ => of_word rfl (encR_lt _ _)
theorem ringInit : ∀ x, Statement (.ringInit x) := fun _ => of_word rfl (encR_lt _ _)
theorem ringPost : ∀ x, Statement (.ringPost x) := fun _ => of_word rfl (encR_lt _ _)
theorem ringWait : ∀ x, Statement (.ringWait x) := fun _ => of_word rfl (encR_lt _ _)
theorem ringFree : ∀ x, Statement (.ringFree x) := fun _ => of_word rfl (encR_lt _ _)
theorem evAdd : ∀ x, Statement (.evAdd x) := fun _ => of_word rfl (encR_lt _ _)
theorem evArm : ∀ x, Statement (.evArm x) := fun _ => of_word rfl (encR_lt _ _)
theorem launch : ∀ x, Statement (.launch x) := fun _ => of_word rfl (encR_lt _ _)
theorem cwait : ∀ x, Statement (.cwait x) := fun _ => of_word rfl (encR_lt _ _)
theorem step : ∀ x, Statement (.step x) := fun _ => of_word rfl (encR_lt _ _)
theorem send : ∀ x, Statement (.send x) := fun _ => of_word rfl (encR_lt _ _)
theorem narm : ∀ x, Statement (.narm x) := fun _ => of_word rfl (encR_lt _ _)
theorem narmCancel : ∀ x, Statement (.narmCancel x) := fun _ => of_word rfl (encR_lt _ _)
theorem coll : ∀ x, Statement (.coll x) := fun _ => of_word rfl (encR_lt _ _)
theorem racq : ∀ x, Statement (.racq x) := fun _ => of_word rfl (encR_lt _ _)
theorem rtry : ∀ x, Statement (.rtry x) := fun _ => of_word rfl (encR_lt _ _)
theorem rrel : ∀ x, Statement (.rrel x) := fun _ => of_word rfl (encR_lt _ _)
theorem tftSet : ∀ x, Statement (.tftSet x) := fun _ => of_word rfl (encR_lt _ _)
theorem tftGet : ∀ x, Statement (.tftGet x) := fun _ => of_word rfl (encR_lt _ _)
theorem tftHist : ∀ x, Statement (.tftHist x) := fun _ => of_word rfl (encR_lt _ _)
theorem fmap : ∀ x, Statement (.fmap x) := fun _ => of_word rfl (encR_lt _ _)
theorem tlbh : ∀ x, Statement (.tlbh x) := fun _ => of_word rfl (encR_lt _ _)
theorem sret : ∀ x, Statement (.sret x) := fun _ => of_word rfl (encR_lt _ _)
theorem yield : ∀ x, Statement (.yield x) := fun _ => of_word rfl (encR_lt _ _)
theorem nop : ∀ x, Statement (.nop x) := fun _ => of_word rfl (encR_lt _ _)
theorem halt : ∀ x, Statement (.halt x) := fun _ => of_word rfl (encR_lt _ _)
theorem exit : ∀ x, Statement (.exit x) := fun _ => of_word rfl (encR_lt _ _)
theorem sysr : ∀ x, Statement (.sysr x) := fun _ => of_word rfl (encI_lt _ _)
theorem sysw : ∀ x, Statement (.sysw x) := fun _ => of_word rfl (encI_lt _ _)
theorem trap : ∀ x, Statement (.trap x) := fun _ => of_word rfl (encI_lt _ _)
theorem brk : ∀ x, Statement (.brk x) := fun _ => of_word rfl (encI_lt _ _)
theorem demotionTimeout : ∀ a, Statement (.demotionTimeout a) := fun _ => of_none rfl
theorem storeQueueLeave : ∀ a, Statement (.storeQueueLeave a) := fun _ => of_none rfl
theorem homeSliceWrite : ∀ a, Statement (.homeSliceWrite a) := fun _ => of_none rfl
theorem acknowledgement : ∀ a, Statement (.acknowledgement a) := fun _ => of_none rfl
theorem loadResponse : ∀ a, Statement (.loadResponse a) := fun _ => of_none rfl
theorem strikeReport : ∀ a, Statement (.strikeReport a) := fun _ => of_none rfl
theorem coreReclaim : ∀ a, Statement (.coreReclaim a) := fun _ => of_none rfl
theorem vlinkBeatReceive : ∀ a b, Statement (.vlinkBeatReceive a b) := fun _ _ => of_none rfl
theorem vlinkAckReceive : ∀ a b c, Statement (.vlinkAckReceive a b c) := fun _ _ _ => of_none rfl
theorem laneTestDone : ∀ a b, Statement (.laneTestDone a b) := fun _ _ => of_none rfl
theorem laneRetrainDone : ∀ a, Statement (.laneRetrainDone a) := fun _ => of_none rfl
theorem rowRefresh : ∀ a, Statement (.rowRefresh a) := fun _ => of_none rfl
theorem retentionPatrol : ∀ a b, Statement (.retentionPatrol a b) := fun _ _ => of_none rfl
theorem rowRemapCopyDone : ∀ a, Statement (.rowRemapCopyDone a) := fun _ => of_none rfl
theorem throttle : ∀ a b, Statement (.throttle a b) := fun _ _ => of_none rfl
theorem overTemperature : ∀ a, Statement (.overTemperature a) := fun _ => of_none rfl
theorem undervoltage : Statement (.undervoltage) := of_none rfl
theorem inputPowerLoss : Statement (.inputPowerLoss) := of_none rfl
theorem powerGood : Statement (.powerGood) := of_none rfl
theorem bootStep : ∀ a b, Statement (.bootStep a b) := fun _ _ => of_none rfl
theorem pcieLinkEnable : ∀ a b, Statement (.pcieLinkEnable a b) := fun _ _ => of_none rfl
theorem pcieTrainingDone : ∀ a b c, Statement (.pcieTrainingDone a b c) := fun _ _ _ => of_none rfl
theorem pcieStreamClear : ∀ a b, Statement (.pcieStreamClear a b) := fun _ _ => of_none rfl
theorem ingressPostedWrite : ∀ a, Statement (.ingressPostedWrite a) := fun _ => of_none rfl
theorem ingressReadRequest : ∀ a, Statement (.ingressReadRequest a) := fun _ => of_none rfl
theorem ingressMsi : ∀ a, Statement (.ingressMsi a) := fun _ => of_none rfl
theorem orderingPointAck : ∀ a, Statement (.orderingPointAck a) := fun _ => of_none rfl
theorem heldWriteForward : ∀ a, Statement (.heldWriteForward a) := fun _ => of_none rfl
theorem atsTranslationRequest : ∀ a, Statement (.atsTranslationRequest a) := fun _ => of_none rfl
theorem priPageRequest : ∀ a, Statement (.priPageRequest a) := fun _ => of_none rfl
theorem netLaneFail : ∀ a b, Statement (.netLaneFail a b) := fun _ _ => of_none rfl
theorem stripeTransmit : ∀ a b, Statement (.stripeTransmit a b) := fun _ _ => of_none rfl
theorem fragmentReceive : ∀ a, Statement (.fragmentReceive a) := fun _ => of_none rfl
theorem decodeComplete : ∀ a b, Statement (.decodeComplete a b) := fun _ _ => of_none rfl
theorem stripeDecoded : ∀ a b, Statement (.stripeDecoded a b) := fun _ _ => of_none rfl
theorem stripeConfirmTimer : ∀ a, Statement (.stripeConfirmTimer a) := fun _ => of_none rfl
theorem horizonTimerExpiry : ∀ a b, Statement (.horizonTimerExpiry a b) := fun _ _ => of_none rfl
theorem repairRequestReceive : ∀ a, Statement (.repairRequestReceive a) := fun _ => of_none rfl
theorem stripeConfirmationReceive : ∀ a, Statement (.stripeConfirmationReceive a) := fun _ => of_none rfl
theorem messageConfirmationReceive : ∀ a, Statement (.messageConfirmationReceive a) := fun _ => of_none rfl
theorem refusalReceive : ∀ a, Statement (.refusalReceive a) := fun _ => of_none rfl
theorem busyReceive : ∀ a, Statement (.busyReceive a) := fun _ => of_none rfl
theorem busyBackoffExpiry : ∀ a, Statement (.busyBackoffExpiry a) := fun _ => of_none rfl
theorem lossNoticeReceiveSender : ∀ a, Statement (.lossNoticeReceiveSender a) := fun _ => of_none rfl
theorem lossNoticeReceiveReceiver : ∀ a, Statement (.lossNoticeReceiveReceiver a) := fun _ => of_none rfl
theorem closedReceiveSender : ∀ a, Statement (.closedReceiveSender a) := fun _ => of_none rfl
theorem closedReceiveReceiver : ∀ a, Statement (.closedReceiveReceiver a) := fun _ => of_none rfl
theorem senderDeadlineExpiry : ∀ a, Statement (.senderDeadlineExpiry a) := fun _ => of_none rfl
theorem lossNoticeWaitExpiry : ∀ a, Statement (.lossNoticeWaitExpiry a) := fun _ => of_none rfl
theorem filterEntryExpiry : ∀ a, Statement (.filterEntryExpiry a) := fun _ => of_none rfl
theorem walkStart : ∀ a, Statement (.walkStart a) := fun _ => of_none rfl
theorem walkComplete : ∀ a, Statement (.walkComplete a) := fun _ => of_none rfl
theorem migrationCopyDone : ∀ a, Statement (.migrationCopyDone a) := fun _ => of_none rfl
theorem shootdownPage : ∀ a b, Statement (.shootdownPage a b) := fun _ _ => of_none rfl
theorem shootdownContext : ∀ a b, Statement (.shootdownContext a b) := fun _ _ => of_none rfl
theorem shootdownTenant : ∀ a b, Statement (.shootdownTenant a b) := fun _ _ => of_none rfl
theorem shootdownHarvest : ∀ a b, Statement (.shootdownHarvest a b) := fun _ _ => of_none rfl
theorem shootdownDone : ∀ a, Statement (.shootdownDone a) := fun _ => of_none rfl
theorem harvestTimer : ∀ a, Statement (.harvestTimer a) := fun _ => of_none rfl
theorem poolTailWrite : ∀ a b, Statement (.poolTailWrite a b) := fun _ _ => of_none rfl
theorem flashReadComplete : ∀ a b, Statement (.flashReadComplete a b) := fun _ _ => of_none rfl
theorem relocationBegin : ∀ a, Statement (.relocationBegin a) := fun _ => of_none rfl
theorem relocationSwitchEnd : ∀ a, Statement (.relocationSwitchEnd a) := fun _ => of_none rfl
theorem flashDieFree : ∀ a, Statement (.flashDieFree a) := fun _ => of_none rfl
theorem deferralTimeout : ∀ a, Statement (.deferralTimeout a) := fun _ => of_none rfl
theorem regionEraseDone : ∀ a, Statement (.regionEraseDone a) := fun _ => of_none rfl
theorem skidderRequestAccept : ∀ a, Statement (.skidderRequestAccept a) := fun _ => of_none rfl
theorem extentStaged : ∀ a b, Statement (.extentStaged a b) := fun _ _ => of_none rfl
theorem sealCommit : ∀ a, Statement (.sealCommit a) := fun _ => of_none rfl
theorem stagingDrain : ∀ a b, Statement (.stagingDrain a b) := fun _ _ => of_none rfl
theorem stagingError : ∀ a b, Statement (.stagingError a b) := fun _ _ => of_none rfl
theorem flashBlockFail : ∀ a b, Statement (.flashBlockFail a b) := fun _ _ => of_none rfl
theorem launchWindowWrite : ∀ a, Statement (.launchWindowWrite a) := fun _ => of_none rfl
theorem launchRecord : ∀ a, Statement (.launchRecord a) := fun _ => of_none rfl
theorem cmdBindContext : Statement (.cmdBindContext) := of_none rfl
theorem cmdUnbindContext : Statement (.cmdUnbindContext) := of_none rfl
theorem cmdSetFrameScheme : Statement (.cmdSetFrameScheme) := of_none rfl
theorem cmdGrantRegion : Statement (.cmdGrantRegion) := of_none rfl
theorem cmdFreeRegion : Statement (.cmdFreeRegion) := of_none rfl
theorem cmdSetRegionReadOnly : Statement (.cmdSetRegionReadOnly) := of_none rfl
theorem cmdAnchorFlashLeaf : Statement (.cmdAnchorFlashLeaf) := of_none rfl
theorem cmdWriteCodeProfile : Statement (.cmdWriteCodeProfile) := of_none rfl
theorem cmdSetQuotas : Statement (.cmdSetQuotas) := of_none rfl
theorem cmdLoadFirmwareImage : Statement (.cmdLoadFirmwareImage) := of_none rfl
theorem cmdCommitFirmware : Statement (.cmdCommitFirmware) := of_none rfl
theorem cmdAbortStream : Statement (.cmdAbortStream) := of_none rfl
theorem cmdResetEngine : Statement (.cmdResetEngine) := of_none rfl
theorem cmdResetDevice : Statement (.cmdResetDevice) := of_none rfl
theorem cmdCreateCommunicator : Statement (.cmdCreateCommunicator) := of_none rfl
theorem cmdDestroyCommunicator : Statement (.cmdDestroyCommunicator) := of_none rfl
theorem cmdUnknownCode : Statement (.cmdUnknownCode) := of_none rfl
theorem fwVerifyDone : ∀ a b, Statement (.fwVerifyDone a b) := fun _ _ => of_none rfl
theorem cpQuiesceWrite : ∀ a, Statement (.cpQuiesceWrite a) := fun _ => of_none rfl
theorem handoverTimeout : ∀ a, Statement (.handoverTimeout a) := fun _ => of_none rfl
theorem cpWdogKick : ∀ a b, Statement (.cpWdogKick a b) := fun _ _ => of_none rfl
theorem watchdogQueueStall : ∀ a, Statement (.watchdogQueueStall a) := fun _ => of_none rfl
theorem watchdogKickMissed : ∀ a, Statement (.watchdogKickMissed a) := fun _ => of_none rfl
theorem engineNoProgress : ∀ a, Statement (.engineNoProgress a) := fun _ => of_none rfl
theorem hubTimerExpiry : Statement (.hubTimerExpiry) := of_none rfl
theorem tenantReset : ∀ a b, Statement (.tenantReset a b) := fun _ _ => of_none rfl
theorem gridDieSet : ∀ a, Statement (.gridDieSet a) := fun _ => of_none rfl
theorem crewPlace : ∀ a, Statement (.crewPlace a) := fun _ => of_none rfl
theorem crewRetire : ∀ a, Statement (.crewRetire a) := fun _ => of_none rfl
theorem gridRetire : ∀ a, Statement (.gridRetire a) := fun _ => of_none rfl
theorem stepAnnounce : ∀ a b, Statement (.stepAnnounce a b) := fun _ _ => of_none rfl
theorem stepChange : ∀ a, Statement (.stepChange a) := fun _ => of_none rfl
theorem preemptRequest : ∀ a b, Statement (.preemptRequest a b) := fun _ _ => of_none rfl
theorem crewSave : ∀ a, Statement (.crewSave a) := fun _ => of_none rfl
theorem crewRestore : ∀ a, Statement (.crewRestore a) := fun _ => of_none rfl
theorem shareDecay : Statement (.shareDecay) := of_none rfl
theorem columnHot : ∀ a b c, Statement (.columnHot a b c) := fun _ _ _ => of_none rfl
theorem bankRoleWrite : ∀ a b, Statement (.bankRoleWrite a b) := fun _ _ => of_none rfl
theorem bankRoleEffect : ∀ a b, Statement (.bankRoleEffect a b) := fun _ _ => of_none rfl
theorem copyComplete : ∀ a b, Statement (.copyComplete a b) := fun _ _ => of_none rfl
theorem tileInstructionStart : ∀ a, Statement (.tileInstructionStart a) := fun _ => of_none rfl
theorem tileBlockDone : ∀ a b, Statement (.tileBlockDone a b) := fun _ _ => of_none rfl
theorem tileInstructionComplete : ∀ a b, Statement (.tileInstructionComplete a b) := fun _ _ => of_none rfl
theorem collOutcomeExchange : ∀ a b c, Statement (.collOutcomeExchange a b c) := fun _ _ _ => of_none rfl
theorem chunkCommandArrive : ∀ a b, Statement (.chunkCommandArrive a b) := fun _ _ => of_none rfl
theorem chunkEnd : ∀ a b, Statement (.chunkEnd a b) := fun _ _ => of_none rfl
theorem collFailureNotice : ∀ a b, Statement (.collFailureNotice a b) := fun _ _ => of_none rfl
theorem coreSpareBringIn : ∀ a, Statement (.coreSpareBringIn a) := fun _ => of_none rfl
theorem vaultRowRemap : ∀ a b c, Statement (.vaultRowRemap a b c) := fun _ _ _ => of_none rfl
theorem registerWrite : ∀ a b c, Statement (.registerWrite a b c) := fun _ _ _ => of_none rfl
theorem hostHartAccess : ∀ a, Statement (.hostHartAccess a) := fun _ => of_none rfl
theorem pcieLinkLoss : ∀ a b, Statement (.pcieLinkLoss a b) := fun _ _ => of_none rfl
theorem networkPortStateChange : ∀ a b, Statement (.networkPortStateChange a b) := fun _ _ => of_none rfl
theorem copyFaultStall : ∀ a b, Statement (.copyFaultStall a b) := fun _ _ => of_none rfl
theorem tenantResetComplete : ∀ a, Statement (.tenantResetComplete a) := fun _ => of_none rfl
theorem dramTemperatureChange : ∀ a b, Statement (.dramTemperatureChange a b) := fun _ _ => of_none rfl

end Sys2Proof.Laws.Fits
end

