-- ==== Sys2Proof/Laws/Sched.lean ====
section
/-! SUPPORT. When the choices of a core and of a die set have an answer (R146, R148, R163, R165). -/

namespace Sys2Proof.Machine

/-- A fold whose step always answers something answers something over a list that is not empty. -/
theorem foldl_isSome {α β : Type} (f : Option β → α → Option β) (hf : ∀ o a, (f o a).isSome = true) :
    ∀ (l : List α) (o : Option β), o.isSome = true ∨ l ≠ [] → (l.foldl f o).isSome = true
  | [], _, h => h.elim id fun h => absurd rfl h
  | a :: l, o, _ => foldl_isSome f hf l (f o a) (.inl (hf o a))

/-- A core that can take a crew is enough for the choice of one (R148). -/
theorem bestCore_isSome {s : State} {g : Grid} {crew : Nat} {v : Bool} {cores : List Nat} {k : Nat} (hk : k ∈ cores)
    (h : s.canTake g crew k v = true) : (s.bestCore g crew v cores).isSome = true := by
  unfold State.bestCore
  apply foldl_isSome
  · intro o a
    cases o with
    | none => rfl
    | some j => dsimp only; split <;> rfl
  · right
    exact List.ne_nil_of_mem (List.mem_filter.mpr ⟨hk, h⟩)

theorem dieOrder_ins_mem (x y : Nat × Nat) (l : List (Nat × Nat)) :
    y ∈ (l.takeWhile fun z => decide (x.2 ≤ z.2)) ++ [x] ++ (l.dropWhile fun z => decide (x.2 ≤ z.2)) ↔ y = x ∨ y ∈ l := by
  have e : y ∈ l ↔ y ∈ (l.takeWhile fun z => decide (x.2 ≤ z.2)) ∨ y ∈ (l.dropWhile fun z => decide (x.2 ≤ z.2)) := by
    rw [← List.mem_append, List.takeWhile_append_dropWhile]
  rw [List.mem_append, List.mem_append, List.mem_singleton, e]
  tauto

theorem dieOrder_fold_mem (y : Nat × Nat) : ∀ (ds l : List (Nat × Nat)), (y ∈ ds ∨ y ∈ l) →
    y ∈ ds.foldl (fun (l : List (Nat × Nat)) (x : Nat × Nat) => (l.takeWhile fun z => decide (x.2 ≤ z.2)) ++ [x] ++ (l.dropWhile fun z => decide (x.2 ≤ z.2))) l
  | [], l, h => h.elim (fun h => absurd h List.not_mem_nil) id
  | d :: ds, l, h => dieOrder_fold_mem y ds _ (by
      rw [dieOrder_ins_mem]
      rcases h with h | h
      · rcases List.mem_cons.mp h with h | h
        · exact .inr (.inl h)
        · exact .inl h
      · exact .inr (.inr h))

/-- A die with a core that can take a crew of a grid is among those it may take (R146). -/
theorem mem_dieOrder {s : State} {g : Grid} {d k : Nat} (hd : d < Config.dies) (hk : k ∈ dieCores d)
    (h : s.canTake g 0 k true = true) : d ∈ s.dieOrder g := by
  obtain ⟨j, hj⟩ := Option.isSome_iff_exists.mp (bestCore_isSome hk h)
  unfold State.dieOrder
  refine List.mem_map.mpr ⟨(d, s.freeLimit g j), dieOrder_fold_mem _ _ _ (.inl ?_), rfl⟩
  refine List.mem_filterMap.mpr ⟨d, List.mem_range.mpr hd, ?_⟩
  simp only [hj, Option.map_some]

/-- A grid of one die finds its set where a core can take a crew (R146). -/
theorem findDies_isSome {s : State} {g : Grid} {d k : Nat} (hd : d < Config.dies) (hk : k ∈ dieCores d) (h : s.canTake g 0 k true = true)
    (h1 : g.minDies = 1) (h2 : 1 ≤ g.maxDies) : (s.findDies g).isSome = true := by
  have hl : 0 < (s.dieOrder g).length := List.length_pos_of_mem (mem_dieOrder hd hk h)
  unfold State.findDies
  simp only [List.length_take, h1]
  rw [if_neg (by omega)]; rfl

theorem insNat_length (x : Nat) : ∀ l, (insNat x l).length = l.length + 1
  | [] => rfl
  | y :: r => by
      unfold insNat
      split
      · rfl
      · rw [List.length_cons, List.length_cons, insNat_length x r]

theorem sortNat_length (l : List Nat) : (sortNat l).length = l.length := by
  have h : ∀ (l r : List Nat), (l.foldl (fun r x => insNat x r) r).length = l.length + r.length := by
    intro l
    induction l with
    | nil => intro r; simp
    | cons a l ih => intro r; rw [List.foldl_cons, ih, insNat_length, List.length_cons]; omega
  rw [sortNat, h]; rfl

/-- An addition changes a die set that has room, where a core of another die can take a crew (R151). -/
theorem newDies_add_ne {s : State} {x : Grid} {d k : Nat} (hd : d < Config.dies) (hk : k ∈ dieCores d) (h : s.canTake x 0 k true = true)
    (hx : d ∉ x.dies) (hm : x.dies.length < x.maxDies) : s.newDies x true ≠ x.dies := by
  intro e
  have hmem : d ∈ (s.dieOrder x).filter (fun d => !x.dies.contains d) :=
    List.mem_filter.mpr ⟨mem_dieOrder hd hk h, by simp [hx]⟩
  have hl := List.length_pos_of_mem hmem
  have e' := congrArg List.length e
  rw [State.newDies, if_pos rfl, sortNat_length, State.addDies, List.length_append, List.length_take] at e'
  omega

end Sys2Proof.Machine
end

