-- ==== Sys2Proof/Tests/Slice0.lean ====
section
/-! SUPPORT. Tests from the manual's worked examples, an ill-formed term for each check of the encoding, and for every statement states that meet the hypotheses of each of its clauses. -/

namespace Sys2Proof.Tests
open Sys2Proof Sys2Proof.Machine

set_option Elab.async false

/-! ### Helpers -/

/-- A state whose focus is a bundle of a role with these registers, at the last instruction of a clause of one instruction; its crew has 8 tiles. -/
def st (role : Nat) (regs : List (Nat × Word)) : State :=
  let s := State.reset.withLoader role (some ⟨0, [0]⟩)
  { s with agenda := [], bundles := s.bundles.map fun b => { b with arch := { b.arch with regs := regs.foldl (fun (m : Bank) x => mapPut m x.1 (.val x.2)) b.arch.regs } } }

def mapB (s : State) (f : Bundle → Bundle) : State := { s with bundles := s.bundles.map f }
def mapC (s : State) (f : Crew → Crew) : State := { s with crews := s.crews.map f }
def mapG (s : State) (f : Grid → Grid) : State := { s with grids := s.grids.map f }
def mapP (s : State) (f : Path → Path) : State := mapB s fun b => { b with arch := { b.arch with slot0 := b.arch.slot0.map f } }

/-- A readable, writable page at virtual address 0x2000, at physical address 0x601000. -/
def withPage (s : State) : State :=
  let e : TlbEnt := { ctx := 0, vpn := 2, pages := 1, leaf := wordOf [(10, 1537), (0, 0xD7)], pte := 0, a := true, d := true, also := [] }
  let xl := { s.xl with tlb := (.core 0, e) :: s.xl.tlb }
  { s with xl := xl }

/-- Does the focus pass every check with these needs, and this condition? -/
def holdsFor (s : State) (n : Cur → Need) (p : Cur → Bool) : Bool :=
  match s.cur with
  | some c => c.eligible && !s.heldUp c (n c) && (gate c (n c) == .go) && !c.ignored (n c) && !c.badSrc (n c) && c.b.arch.clash == 0 && p c
  | none => false

theorem holdsFor_ready {s : State} {n : Cur → Need} {p : Cur → Bool} (h : holdsFor s n p = true) : ∃ c, Ready s c (n c) ∧ p c = true := by
  unfold holdsFor at h
  split at h
  · rename_i c hc
    simp only [Bool.and_eq_true, Bool.not_eq_true', beq_iff_eq] at h
    exact ⟨c, ⟨hc, h.1.1.1.1.1.1, h.1.1.1.1.1.2, h.1.1.1.1.2, h.1.1.1.2, h.1.1.2, h.1.2⟩, h.2⟩
  · cases h

/-- May the focus issue, with these needs, as far as nothing holds it up? -/
def mayIssue (s : State) (n : Cur → Need) (p : Cur → Bool) : Bool := s.cur.any fun c => c.eligible && !s.heldUp c (n c) && p c

/-- May the focus issue with these needs, all checks of R302 passed? -/
def mayGo (s : State) (n : Cur → Need) (p : Cur → Bool) : Bool :=
  match s.cur with
  | some c => c.eligible && !s.heldUp c (n c) && (gate c (n c) == .go) && p c
  | none => false

theorem mayGo_may {s : State} {n : Cur → Need} {p : Cur → Bool} (h : mayGo s n p = true) : ∃ c, MayIssue s c (n c) ∧ p c = true := by
  unfold mayGo at h
  split at h
  · rename_i c hc
    simp only [Bool.and_eq_true, Bool.not_eq_true', beq_iff_eq] at h
    exact ⟨c, ⟨hc, h.1.1.1, h.1.1.2, h.1.2⟩, h.2⟩
  · cases h

def sr (n : Fin 64) : Src := ⟨.s n, false, false⟩
def vr (n : Fin 128) : Src := ⟨.v n, false, false⟩
def mr (n : Fin 16) : Src := ⟨.m n, false, false⟩

/-! ### Words (chapters 15 to 24) -/

theorem test_spec_words : (specWords.all fun p => decide (decodeWord p.1 p.2.1 = .ok p.2.2)) = true := by decide +kernel
theorem test_illegal_words : (illegalWords.all fun p => (decodeWord p.1 p.2).toOption.isNone) = true := by decide +kernel
/-- The words of chapters 21 and 24: a polling load and its branch, a send, a write to a stream, a seal. -/
theorem test_program_words :
    decodeWord .m 0x0470300008034204 = .ok (.lds ⟨.n64, none, .acquire, .system, .mem, .zero, srcS 0, ⟨.litS, false, false⟩, .s 1, 0⟩) ∧
    decodeWord .s 0x8000002040FFFFFE = .ok (.br ⟨0, none, 0, srcS 1, 0, 0xFFFFFE⟩) ∧
    decodeWord .x 0x100002608D06060C = .ok (.send ⟨.i8, none, 2, .s 3, ⟨.s 1, true, false⟩, ⟨.litS, false, false⟩, ⟨.s 2, true, false⟩⟩) ∧
    decodeWord .m 0x290000340E022628 = .ok (.appWr ⟨.i8, none, 0, .s 10, srcS 9, srcK 0, ⟨.litS, false, false⟩⟩) ∧
    decodeWord .m 0x2A00000000022630 = .ok (.appSeal ⟨.i8, none, 0, .s 12, srcS 9, .zero, .zero⟩) := by decide +kernel
/-- The headers of chapters 15 and 24: class V with a literal of 1,000, a wait for s12. -/
theorem test_header_words : hdrCls 0x11000000000003E8 = some .v ∧ hdrCls 0x204C000000000000 = some .m ∧
    (decodeHeader 8 0x11000000000003E8).map (fun h => (h.count, h.lit)) = .ok (1, 1000) ∧
    (decodeHeader 8 0x204C000000000000).map (fun h => (h.count, h.wait0)) = .ok (0, 0x4C) := by decide +kernel
/-- The launch record of chapter 21: 20 crews of 6 bundles of 32 lanes, a stack of 4, 5 granules of registers, 5 of scratchpad, context 7, tag 0x21. -/
theorem test_launch_record :
    let g := gridOf [0x0000002000100000, 0x0000002000800000, 0x0000140684050000, 0x0140000000000000, 0, 0x0840000000000021, 0x0000002000900000, 0x0000070000000001]
    g.ncrews = 20 ∧ g.bundles = 6 ∧ g.width = 32 ∧ g.dstack = 4 ∧ g.regs = 5 ∧ g.scratch = 5 ∧ g.minDies = 1 ∧ g.maxDies = 1 ∧ g.ctx = 7 ∧ g.tag = 0x21 ∧ g.done = 0x2000900000 := by decide +kernel

/-! ### Ill-formed instructions -/

/-- A term that each check of the encoding refuses. -/
theorem test_ill_formed :
    (Instr.sAdd ⟨.f32, none, 0, .s 1, sr 1, sr 2, .zero⟩).ill = some .type ∧ (Instr.sAdd ⟨.i32, none, 1, .s 1, sr 1, sr 2, .zero⟩).ill = some .mod ∧
    (Instr.sAdd ⟨.i32, none, 0, .v 1, sr 1, sr 2, .zero⟩).ill = some .dst ∧ (Instr.sAdd ⟨.i32, none, 0, .s 1, vr 1, sr 2, .zero⟩).ill = some .srcA ∧
    (Instr.sAdd ⟨.i32, none, 0, .s 1, sr 1, mr 2, .zero⟩).ill = some .srcB ∧ (Instr.sAdd ⟨.i32, none, 0, .s 1, sr 1, sr 2, sr 3⟩).ill = some .srcC ∧
    (Instr.ld ⟨.n32, none, .release, .device, .mem, .zero, sr 2, vr 3, .v 5, 0⟩).ill = some .order ∧ (Instr.ld ⟨.n32, none, .plain, .device, .mem, .zero, sr 2, vr 3, .v 5, 0⟩).ill = some .scope ∧
    (Instr.fence ⟨.i8, none, .acqRel, .system, .ls, .zero, .zero, .zero, .v 0, 0⟩).ill = some .space ∧ (Instr.sts ⟨.n32, none, .plain, .crew, .mem, sr 1, sr 0, sr 2, .v 0, 1⟩).ill = some .mx ∧
    (Instr.br ⟨6, none, 0, sr 1, 0, 4⟩).ill = some .cond ∧ (Instr.br ⟨0, none, 0, sr 1, 5, 4⟩).ill = some .link ∧ (Instr.ret ⟨0, none, 0, sr 1, 0, 4⟩).ill = some .off ∧
    (Instr.sysr ⟨.i8, none, 0, .s 1, .zero, 0x13⟩).ill = some .imm ∧ (Instr.mz ⟨none, 0, false, false, 4, 0, .zero, .zero, 0⟩).ill = some .tensor ∧
    (Instr.sweep ⟨.add, .i32, none, 0, 0, .stream 4, .stream 5, .stream 6, .stream 0⟩).ill = some .count ∧ (Instr.sweep ⟨.add, .i32, none, 0, 600, .stream 4, .stream 5, .stream 6, .stream 1⟩).ill = some .stream := by decide +kernel

/-! ### One step each -/

/-- What the bundle of the focus holds after an instruction. -/
def after {α : Type} (i : Instr) (s : State) (p : Bundle → α) : Option α :=
  match exec i s with | .next t => (t.bundle? ⟨0, 0, 0⟩).map p | _ => none
/-- A 32-bit sum wraps and is held sign-extended (R292, R333). -/
theorem test_add_wraps : after (.sAdd ⟨.i32, none, 0, .s 3, sr 1, sr 2, .zero⟩) (st 0 [(1, 0x7FFFFFFF), (2, 1)]) (fun b => b.s 3) = some 0xFFFFFFFF80000000 := by decide +kernel
/-- The most negative number divided by −1 is itself (R334). -/
theorem test_div_corner : after (.sDiv ⟨.i32, none, 0, .s 1, sr 1, sr 2, .zero⟩) (st 0 [(1, 0x80000000), (2, 0xFFFFFFFF)]) (fun b => b.s 1) = some 0xFFFFFFFF80000000 := by decide +kernel
/-- Chapter 16: the low part of the split takes the branch, the rest falls through, and both join at the literal's address. -/
theorem test_split :
    after (.split ⟨0, none, 0, mr 1, 5, 7⟩) (mapP (st 0 [(mKey 1, 7)]) fun p => { p with clause := some ⟨9, [0]⟩ })
      (fun b => (b.arch.slot0.toList ++ b.arch.slot1.toList).map fun p => (p.pc, p.mask, p.jt)) = some [(0x1038, 0x07, 0x1048), (0x1010, 0xF8, 0x1048)] := by decide +kernel
/-- Chapter 20: the first of two arrivals at a barrier takes the ticket of generation 0 as it leaves the store queue. -/
theorem test_bar_arrive : (match exec (.barArrive ⟨.i8, none, 0, .s 4, srcK 3, srcK 2, .zero⟩) (st 0 []) with
    | .next t => (t.bundle? ⟨0, 0, 0⟩).bind (fun b => if b.empty (.s 4) then after (.storeQueueLeave ⟨0, 0, 0⟩) t (fun b => (b.s 4, b.empty (.s 4))) else none) | _ => none) = some (0, false) := by decide +kernel
/-- 1.5 × 2 + 0.25 is 3.25 exactly in every lane (R356). -/
theorem test_fma : after (.vFma ⟨.f32, none, 0, .v 4, vr 1, vr 2, vr 3⟩)
    (st 0 ((List.range 8).flatMap fun l => [(vKey 1 l, 0x3FC00000), (vKey 2 l, 0x40000000), (vKey 3 l, 0x3E800000)])) (fun b => (b.v 4 7, b.arch.fpflags)) = some (0x40500000, []) := by decide +kernel

/-! ### Decoding, the step, memory, rounding -/

theorem wit_SpecWordsDecode : specWords ≠ [] ∧ illegalWords ≠ [] := by decide
theorem wit_DecodeOfEncode : (Instr.sAdd ⟨.i32, none, 0, .s 63, sr 0, sr 63, .zero⟩).wf = true ∧ (Instr.sAdd ⟨.i32, none, 0, .s 63, sr 0, sr 63, .zero⟩).isWord = true := by decide
theorem wit_DecodingLosesNoBit : decodeWord .x 0x1F00000000000000 = .ok (.exit ⟨.i8, none, 0, .v 0, .zero, .zero, .zero⟩) ∧
    waitOk 0 0 = true ∧ (decodeHeader 8 0x2200000000001000).toBool = true := by decide +kernel
theorem wit_StepRunsItsInstruction :
    (let s := { st 0 [] with agenda := [.event .shareDecay] }; s.agenda = .event .shareDecay :: []) ∧
    (mapP (st 0 []) fun p => { p with pc := 0x1004, clause := none }).cur.any (fun c => c.eligible && c.p.clause.isNone && c.p.pc.toNat % 8 != 0) = true ∧
    (let s := (State.reset.withLoader 0 none).wr64 0x600000 0x1000; s.agenda = .issue ⟨0, 0, 0⟩ false :: [] ∧
      (match ({ s with agenda := [], focus := some (⟨0, 0, 0⟩, false) } : State).cur with
        | some c => c.eligible && c.p.clause.isNone && (match s.fetch c c.p.pc with | .word w => w == 0x1000 | _ => false) | none => false) = true) ∧
    (let s := st 0 []; (match s.cur with | some c => c.eligible && c.p.clause == some ⟨0, [0]⟩ && hdrCls 0 == some .s | none => false) = true) := by decide +kernel
/-- A demoted bundle beside one that is not, both at an addition. -/
def demotedPair : State :=
  let s := st 0 []
  { s with bundles := s.bundles.flatMap fun b => [{ b with spin := { b.spin with demoted := some 0 } }, { b with key := ⟨0, 0, 1⟩ }] }
theorem wit_StepRunsItsInstruction_demoted : ({ demotedPair with focus := some (⟨0, 0, 0⟩, false) } : State).cur.any (fun c => c.eligible) = true ∧ demotedPair.givesWay ⟨0, 0, 0⟩ false = true ∧
    demotedPair.givesWay ⟨0, 0, 1⟩ false = false := by decide +kernel
theorem wit_CanonicalFormsKept : State.reset.wf = true := by decide +kernel
theorem wit_CanonicalFormsKept_next : ∃ t, step State.reset = .next t := ⟨_, rfl⟩
theorem wit_MemoryReadsBack : memWf State.reset.mem = true ∧ memWf [(0xFFF, 7)] = true := by decide +kernel
theorem round_example : (fmtOf .f32).val ((fmtOf .f32).round 0 true 3 (-1)).1 = .fin true 12582912 (-23) ∧
    (fmtOf .f32).val ((fmtOf .f32).round 1 true 3 (-1)).1 = .fin true 12582912 (-23) := by decide +kernel
theorem wit_RoundingIsNearest : Ty.f32.isFloat = true ∧ (∃ r, ((fmtOf .f32).val ((fmtOf .f32).round 0 true 3 (-1)).1).rat = some r) ∧
    ∃ r, ((fmtOf .f32).val ((fmtOf .f32).round 1 true 3 (-1)).1).rat = some r := by
  rw [round_example.1, round_example.2]
  exact ⟨rfl, ⟨_, rfl⟩, ⟨_, rfl⟩⟩

/-! ### Hypotheses that are met: class S and class V -/

def rArgs (ty : Ty) (d : Sel) (a b : Src) : RArgs := ⟨ty, none, 0, d, a, b, .zero⟩

theorem wit_ScalarArithmetic : ∃ c, Ready (st 0 [(1, 5), (2, 7)]) c (needS (rArgs .i32 (.s 3) (sr 1) (sr 2)) c) ∧ true = true :=
  holdsFor_ready (p := fun _ => true) (by decide +kernel)
theorem wit_ScalarArithmetic_imm : ∃ c, Ready (st 0 [(1, 5)]) c { cls := .s, pred := none, srcs := srcsS [sr 1], dsts := [(.s 3, false, true)] } ∧ true = true :=
  holdsFor_ready (n := fun _ => { cls := .s, pred := none, srcs := srcsS [sr 1], dsts := [(.s 3, false, true)] }) (p := fun _ => true) (by decide +kernel)
theorem wit_ScalarBitOperations : ∃ c, Ready (st 0 [(65, 5)]) c (needS (rArgs .i64 (.m 3) (mr 1) .zero) c) ∧ true = true :=
  holdsFor_ready (p := fun _ => true) (by decide +kernel)
theorem wit_MaskOperations : (∃ c, Ready (st 0 [(66, 1)]) c (needS (rArgs .i8 (.m 0) (mr 0) (mr 2)) c) ∧ true = true) ∧ (Instr.mand (rArgs .i8 (.m 0) (mr 0) (mr 2))).wf = true :=
  ⟨holdsFor_ready (p := fun _ => true) (by decide +kernel), by decide +kernel⟩
/-- The three cases of R334, each met: b = 0, the most negative number by −1, any other pair. -/
theorem wit_DivisionCorners : let x := rArgs .i8 (.s 3) (sr 1) (sr 2)
    x.ty.isInt = true ∧ (∃ c, Ready (st 0 [(1, 5), (2, 0)]) c (needS x c) ∧ (c.rd x.ty x.b == 0) = true) ∧
    (∃ c, Ready (st 0 [(1, 0x80), (2, 0xFF)]) c (needS x c) ∧ (x.ty.signed && c.rd x.ty x.a == -2 ^ (x.ty.bits - 1) && c.rd x.ty x.b == -1) = true) ∧
    ∃ c, Ready (st 0 [(1, 0x80), (2, 3)]) c (needS x c) ∧ (c.rd x.ty x.b != 0 && c.rd x.ty x.b != -1) = true :=
  ⟨rfl, holdsFor_ready (by decide +kernel), holdsFor_ready (by decide +kernel), holdsFor_ready (by decide +kernel)⟩
theorem wit_VectorDestination : ∃ c, Ready (st 0 []) c (needV .add (rArgs .f32 (.v 3) (vr 1) (vr 2)) c) ∧ (c.active none != 0) = true :=
  holdsFor_ready (by decide +kernel)
theorem wit_VectorDestination_zeroing : ∃ c, Ready (st 0 [(65, 2)]) c (needV .add { rArgs .i32 (.v 3) (vr 1) (vr 2) with md := 64, pred := some 1 } c) ∧
    (!inMask (c.active (some 1)) 0 && inMask (c.active (some 1)) 1 && ({ rArgs .i32 (.v 3) (vr 1) (vr 2) with md := 64, pred := some 1 } : RArgs).z) = true :=
  holdsFor_ready (by decide +kernel)
theorem wit_VectorMaskAndScalarDestinations : vMask .cmp = true ∧
    (∃ c, Ready (st 0 []) c (needV .cmp (rArgs .i32 (.m 3) (vr 1) (vr 2)) c) ∧ ((needV .cmp (rArgs .i32 (.m 3) (vr 1) (vr 2)) c).kills == [] && c.active none != 0) = true) ∧
    ∃ c, Ready (st 0 []) c (needV .rdx (rArgs .i32 (.s 3) (vr 1) .zero) c) ∧ (vResults .rdx (rArgs .i32 (.s 3) (vr 1) .zero) c != []) = true :=
  ⟨rfl, holdsFor_ready (by decide +kernel), holdsFor_ready (by decide +kernel)⟩
theorem wit_VectorMaskAndScalarDestinations_vote : (∃ c, Ready (st 0 [(65, 2)]) c (needV .vote (rArgs .i8 (.m 3) (mr 1) .zero) c) ∧ ((needV .vote (rArgs .i8 (.m 3) (mr 1) .zero) c).kills == [] && c.active none != 0) = true) ∧
    ∃ c, Ready (st 0 [(65, 2)]) c (needV .cmp { rArgs .i32 (.m 3) (vr 1) (vr 2) with pred := some 1 } c) ∧ (!inMask (c.active (some 1)) 0 && inMask (c.active (some 1)) 1) = true :=
  ⟨holdsFor_ready (by decide +kernel), holdsFor_ready (by decide +kernel)⟩
theorem wit_IntegerLanes : Ty.i8.isInt = true ∧ 255 < 2 ^ Ty.i8.bits := by decide +kernel
theorem wit_FloatSpecialResults : Ty.f32.isFloat = true ∧ ((fmtOf .f32).val 0x7F800001).isSig = true ∧ ((fmtOf .f32).val (vLane .add .f32 0 0x7F800000 0xFF800000 0 0).1).isNan = true := by
  decide +kernel
/-- Each lane's elements of a sweep's streams are aligned and lie in the window. -/
def sweepIn (x : SweepArgs) (c : Cur) : Bool :=
  (maskLanes c.g.width (c.active x.pred)).all fun l => (sweepFields x ++ [(x.fd, (vTypes x.op x.ty x.md.val).2.2.2)]).all fun f => match f.1 with
    | .stream _ => c.segment f.1 c.p.swept f.2.bytes l % f.2.bytes == 0 && decide (c.segment f.1 c.p.swept f.2.bytes l + f.2.bytes ≤ 4096 * c.g.scratch)
    | .lit => true
theorem wit_SweepIteration : let x : SweepArgs := ⟨.add, .f32, none, 0, 2, .stream 1, .stream 2, .stream 3, .stream 0⟩
    ∃ c, Ready (st 0 ((List.range 16).map fun i => (i, 0))) c (needSweep x c) ∧ (c.p.swept == 0 && decide (c.p.swept + 1 < x.count.val) && !c.b.windowWaits && sweepIn x c && c.active x.pred != 0) = true :=
  holdsFor_ready (by decide +kernel)
/-- The last iteration of two; its pairs are latched, so that registers s0 to s15, which wait for results, no longer count. -/
theorem wit_SweepIteration_last : let x : SweepArgs := ⟨.add, .f32, none, 0, 2, .stream 1, .stream 2, .stream 3, .stream 0⟩
    let s := mapB (mapP (st 0 []) fun p => { p with held := some (.sweep 1 (some ((List.range 8).map fun i => (i, 0)))) }) fun b => { b with arch := { b.arch with awaits := [(.s 0, 9)] } }
    ∃ c, Ready s c (needSweep x c) ∧ (decide (x.count.val ≤ c.p.swept + 1) && !c.b.windowWaits && sweepIn x c) = true :=
  holdsFor_ready (by decide +kernel)

/-! ### Class M -/

def mArgs (ty : Ty) (data base index : Src) (d : Sel) : MArgs := ⟨ty, none, .plain, .crew, .mem, data, base, index, d, 0⟩
/-- The accesses of an instruction whose lanes all pass their checks. -/
def oks (s : State) (c : Cur) (x : MArgs) (sh : Shape) (acc : Acc) : List LaneAcc :=
  (s.laneChecks c x sh acc).filterMap fun r => match r.2 with | .ok a => some a | _ => none
/-- AllPass and NoWait, as a check. -/
def passes (s : State) (c : Cur) (x : MArgs) (sh : Shape) (acc : Acc) : Bool :=
  decide (s.laneChecks c x sh acc = (oks s c x sh acc).map fun a => (a.lane, LaneRes.ok a)) && !c.b.acquiring && (!orderRel x.order || s.performed c.b x.scope)
theorem passes_sound {s : State} {c : Cur} {x : MArgs} {sh : Shape} {acc : Acc} (h : passes s c x sh acc = true) :
    AllPass s c x sh acc (oks s c x sh acc) ∧ NoWait s c x := by
  simp only [passes, Bool.and_eq_true, decide_eq_true_eq, Bool.not_eq_true', Bool.or_eq_true] at h
  refine ⟨h.1.1, h.1.2, fun hr => ?_⟩
  rcases h.2 with h2 | h2
  · rw [hr] at h2; cases h2
  · exact h2

/-- The page state of class M: s1 the page's address, vector registers unlisted but v2, lane l holding 4·l. -/
def stM (sup : List (Nat × Word)) : State := withPage (st 0 ([(1, 0x2000)] ++ (List.range 8).map (fun l => (vKey 2 l, BitVec.ofNat 64 (4 * l))) ++ sup))

theorem wit_LoadsLeaveTheirDestinationEmpty : let x := mArgs .i32 .zero (sr 1) (vr 2) (.v 4)
    ∃ c, Ready (stM []) c (needLoad x .lanes c) ∧ (passes (stM []) c x .lanes .load && (oks (stM []) c x .lanes .load).length == 8) = true :=
  holdsFor_ready (by decide +kernel)
/-- One lane active of eight. -/
theorem wit_LoadsLeaveTheirDestinationEmpty_one : let x := { mArgs .i32 .zero (sr 1) (vr 2) (.v 4) with pred := some 1 }
    ∃ c, Ready (stM [(65, 2)]) c (needLoad x .lanes c) ∧ (passes (stM [(65, 2)]) c x .lanes .load && (oks (stM [(65, 2)]) c x .lanes .load).map (fun a => a.lane) == [1] && c.b.pend == []) = true :=
  holdsFor_ready (by decide +kernel)
theorem wit_StoresEnterTheStoreQueue : let x := mArgs .i32 (vr 3) (sr 1) (vr 2) (.v 0)
    ∃ c, Ready (stM []) c (needStore x c) ∧ (passes (stM []) c x .lanes .store && decide (c.b.ackcnt + (accLines (oks (stM []) c x .lanes .store)).length = 1)) = true :=
  holdsFor_ready (by decide +kernel)
theorem wit_AtomicsEnterTheStoreQueue : let x := mArgs .i32 (vr 3) (sr 1) (vr 2) (.v 4)
    ∃ c, Ready (stM []) c (needAtom x .cas c) ∧ (passes (stM []) c x .lanes .atomic && decide (c.b.ackcnt + (accLines (oks (stM []) c x .lanes .atomic)).length ≤ 512)) = true :=
  holdsFor_ready (by decide +kernel)
theorem wit_AtomicsEnterTheStoreQueue_reduction : let x := mArgs .i32 (vr 3) (sr 1) (vr 2) (.v 0)
    ∃ c, Ready (stM []) c (needStore x c) ∧ (passes (stM []) c x .lanes .atomic) = true :=
  holdsFor_ready (by decide +kernel)
theorem wit_FencesAndCacheMaintenance : let x := mArgs .i8 .zero (sr 1) (vr 2) (.v 0)
    (∃ c, Ready (stM []) c { cls := .m, sync := true, pred := none } ∧ (!c.b.acquiring && (stM []).performed c.b .system) = true) ∧
    (∃ c, Ready (stM []) c { cls := .m, pred := none } ∧ true = true) ∧
    ∃ c, Ready (stM []) c { cls := .m, pred := none, srcs := memSrcs x false } ∧ ((stM []).heldPa c (c.addr x .lanes 3) == some (0x60100C, 0)) = true :=
  ⟨holdsFor_ready (n := fun _ => { cls := .m, sync := true, pred := none }) (by decide +kernel),
    holdsFor_ready (n := fun _ => { cls := .m, pred := none }) (p := fun _ => true) (by decide +kernel),
    holdsFor_ready (n := fun _ => { cls := .m, pred := none, srcs := memSrcs (mArgs .i8 .zero (sr 1) (vr 2) (.v 0)) false }) (by decide +kernel)⟩
theorem wit_CopiesAreQueued : let x := rArgs .i8 (.s 5) (sr 1) (sr 2) ; let x := { x with c := sr 3, md := 4 }
    let s := withPage (st 0 [(1, 0), (2, 0x2000), (3, 64)])
    (∃ c, Ready s c (needCopy x c) ∧ (match ownCp x s c with | .go => true | _ => false) = true) ∧
    (∃ c, Ready (st 0 [(1, 0), (2, 0), (3, 0)]) c (needCopy x c) ∧ (match ownCpt x (st 0 [(1, 0), (2, 0), (3, 0)]) c with | .go => true | _ => false) = true) ∧
    (∃ c, Ready (st 0 [(1, 0), (2, 0), (3, 0)]) c (needCopy x c) ∧ ((c.raw x.c.sel).toNat == 0) = true) ∧
    (∃ c, Ready (st 0 [(1, 0), (2, 0), (3, 16777217)]) c (needCopy x c) ∧ decide (16777216 < (c.raw x.c.sel).toNat) = true) ∧
    ∃ c, Ready s c { cls := .m, sync := true, once := true, pred := none } ∧ true = true :=
  ⟨holdsFor_ready (by decide +kernel), holdsFor_ready (by decide +kernel), holdsFor_ready (by decide +kernel), holdsFor_ready (by decide +kernel),
    holdsFor_ready (n := fun _ => { cls := .m, sync := true, once := true, pred := none }) (p := fun _ => true) (by decide +kernel)⟩
theorem wit_StreamRequestsAreQueued : let x := { rArgs .i8 (.s 5) (sr 1) (sr 2) with c := sr 3 }
    (∃ c, Ready (st 0 [(1, 0)]) c (needStream x 1 c) ∧ true = true) ∧
    (∃ c, Ready (st 0 [(1, 0), (2, 0), (3, 64)]) c (needStream x 3 c) ∧
      ((c.raw x.c.sel).toNat == 64 && (st 0 []).spaceBad c .ls 0 64 == none && !c.b.acquiring && !(c.b.sq.any fun e => e.op.local) && !(st 0 []).vaultFlies c.b.key) = true) ∧
    ∃ c, Ready (mapB (st 0 [(1, 0), (2, 0), (3, 64)]) fun b => { b with sq := [⟨0, .store false [(⟨0, .ls, 0, 0, 0, 0, false, 1⟩, [1])], 0⟩] }) c (needStream x 3 c) ∧
      (c.b.sq.any fun e => e.op.local) = true :=
  ⟨holdsFor_ready (p := fun _ => true) (by decide +kernel), holdsFor_ready (by decide +kernel), holdsFor_ready (by decide +kernel)⟩

/-! ### Class T, transfers of control, traps -/

def tArgs (a b : Src) : TArgs := ⟨none, 2, false, false, 1, 1, a, b, 0⟩
/-- An 8 by 8 tensor of 16-bit elements in the crew's window stands in entry 1. -/
def withTensor (s : State) : State := { s with tft := [(1, ⟨4, 0, 0, 0, 1, 0, 8, 8, 16, 0, []⟩)] }
def isGo (o : Own) : Bool := match o with | .go => true | _ => false

/-- TileMay, as a check; all lanes are active. -/
def tileMay (s : State) (c : Cur) (x : TArgs) (rdy : Bool) (segs : List (Space × List (Nat × Nat))) : Bool :=
  c.active x.pred != 0 && c.allActive x.pred && ((c.tile x.tile).any fun k => decide (k.queue.length + k.busy.toList.length < 5)) &&
    (segs.all fun y => y.2.all fun z => s.spaceBad c y.1 z.1 z.2 == none) && (!rdy || s.performed c.b .device)
theorem wit_TileInstructionsAreQueued : let x := tArgs (sr 1) (sr 2)
    let s := withTensor (st 2 [(1, 0), (2, 0)])
    (∃ c, Ready s c (needT x [x.crda, x.crdb] 0 c) ∧ tileMay s c x true (mmSegs (c.opA s x) (c.opB s x) (c.opB s x).oext (mmSpan (c.opA s x) (c.opB s x))) = true) ∧
    (∃ c, Ready s c (needT x [x.crda, x.crdb] 0 c) ∧ tileMay s c x true (mmSegs (c.opA s x) (c.opB s x) 1 (mmvSpan (c.opA s x) (c.opB s x))) = true) ∧
    (∃ c, Ready s c (needT x [] 1 c) ∧ tileMay s c x false [] = true) ∧ (∃ c, Ready s c (needT x [x.crda] 64 c) ∧ tileMay s c x true (c.opA s x).tileSegs = true) ∧
    ∃ c, Ready s c (needT x [x.crdb] 64 c) ∧ (decide ((c.opB s x).c0 * (c.opB s x).t.c % 8 = 0) &&
      tileMay s c x false (placed (c.opB s x).t ((c.opB s x).outSegs ++ (c.opB s x).outScales)) && decide (c.b.ackcnt + (c.opB s x).outLines.length ≤ 512)) = true := by
  and_intros <;> exact holdsFor_ready (by decide +kernel)
/-- One lane active of eight. -/
theorem wit_TileInstructionsAreQueued_masked : let x := { tArgs (sr 1) (sr 2) with pred := some 1 }
    let s := withTensor (st 2 [(1, 0), (2, 0), (65, 1)])
    (∃ c, Ready s c (needT x [] 1 c) ∧ (c.active x.pred == 1 && !c.allActive x.pred) = true) ∧ (∃ c, Ready s c (needT x [x.crda, x.crdb] 0 c) ∧ (c.active x.pred == 1) = true) ∧
      (∃ c, Ready s c (needT x [x.crda] 64 c) ∧ (c.active x.pred == 1) = true) ∧ ∃ c, Ready s c (needT x [x.crdb] 64 c) ∧ (c.active x.pred == 1) = true := by
  and_intros <;> exact holdsFor_ready (by decide +kernel)
/-- A product of entry 1 with itself has ended in every tile and not reached its release point. -/
def withUnread (s : State) : State :=
  let t : Tensor := ⟨4, 0, 0, 0, 1, 0, 8, 8, 16, 0, []⟩
  mapC s fun k => { k with tiles := k.tiles.map fun y => { y with unread := [⟨⟨0, 0, 0⟩, 0, .mm t t false false 0 0, .val 0, 1, 0, none, 1, some 0⟩] } }
theorem wit_TilePairsFlagsAndProgress : let x := tArgs (sr 1) (sr 5)
    (∃ c, Ready (st 2 [(1, 0x40000)]) c (needT x [x.crda] 1 c) ∧ (c.active none != 0 && c.allActive none && !wpOk (c.raw x.crda.sel)) = true) ∧
    (∃ c, Ready (st 2 [(1, 0)]) c (needT x [x.crda] 1 c) ∧ (c.active none != 0 && c.allActive none && wpOk (c.raw x.crda.sel)) = true) ∧
    (∃ c, Ready (st 2 []) c (needRead x true c) ∧ ((c.tile x.tile).any fun k => k.full && k.queue == [] && k.busy == none && !k.owed.contains c.b.key && k.unread == []) = true) ∧
    (∃ c, Ready (st 2 []) c (needRead x false c) ∧ (c.tile x.tile).isSome = true) ∧
    (∃ c, Ready (withUnread (st 2 [])) c (needRead x true c) ∧ ((c.tile x.tile).any fun k => k.full && k.queue == [] && k.busy == none && !k.owed.contains c.b.key && k.unread.length == 1 &&
      k.unread.all fun m => !(withUnread (st 2 [])).stale c.g.ctx (groveOf c.c.core) m) = true) ∧
    ∃ c, Ready (mapC (st 2 []) fun k => { k with tiles := k.tiles.map fun t => { t with full := false } }) c (needRead x true c) ∧ ((c.tile x.tile).any fun k => !k.full) = true := by
  and_intros <;> exact holdsFor_ready (by decide +kernel)

def bArgs (a : Src) : BArgs := ⟨0, none, 0, a, 6, 0xFFFFFE⟩
theorem wit_BranchTargets : (∃ c, Ready (st 0 [(1, 0)]) c (needB (bArgs (sr 1)) c) ∧ decide ((c.raw (.s 1)).toInt = 0) = true) ∧
    (∃ c, Ready (st 0 [(1, BitVec.allOnes 64)]) c (needB { bArgs (sr 1) with cond := 5 } c) ∧ decide ((c.raw (.s 1)).toInt < 0) = true) ∧
    (∃ c, Ready (st 0 [(65, 0x100)]) c (needB (bArgs (mr 1)) c) ∧ ((List.range 8).all fun l => !(c.raw (.m 1)).getLsbD l) = true) ∧ (Instr.br { bArgs (sr 1) with cond := 5, link := 0 }).wf = true :=
  ⟨holdsFor_ready (by decide +kernel), holdsFor_ready (by decide +kernel), holdsFor_ready (by decide +kernel), by decide +kernel⟩
theorem wit_RegisterTargetsAndCalls : (∃ c, Ready (st 0 [(1, 0x2008)]) c (needB (bArgs (sr 1)) c) ∧ decide ((c.raw (.s 1)).toNat % 8 = 0) = true) ∧
    (∃ c, Ready (st 0 [(1, 0x2004)]) c (needB (bArgs (sr 1)) c) ∧ decide ((c.raw (.s 1)).toNat % 8 ≠ 0) = true) ∧
    (∃ c, Ready (st 0 [(1, 0x2008)]) c (needCall (bArgs (sr 1)) c) ∧ true = true) ∧ ∃ c, Ready (st 0 [(1, 0x2001)]) c (needCall (bArgs (sr 1)) c) ∧ decide ((c.raw (.s 1)).toNat % 8 ≠ 0) = true :=
  ⟨holdsFor_ready (by decide +kernel), holdsFor_ready (by decide +kernel), holdsFor_ready (p := fun _ => true) (by decide +kernel), holdsFor_ready (by decide +kernel)⟩

/-- The needs of a split. -/
def needSplit (x : BArgs) (c : Cur) : Need := { needB x c with dsts := [(.s x.link, false, true)] }
/-- A second path stands at a join of the clause at 0x1000, waiting or not, with the upper four lanes. -/
def sibling (waiting : Bool) (pc : Word) : Path := ⟨pc, 0, if waiting then some ⟨0, [0]⟩ else none, 0xF0, 0x1000, waiting, none, if waiting then some .join else none, false⟩
def withSibling (s : State) (q : Path) : State := mapB s fun b => { b with arch := { b.arch with slot0 := b.arch.slot0.map fun p => { p with mask := p.mask &&& ~~~q.mask }, slot1 := some q } }
theorem wit_SplitMakesTwoPaths : let x := bArgs (mr 1)
    (∃ c, Ready (st 0 [(65, 3)]) c (needSplit x c) ∧ (c.b.arch.tdepth == 0 && c.m 0 &&& c.raw (.m 1) != 0 && c.m 0 &&& ~~~c.raw (.m 1) != 0 && (c.b.arch.path true).isNone) = true) ∧
    (∃ c, Ready (st 0 [(65, 0)]) c (needSplit x c) ∧ (c.b.arch.tdepth == 0 && c.m 0 &&& c.raw (.m 1) == 0) = true) ∧
    ∃ c, Ready (withSibling (st 0 [(65, 3)]) (sibling false 0x2000)) c (needSplit x c) ∧ (c.b.arch.tdepth == 0 && (c.b.arch.path true).isSome && c.b.arch.stack.length != c.g.dstack) = true :=
  ⟨holdsFor_ready (by decide +kernel), holdsFor_ready (by decide +kernel), holdsFor_ready (by decide +kernel)⟩
theorem wit_JoinMergesPaths : let x := bArgs (sr 1)
    let at1 := fun (s : State) => mapP s fun p => { p with jt := 0x1000 }
    (∃ c, Ready (st 0 [(1, 0)]) c (needJoin x c) ∧ (c.b.arch.tdepth == 0 && c.p.jt != c.p.pc) = true) ∧
    (∃ c, Ready (withSibling (at1 (st 0 [(1, 0)])) (sibling true 0x1000)) c (needJoin x c) ∧ (c.b.arch.tdepth == 0 && c.p.jt == c.p.pc) = true) ∧
    (∃ c, Ready (withSibling (at1 (st 0 [(1, 0)])) (sibling false 0x2000)) c (needJoin x c) ∧ (c.b.arch.tdepth == 0 && c.p.jt == c.p.pc) = true) ∧
    ∃ c, Ready (at1 (st 0 [(1, 0)])) c (needJoin x c) ∧ (c.b.arch.tdepth == 0 && c.p.jt == c.p.pc && (c.b.arch.path true).isNone) = true := by
  and_intros <;> exact holdsFor_ready (by decide +kernel)
theorem wit_ExitHaltNopYield : (∃ c, Ready (st 0 []) c (needX1 none true c) ∧ (c.b.arch.stack == [] && (c.b.arch.path true).isNone) = true) ∧
    (∃ c, Ready (withSibling (st 0 []) (sibling true 0x1000)) c (needX1 none true c) ∧ true = true) ∧ ∃ c, Ready (st 0 []) c (needX1 none false c) ∧ true = true :=
  ⟨holdsFor_ready (by decide +kernel), holdsFor_ready (p := fun _ => true) (by decide +kernel), holdsFor_ready (p := fun _ => true) (by decide +kernel)⟩

/-- The issuing path stands in a handler of a depth. -/
def handler (d : Nat) (s : State) : State := mapB s fun b => { b with arch := { b.arch with tdepth := d, sup := true, hslot := false } }
theorem wit_TrapEntrySavesState : (st 0 []).cur.any (fun c => c.b.arch.tdepth == 0) = true ∧ (handler 1 (st 0 [])).cur.any (fun c => c.b.arch.tdepth == 1) = true := by decide +kernel
theorem wit_SoftTrapsAndHalts_none : ∃ c, Ready (mapP (st 0 []) fun p => { p with mask := 0 }) c (needX0 none true c) ∧ (c.b.arch.tdepth == 0 && c.active none == 0) = true := holdsFor_ready (by decide +kernel)
theorem wit_SoftTrapsAndHalts : (∃ c, Ready (st 0 []) c (needX0 none true c) ∧ (c.b.arch.tdepth == 0 && inMask (c.active none) 7) = true) ∧
    mayIssue (mapP (st 0 []) fun p => { p with clause := some ⟨0x0100000000000000, [0, 0]⟩ }) (needX0 none true) (fun c => !c.lastInClause) = true ∧
    ((handler 2 (st 0 [])).cur.any fun c => c.b.arch.tdepth == 2) = true ∧ ((handler 1 (st 0 [])).cur.any fun c => c.b.arch.tdepth == 1) = true :=
  ⟨holdsFor_ready (by decide +kernel), by decide +kernel, by decide +kernel, by decide +kernel⟩
theorem wit_SretRestores : (∃ c, Ready (handler 1 (st 0 [])) c { needX1 none true c with sync := false, hand := true, sup := true } ∧ (c.b.arch.tdepth == 1) = true) ∧
    (∃ c, Ready (handler 2 (st 0 [])) c { needX1 none true c with sync := false, hand := true, sup := true } ∧ (c.b.arch.tdepth == 2) = true) ∧
    mayIssue (st 0 []) (fun c => { needX1 none true c with sync := false, hand := true, sup := true }) (fun c => c.lastInClause && c.b.role == 0 && c.b.arch.tdepth == 0) = true :=
  ⟨holdsFor_ready (n := fun c => { needX1 none true c with sync := false, hand := true, sup := true }) (by decide +kernel),
    holdsFor_ready (n := fun c => { needX1 none true c with sync := false, hand := true, sup := true }) (by decide +kernel), by decide +kernel⟩
theorem wit_IssueChecksInOrder : let x := rArgs .i32 (.v 3) (vr 1) (vr 2)
    let away := fun (s : State) => mapB s fun b => { b with arch := { b.arch with awaits := [(.v 1, 9)] } }
    mayIssue (st 2 []) (needV .add x) (fun c => c.b.role != 0) = true ∧
    ((mapG (st 0 []) fun g => { g with regs := 1 }).cur.any fun c => (needV .add { x with dst := .v 8 } c).dsts.any fun y => (vRegs y.1 y.2.1).any fun v => decide (c.vLimit ≤ v)) = true ∧
    ((away (st 0 [])).cur.any fun c => (needV .add { x with a := ⟨.v 1, false, true⟩ } c).srcs.any fun y => y.1.trap && c.srcEmpty y) = true ∧
    ((away (st 0 [])).cur.any fun c => (needV .add x c).srcs.any fun y => c.srcEmpty y && !y.1.trap) = true := by
  decide +kernel
/-- Instructions of classes S, V, M and T without an active lane. -/
theorem wit_IssueChecksInOrder_none :
    (let x := { rArgs .i32 (.s 3) (sr 1) (sr 2) with pred := some 1 }; ∃ c, MayIssue (st 0 [(1, 0), (2, 0), (65, 0)]) c (needS x c) ∧ (x.pred.isSome && c.active x.pred == 0) = true) ∧
    (let x := { rArgs .i32 (.v 3) (vr 1) (vr 2) with pred := some 1 }; ∃ c, MayIssue (st 0 [(65, 0)]) c (needV .add x c) ∧ (!x.z && c.active x.pred == 0) = true) ∧
    (let x := { mArgs .i32 (vr 3) (sr 1) (vr 2) (.v 4) with pred := some 1 }; let s := stM [(65, 0)]
      (∃ c, MayIssue s c (needLoad x .lanes c) ∧ (c.active x.pred == 0) = true) ∧ (∃ c, MayIssue s c (needStore x c) ∧ (c.active x.pred == 0) = true) ∧
        ∃ c, MayIssue s c (needAtom x .cas c) ∧ (c.active x.pred == 0) = true) ∧
    let x := { tArgs (sr 1) (sr 2) with pred := some 1 }; let s := withTensor (st 2 [(1, 0), (2, 0), (65, 0)])
    (∃ c, MayIssue s c (needT x [] 1 c) ∧ (c.active x.pred == 0) = true) ∧ (∃ c, MayIssue s c (needT x [x.crda, x.crdb] 0 c) ∧ (c.active x.pred == 0) = true) ∧
      (∃ c, MayIssue s c (needT x [x.crda] 64 c) ∧ (c.active x.pred == 0) = true) ∧ (∃ c, MayIssue s c (needT x [x.crdb] 64 c) ∧ (c.active x.pred == 0) = true) ∧
      ∃ c, MayIssue s c (needT x [x.crda] 1 c) ∧ (c.active x.pred == 0) = true :=
  ⟨mayGo_may (by decide +kernel), mayGo_may (by decide +kernel), ⟨mayGo_may (by decide +kernel), mayGo_may (by decide +kernel), mayGo_may (by decide +kernel)⟩,
    mayGo_may (by decide +kernel), mayGo_may (by decide +kernel), mayGo_may (by decide +kernel), mayGo_may (by decide +kernel), mayGo_may (by decide +kernel)⟩
/-- The header at the program counter is given by this word; the clause's words follow it in memory. It waits for nothing, for tile 1 or for s3; its clause has begun or not. -/
def atHeader (f : Path → Path) : State := mapP ((State.reset.withLoader 0 none).wr64 0x600000 0) fun p => f { p with clause := none }
def headerOk (s : State) (p : Cur → Bool) : Bool := s.cur.any fun c => c.eligible && !s.saveStops c && !s.queueBlocked c && c.p.clause.isNone && p c
theorem wit_ClauseHeaderEntersItsClause :
    (let s := atHeader fun p => p
     headerOk s (fun c => c.p.pc.toNat % 8 == 0 && c.p.idx == 0 && !c.p.begun && (match decodeHeader c.g.acc 0 with | .ok h => h.count == 0 && c.waitHolds h.wait0 && c.waitHolds h.wait1 && (match s.fetchWords c 1 (c.p.pc + 8) with | .ok ws => ws.length == 1 | _ => false) | _ => false)) = true ∧
     headerOk s (fun c => match decodeHeader c.g.acc 0x5000000000000000 with | .ok _ => false | _ => true) = true) ∧
    headerOk (atHeader fun p => { p with begun := true }) (fun c => c.p.begun) = true ∧ headerOk (atHeader fun p => { p with pc := 0x1004 }) (fun c => c.p.pc.toNat % 8 != 0) = true ∧
    headerOk (mapB (atHeader fun p => p) fun b => { b with arch := { b.arch with awaits := [(.s 3, 9)] } }) (fun c => !c.waitHolds 0x43) = true ∧
    waitTile 129 = [1] ∧ headerOk (mapC (mapG (atHeader fun p => p) fun g => { g with acc := 8 }) fun k => { k with tiles := List.replicate 8 (Tile.start 0) }) (fun c => waitOk c.g.acc 129 && c.waitHolds 129 && (c.c.tiles[1]?).any fun t => !t.owed.contains c.b.key) = true := by
  decide +kernel

/-! ### Class X -/

def xArgs : RArgs := { rArgs .i8 (.s 5) (sr 1) (sr 2) with c := sr 3 }
/-- Class X of one active lane with a page: s1, s2 and s3 given. -/
def stX (a b c : Word) : State := withPage (st 0 [(1, a), (2, b), (3, c)])
def accOk (s : State) (c : Cur) (k : Acc) (n : Nat) (va : Word) (p : LaneAcc → Bool) : Bool :=
  match s.xAccess c k none n va with | .ok a => p a | _ => false
def readOk (s : State) (c : Cur) (n : Nat) (va : Word) (p : LaneAcc → Bool) : Bool :=
  match s.xRead c none n va with | .ok a => p a | _ => false

/-- An arrival at barrier 15 stands at the head of the store queue. -/
def arriving : State := mapB (st 0 []) fun b => { b with sq := [⟨0, .barArrive 9 15 1, 0⟩] }
theorem wit_NamedBarriers : let x := xArgs
    (∃ c, Ready (stX 15 1 0) c (needX x true 2 c) ∧ (!c.c.abandoned && (stX 15 1 0).performed c.b .crew && (c.c.bars[15]?).isSome && c.p.held.isNone) = true) ∧
    (∃ c, Ready (mapC (stX 15 1 0) fun k => { k with abandoned := true }) c (needX x true 2 c) ∧ (c.c.abandoned) = true) ∧
    (∃ c, Ready (stX 16 1 0) c (needX x true 2 c) ∧ (decide (16 ≤ (c.raw x.a.sel).toNat) && c.p.held.isNone) = true) ∧
    (match arriving.bundle? ⟨0, 0, 0⟩, arriving.crew? ⟨0, 0⟩ with
      | some b, some c => b.parked.isNone && b.sq == [⟨0, .barArrive 9 15 1, 0⟩] && !arriving.tooEarly b ⟨0, .barArrive 9 15 1, 0⟩ && !c.abandoned && (c.bars[15]?).isSome | _, _ => false) = true :=
  ⟨holdsFor_ready (by decide +kernel), holdsFor_ready (by decide +kernel), holdsFor_ready (by decide +kernel), by decide +kernel⟩
/-- bar.sync stands without its ticket, and with one whose generation has not passed, or has. -/
theorem wit_NamedBarriers_sync : let x := xArgs
    let at? := fun (h : Held) => mapP (stX 15 1 0) fun p => { p with held := some h }
    (∃ c, Ready (at? (.barSync 15 9 none)) c { needX x true 2 c with srcs := [] } ∧ (!c.c.abandoned && c.p.held == some (.barSync 15 9 none)) = true) ∧
    (∃ c, Ready (at? (.barSync 15 9 (some (0, 2)))) c { needX x true 2 c with srcs := [] } ∧ (!c.c.abandoned && (c.c.bars[15]?).any fun b => !passed b.gen 0) = true) ∧
    ∃ c, Ready (at? (.barSync 15 9 (some (2 ^ 32 - 1, 2)))) c { needX x true 2 c with srcs := [] } ∧ (!c.c.abandoned && (c.c.bars[15]?).any fun b => passed b.gen (2 ^ 32 - 1)) = true :=
  ⟨holdsFor_ready (n := fun c => { needX xArgs true 2 c with srcs := [] }) (by decide +kernel), holdsFor_ready (n := fun c => { needX xArgs true 2 c with srcs := [] }) (by decide +kernel),
    holdsFor_ready (n := fun c => { needX xArgs true 2 c with srcs := [] }) (by decide +kernel)⟩
theorem wit_BarrierObjectsAndCounters : let x := xArgs
    (∃ c, Ready (stX 0x2000 1 0) c (needX x true 2 c) ∧ (!c.b.acquiring && c.b.ackcnt == 0 && decide (1 ≤ (c.raw x.b.sel).toNat) && accOk (stX 0x2000 1 0) c .atomic 32 0x2000 (fun a =>
      !(stX 0x2000 1 0).lineBusy c.b a.addr && (stX 0x2000 1 0).performed c.b ((stX 0x2000 1 0).aboScope a.addr)) && accOk (stX 0x2000 1 0) c .atomic 8 0x2000 (fun _ => true)) = true) ∧
    (∃ c, Ready (stX 0x2000 65535 0) c (needX x true 2 c) ∧ decide ((c.raw x.b.sel).toNat = 65535) = true) ∧
    ∃ c, Ready (withPage (st 0 [(1, 0x2000), (2, 1), (3, 0x2040), (5, 7)])) c (needArm x c) ∧ (accOk (withPage (st 0 [(1, 0x2000), (2, 1), (3, 0x2040), (5, 7)])) c .atomic 8 0x2000 (fun _ => true) &&
      (match (withPage (st 0 [(1, 0x2000), (2, 1), (3, 0x2040), (5, 7)])).armRecord c x with | .ok _ => true | _ => false) && x.md.val == 0 && readOk (withPage (st 0 [(1, 0x2000), (2, 1), (3, 0x2040), (5, 7)])) c 64 0x2040 (fun _ => true) && (c.raw x.a.sel).toNat % 8 == 0 && (c.raw x.c.sel).toNat % 64 == 0) = true :=
  ⟨holdsFor_ready (by decide +kernel), holdsFor_ready (by decide +kernel), holdsFor_ready (by decide +kernel)⟩
/-- An object whose generation is 0; its ticket is awaited in generation 0, not passed, or 2³² − 1, passed. -/
theorem wit_BarrierObjectWaits : let x := xArgs
    let cond := fun (s : State) (c : Cur) (q : Bool) => !c.b.acquiring && c.p.held.isNone && accOk s c .atomic 32 0x2000 (fun a =>
      !s.aboHeld c.b a.addr && !s.aboAbandoned c a.addr && (passed (fld (s.objWord a.addr 0) 63 32) (fld (c.raw x.b.sel) 63 32) == q))
    (∃ c, Ready (stX 0x2000 0 0) c (needX x true 2 c) ∧ cond (stX 0x2000 0 0) c false = true) ∧
    ∃ c, Ready (stX 0x2000 0xFFFFFFFF00000000 0) c (needX x true 2 c) ∧ cond (stX 0x2000 0xFFFFFFFF00000000 0) c true = true :=
  ⟨holdsFor_ready (by decide +kernel), holdsFor_ready (by decide +kernel)⟩
/-- Ring 3 has two stages; stage 1 is full in phase 1. -/
def withRing (s : State) : State := mapC s fun k => { k with rings := [(3, ⟨0, 64, 2, false⟩)], win := [(8, .val 3)] }
theorem wit_StageRings : let x := xArgs
    (∃ c, Ready (stX 3 0 0x102) c (needX x true 3 c) ∧ (!ringBad (4096 * c.g.scratch) (c.raw x.a.sel) (c.raw x.b.sel) (c.raw x.c.sel)) = true) ∧
    (∃ c, Ready (stX 3 0 0x120) c (needX x true 3 c) ∧ (ringBad (4096 * c.g.scratch) (c.raw x.a.sel) (c.raw x.b.sel) (c.raw x.c.sel)) = true) ∧
    (∃ c, Ready (withRing (stX 3 1 0)) c (needX x true 2 c) ∧ ((withRing (stX 3 1 0)).performed c.b .crew && (mapGet c.c.rings 3).isSome) = true) ∧
    (∃ c, Ready (withRing (stX 3 1 0)) c (needX x true 3 c) ∧ (!c.b.acquiring && c.b.sq.isEmpty && (mapGet c.c.rings 3).any fun r => decide (1 < r.count) && !(withRing (stX 3 1 0)).stageReady c r 1 0) = true) ∧
    (∃ c, Ready (withRing (stX 3 1 1)) c (needX x true 3 c) ∧ ((mapGet c.c.rings 3).any fun r => (withRing (stX 3 1 1)).stageReady c r 1 1) = true) ∧
    ∃ c, Ready (stX 3 1 0) c (needX x true 2 c) ∧ (mapGet c.c.rings 3).isNone = true := by
  and_intros <;> exact holdsFor_ready (by decide +kernel)
theorem wit_LaunchWaitStep : let x := xArgs
    (∃ c, Ready (mapG (stX 0x2000 0 0) fun g => { g with depth := 10 }) c (needX x false 1 c) ∧ decide (10 ≤ c.g.depth) = true) ∧
    (∃ c, Ready (stX 0x2000 0 0) c (needX x false 1 c) ∧ (decide (c.g.depth < 10) && readOk (stX 0x2000 0 0) c 64 0x2000 (fun _ => true) && !c.b.acquiring && (stX 0x2000 0 0).performed c.b .device && !(stX 0x2000 0 0).tableFull) = true) ∧
    (∃ c, Ready (stX 0xFFFFFFFF 0 0) c (needX x false 1 c) ∧ (c.b.children == [] && !c.b.launching && (c.raw x.a.sel).toNat % 2 ^ 32 == 0xFFFFFFFF) = true) ∧
    (∃ c, Ready (stX 4 0 0) c (needX x false 1 c) ∧ (c.b.children == [] && !c.b.launching && c.p.held.isNone) = true) ∧
    (∃ c, Ready (mapB (stX 0xFFFFFFFF 0 0) fun b => { b with children := [1] }) c (needX x false 1 c) ∧ (c.b.children != []) = true) ∧
    (∃ c, Ready (mapB (stX 4 0 0) fun b => { b with children := [4] }) c (needX x false 1 c) ∧ (c.b.children.contains 4 && c.p.held.isNone) = true) ∧
    (∃ c, Ready (mapP (stX 0 0 0) fun p => { p with held := some .step }) c (needX x true 0 c) ∧ (c.p.held == some .step) = true) ∧
    (∃ c, Ready (stX 0 0 0) c (needX x true 0 c) ∧ (c.g.announce.isNone) = true) ∧ ∃ c, Ready (mapG (stX 0 0 0) fun g => { g with announce := some true }) c (needX x true 0 c) ∧ (c.g.announce.isSome) = true := by
  and_intros <;> exact holdsFor_ready (by decide +kernel)
/-- A profile of tenant 0 with k = 4, m = 2 and 6 paths stands in register 0. -/
def withProfile (s : State) : State := s.setReg 0x4000 (wordOf [(26, 6), (20, 2), (14, 4)])
theorem wit_MessagesAndCollectivesQueue : let x := xArgs
    (∃ c, Ready (stX 0x2000 64 0) c (needX x false 3 c) ∧ (!((stX 0x2000 64 0).profile c.g.tenant x.md.val).getLsbD 0) = true) ∧
    (∃ c, Ready (withProfile (stX 0x2000 64 0)) c (needX x false 3 c) ∧ (((withProfile (stX 0x2000 64 0)).profile c.g.tenant x.md.val).getLsbD 0 && !c.b.acquiring && (withProfile (stX 0x2000 64 0)).writesDone c.b && c.b.ackcnt == 0) = true) ∧
    (∃ c, Ready (withProfile (stX 0x2000 67108865 0)) c (needX x false 3 c) ∧ (((withProfile (stX 0x2000 67108865 0)).profile c.g.tenant x.md.val).getLsbD 0 && decide (67108864 < (c.raw x.b.sel).toNat)) = true) ∧
    (∃ c, Ready (stX 0 5 0) c (needNarm x c) ∧ (c.raw x.a.sel == 0) = true) ∧
    (∃ c, Ready (stX 0x2000 0x2040 0) c (needNarm x c) ∧ (c.raw x.a.sel != 0 && (match (stX 0x2000 0x2040 0).narmWords c x with | .ok _ => true | _ => false) && !c.b.acquiring) = true) ∧
    ∃ c, Ready (stX 0 0 0) c (needX x true 3 c) ∧ (!c.b.acquiring && (stX 0 0 0).performed c.b .system && !(stX 0 0 0).collFull c 0) = true := by
  and_intros <;> exact holdsFor_ready (by decide +kernel)
theorem wit_RegisterBlocks : let x := { xArgs with dst := .m 4 }
    let small := fun (n : Word) => mapG (stX n 0 0) fun g => { g with regs := 2 }
    (∃ c, Ready (stX 1 0 0) c (needX x false 1 c) ∧ decide (16 < c.g.regs + c.b.arch.ext + (c.raw x.a.sel).toNat) = true) ∧
    (∃ c, Ready (small 14) c (needX x false 1 c) ∧ (decide (c.g.regs + c.b.arch.ext + (c.raw x.a.sel).toNat = 16) && (small 14).pendingRacq c.c.core == [] && decide (14 ≤ (small 14).freeRegs c.c.core) && c.p.held.isNone) = true) ∧
    ∃ c, Ready (mapG (stX 1 0 0) fun g => { g with regs := 15, bundles := 1000 }) c (needX x false 1 c) ∧
      (decide (c.g.regs + c.b.arch.ext + (c.raw x.a.sel).toNat ≤ 16) && c.p.held.isNone && decide ((mapG (stX 1 0 0) fun g => { g with regs := 15, bundles := 1000 }).freeRegs c.c.core < 1)) = true :=
  ⟨holdsFor_ready (by decide +kernel), holdsFor_ready (by decide +kernel), holdsFor_ready (by decide +kernel)⟩
/-- The page's image is all zeros, which R436 accepts, or has a bad first word. -/
theorem wit_TensorFormatTable : let x := xArgs
    (∃ c, Ready (stX 255 0x2000 1) c (needX x false 2 c) ∧ (!c.b.acquiring && c.b.sq.isEmpty && readOk (stX 255 0x2000 1) c 64 0x2000 (fun a => !imageBad ((stX 255 0x2000 1).readRec c a 8))) = true) ∧
    (∃ c, Ready ((stX 255 0x2000 1).wr64 0x601000 0xFFFFFFFFFFFFFFFF) c (needX x false 2 c) ∧
      readOk ((stX 255 0x2000 1).wr64 0x601000 0xFFFFFFFFFFFFFFFF) c 64 0x2000 (fun a => imageBad (((stX 255 0x2000 1).wr64 0x601000 0xFFFFFFFFFFFFFFFF).readRec c a 8)) = true) ∧
    (∃ c, Ready (stX 0 0x2000 1) c (needX x false 2 c) ∧ accOk (stX 0 0x2000 1) c .store 64 0x2000 (fun _ => c.b.ackcnt == 0) = true) ∧
    ∃ c, Ready (stX 0 0x2000 1) c (needX x false 3 c) ∧ (accOk (stX 0 0x2000 1) c .store 128 0x2000 (fun _ => c.b.ackcnt == 0) && (c.raw x.c.sel).getLsbD 0) = true := by
  and_intros <;> exact holdsFor_ready (by decide +kernel)
theorem wit_MappingAndHarvest : let x := xArgs
    (∃ c, Ready (handler 1 (stX 0x3000 0 0)) c { needX x false 2 c with hand := true, sup := true } ∧
      ((match (handler 1 (stX 0x3000 0 0)).fmapPlan c.g.ctx x.md.val (c.raw x.a.sel) (c.raw x.b.sel) with | .ok _ => false | _ => true)) = true) ∧
    ∃ c, Ready (stX 0 0 0) c (needX x false 0 c) ∧ (((stX 0 0 0).xl.tlb.any fun e => e.2.ctx == c.g.ctx && e.2.d)) = true :=
  ⟨holdsFor_ready (n := fun c => { needX xArgs false 2 c with hand := true, sup := true }) (by decide +kernel), holdsFor_ready (by decide +kernel)⟩
/-- The reading of a histogram of entry 255 stands at the head of the store queue. -/
theorem wit_TensorFormatTable_leave : let e : SqEntry := ⟨0, .hist ⟨0, .mem, 0x601000, 0x2000, 0, 0, false, 1⟩ 255 true, 1⟩
    let s := mapB (st 0 []) fun b => { b with sq := [e] }
    (match s.bundle? ⟨0, 0, 0⟩ with | some b => b.parked.isNone && b.sq == [e] && !s.tooEarly b e | none => false) = true := by decide +kernel
def iArgs (d : Sel) (a : Src) (imm : BitVec 22) : IArgs := ⟨.i8, none, 0, d, a, imm⟩
theorem wit_SpecialRegisters :
    (∃ c, Ready (st 0 []) c (needSysr (iArgs (.s 5) .zero 0x0B) c) ∧ (specialReads.any fun p => p.1 == 0x0B) = true) ∧
    (∃ c, Ready (handler 1 (st 0 [])) c (needSysr (iArgs (.s 5) .zero 0x2B) c) ∧ true = true) ∧
    (∃ c, Ready (handler 1 (st 0 [])) c (needSysr (iArgs (.v 5) .zero 0x26) c) ∧ (c.active none != 0) = true) ∧
    (∃ c, Ready (handler 1 (st 0 [(1, 8)])) c { cls := .x, hand := true, sup := sysSuper 0x21, pred := none, srcs := [(sr 1, false)] } ∧ true = true) ∧
    (∃ c, Ready (st 0 []) c { cls := .x, hand := true, sup := sysSuper 0x0F, pred := none, srcs := [(vr 1, false)] } ∧ true = true) ∧
    mayIssue (st 0 []) (needSysr (iArgs (.s 5) .zero 0x2B)) (fun c => c.b.role == 0 && c.b.arch.tdepth == 0) = true :=
  ⟨holdsFor_ready (by decide +kernel), holdsFor_ready (p := fun _ => true) (by decide +kernel), holdsFor_ready (by decide +kernel),
    holdsFor_ready (n := fun _ => { cls := .x, hand := true, sup := sysSuper 0x21, pred := none, srcs := [(sr 1, false)] }) (p := fun _ => true) (by decide +kernel),
    holdsFor_ready (n := fun _ => { cls := .x, hand := true, sup := sysSuper 0x0F, pred := none, srcs := [(vr 1, false)] }) (p := fun _ => true) (by decide +kernel), by decide +kernel⟩

/-! ### The store queue, the fabric, bundles taken back, links, rows -/

def k0 : BKey := ⟨0, 0, 0⟩
def acc0 : LaneAcc := ⟨0, .mem, 0x601000, 0x2000, 0, 0, false, 1⟩
/-- What holds of bundle 0, its crew and its grid. -/
def on0 (s : State) (p : Bundle → Crew → Grid → Bool) : Bool :=
  match s.bundle? k0, s.crew? k0.ck, s.grid? k0.grid with | some b, some c, some g => p b c g | _, _, _ => false
def pend0 : Pend := ⟨9, .load false, .i32, .s 5, [acc0], 1, [], none, 0, none, false⟩
/-- A scalar load of 0x2000 into s5 is on its way. -/
def loading : State := mapB (withPage (st 0 [])) fun b => { b with pend := [pend0], arch := { b.arch with awaits := [(.s 5, 9)] } }

theorem wit_WritesTravelToTheirHome :
    on0 (mapB (st 0 []) fun b => { b with sq := [⟨0, .store false [(acc0, [1, 2])], 1⟩] }) (fun b _ _ => b.parked.isNone && b.sq == [⟨0, .store false [(acc0, [1, 2])], 1⟩] && !(st 0 []).tooEarly b ⟨0, .store false [(acc0, [1, 2])], 1⟩) = true ∧
    (let s := { st 0 [] with inflight := [⟨some 0, .bundle k0, 0x601000, .bytes false [(0x601000, 1), (0x601001, 0)], false⟩] }
     memWf s.mem && (s.inflight[0]?).any (fun f => !heldBack (s.inflight.take 0) f) && !s.rowBusy 0x601000 && s.net.narms == [] && s.windowOf 0x601000 == none && s.windowOf 0x601001 == none && s.armed == [] && (({ s with hub := { s.hub with objs := [(0x600FE0, false), (0x601000, false)] } } : State).spoil [0x601000]).hub.objs == [(0x600FE0, false), (0x601000, true)]) = true ∧
    on0 { st 0 [] with acks := [⟨some 0, .bundle k0, 0x601000, .bytes false [], false⟩] } (fun _ _ _ => true) = true ∧
    (on0 loading fun b c g => b.live && pend0.bad.isNone && b.oldest == some pend0 && !loading.flashWaits c g acc0 && loading.lanePoison c g acc0 == none && !loading.laneWaits b 0 acc0 && b.pend == [pend0] && b.arch.awaits == [(.s 5, 9)]) = true ∧
    ∀ r : Sel, (r, 9) ∈ [((.s 5 : Sel), 9)] ↔ r = .s 5 :=
  ⟨by decide +kernel, by decide +kernel, by decide +kernel, by decide +kernel, by simp⟩
/-- Region 0 of tenant 0 spans unit 0, all of it sealed. -/
def withRegion0 (s : State) : State := (s.setReg (offRegion 0) (wordOf [(62, 1), (0, 1)])).setReg (offRegionEnd 0) 65536
/-- Flash held by the fault unit, and a flash read under way. -/
def deferred : State :=
  { mapB (st 0 []) (fun b => { b with pend := [{ pend0 with lanes := [{ acc0 with addr := 0x40000000000, defer := true }] }] }) with
    flash := { State.reset.flash with deferred := [⟨k0, 9, 0, 0, 0, 0x2000, some 0x40000000000, 0, none⟩] } }
theorem wit_BundlesTakenBack :
    on0 (mapB (st 0 []) fun b => { b with spin := { b.spin with demoted := some 100 } }) (fun b _ _ => b.spin.demoted == some 100) = true ∧
    (let s := { mapB (st 0 []) (fun b => { b with window := [(70, b.arch), (60, b.arch), (3, b.arch)] }) with clock := 80 }
     on0 s fun b c _ => b.live && decide (s.crews.map fun x => x.key).Nodup && c.st == .resident && (strikeCores (.column 0 0)).contains c.core &&
       b.window == [(70, b.arch)] ++ (60, b.arch) :: [(3, b.arch)] && decide (s.clock < 60 + 40) && decide (3 + 40 ≤ s.clock)) = true ∧
    (let s := mapP (mapB (st 0 []) fun b => { b with extAt := 5, arch := { b.arch with ext := 2 } }) fun p => { p with held := some (.racq 1 0 0) }
     let all := s.bundles.filter fun x => (s.residents 0).any fun c => c.key == x.key.ck
     s.returnBlocks 0 (all.filter fun x => x.live) == none && (all.filter fun x => x.live) != [] && (all.all fun x => x.inRacq) && ((s.residents 0).all fun c => c.save.isNone && s.liveBundles c.key != 0) &&
       (maxBy Bundle.extAt (all.filter fun x => x.arch.ext != 0 && !x.reclaimed)).any fun b => decide (s.areaUsed (fun _ => false) + extGranules b.arch.ext ≤ 262144)) = true ∧
    on0 deferred (fun b _ _ => (deferred.flash.deferred[0]?).any (fun d => d.owner == k0 && b.pend.any fun p => p.id == d.pid) && deferred.bundles.all fun x => x.key == k0) = true ∧
    (let a := { acc0 with addr := 0x40000000000 }
     let s := withRegion0 (mapB (st 0 []) fun b => { b with pend := [{ pend0 with lanes := [a] }] })
     on0 s fun b c g => b.live && (b.oldest.any fun p => p.lanes == [a]) && inFlash (lineOf a.addr) && !s.laneWaits b 0 a && !s.flashWaits c g a && (s.l1Hit c.core g.tenant a.pbmt a.addr).isNone &&
       ({ s with poison := [lineOf a.addr] } : State).poisonAt g.tenant a.addr && decide (s.bundles.map fun x => x.key).Nodup && s.bundles.all fun x => x.key == k0) = true ∧
    (let s := st 0 []
     strikeCores (.patch 0) = [] ∧ (on0 s fun b c g => b.live && c.st == .resident && decide (7 < 8 * (g.regs + b.arch.ext)) && decide (7 < g.width) && s.mirrored c.core) = true ∧
       (on0 (mapG s fun g => { g with regs := 16, bundles := 64 }) fun b c g => !(mapG s fun g => { g with regs := 16, bundles := 64 }).mirrored c.core && decide (127 < 8 * (g.regs + b.arch.ext))) = true) := by decide +kernel
def vl : LinkId := .vlink 11 127
def withLink (l : Link) : State := { State.reset with links := [l] }
def beat (n : Nat) (ok : Bool) : Beat := ⟨n, ok, .request, List.replicate 256 7, [.write (some k0) 0x601000]⟩
theorem wit_LinksReplayAndSpare : linkExists vl = true ∧
    (let l := State.reset.link vl; l.state == 0 && (beat 0 true).seq == l.next && l.unacked == [] && (beat 0 true).seq == l.expect && (beat 0 true).payload.length == 4 * dataGroups vl && decide ((beat 0 true).lines.length ≤ dataGroups vl / 32)) = true ∧
    (let l := (withLink { Link.fresh vl with next := 255, expect := 254, unacked := [beat 254 true] }).link vl; (beat 255 true).seq == l.next && (beat 255 true).seq != l.expect && l.unacked.all (fun x => x.seq != 255)) = true ∧
    (let l := (withLink { Link.fresh vl with next := 2, expect := 2, unacked := [beat 0 true, beat 1 true] }).link vl; (l.unacked.findIdx? fun x => x.seq == 1) == some 1 && decide (2 ≤ l.delivered)) = true ∧
    (let l := (withLink { Link.fresh vl with state := 1, testing := true }).link vl; l.state = 1 ∧ l.queued = false) ∧
    (let l := (withLink { Link.fresh vl with state := 1, queued := true }).link vl; l.state = 1 ∧ l.testing = false ∧ l.queued = true) ∧ linkExists (.bridge .storage 7 true) = true ∧
    (let l := (withLink { Link.fresh vl with state := 1, testing := true }).link vl; decide (0 < dataGroups vl) && l.width != 3 && l.widthNow == l.width && !l.spared.contains 0 && !l.spared.contains 0xFE) = true ∧
    (let l := (withLink { Link.fresh vl with state := 1, testing := true, spared := [0xFE] }).link vl; l.testing && l.spared.contains 0xFE) = true := by decide +kernel
theorem wit_RowsHeatAndSpares : let r : RowId := ⟨11, 0, 0⟩
    r.stack < 12 ∧ State.reset.bin r ≠ 0 ∧ State.reset.bin r < 4 ∧ 0 < State.reset.bin r ∧ 1 < State.reset.bin r ∧ State.reset.bin r ≠ 0 ∧ (assoc State.reset.phys.spares (r.stack, r.bank)).getD 0 < 128 ∧
    (128 ≤ (assoc ({ State.reset with phys := { State.reset.phys with spares := [((11, r.bank), 128)] } } : State).phys.spares (r.stack, r.bank)).getD 0) ∧ keysFrom 0 State.reset.phys.throttle = true ∧
    1535 ∉ State.reset.parts.retiredCores ∧ natsGet State.reset.parts.spareCores 23 < 2 ∧ ¬ natsGet ({ State.reset with parts := { State.reset.parts with spareCores := [(23, 2)] } } : State).parts.spareCores 23 < 2 ∧
    (State.reset.phys.vaultRows.filter fun x => x.1.1 == 11 && x.1.2.1 == 31).length < 512 ∧ fld (State.reset.reg (0x10000600 + 0x100000 * 11 + 8 * 31)) 23 16 = 95 := by decide +kernel

/-! ### Ingress and translation -/

/-- The link of port 0 is up. -/
def linkUp (s : State) : State := s.setReg 0x108 2
def iw (ro : Bool) (addr n : Nat) : IngressWrite := ⟨0, 5, none, ro, none, addr, List.replicate n 7⟩
def ir (ctx : Option Nat) (addr n : Nat) : IngressRead := ⟨0, 5, none, ctx, addr, n⟩
/-- Stream 5 of port 0, with a line of transaction 0 not acknowledged. -/
def flying : State := { linkUp State.reset with pcie := { State.reset.pcie with streams := [⟨0, 5, none, [(0, 0x601000)], [(0, 0x601000)]⟩], owners := [(0, (5, none))], nextId := 1 } }
/-- Sv57 tables of context 0, down to this leaf at virtual page 3. -/
def withTables (s : State) (leaf : Word) : State :=
  let s := [(0x700000, 0x701), (0x701000, 0x702), (0x702000, 0x703), (0x703000, 0x704)].foldl (fun (t : State) (x : Nat × Nat) => t.wr64 x.1 (wordOf [(10, x.2), (0, 1)])) s
  let s := s.wr64 0x704018 leaf
  { s with xl := { s.xl with ctxs := [⟨0, 0, 0, 0, 0x700, 0⟩] } }
def leaf0 : Word := wordOf [(10, 0x705), (0, 0x17)]
def leaf3 : Word := wordOf [(56, 3), (10, 0x10000000), (0, 0x17)]
def wait0 : Waiter := ⟨some k0, false, .load, vpnVa 3⟩
def miss0 (walking : Bool) : Miss := ⟨0, 0, 3, 0, [wait0], walking, false, false⟩
def withMiss (s : State) (m : Miss) : State := { s with xl := { s.xl with misses := [m] } }

theorem wit_IngressIsOrdered :
    (let s := { (State.reset.setReg 0x108 1) with pcie := { State.reset.pcie with limits := [(0, 7, 4)] } }
     fld (s.reg 0x108) 1 0 = 1 ∧ 7 ≤ (s.trainLimits 0).1 ∧ 4 ≤ (s.trainLimits 0).2) ∧ 2 ≤ fld ((linkUp State.reset).reg 0x108) 1 0 ∧
    (let s := linkUp State.reset; let w := iw false 0x60107F 2; let p := s.streamFor 0 (s.streamKey 0 5 none)
     requesterOk 5 none = true ∧ w.data.length ≤ 512 ∧ s.inError 0 (s.streamKey 0 5 none) = false ∧ p.flying = [] ∧ p.targets = [] ∧ s.pcie.held = [] ∧ (cutLines 3 w.addr w.data).length = 2 ∧ ∀ x ∈ cutLines 3 w.addr w.data, inHbm x.1 = true ∨ inLp x.1 = true) ∧
    (let w := iw false 0x601080 1; let p := flying.streamFor 0 (flying.streamKey 0 5 none)
     2 ≤ fld (flying.reg 0x108) 1 0 ∧ flying.inError 0 (flying.streamKey 0 5 none) = false ∧ flying.relaxed w = false ∧ ∃ x ∈ p.flying, x.1 < flying.pcie.nextId) ∧
    (let s := { linkUp State.reset with pcie := { State.reset.pcie with held := [⟨0, 0, 5, none, (5, none), .write (iw false 0x601080 1)⟩], nextId := 1 } }
     (s.pstream 0 (5, none)).flying = [] ∧ (∀ q ∈ s.pcie.held, (s.pstream 0 (5, none)).holds q = true → 0 ≤ q.id)) ∧
    (∀ j < 3, inHbm (0x601000 + j) = true) ∧
    (({ flying with acks := [⟨none, .stream 0, 0x601000, .bytes false [], true⟩] } : State).pcie.streams.find? (fun p => p.flying.contains (0, 0x601000))).isSome = true ∧
    (let s := withTables (linkUp State.reset) leaf3; 2 ≤ fld (s.reg 0x108) 1 0 ∧ ((s.setReg 0x100 (setFld (s.reg 0x100) 5 5 1)).reg 0x100).getLsbD 5 = true ∧ s.walk 0 false .load 0x3000 = .tier3 0x704018 leaf3 0) := by
  decide +kernel
def mig0 : Mig := { tenant := 0, ctx := 0, vpn := 3, va := 0x3000, size := 0, leaf := [leaf3], pte := 0x704018, frame := some (0, 0x710), tag := 0, waiters := [k0], escalated := false }
theorem wit_TranslationMovesOn :
    (let s := withMiss (st 0 []) (miss0 false); s.xl.misses[0]? = some (miss0 false) ∧ (s.xl.misses.filter fun x => x.walking && x.grove == 0).length < fld (s.reg 0x10000400) 7 0) ∧
    (let s := withMiss ((st 0 []).setReg 0x10000400 0) (miss0 false); fld (s.reg 0x10000400) 7 0 ≤ (s.xl.misses.filter fun x => x.walking && x.grove == 0 && x.tenant == 0).length ∧ (miss0 false).waited = false) ∧
    (let s := withMiss (withTables (st 0 []) leaf0) (miss0 true); memWf s.mem = true ∧ (s.bundle? k0).isSome = true ∧ s.walk 0 false .load (vpnVa 3) = .ok 0x704018 leaf0 0 0x705000 ∧ s.xl.pwc = [] ∧ s.xl.tlb.all (fun x => !x.2.a && !x.2.d) = true ∧ s.hubFx = [] ∧ s.armed = [] ∧
      ((s.setMisses []).pwFill 0 0 (vpnVa 3)).gwalk 0 0 false .load (vpnVa 3) = .ok 0x704018 leaf0 0 0x705000) ∧
    (let s := withMiss (withTables (st 0 []) leaf3) (miss0 true); ((s.setMisses []).pwFill 0 0 (vpnVa 3)).gwalk 0 0 false .load (vpnVa 3) = .tier3 0x704018 leaf3 0) ∧
    (let s := withMiss (withTables (st 0 []) 0) (miss0 true); ((s.setMisses []).pwFill 0 0 (vpnVa 3)).gwalk 0 0 false .load (vpnVa 3) = .fault 0x10) ∧
    (let s := { withTables (st 0 []) leaf3 with xl := { (withTables (st 0 []) leaf3).xl with migs := [mig0] } }
     memWf s.mem = true ∧ mig0.entries.map s.rd64 = mig0.leaf ∧ s.hubFx = [] ∧ s.armed = [] ∧ s.flash.deferred = [] ∧ (∀ e ∈ mig0.entries, e + 8 ≤ 0x710000 ∨ 0x711000 ≤ e) ∧
       fld (s.reg (offFq 0)) 55 12 = 0 ∧ fld (s.reg (offFq 0)) 4 0 = 0) ∧
    (let v : Word := wordOf [(54, 0), (48, 1), (0, 1)]; fld v 49 48 = 1 ∧ v.getLsbD 0 = true ∧ (State.reset.reg 0x1000008).getLsbD 0 = false ∧ ∃ c ∈ (withTables State.reset 0).xl.ctxs, c.num = fld v 63 54 ∧ c.tenant = 0) ∧
    (let v : Word := wordOf [(54, 1023), (48, 3), (0, 1)]; fld v 49 48 = 3 ∧ ¬ ∃ c ∈ (withTables State.reset 0).xl.ctxs, c.num = fld v 63 54 ∧ c.tenant = 0) ∧
    (let s := { withPage (st 0 []) with xl := { (withPage (st 0 [])).xl with shoots := [⟨0, 1, 0, 0⟩] } }
     (s.xl.shoots.find? fun d => d.tenant == 0) = some ⟨0, 1, 0, 0⟩ ∧ s.sdWaits ⟨0, 1, 0, 0⟩ = false ∧ s.flash.deferred = [] ∧ s.hubFx = [] ∧ s.armed = [] ∧ ∃ x ∈ s.xl.tlb, s.sdCovers ⟨0, 1, 0, 0⟩ x.2.ctx x.2.vpn x.2.pages = true) ∧
    (memWf (withPage (st 0 [])).mem = true ∧ ∀ x ∈ (withPage (st 0 [])).xl.tlb, x.2.pte % 8 = 0) ∧
    ∀ m ∈ (st 0 []).xl.migs, 3 * m.tenant + m.size = 191 → m.size = 3 ∨ m.frame ≠ none := by decide +kernel

/-! ### Xoxia -/

def send0 : Send := ⟨0, k0, 9, 0, 0, 0, 0, 0, wordOf [(26, 6), (20, 2), (14, 4)], 0x3000, 700, 3, 8, 1, .tx, 0, 0, 0, [], [], [], 0, none, 0⟩
def withSend (x : Send) : State := let s := withTables (st 0 []) leaf0; { s with net := { s.net with sends := [x] } }
/-- A packet from module 3 of message 1 of tenant 0. -/
def pk (kind findex stripe body : Nat) : Packet :=
  let h : FragHeader := ⟨kind, 4, 2, 0, findex, 0, 1, 3, 0, 50, stripe, 700, 8⟩
  if kind < 2 then h.packet (List.replicate 512 1) .uud 0 0 true else h.control body 0
theorem pk_arrives (s : State) (kind findex stripe body : Nat) (h : (pk kind findex stripe body).kind = kind ∧ (pk kind findex stripe body).version = 1 ∧ (pk kind findex stripe body).crcOk = true ∧ (pk kind findex stripe body).fcsOk = true ∧ (pk kind findex stripe body).dst = 0)
    (hs : s.net.self = 0) : Arrives s (pk kind findex stripe body) kind :=
  ⟨h.1, h.2.2.2.2.trans hs.symm, h.2.1, h.2.2.1, h.2.2.2.1, by unfold pk; split <;> first | exact .inl rfl | exact .inr rfl⟩
def reads (s : State) (x : Send) : Bool := match s.engRead x.eng .mem x.buf x.len with | .ok _ => true | _ => false

theorem wit_SendersFinish :
    (let s := withSend send0; s.send? 0 = some send0 ∧ 0 < send0.stripes ∧ send0.k 0 = 2 ∧ reads s send0 = true ∧ SendOk s send0 ∧ s.hub.wrote = []) ∧
    (let x := { send0 with next := 1 }; let s := withSend x; Arrives s (pk 2 0 0 0x30) 2 ∧ s.sendFor (pk 2 0 0 0x30) = some x ∧ reads s x = true ∧ SendOk s x ∧ (pk 2 0 0 0x30).stripe < x.next ∧ s.send? x.id = some x) ∧
    (let s := withSend send0; Arrives s (pk 2 0 0 0x30) 2 ∧ s.sendFor (pk 2 0 0 0x30) = some send0 ∧ send0.next ≤ (pk 2 0 0 0x30).stripe) ∧
    (let x := { send0 with ph := .backoff, next := 1 }; (withSend x).sendFor (pk 2 0 0 0x30) = some x ∧ (withSend x).send? x.id = some x) ∧
    (Arrives State.reset (pk 2 0 0 1) 2 ∧ State.reset.sendFor (pk 2 0 0 1) = none) ∧
    ((withSend send0).sendFor (pk 3 0 0 1) = some send0 ∧ Arrives (withSend send0) (pk 3 0 0 1) 3 ∧ Arrives (withSend send0) (pk 4 0 0 0) 4 ∧
      Arrives (withSend send0) (pk 5 0 0 2) 5 ∧ (pk 5 0 0 2).body % 256 = 2 ∧ Arrives (withSend send0) (pk 6 0 0 0) 6 ∧ send0.busies < 8 ∧ Arrives (withSend send0) (pk 7 0 0 6) 7 ∧ (pk 7 0 0 6).body % 256 = 6) ∧
    (let x := { send0 with busies := 8 }; (withSend x).sendFor (pk 6 0 0 0) = some x ∧ 8 ≤ x.busies) ∧
    (let x := { send0 with ph := .lossWait }; (withSend x).sendFor (pk 8 0 0 0) = some x ∧ Arrives (withSend x) (pk 8 0 0 0) 8 ∧ (withSend x).send? 0 = some x) ∧
    (let x := { send0 with ph := .backoff }; (withSend x).send? 0 = some x) ∧
    (let x := { send0 with dues := [(0, 500), (1, 900)], next := 2 }; (0, 500) ∈ x.dues ∧ SendOk (withSend x) x ∧ x.confirmed ≤ 0 ∧ ∀ e ∈ x.dues, x.confirmed ≤ e.1 → e ≠ (0, 500) → 500 < e.2) ∧
    15 ∉ State.reset.net.spared ∧ 15 ∈ ({ State.reset.net with spared := [15] } : Net).spared ∧ keysFrom 0 State.reset.net.lanes = true ∧ 15 ∉ State.reset.net.broken := by
  refine ⟨by decide +kernel, ⟨pk_arrives _ 2 0 0 0x30 (by decide +kernel) rfl, by decide +kernel⟩, ⟨pk_arrives _ 2 0 0 0x30 (by decide +kernel) rfl, by decide +kernel⟩, by decide +kernel,
    ⟨pk_arrives _ 2 0 0 1 (by decide +kernel) rfl, by decide +kernel⟩,
    ⟨by decide +kernel, pk_arrives _ 3 0 0 1 (by decide +kernel) rfl, pk_arrives _ 4 0 0 0 (by decide +kernel) rfl, pk_arrives _ 5 0 0 2 (by decide +kernel) rfl, by decide +kernel,
      pk_arrives _ 6 0 0 0 (by decide +kernel) rfl, by decide +kernel, pk_arrives _ 7 0 0 6 (by decide +kernel) rfl, by decide +kernel⟩,
    by decide +kernel, ⟨by decide +kernel, pk_arrives _ 8 0 0 0 (by decide +kernel) rfl, by decide +kernel⟩, by decide +kernel, by decide +kernel, by decide +kernel, by decide +kernel, by decide +kernel⟩

def slot0 (st : SlotSt) (held : List (Nat × List Byte)) (repairs : Nat) : NetSlot := ⟨st, 0, 2, held, [], 0, repairs, 95000⟩
def rec0 (x : NetSlot) : NetRec := ⟨0, 3, 0, 1, 5, 0, 2, 50, 700, 8, some 4, x :: List.replicate 15 ⟨.free, 0, 0, [], [], 0, 0, 0⟩, [], 0, none, false, []⟩
def narm0 : Narm := ⟨5, 0, 0, 0x3000, 1024, 0, 8, 0, [], 0, 0, true⟩
def withRec (r : NetRec) : State := let s := withTables (st 0 []) leaf0; { s with net := { s.net with recs := [r], narms := [narm0] } }
def frags : List (Nat × List Byte) := [(0, List.replicate 512 1), (1, List.replicate 512 2)]
/-- A state whose tenant 0 may hold one record, with this armed receive. -/
def armed (l : List Narm) : State := let s := (st 0 []).setReg 0x6000 (wordOf [(54, 1)]); { s with net := { s.net with narms := l } }

theorem wit_ReceiversFinish :
    (let x := slot0 .filling [(1, List.replicate 512 2)] 0; let r := rec0 x; let s := withRec r; s.recIdx (pk 0 0 0 0) = some 0 ∧ s.net.recs[0]? = some r ∧ r.slot 0 = some x ∧ (pk 0 0 0 0).findex < x.k ∧ (∀ h ∈ x.held, h.1 ≠ (pk 0 0 0 0).findex) ∧ (pk 0 0 0 0).trimmed = false ∧
      s.narmOf r.handle = some narm0 ∧ (pk 0 0 0 0).payload.take (r.length - 0) ≠ [] ∧ (pk 0 0 0 0).kind < 2 ∧
      (let x := { x with placed := [1] }; ∀ h ∈ x.held, h.1 < x.k → h.1 ∈ x.placed) ∧
      (match s.engWrite (hubEng 0 0 0) .mem 0x3000 ((pk 0 0 0 0).payload.take 700) false false with | .ok _ => true | _ => false) = true) ∧
    (let r := { rec0 (slot0 .filling [] 0) with kfull := none }; r.kfull = none ∧ (withRec r).net.landing = none ∧ (withRec r).recIdx (pk 0 0 0 0) = some 0) ∧
    (let s := armed []; s.recIdx (pk 0 0 15 0) = none ∧ s.lateFor (pk 0 0 15 0) = none ∧ s.net.recs.length < 512 ∧ 0 < fld (s.reg 0x6000) 63 54 ∧ s.matchNarm 0 8 = none) ∧
    (let s := armed [{ narm0 with claimed := false }]; s.matchNarm 0 8 = some { narm0 with claimed := false } ∧ (pk 0 0 0 0).length ≤ 1024 ∧ (pk 0 5 0 0).findex < 4 + 2) ∧
    (let s := armed [{ narm0 with claimed := false, len := 64 }]; s.matchNarm 0 8 = some { narm0 with claimed := false, len := 64 } ∧ 64 < (pk 0 0 0 0).length) ∧
    (let r := rec0 (slot0 .decoding frags 0); let s := withRec r; s.narmOf r.handle = some narm0 ∧ r.kfull = some 4 ∧ (decodeStripe 2 2 (frags.take 2))[1]? = some (List.replicate 512 2) ∧
      (let x := { slot0 .decoding frags 0 with placed := [0] }; (∀ i < x.k, i ≠ 1 → i ∈ x.placed) ∧ 1 ∉ x.placed) ∧ (List.replicate 512 (2 : Byte)).take (700 - 512) ≠ [] ∧
      (match s.engWrite (hubEng 0 0 0) .mem (0x3000 + 512) ((List.replicate 512 2).take (700 - 512)) false false with | .ok _ => true | _ => false) = true) ∧
    (let r := rec0 (slot0 .written frags 0); r.slot 0 = some (slot0 .written frags 0) ∧ stripesOf r.length 512 4 = 1 ∧ RecOk r ∧ (withRec r).hub.wrote = [] ∧ narm0.obj = 0 ∧ narm0.launch = [] ∧ (withRec r).tableFull = false) ∧
    (let r := { rec0 (slot0 .written frags 0) with length := 65536 }; r.slot 0 = some (slot0 .written frags 0) ∧ r.decoded.length + 1 < stripesOf r.length 512 4) ∧
    (({ rec0 (slot0 .decoded frags 0) with unconf := some 700 } : NetRec).unconf = some 700) ∧
    ((rec0 (slot0 .filling [] 1)).slot 0 = some (slot0 .filling [] 1) ∧ (slot0 .filling [] 1).repairs < 2) ∧ ((rec0 (slot0 .filling [] 2)).slot 0 = some (slot0 .filling [] 2) ∧ 2 ≤ (slot0 .filling [] 2).repairs ∧ RecOk (rec0 (slot0 .filling [] 2))) ∧
    (let s := { State.reset with net := { State.reset.net with filter := [⟨3, 0, 1, true, 0⟩] } }; s.lateFor (pk 7 0 0 5) = some ⟨3, 0, 1, true, 0⟩ ∧ s.recIdx (pk 7 0 0 5) = none ∧ (pk 7 0 0 5).body % 256 = 5) ∧
    (State.reset.lateFor (pk 7 0 0 5) = none) ∧ (let s := withRec (rec0 (slot0 .filling [] 0)); s.recIdx (pk 8 0 0 0) = some 0 ∧ s.narmOf 5 = some narm0) := by
  and_intros <;> decide +kernel

/-! ### Flash -/

/-- Region 3 of 16 units from unit 64 up, granted to tenant 0; a stream of tenant 0 in slot 2 is open on it when given. -/
def withRegion (s : State) (state : Nat) : State := s.setReg (offRegion 3) (wordOf [(62, state), (24, 64), (0, 16)])
def withStream (s : State) (f : FStream) : State :=
  let s := (withRegion s 1).setReg (offStream 2) (streamReg 1 0 3 0)
  { s with flash := { s.flash with streams := [(2, f)] } }
def ext0 (staged : Bool) : Extent := ⟨0, 64, k0, 9, .ls, 0, staged, false, [], 0⟩
def fs0 (l : List (Nat × Extent)) (seals : List Seal) : FStream := ⟨2, l.length, l, seals, [], 0, none, false⟩
def asks (s : State) (op : Nat) (handle : Word) (len : Nat) : State :=
  { s with flash := { s.flash with reqs := [(0, [⟨k0, 9, 0, op, handle, .ls, 0, len, 0⟩])] } }
/-- A 64 KiB append leaf of units from 64 up stands as an anchor at 0x704000. -/
def withAnchor (s : State) : State :=
  let s := (withRegion s 1).setReg (offRegionEnd 3) 65536
  { s with flash := { s.flash with anchors := [(64, 1, 0x704000, 1)] } }

theorem wit_StreamsReachFlash :
    (let s := asks (withRegion (st 0 []) 1) 0 3 0; mapGet s.flash.reqs 0 = some [⟨k0, 9, 0, 0, 3, .ls, 0, 0, 0⟩] ∧ s.openStatus 0 3 = 0) ∧ (withRegion (st 0 []) 2).openStatus 0 3 ≠ 0 ∧
    (asks (st 0 []) 2 255 0).streamState 255 ≠ 1 ∧
    (let s := asks (withStream (st 0 []) (fs0 [] [])) 1 2 4096; s.streamState 2 = 1 ∧ s.streamTenant 2 = 0 ∧ s.fstream 2 = some (fs0 [] []) ∧ s.streamRegion 2 = 3 ∧ fld (s.reg (offRegion 3)) 63 62 ≠ 2 ∧ s.readOnly 0 = false ∧
      s.appendPtr 2 + 4096 ≤ s.regionBytes 3 ∧ s.appendPtr 2 + 4096 < 2 ^ 40) ∧
    (let s := withStream (st 0 []) (fs0 [(0, ext0 false)] [⟨64, none, 1, false, false⟩]); mapGet (fs0 [(0, ext0 false)] []).extents 0 = some (ext0 false) ∧
      (match s.crewEng k0.ck with | some e => (match s.engRead e .ls 0 64 with | .ok (u, _, bad) => !bad && u.bundles == s.bundles && u.flash == s.flash && u.hub.wrote == [] | _ => false) | none => false) = true ∧
      natsGet s.flash.staging 0 + 64 ≤ 67108864) ∧
    ((fs0 [(0, ext0 true)] [⟨64, none, 1, true, false⟩]).seals.findIdx? fun x => x.done && !x.committed) = some 0 ∧ mapGet (fs0 [(0, ext0 true)] []).extents 0 = some (ext0 true) ∧
    keysFrom 0 State.reset.flash.staging = true ∧
    (let s := withAnchor (st 0 []); memWf s.mem = true ∧ s.unitSealed 64 = true ∧ 64 ∉ s.flash.switching ∧ (s.anchorOf 64).isSome = true) ∧
    (let s := { withAnchor (st 0 []) with flash := { (withAnchor (st 0 [])).flash with switching := [64] } }; s.flash.switching.count 64 = 1 ∧ (s.anchorOf 64).isSome = true ∧ s.flash.deferred = []) ∧
    (let d : Deferral := ⟨k0, 9, 0, 0, 0, 0x2000, some 0x40000400000, 64, none⟩; let s := { deferred with flash := { deferred.flash with deferred := [d], busy := [64] } }
      64 ∈ s.flash.busy ∧ unitOf 0x40000400000 = 64 ∧ 64 ∉ s.flash.switching ∧ on0 s (fun b c _ => c.st == .resident && (b.pend.find? fun p => p.id == 9).isSome && s.bundles.all (fun x => x.key == k0 && x.pend.all fun q => q.id == 9 && q.lanes.all fun a => a.lane == 0)) = true) ∧
    fld ((withRegion (st 0 []) 3).reg (offRegion 3)) 63 62 = 3 := by decide +kernel

/-! ### Commands and launches -/

/-- A command record of a code, of tenant 0, with its operands and a reply address, at the head of a ring of 64 records at 0x800000; the command processors run. -/
def rec8 (code : Nat) (ops : List Word) : List Word := (List.range 8).map fun i => if i = 0 then wordOf [(48, code), (0, 77)] else if i = 7 then 0x900000 else ops.getD (i - 1) 0
def withCmd (s : State) (code : Nat) (ops : List Word) : State :=
  let s := ((s.setReg 0 (wordOf [(12, 0x800), (0, 6)])).setReg 8 (wordOf [(48, 1)])).setReg 0x50 0x60
  ((List.range 8).zip (rec8 code ops)).foldl (fun t x => t.wr64 (0x800000 + 8 * x.1) x.2) s
/-- The record stands at the head. -/
def headIs (s : State) (code : Nat) (ops : List Word) : Bool := s.cmdHead == some (rec8 code ops) && cmdCode (rec8 code ops) == code && decide (cmdTenant (rec8 code ops) < 64)

/-- A record of one crew of one bundle, and a record at the head of queue 0. -/
def goodRec : List Word := [0x10000, 0, wordOf [(40, 1), (32, 1), (16, 1)], 0, 0, wordOf [(59, 1), (54, 1)], 0, 1]
def withQueue (s : State) (r : List Word) : State := (s.setReg 0x50 0x60).setQueue 0 [r]

/-- Images of every target in both slots: slot 1 holds version 5, slot 0 version 4; checkpoint format 1. -/
def withImages (s : State) : State :=
  let cp := { s.cp with images := [2, 3, 4, 5, 6, 7].map fun i => (i, { target := i / 2, version := 4 + i % 2, minVer := 4, ckfmt := 1, entry := 0x100000, length := 0, formed := true }) }
  { s with cp := cp }

theorem engineNo_lt (e : Engine) : engineNo e < 256 := by unfold engineNo; exact Nat.mod_lt _ (by decide)
/-- Some engine has the number of engine 0 of the list, and that number names no whole device. -/
theorem wit_CommandsAndLaunches_engine : engineNo (.copy 0) ≠ 0xFFFF ∧ (engines.find? fun e => engineNo e == engineNo (.copy 0)).isSome = true :=
  ⟨by have := engineNo_lt (.copy 0); omega, by simp [engines, List.range_succ, List.find?_cons_of_pos]⟩

theorem wit_CommandsAndLaunches :
    (memWf State.reset.mem = true ∧ State.reset.windowOf 0x900000 = none ∧ State.reset.armed = []) ∧
    (let o : List Word := [0, 7, 0x700000]; let s := withCmd State.reset 1 o; headIs s 1 o = true ∧ rootOk 0x700000 = true ∧ (s.livePair (rec8 1 o)).isNone = true ∧ s.ctx? 0 = none ∧ s.xl.ctxs = []) ∧
    (let o : List Word := [0, 0, 0x700000]; let s := withCmd (withTables State.reset 0) 1 o; headIs s 1 o = true ∧ (s.livePair (rec8 1 o)).map (fun c => c.num) = some 0) ∧
    (let s := withCmd (withTables State.reset 0) 2 [0]; headIs s 2 [0] = true ∧ (s.ctx? 0).any (fun c => c.tenant == 0 && !s.sdWaits c.shoot) = true) ∧
    (let s := mapB (withCmd (withTables (st 0 []) 0) 2 [0]) fun b => { b with sq := [⟨0, .store false [(acc0, [1])], 1⟩] }; headIs s 2 [0] = true ∧ (s.ctx? 0).any (fun c => c.tenant == 0 && s.sdWaits c.shoot) = true) ∧
    (let s := withCmd State.reset 2 [1023]; headIs s 2 [1023] = true ∧ s.ctx? 1023 = none) ∧
    (let s := withCmd State.reset 3 [91551, 7]; headIs s 3 [91551, 7] = true ∧ s.frameReserved 91551 = false ∧ (s.frameTenants 91551).length < 2 ∧ s.scheme (91551 * 0x600000) ≠ some 7) ∧
    (let s := { withCmd State.reset 3 [91551, 7] with xl := { State.reset.xl with reserved := [(91551, 1)] } }; headIs s 3 [91551, 7] = true ∧ s.frameReserved 91551 = true) := by decide +kernel

/-- With all 1,024 numbers bound a new pair takes the oldest number. -/
def ctxOf (i : Nat) : Ctx := ⟨i, 1, 0, i, 0x700, i⟩
def bound (n : Nat) : State := { State.reset with xl := { State.reset.xl with ctxs := (List.range n).map ctxOf } }
theorem bound_ctx {n m : Nat} (h : m < n) : (bound n).ctx? m ≠ none := by
  intro hn
  exact absurd (List.find?_eq_none.1 hn (ctxOf m) (List.mem_map_of_mem (List.mem_range.2 h))) (by simp [ctxOf])
theorem foldl_older (c : Ctx) (l : List Ctx) (h : ∀ x ∈ l, c.last ≤ x.last) : l.foldl (fun a x => if x.last < a.last then x else a) c = c := by
  induction l with
  | nil => rfl
  | cons x r ih => rw [List.foldl_cons, if_neg (Nat.not_lt.2 (h x (by simp)))]; exact ih fun y hy => h y (by simp [hy])
theorem bound_oldest (n : Nat) : oldestCtx (bound (n + 1)).xl.ctxs = some (ctxOf 0) := by
  show oldestCtx ((List.range (n + 1)).map ctxOf) = some (ctxOf 0)
  rw [List.range_succ_eq_map, List.map_cons]
  exact congrArg some (foldl_older _ _ fun x _ => Nat.zero_le _)
theorem wit_CommandsAndLaunches_oldest : (∀ m < 1024, (bound 1024).ctx? m ≠ none) ∧ oldestCtx (bound 1024).xl.ctxs = some (ctxOf 0) ∧ (bound 1024).sdWaits (ctxOf 0).shoot = false ∧
    headIs (withCmd (bound 1024) 1 [0, 7, 0x700000]) 1 [0, 7, 0x700000] = true :=
  ⟨fun _ hm => bound_ctx hm, bound_oldest 1023, rfl, by decide +kernel⟩

theorem wit_CommandsAndLaunches_1 :
    (let o : List Word := [3, 0x3000000, 1]; let s := withCmd State.reset 4 o; headIs s 4 o = true ∧ s.unitsTaken 0x3000000 1 = false ∧ s.regionState 0 = 0) ∧
    (let s := withCmd (withRegion State.reset 1) 5 [3]; headIs s 5 [3] = true ∧ s.regionHeld (rec8 5 [3]) 3 = true ∧ s.regionAnchored 3 = false ∧ (s.reg (offRegionEnd 3)).getLsbD 63 = false ∧ fld (s.reg (offRegion 3)) 23 0 ≠ 0) ∧
    (let s := (withCmd (withAnchor State.reset) 5 [3]).wr64 0x704000 (wordOf [(63, 1), (56, 2), (55, 1), (10, 0x40000408), (0, 3)]); headIs s 5 [3] = true ∧ s.regionAnchored 3 = true ∧ s.regionHeld (rec8 5 [3]) 3 = true) ∧
    (let s := withCmd (withRegion State.reset 1) 6 [3]; headIs s 6 [3] = true ∧ s.regionHeld (rec8 6 [3]) 3 = true) := by decide +kernel

theorem wit_CommandsAndLaunches_2 :
    (let l : Word := wordOf [(63, 1), (56, 2), (55, 1), (10, 0x40000408), (0, 3)]; let s := withCmd ((withRegion State.reset 1).wr64 0x704000 l) 7 [0x704000, 1];
      headIs s 7 [0x704000, 1] = true ∧ s.rd64 0x704000 = l ∧ s.anchorOk 1 l = true ∧ unitOf (leafBase 0 l * 4096) = 64 ∧ leafPages 0 l / 16 = 1 ∧ 3 ∈ s.regionNums ∧ s.flash.anchors = []) ∧
    (headIs (withCmd State.reset 8 [15, 0]) 8 [15, 0] = true) ∧ (headIs (withCmd State.reset 9 [512, 128]) 9 [512, 128] = true) ∧
    (let s := withCmd (State.reset.wr64 0xA00000 (wordOf [(24, 3)])) 10 [0xA00000, 64]; headIs s 10 [0xA00000, 64] = true ∧ (s.header 0xA00000 (some 64)).target = 3 ∧ fld (s.reg 0x20) 7 5 ∉ [1, 2, 4] ∧ mapGet s.cp.swaps 3 = none ∧ memWf s.mem = true ∧
      ([1, 2, 4].all fun k => fld ((s.setReg 0x20 (wordOf [(5, k)])).reg 0x20) 7 5 == k) = true) ∧
    (let s := withImages (withCmd State.reset 11 [1]); headIs s 11 [1] = true ∧ (s.image 1 (s.active 1)).minVer < 2 ^ 64) := by decide +kernel

theorem wit_CommandsAndLaunches_3 :
    (let s := withCmd (withStream State.reset (fs0 [] [])) 12 [2]; headIs s 12 [2] = true ∧ s.fstream 2 = some (fs0 [] []) ∧ s.streamTenant 2 = 0 ∧ keysFrom 0 s.flash.streams = true) ∧
    (headIs (withCmd State.reset 13 [0xFFFF]) 13 [0xFFFF] = true) ∧
    (let w : Word := wordOf [(58, 2), (42, 1)]; let me : Word := wordOf [(5, 1)]; let o : List Word := [w, 1, 0xA00000, 1];
     let s := withCmd ((State.reset.wr64 0xA00000 me).setReg 0x4000 (wordOf [(26, 6), (20, 2), (14, 4)])) 16 o;
      headIs s 16 o = true ∧ s.commState 0 = 0 ∧ 2 ≤ s.bufsFree 0 ∧ (s.profile 0 0).getLsbD 0 = true ∧ memberOk 1 [s.rd64 0xA00000] = true ∧ s.rd64 0xA00000 = me ∧ memModule me = s.net.self ∧ memRanks me ≤ 65535) ∧
    (let s := withCmd (State.reset.setReg 0x27F8 (wordOf [(62, 1)])) 17 [255]; headIs s 17 [255] = true ∧ s.commState 255 ≠ 0 ∧ s.commTenant 255 = 0 ∧ s.coll.recs = []) := by decide +kernel

theorem wit_CommandsAndLaunches_4 :
    (let s := withCmd State.reset 0xEE []; s.cmdHead = some (rec8 0xEE []) ∧ cmdCode (rec8 0xEE []) ∉ cmdCodes) ∧
    (let s := { (State.reset.setReg 0x1000040 (wordOf [(12, 0x900), (0, 1)])) with inflight := [⟨none, .none, 0x900000, .bytes true (partsFrom 0x900000 (List.replicate 64 1)), false⟩] };
      memWf s.mem = true ∧ s.inflight.length = 1 ∧ heldBack (s.inflight.take 0) ⟨none, .none, 0x900000, .bytes true (partsFrom 0x900000 (List.replicate 64 1)), false⟩ = false ∧ s.rowBusy 0x900000 = false ∧ 0x900000 % 64 = 0 ∧ 0x900000 = lineOf 0x900000 ∧
      s.windowOf 0x900000 = some 0 ∧ s.resetting 0 = false ∧ (s.queue 0).length < 64 ∧ s.armed = []) ∧
    (let s := withQueue (withTables State.reset 0) goodRec; s.queue 0 = [goodRec] ∧ 5 ≤ fld (s.reg 0x50) 7 4 ∧ 0 ∉ s.cp.served ∧ s.launchReason goodRec { gridOf goodRec with tenant := 0 } true = none ∧ s.tableFull = false) ∧
    (let s := withQueue State.reset (List.replicate 8 0); s.launchReason (List.replicate 8 0) { gridOf (List.replicate 8 0) with tenant := 0 } true = some 1) := by decide +kernel


/-! ### Boot, firmware, the watchdog -/

/-- A powered device at a boot stage, with its images. -/
def booted (n : Nat) : State := let s := withImages (State.reset.setReg 0x50 (wordOf [(4, n)])); { s with parts := { s.parts with powered := true } }
def withCp (s : State) (f : Cp → Cp) : State := let cp := f s.cp; { s with cp := cp }
def verifying (x : Nat) : State := (booted 6).setReg (8 + 8 * x) (wordOf [(5, 2)])
def missOf (w : Bool) : Miss := ⟨0, 0, 2, 0, [⟨some k0, false, .load, vpnVa 2⟩], w, false, false⟩

theorem wit_BootFirmwareWatchdog :
    ({ State.reset with parts := { State.reset.parts with powered := false } }.parts.powered = false ∧ fld (State.reset.reg 0x50) 7 4 = 0) ∧
    ((List.range 5).all fun i => let s := booted (i + 1); fld (s.reg 0x50) 7 4 == i + 1 && !(s.reg 0x50).getLsbD 1 && s.parts.powered && decide (s.active 1 = 0)) = true ∧
    (booted 6).parts.powered = true ∧ 5 ≤ fld ((booted 6).reg 0x50) 7 4 ∧
    ((List.range 3).all fun i => let x := i + 1; let s := verifying x; let im := s.image x (1 - s.active x)
      fld (s.reg (8 + 8 * x)) 7 5 == 2 && im.formed && decide ((s.reg (0x28 + 8 * x)).toNat ≤ im.version) && im.ckfmt == (s.image x (s.active x)).ckfmt) = true ∧
    ([0, 15].all fun h => [1, 2].all fun x => let s := withCp (withQueue (booted 6) goodRec) fun c => { c with served := [0, 15], swaps := [(x, ⟨h, List.range h, 0⟩)] }
      decide (5 ≤ fld (s.reg 0x50) 7 4) && decide s.cp.served.Nodup && keysFrom 0 s.hub.queues && mapGet s.cp.swaps x == some ⟨h, List.range h, 0⟩ && keysFrom 0 s.cp.swaps &&
        (mapGet s.cp.images (2 * x + (1 - s.active x))).isSome) = true ∧
    ([0, 15, 16, 31].all fun k => let s := withCp (booted 6) fun c => { c with back := [k] }
      s.cp.swaps == [] && s.cp.back.contains k && (mapGet s.cp.images (2 * (k / 16 + 1) + s.active (k / 16 + 1))).isSome) = true ∧
    keysFrom 0 State.reset.cp.kicked = true ∧ (0x0000000000000A01 : Word).getLsbD 0 = true ∧ fld 0x0000000000006401 15 8 = 100 ∧
    (let s := withQueue (booted 6) goodRec; s.queue 0 ≠ [] ∧ 5 ≤ fld (s.reg 0x50) 7 4 ∧ s.cp.level2 = [] ∧ s.cp.level0 = [] ∧ s.cp.level1 = [] ∧ keysFrom 0 s.cp.swaps = true) ∧
    (let xl := { (withTables State.reset 0).xl with misses := [missOf true] }; let s := { withTables State.reset 0 with xl := xl }; s.engineWork (.walker 0) ≠ [] ∧ s.cp.level4 = [] ∧
      let t := withCp s fun c => { c with level4 := [(.walker 0, s.clock)] }; t.engineWork (.walker 0) ≠ [] ∧ ∃ x ∈ t.cp.level4, x.1 = .walker 0 ∧ t.clock + 20000 * Config.cyclesPerUs ≤ x.2 + 100000 * Config.cyclesPerUs) := by decide +kernel

/-! ### Grids and crews -/

def grid7 : Grid := { gridOf goodRec with id := 7, tenant := 0, order := 1 }
def grid7' : Grid := { grid7 with st := .running, dies := [0] }
/-- A grid of one crew waits, beside the grid of the focus. -/
def waiting : State :=
  let s := withTables (st 0 []) 0
  { s with grids := s.grids ++ [grid7] }
/-- It runs on die 0. -/
def placeable : State := { waiting with grids := waiting.grids.map fun g => if g.id = 7 then grid7' else g }
/-- The focus's grid may have a second die. -/
def spread : Grid := { (st 0 []).grids.headD grid7 with minDies := 1, maxDies := 2, dies := [0] }
def spreads : State := mapG (st 0 []) fun _ => spread
/-- The bundle of the focus has exited, and with it its crew. -/
def gone : State := mapB (st 0 []) fun b => { b with live := false, arch := { b.arch with slot0 := none } }
def atStep (f : Grid → Grid) : State := mapG (mapP (st 0 []) fun p => { p with held := some .step }) f
def grid0 (s : State) (p : Grid → Bool) : Bool := match s.grid? 0 with | some g => p g | none => false
def saving (why : PreemptWhy) : State := mapC (mapP (st 0 []) fun p => { p with clause := none, idx := 0 }) fun c => { c with save := some why }
def savedCrew : State := mapC (st 0 []) fun c => { c with st := .saved, area := 1 }

theorem wit_CrewsComeAndGo_takes : waiting.canTake grid7 0 0 true = true ∧ placeable.canTake grid7' 0 0 true = true  := by decide +kernel
theorem wit_CrewsComeAndGo_dieSet : (waiting.findDies grid7).isSome = true := findDies_isSome (d := 0) (by decide) (by decide) wit_CrewsComeAndGo_takes.1 (by decide) (by decide)
theorem wit_CrewsComeAndGo_free : placeable.taken grid7' 0 0 = false := by decide +kernel
theorem wit_CrewsComeAndGo_place : (placeable.bestCore grid7' 0 true ((dieCores 0).filter fun k => !placeable.taken grid7' 0 k)).isSome = true :=
  bestCore_isSome (k := 0) (List.mem_filter.2 ⟨by decide, by rw [wit_CrewsComeAndGo_free]; rfl⟩) wit_CrewsComeAndGo_takes.2
/-- A cooperative grid. -/
def coop7 : Grid := { grid7 with coop := true }
theorem wit_CrewsComeAndGo_coop : (mapG waiting fun g => if g.id = 7 then coop7 else g).grid? 7 = some coop7 ∧ coop7.st = .waiting ∧
    ((mapG waiting fun g => if g.id = 7 then coop7 else g).findDies coop7).isSome = true :=
  ⟨by decide +kernel, rfl, findDies_isSome (d := 0) (k := 0) (by decide) (by decide) (by decide +kernel) (by decide) (by decide)⟩
theorem wit_CrewsComeAndGo_announce : spreads.newDies spread true ≠ spread.dies :=
  newDies_add_ne (d := 1) (k := 64) (by decide) (by decide) (by decide +kernel) (by decide) (by decide)

theorem wit_CrewsComeAndGo :
    (State.reset.resetting 0 = false ∧ State.reset.net.recs = [] ∧ State.reset.coll.recs = [] ∧ State.reset.flash.deferred = []) ∧
    (let s := State.reset.setReg 0x1000070 1; s.resetting 0 = true ∧ s.sdWaits ⟨0, 2, 0, 0⟩ = false ∧ s.orphans = false ∧ s.flash.deferred = [] ∧ s.hubFx = [] ∧ s.armed = []) ∧
    (waiting.grids[1]? = some grid7 ∧ waiting.grid? 7 = some grid7 ∧ grid7.id = 7 ∧ grid7.st = .waiting ∧ grid7.coop = false) ∧
    (match placeable.cands 0 with | [y] => y.g == grid7' && y.crew == 0 && !y.saved | _ => false) = true ∧
    (on0 gone fun b c g => gone.crew? k0.ck == some c && c.st == .resident && (gone.crewBundles k0.ck).all (fun b => !b.live && b.sq.isEmpty && b.drains == 0) && c.tiles.all (fun t => t.busy.isNone && t.queue.isEmpty) &&
      (gone.crewChildren k0.ck).isEmpty && c.save.isNone) = true ∧
    (let s := mapC gone fun c => { c with st := .retired }; grid0 s fun x => s.grid? x.id == some x && decide (x.ncrews ≤ (s.crews.filter fun c => c.key.grid == x.id).length) && s.crews.all (fun c => c.key.grid == x.id && c.st == .retired) &&
      s.grids.all (fun y => y.parent.isNone) && !s.gridFlies x.id && x.done == 0 && s.armed == []) = true := by decide +kernel

theorem wit_CrewsComeAndGo_1 :
    (spreads.grid? 0 = some spread ∧ spread.id = 0 ∧ spread.st = .running ∧ spread.announce = none ∧ spread.minDies < spread.maxDies) ∧
    (let s := atStep fun g => { g with announce := some true }; grid0 s fun x => s.grid? x.id == some x && x.st == .running && x.announce == some true &&
      s.crews.all fun c => c.key.grid == x.id && c.save.isNone && c.st == .resident && (s.crewBundles c.key).all Bundle.atStep) = true ∧
    (on0 (st 0 []) fun b c g => (st 0 []).crew? k0.ck == some c && (st 0 []).grid? k0.grid == some g && !g.coop && c.st == .resident && c.save.isNone && (st 0 []).causeHolds g c .commanded) = true ∧
    (let s := saving .commanded; on0 s fun b c g => s.crew? k0.ck == some c && !g.coop && c.st == .resident && c.save == some .commanded && decide (saveGranules g (s.crewBundles k0.ck) + s.areaUsed (fun j => j == k0.ck) ≤ 262144) && s.atPoint c) = true := by decide +kernel

theorem wit_CrewsComeAndGo_2 :
    (let s := savedCrew; on0 s fun b c g => s.crew? k0.ck == some c && !g.coop && c.st == .saved && !c.areaBad && (s.restoreCore g c fun j => !s.taken g 0 j).isSome && g.vault == 0 && s.flash.deferred.isEmpty) = true ∧
    (let s := { savedCrew with parts := { savedCrew.parts with retiredCores := List.range 1536 } }; on0 s fun b c g => s.crew? k0.ck == some c && !g.coop && c.st == .saved && !c.areaBad && (s.restoreCore g c fun _ => true).isNone) = true := by decide +kernel

/-! ### Engines -/

def copyCmd (kind : CopyKind) : CopyCmd := ⟨k0, 9, 0, kind, 64, 0, false, none, []⟩
def withCopy (s : State) (m : CopyCmd) : State := mapC s fun c => { c with copies := [[m], [], [], []] }
def ten8 : Tensor := ⟨4, 0, 0, 0, 1, 0, 8, 8, 16, 0, []⟩
def tileCmd (op : TileOp) (block : Nat) : TileCmd := ⟨k0, 0, op, .val 0, block, 0, none, 0, some 0⟩
def prodOp : TileOp := .mm ten8 ten8 false false 0 0
def withBusy (op : TileOp) (block : Nat) : State := mapC (st 0 []) fun c => { c with tiles := c.tiles.zipIdx.map fun x => if x.2 = 2 then { x.1 with mode := some 0, ents := [], busy := some (tileCmd op block) } else x.1 }
def withHead : State := mapC (st 0 []) fun c => { c with tiles := c.tiles.zipIdx.map fun x => if x.2 = 2 then { x.1 with queue := [tileCmd prodOp 0] } else x.1 }
def prod0 : Prod := (prodOp.prod).getD ⟨opnd ten8 false 0, opnd ten8 false 0, false⟩
/-- Communicator 0, of tenant 0, with one rank, two buffers on stack 0; its rank's collective is a barrier. -/
def comm0 (s : State) : State := (s.setReg 0x2000 (wordOf [(62, 1), (50, 2), (34, 1)])).setReg 0x2800 (wordOf [(44, 1), (8, 1)])
def crec (agreed : Bool) : CollRec := ⟨0, 0, 0, k0.ck, 0, 0, 0, [⟨0, 4, 0, 0, 0, ten8⟩], true, agreed, false, 0, []⟩
def withColl (agreed : Bool) : State := let s := comm0 (st 0 []); { s with coll := { s.coll with recs := [crec agreed] } }
def chunk0 : ChunkCmd := ⟨0, 0, 0, 8, 0, 8, [(0, 0), (0, 1)], [1], true⟩
def withSlot : State := let s := withColl true; { s with coll := { s.coll with slots := [((0, 3), chunk0)] } }

theorem wit_EnginesRunTheirQueues :
    (on0 (withCopy (st 0 []) (copyCmd (.bytes .ls .ls 64 0))) fun _ c _ => c.copies[0]? == some [copyCmd (.bytes .ls .ls 64 0)] && c.bad.isEmpty && (copyCmd (.bytes .ls .ls 64 0)).hurt.isEmpty && (withCopy (st 0 []) (copyCmd (.bytes .ls .ls 64 0))).hub.wrote == []) = true ∧
    (on0 (withCopy (st 0 []) (copyCmd (.bytes .ls .mem 64 0))) fun _ c _ => c.copies[0]? == some [copyCmd (.bytes .ls .mem 64 0)]) = true ∧
    (withCopy (st 0 []) (copyCmd (.bytes .ls .mem 64 0))).walk 0 false .load 0 = .fault 0x10 ∧
    (withHead.tileRuns 0 = false ∧ firstIssued (withHead.tileHeads 0) = some (k0.ck, 2, tileCmd prodOp 0)) ∧
    (let s := withBusy prodOp 0; match s.tileBusy k0.ck 2, s.crewEng k0.ck with
      | some (_, x, m), some e => decide (prodOp.prod.isSome = true ∧ x.mode = some 0 ∧ m.block < prod0.blocks) && !s.stale e.ctx e.grove m && (match s.block e prod0 (m.wpv 2) m.block x with | .ok (u, _, _, _) => u.crews == s.crews | .error _ => false) | _, _ => false) = true ∧
    (let s := withBusy prodOp 1; (s.tileBusy k0.ck 2).any (fun x => x.2.1.unread == [] && !s.stale 0 0 x.2.2) = true ∧ (s.crewEng k0.ck).isSome = true ∧ prod0.blocks ≤ 1) ∧
    (let s := withBusy (.zero 1) 0; (s.tileBusy k0.ck 2).map (fun x => x.2.2.op) = some (.zero 1) ∧ (s.crewEng k0.ck).isSome = true) := by decide +kernel

theorem wit_EnginesRunTheirQueues_1 :
    (let s := withColl false; s.commState 0 = 1 ∧ s.coll.recs = [crec false] ∧ s.hasRank 0 0 0 = true ∧ s.localRanks 0 = 1 ∧ s.nranks 0 = 1 ∧ s.rankOf (crec false) = 0 ∧ s.collOwn (crec false) = 0) ∧
    (let s := withColl true; keysFrom 0 s.coll.queues = true ∧ (s.commStacks 0).testBit 0 = true ∧ s.commState 0 = 1 ∧ s.chunkQueue 0 = [] ∧ s.coll.slots = [] ∧ s.coll.recs = [crec true] ∧ (crec true).closing = false ∧ (crec true).head.holds chunk0 = true ∧ s.chunkHome (crec true) chunk0 0 = true ∧
      s.fillsOk chunk0 = true ∧ s.coll.credits = []) ∧
    (withSlot.coll.slots.find? (fun x => x.1 == (0, 3)) = some ((0, 3), chunk0) ∧ (List.range 12).all (fun k => withSlot.chunkQueue k == []) = true ∧ withSlot.coll.recs = [crec true] ∧ (crec true).closing = false) ∧
    (let m : CollMsg := ⟨0, 0, 12, 3, 0, 0⟩; let s := comm0 State.reset; let s := { s with coll := { s.coll with msgs := [m] } }; m ∈ s.coll.msgs ∧ s.commState m.comm = 1 ∧ s.coll.recs = [] ∧ 12 / 12 ≠ s.net.self) ∧
    (let s := comm0 State.reset; s.commState 0 = 1 ∧ s.coll.recs = []) := by decide +kernel

/-! ### Registers, banks, the host -/

/-- Host hart 0 in user mode over tables with one page at 0x3000, the host die released. -/
def hostUser : State :=
  let s := (withTables (st 0 []) leaf0).setReg 0x50 1
  s.onHost 0 fun h => { h with mode := 0 }
def hostDo (va : Nat) (op : HostOp) : HostAccess := ⟨0, 0, va, op, 5, false, false⟩
/-- Host hart 0 with an acquire's value still on its way. -/
def hostWaiting : State := { hostUser with inflight := [⟨none, .post 0, 0x700000, .atom (some (hostTag 5 false true)) .add .n64 [], false⟩] }

theorem wit_RegistersAndHost_bus : OnBus .cp ∧ OnBus .host ∧ OnBus (.supervisor 63) := ⟨.inl rfl, .inr (.inl rfl), .inr (.inr ⟨63, rfl⟩)⟩
theorem wit_RegistersAndHost :
    (regExists 0x8 = true ∧ regExists 0xFFFFFF8 = false) ∧ (0x5F8 = 0x400 + 8 * 63 ∧ 0x1FF8 = 0x1800 + 8 * 255 ∧ 0x205FF010 = 0x20000010 + 0x1000 * 1535 ∧ Party.host ≠ .cp) ∧
    keysFrom 0 State.reset.parts.oldRoles = true ∧
    (let s := { State.reset with parts := { State.reset.parts with oldRoles := natsPut State.reset.parts.oldRoles 5 1 } };
      keysFrom 0 s.parts.oldRoles = true ∧ s.bankPending 0 5 = true ∧ s.bankFree 0 5 = true ∧ s.bankEff 0 5 = 0) ∧
    (let s := { State.reset with parts := { State.reset.parts with oldRoles := natsPut State.reset.parts.oldRoles 49151 3 } };
      keysFrom 0 s.parts.oldRoles = true ∧ s.bankPending 1535 31 = true ∧ s.bankFree 1535 31 = true ∧ s.bankEff 1535 31 ≠ 0) ∧
    (let h := State.reset.fwHart 31; cpHasCsr 0x7C3 = false ∧ h.mode = 3 ∧ cpHasCsr 0x300 = true ∧ (0x300 ∈ stdCsrs ∧ 0x300 ∉ [0x100, 0x104, 0x144, 0x320] ∧ 0x300 < 0x3A0)) ∧
    (let s := State.reset.setReg 0x50 0x50; let h := s.fwHart 15; 15 < 16 ∧ 5 ≤ fld (s.reg 0x50) 7 4 ∧ h.mode = 3 ∧ keysFrom 0 h.x = true ∧ cpHasCsr 0xFC0 = true ∧ 0xFC0 / 256 % 4 ≤ h.mode ∧ (h.csr 0x300).getLsbD 17 = false ∧
      s.rowBusy (Config.regBase + 8) = false ∧ h.pmpOk 3 .load (Config.regBase + 8) 8 = true ∧ h.pmpOk 3 .store (Config.regBase + 8) 8 = true ∧
      ((h.setCsr 0x3A0 0x98).setCsr 0x3B0 (2 ^ 53 - 1)).pmpOk 3 .store (Config.regBase + 8) 8 = false) := by decide +kernel

theorem wit_RegistersAndHost_host :
    (State.reset.reg 0x50).getLsbD 0 = false ∧ (hostUser.reg 0x50).getLsbD 0 = true ∧ hostWaiting.hostAcquires 0 = true ∧ hostWaiting.hostFlies 0 = true ∧ hostUser.hostWaits (hostDo 0x3000 (.fence true)) = false ∧
    (let h := hostUser.host 0;
      hostUser.hostWaits (hostDo 0x307E (.load .x 2 true)) = false ∧ 0x307E % 128 + 2 ≤ 128 ∧ hostUser.hostAt h 0 .load 0x307E = .ok 0x70507E 0 ∧ hostUser.hostAt h 0 .store 0x307E = .ok 0x70507E 0 ∧
      inRegs 0x70507E = false ∧ inPcie 0x70507E = false ∧ hostUser.hostAt h 0 .fetch 0x3000 = .fault 12 ∧ hostUser.hostAtoms 0 = [] ∧
      (withTables (st 0 []) leaf0).hostAt { h with mode := 3 } 0 .fetch 0x700000 = .ok 0x700000 0 ∧
      hostUser.hostAt h 0 .load 0x4000 = .fault 13) ∧
    hostUser.hostAt { hostUser.host 0 with mode := 3 } 0 .load 0x80000001000 = .waits ∧
    (let h := hostUser.host 0;
      amoOk 8 0x3008 = true ∧ amoOk 4 0x3006 = false ∧ hostUser.hostAt h 0 .atomic 0x3008 = .ok 0x705008 0 ∧ hostUser.rowBusy 0x705008 = false ∧ hostUser.inflight = [] ∧
      h.resv ≠ some (0x705008, 8) ∧ ({ h with resv := some (0x705008, 8) } : HostHart).resv = some (0x705008, 8)) ∧
    (let h := hostUser.host 0;
      h.csrBad 0xC00 false = none ∧ h.csrBad 0x001 true = none ∧ h.csrBad 0x180 true = some 2 ∧ h.csrBad 0xC00 true = some 2 ∧ ({ hostUser with hub := { hostUser.hub with msis := [7] } } : State).hub.msis[0]? = some 7) := by decide +kernel

theorem wit_ResetAndBankRoles : keysFrom 0 State.reset.parts.oldRoles = true ∧ 1535 < 1536 := by decide +kernel

/-! ### Further cases of the statements above -/


/-- A sibling at a join of its own, a queued exit that has its time, and one behind the horizon. -/
theorem wit_ExitHaltNopYield_exit :
    (∃ c, Ready (withSibling (st 0 []) { sibling true 0x1000 with held := some .join }) c (needX1 none true c) ∧ ((c.b.arch.path true).any fun q => q.held == some .join) = true) ∧
    ∃ c, Ready (mapB (st 0 []) fun b => { b with sq := [⟨0, .exit, 0⟩] }) c (needX1 none true c) ∧ (c.b.sq == [⟨0, .exit, 0⟩] && c.b.parked.isNone) = true := by
  and_intros <;> exact holdsFor_ready (by decide +kernel)

/-- Every bundle of the core waits in racq, and the oldest request finds too few granules. -/
theorem wit_BundlesTakenBack_reclaim :
    let s := mapG (mapP (mapB (st 0 []) fun b => { b with extAt := 5, arch := { b.arch with ext := 2 } }) fun p => { p with held := some (.racq 1 0 0) }) fun g => { g with regs := 15, bundles := 1000 }
    let all := s.bundles.filter fun x => (s.residents 0).any fun c => c.key == x.key.ck
    (s.returnBlocks 0 (all.filter fun x => x.live) == none && all.all (fun x => x.inRacq) && ((s.residents 0).all fun c => c.save.isNone && s.liveBundles c.key != 0) &&
      (all.all fun x => x.racqs.all fun y => decide (s.freeRegs 0 < y.1))) = true := by decide +kernel
/-- A deferred read of a record. -/
theorem wit_BundlesTakenBack_record :
    let d : Deferral := ⟨k0, 9, 64, 0, 0, 0x2000, some 0x40000000000, 0, none⟩
    let s := { mapP (st 0 []) (fun p => { p with held := some (.deferred 9) }) with flash := { State.reset.flash with deferred := [d] } }
    on0 s (fun b _ _ => (s.flash.deferred[0]?).any (fun x => x == d) && b.readsRecord d.pid && s.flash.deferred.all (fun y => y.grove != Config.groves) && s.bundles.all fun x => x.key == k0) = true := by decide +kernel
theorem wit_RowsHeatAndSpares_core : State.reset.residents 1535 = [] ∧ (st 0 []).residents 0 ≠ [] ∧ 0 ∉ (st 0 []).parts.retiredCores ∧ natsGet (st 0 []).parts.spareCores 0 < 2 := by decide +kernel
theorem wit_IngressIsOrdered_reads :
    (let s := linkUp State.reset; let r := ir none 0x601000 3; r.len ≤ 4096 ∧ requesterOk r.rid r.pasid = true ∧ r.ctx = none ∧ inHbm r.addr = true ∧ s.inHeld r = false ∧ s.pcie.held = [] ∧ (s.streamFor 0 (s.streamKey 0 5 none)).flying = []) ∧
    requesterOk 65535 (some (2 ^ 20 - 1)) = true ∧ requesterOk 0 (some (2 ^ 20)) = false := by decide +kernel
theorem wit_TranslationMovesOn_stages :
    (let s := withMiss (withTables (st 0 []) leaf0) (miss0 true); s.walkHeld 0 (vpnVa 3) = false ∧ (∀ x ∈ s.xl.ctxs, s.guestRoot x = none)) ∧
    (let d : Shoot := ⟨0, 3, 0, 0⟩; let s := { loading with xl := { loading.xl with shoots := [d] } }; s.xl.shoots.find? (fun d => d.tenant == 0) = some d ∧ s.sdWaits { d with kind := 1 } = true ∧ s.flash.deferred = [] ∧ s.hubFx = [] ∧ s.armed = [] ∧
      ∃ x ∈ s.xl.tlb, s.sdCovers d x.2.ctx x.2.vpn x.2.pages = true) ∧
    (∀ x ∈ (withPage (st 0 [])).xl.tlb, x.1.ofGrove 0 = true ∧ ∀ h ∈ x.2.homes, h.1 % 8 = 0) := by decide +kernel
/-- An extent that a closed stream left in staging. -/
theorem wit_StreamsReachFlash_left :
    let s := { st 0 [] with flash := { State.reset.flash with left := [(2, 0, 0x40000400000, ext0 true)] } }
    s.fstream 2 = none ∧ s.flash.left.find? (fun y => y.1 == 2 && y.2.1 == 0) = some (2, 0, 0x40000400000, ext0 true) := by decide +kernel
theorem wit_BootFirmwareWatchdog_harts :
    (let s := booted 6; ∀ k ∈ [0, 15, 16, 31], keysFrom 0 (s.fwHart k).x = true) ∧
    (let xl := { (withTables State.reset 0).xl with misses := [missOf true] }; let s := { withTables State.reset 0 with xl := xl }
     let e : Bool → EngineStall := fun r => ⟨.walker 0, r⟩
     s.engineWork (e false).engine ≠ [] ∧ (s.cp.level4.find? fun x => x.1 == .walker 0) = none ∧
       ((withCp s fun c => { c with level4 := [(.walker 0, 5)] }).cp.level4.find? fun x => x.1 == .walker 0).isSome = true) := by decide +kernel
theorem wit_CrewsComeAndGo_steps :
    (atStep fun g => { g with announce := some true }).steps 0 = true ∧ gone.steps 0 = false ∧ gone.crews.all (fun c => c.copies.all fun q => q.isEmpty) = true ∧ (saving .commanded).flash.deferred = [] := by decide +kernel
theorem wit_EnginesRunTheirQueues_credits :
    (let s := withSlot; ((0, 0), (0, 0)) ∉ s.coll.credits) ∧
    (let s := { withSlot with coll := { withSlot.coll with credits := [((0, 0), (0, 1)), ((3, 0), (12, 5))] } }; (List.range 12).all (fun k => s.chunkQueue k == []) = true ∧ 12 / 12 ≠ s.net.self ∧ ((3, 0), (12, 5)) ∈ s.coll.credits) := by decide +kernel
end Sys2Proof.Tests
end

/-! SUPPORT. Laws of the fields of words: what a field reads after a field was replaced, and the little-endian bytes of a word. -/

namespace Sys2Proof.Machine

theorem fld_lt (w : Word) (hi lo : Nat) : fld w hi lo < 2 ^ (hi + 1 - lo) := Nat.mod_lt _ (Nat.two_pow_pos _)

theorem testBit_fld (w : Word) (hi lo i : Nat) : (fld w hi lo).testBit i = (decide (i < hi + 1 - lo) && w.getLsbD (lo + i)) := by
  simp [fld, Nat.testBit_mod_two_pow, BitVec.getLsbD]

/-- The number that `setFld` builds, cut into what lies above the field, the field and what lies below it. -/
theorem sub_add_field (x y lo n : Nat) :
    x - x / 2 ^ lo % 2 ^ n * 2 ^ lo + y * 2 ^ lo = 2 ^ lo * (2 ^ n * (x / 2 ^ lo / 2 ^ n) + y) + x % 2 ^ lo := by
  have cut : x = 2 ^ lo * (2 ^ n * (x / 2 ^ lo / 2 ^ n)) + x / 2 ^ lo % 2 ^ n * 2 ^ lo + x % 2 ^ lo := by
    rw [Nat.mul_comm (x / 2 ^ lo % 2 ^ n), ← Nat.mul_add, Nat.div_add_mod, Nat.div_add_mod]
  rw [Nat.mul_add, Nat.mul_comm y]
  omega

theorem getLsbD_setFld (w : Word) {hi lo : Nat} (v i : Nat) (hhi : hi < 64) (hlo : lo ≤ hi) :
    (setFld w hi lo v).getLsbD i = if lo ≤ i ∧ i ≤ hi then v.testBit (i - lo) else w.getLsbD i := by
  simp only [setFld, BitVec.getLsbD_ofNat, sub_add_field, Nat.testBit_two_pow_mul_add _ (Nat.mod_lt _ (Nat.two_pow_pos lo)),
    Nat.testBit_two_pow_mul_add _ (Nat.mod_lt v (Nat.two_pow_pos (hi + 1 - lo))), Nat.testBit_mod_two_pow, Nat.testBit_div_two_pow]
  by_cases hi64 : i < 64
  · by_cases h1 : i < lo
    · simp [hi64, h1, show ¬ lo ≤ i by omega, BitVec.getLsbD]
    · by_cases h2 : i ≤ hi
      · simp [hi64, h1, h2, show lo ≤ i by omega, show i - lo < hi + 1 - lo by omega]
      · simp [hi64, h1, h2, show ¬ i - lo < hi + 1 - lo by omega, BitVec.getLsbD, show i - lo - (hi + 1 - lo) + (hi + 1 - lo) + lo = i by omega]
  · simp [hi64, show ¬ i ≤ hi by omega, BitVec.getLsbD_of_ge w i (by omega)]

theorem fld_setFld_self (w : Word) {hi lo : Nat} (v : Nat) (hhi : hi < 64) (hlo : lo ≤ hi) :
    fld (setFld w hi lo v) hi lo = v % 2 ^ (hi + 1 - lo) := by
  refine Nat.eq_of_testBit_eq fun i => ?_
  rw [testBit_fld, Nat.testBit_mod_two_pow]
  by_cases h : i < hi + 1 - lo
  · rw [getLsbD_setFld w v _ hhi hlo, if_pos (by omega), Nat.add_sub_cancel_left]
  · simp [h]

theorem fld_setFld_of_disjoint (w : Word) {hi lo hi' lo' : Nat} (v : Nat) (hhi : hi < 64) (hlo : lo ≤ hi) (hd : hi' < lo ∨ hi < lo') :
    fld (setFld w hi lo v) hi' lo' = fld w hi' lo' := by
  refine Nat.eq_of_testBit_eq fun i => ?_
  rw [testBit_fld, testBit_fld]
  by_cases h : i < hi' + 1 - lo'
  · rw [getLsbD_setFld w v _ hhi hlo, if_neg (by omega)]
  · simp [h]

theorem fld_take_self (w v : Word) {hi lo : Nat} (hhi : hi < 64) (hlo : lo ≤ hi) : fld (take w v hi lo) hi lo = fld v hi lo := by
  rw [take, fld_setFld_self w _ hhi hlo, Nat.mod_eq_of_lt (fld_lt v hi lo)]

theorem fld_take_of_disjoint (w v : Word) {hi lo hi' lo' : Nat} (hhi : hi < 64) (hlo : lo ≤ hi) (hd : hi' < lo ∨ hi < lo') :
    fld (take w v hi lo) hi' lo' = fld w hi' lo' := fld_setFld_of_disjoint w _ hhi hlo hd

/-- A number below 2^44 in the place of an address field is read back from it. -/
theorem fld_wordOf_address {x : Nat} (h : x < 2 ^ 44) : fld (wordOf [(12, x)]) 55 12 = x := by
  have hx : x * 2 ^ 12 < 2 ^ 64 := by omega
  simp only [fld, wordOf, List.foldl, Nat.zero_add, BitVec.toNat_ofNat, Nat.mod_eq_of_lt hx]
  rw [natBits, Nat.shiftRight_eq_div_pow, Nat.mul_div_cancel x (Nat.two_pow_pos 12)]
  exact Nat.mod_eq_of_lt h

theorem leNat_leBytes (n v : Nat) : leNat (leBytes n v) = v % 256 ^ n := by
  induction n generalizing v with
  | zero => simp [leBytes, leNat, Nat.mod_one]
  | succ n ih => rw [leBytes, leNat, ih, BitVec.toNat_ofNat, Nat.pow_succ' (m := 256), Nat.mod_mul]

theorem leNat_leBytes_word (v : Word) : leNat (leBytes 8 v.toNat) = v.toNat := by
  rw [leNat_leBytes]
  exact Nat.mod_eq_of_lt v.isLt

end Sys2Proof.Machine

/-! SUPPORT. Writes of device registers (R136, R154, R141, R284) and of banks' roles (R201, R202). -/

namespace Sys2Proof.Machine

theorem reg_putFields_self (s : State) (o : Nat) (v : Word) (hi lo : Nat) : (s.putFields o v [(hi, lo)]).reg o = take (s.reg o) v hi lo :=
  reg_setReg_self s o _

theorem reg_putFields_ne (s : State) {o q : Nat} (v : Word) (l : List (Nat × Nat)) (h : q ≠ o) : (s.putFields o v l).reg q = s.reg q :=
  reg_setReg_ne s _ h

/-- A party on the bus reaches the register of an aligned offset. -/
theorem exec_registerWrite_onBus {s : State} {p : Party} {o : Nat} (v : Word) (ha : o % 8 = 0) (hr : o < 2 ^ 32) (hp : OnBus p) :
    exec (.registerWrite p (Config.regBase + o) v) s = .next (s.regWrite p o v) := by
  have reaches : inRegs (Config.regBase + o) ∧ (Config.regBase + o) % 8 = 0 := by
    simp only [inRegs, Config.regBase, Config.regEnd, decide_eq_true_eq]
    omega
  obtain rfl | rfl | ⟨t, rfl⟩ := hp <;> simp only [exec, execRegisterWrite, if_pos reaches, Nat.add_sub_cancel_left]

theorem regWrite_of_no_register {s : State} {o : Nat} (p : Party) (v : Word) (h : regExists o = false) : s.regWrite p o v = s := by
  simp [State.regWrite, h]

/-- The hub's registers from the fair shares (R154) to the code profiles are the command processors' to write. -/
theorem hubWrite_shares_to_profiles (s : State) (cp : Bool) {o : Nat} (v : Word) (hlo : 0x400 ≤ o) (hhi : o < 0x6000) :
    s.hubWrite cp o v = if cp then s.hubWrite true o v else s := by
  cases cp
  · simp (disch := omega) only [State.hubWrite, if_neg, Bool.not_false, if_true, Bool.false_eq_true, if_false]
  · rfl

theorem regExists_hub {o : Nat} (h8 : o % 8 = 0) (ho : (0x400 ≤ o ∧ o < 0x600) ∨ (0x1000 ≤ o ∧ o < 0x3000)) : regExists o = true := by
  have inHub : o < 0x1000000 := by omega
  simp only [regExists, h8, inHub, ne_eq, not_true_eq_false, if_true, if_false]
  obtain ho | ho := ho <;> simp [ho]

theorem regWrite_hub (s : State) (p : Party) {o : Nat} (v : Word) (h8 : o % 8 = 0) (ho : (0x400 ≤ o ∧ o < 0x600) ∨ (0x1000 ≤ o ∧ o < 0x3000)) :
    s.regWrite p o v = if p = .cp then s.hubWrite true o v else s := by
  have inHub : o < 0x1000000 := by omega
  simp only [State.regWrite, regExists_hub h8 ho, inHub, Bool.not_true, Bool.false_eq_true, if_false, if_true]
  rw [hubWrite_shares_to_profiles s _ v (by omega) (by omega)]
  simp

/-- The weight of a tenant's share (R154) is the command processors' to write. -/
theorem regWrite_shareWeight (s : State) (p : Party) {o : Nat} (v : Word) (h8 : o % 8 = 0) (hlo : 0x400 ≤ o) (hhi : o < 0x600) :
    s.regWrite p o v = if p = .cp then s.putFields o v [(63, 56)] else s := by
  rw [regWrite_hub s p v h8 (.inl ⟨hlo, hhi⟩)]
  simp (disch := omega) only [State.hubWrite, if_neg, if_pos, Bool.not_true, Bool.false_eq_true, if_false]

/-- The mask of a partition (R142) is stored whole, for the command processors alone. -/
theorem regWrite_partMask (s : State) (p : Party) {o : Nat} (v : Word) (h8 : o % 8 = 0) (hlo : 0x1800 ≤ o) (hhi : o < 0x2000) :
    s.regWrite p o v = if p = .cp then s.setReg o v else s := by
  rw [regWrite_hub s p v h8 (.inr ⟨by omega, by omega⟩)]
  simp (disch := omega) only [State.hubWrite, if_neg, if_pos, Bool.not_true, Bool.false_eq_true, if_false]

section
variable {c : Nat} (hc : c < Config.cores)
include hc

/-- A register of a core's block: the block starts at 0x20000000 + 0x1000 c. -/
theorem regWrite_core (s : State) (p : Party) {k : Nat} (v : Word) (hk : k = 0 ∨ k = 0x10) :
    s.regWrite p (0x20000000 + 0x1000 * c + k) v =
      if k = 0 then (if p = .cp then s.bankRoles c v else s) else s.putFields (0x20000000 + 0x1000 * c + k) v [(63, 8)] := by
  have hc' : c < 1536 := hc
  have place : (0x20000000 + 0x1000 * c + k) % 0x1000 = k ∧ (0x20000000 + 0x1000 * c + k - 0x20000000) / 0x1000 = c := by omega
  have there : regExists (0x20000000 + 0x1000 * c + k) = true := by
    simp (disch := omega) only [regExists, Config.groves, Config.cores, if_neg, if_pos, place, decide_eq_true (show k < 0x18 by omega), Bool.true_or]
  simp (disch := omega) only [State.regWrite, there, Bool.not_true, Bool.false_eq_true, if_neg, if_pos, place]
  obtain rfl | rfl := hk <;> simp

end

end Sys2Proof.Machine

/-! SUPPORT. The harts of the command processors: their registers and CSRs, exceptions and returns (R117), and what a step of one does. -/

namespace Sys2Proof.Machine

theorem fwHart_putHart_self (s : State) (k : Nat) (h : FwHart) : (s.putHart k h).fwHart k = h := by
  simp [State.fwHart, State.putHart, mapGet_mapPut_self]

@[simp] theorem csr_setCsr_self (h : FwHart) (n : Nat) (v : Word) : (h.setCsr n v).csr n = v := by
  simp [FwHart.csr, FwHart.setCsr, mapGet_mapPut_self]

@[simp] theorem csr_setCsr_ne (h : FwHart) {n m : Nat} (v : Word) (hm : m ≠ n) : (h.setCsr n v).csr m = h.csr m := by
  simp [FwHart.csr, FwHart.setCsr, mapGet_mapPut_ne _ _ hm]

theorem natsGet_natsPut_self {m : Nats} (k v : Nat) (h : keysFrom 0 m = true) : natsGet (natsPut m k v) k = v := by
  unfold natsGet natsPut
  split
  · next hv => rw [mapGet_mapDel_self k h, hv, Option.getD_none]
  · rw [mapGet_mapPut_self, Option.getD_some]

theorem natsGet_natsPut_ne (m : Nats) {k j : Nat} (v : Nat) (hj : j ≠ k) : natsGet (natsPut m k v) j = natsGet m j := by
  unfold natsGet natsPut
  split
  · rw [mapGet_mapDel_ne m hj]
  · rw [mapGet_mapPut_ne m v hj]

theorem get_put_self {h : FwHart} {rd v : Nat} (h0 : 0 < rd) (h32 : rd < 32) (hv : v < 2 ^ 64) (hx : keysFrom 0 h.x = true) : (h.put rd v).get rd = v := by
  rw [FwHart.put, if_neg (by omega), FwHart.get, Nat.mod_eq_of_lt h32, natsGet_natsPut_self _ _ hx, Nat.mod_eq_of_lt hv]

/-! ### Exceptions and returns -/

/-- A hart stands in machine mode's handler of an exception of the hart h: its cause, its address and where it was are in mcause, mtval and mepc. -/
structure MachineTrapped (h t : FwHart) (cause tval : Nat) : Prop where
  pc : t.pc = fld (h.csr 0x305) 63 2 * 4
  mode : t.mode = 3
  mcause : t.csr 0x342 = BitVec.ofNat 64 cause
  mepc : t.csr 0x341 = BitVec.ofNat 64 h.pc
  mtval : t.csr 0x343 = BitVec.ofNat 64 tval

theorem machineTrapped_trap {h : FwHart} {cause : Nat} (tval : Nat) (hm : h.mode = 3 ∨ (h.csr 0x302).getLsbD cause = false) :
    MachineTrapped h (h.trap cause tval) cause tval := by
  have notHandedOn : ¬(h.mode ≠ 3 ∧ (h.csr 0x302).getLsbD cause = true) := by
    rintro ⟨hmode, hbit⟩
    obtain hm | hm := hm
    · exact hmode hm
    · simp [hm] at hbit
  rw [FwHart.trap, if_neg notHandedOn]
  constructor <;> simp [FwHart.csr, FwHart.setCsr, mapGet_mapPut_self, mapGet_mapPut_ne]

theorem ret_machine {h : FwHart} (hm : h.mode = 3) : (h.ret true).pc = (h.csr 0x341).toNat ∧ (h.ret true).mode = fld (h.csr 0x300) 12 11 := by
  simp [FwHart.ret, hm]

/-! ### CSRs -/

theorem csrBad_of_forbidden {h : FwHart} {n : Nat} (write : Bool) (hn : cpHasCsr n = false ∨ h.mode < n / 256 % 4) : h.csrBad n write = true := by
  obtain hn | hn := hn <;> simp [FwHart.csrBad, hn]

theorem csrBad_read {h : FwHart} {n : Nat} (hn : cpHasCsr n = true) (hm : n / 256 % 4 ≤ h.mode) : h.csrBad n false = false := by
  simp [FwHart.csrBad, hn, hm]

/-- In machine mode a CSR that the hart has is written without an exception, but for RISC-V's read-only ones. -/
theorem csrBad_write_machine {h : FwHart} {n : Nat} (hm : h.mode = 3) (hn : cpHasCsr n = true) (hro : n / 1024 ≠ 3 ∨ n ∈ [0xFC0, 0xFC1, 0xFC2]) :
    h.csrBad n true = false := by
  have mode : n / 256 % 4 ≤ 3 := by omega
  simp only [FwHart.csrBad, hn, hm, Bool.not_true, Bool.false_or, Bool.true_and, Bool.or_eq_false_iff, decide_eq_false_iff_not, not_lt]
  refine ⟨mode, ?_⟩
  obtain h | h := hro
  · simp [h]
  · simp only [List.contains_iff_mem.mpr h, Bool.not_true, Bool.and_false]

section
variable {s : State} {k : Nat} (hk : k < 32)
include hk

/-- A write that is not allowed is an illegal instruction. -/
theorem csrWrite_forbidden {n : Nat} (v : Word) (hn : cpHasCsr n = false ∨ (s.fwHart k).mode < n / 256 % 4) :
    s.csrWrite k n v = s.putHart k (s.fwHart k).illegal := by
  simp only [State.csrWrite, csrBad_of_forbidden true hn, if_neg (show ¬ 32 ≤ k by omega), if_true]

variable (hm : (s.fwHart k).mode = 3)
include hm

theorem csrWrite_vendor_readOnly {n : Nat} (v : Word) (hn : n ∈ [0xFC0, 0xFC1, 0xFC2]) : s.csrWrite k n v = s := by
  have has : cpHasCsr n = true := by
    simp only [List.mem_cons, List.not_mem_nil, or_false] at hn
    obtain rfl | rfl | rfl := hn <;> rfl
  have high : n / 1024 = 3 := by
    simp only [List.mem_cons, List.not_mem_nil, or_false] at hn
    omega
  simp only [State.csrWrite, csrBad_write_machine hm has (.inr hn), if_neg (show ¬ 32 ≤ k by omega), high, or_true, if_true, Bool.false_eq_true, if_false]

theorem csrWrite_chkpt (v : Word) : s.csrWrite k 0x7C0 v = s.putHart k ((s.fwHart k).setCsr 0x7C0 (wordOf [(12, fld v 55 12)])) := by
  simp [State.csrWrite, csrBad_write_machine (n := 0x7C0) hm rfl (.inl (by decide)), show ¬ 32 ≤ k by omega, zeroCsr]

theorem csrWrite_mcycle (v : Word) :
    s.csrWrite k 0xB00 v = s.putHart k ((s.fwHart k).setCsr 0xB00 (s.countAs ((s.fwHart k).csr 0x320) 0xB00 v)) := by
  simp [State.csrWrite, csrBad_write_machine (n := 0xB00) hm rfl (.inl (by decide)), show ¬ 32 ≤ k by omega, zeroCsr, countCsrs]

end

/-- The CSRs of RISC-V that keep what is written to them, and read as it: no view of another, no PMP register, not mcountinhibit. -/
def plainCsrs : List Nat := stdCsrs.filter fun n => decide (n ∉ [0x100, 0x104, 0x144, 0x320] ∧ n < 0x3A0)

theorem mem_plainCsrs {n : Nat} : n ∈ plainCsrs ↔ n ∈ stdCsrs ∧ n ∉ [0x100, 0x104, 0x144, 0x320] ∧ n < 0x3A0 := by
  simp only [plainCsrs, List.mem_filter, decide_eq_true_eq]

/-- A plain CSR is none of those that a write or a read treats apart. -/
theorem plainCsrs_apart : ∀ n ∈ plainCsrs, cpHasCsr n = true ∧ zeroCsr n = false ∧ countCsrs.contains n = false ∧ 0x100 < n ∧ n < 0x3A0 ∧ n ∉ [0x104, 0x144, 0x320] := by decide

theorem csrWrite_plain {s : State} {k n : Nat} (v : Word) (hk : k < 32) (hm : (s.fwHart k).mode = 3) (hn : n ∈ plainCsrs) :
    s.csrWrite k n v = s.putHart k ((s.fwHart k).setCsr n v) := by
  obtain ⟨has, nonzero, noCount, hlo, hhi, hno⟩ := plainCsrs_apart n hn
  simp only [List.mem_cons, List.not_mem_nil, or_false, not_or] at hno
  have mayWrite := csrBad_write_machine hm has (.inl (by omega))
  simp (disch := omega) only [State.csrWrite, mayWrite, nonzero, noCount, hno, if_neg, Bool.false_eq_true, false_or, or_self, if_false]

theorem cpCsr_plain {s : State} {k n : Nat} (hn : n ∈ plainCsrs) : s.cpCsr k n = (s.fwHart k).csr n := by
  obtain ⟨-, -, noCount, hlo, hhi, hno⟩ := plainCsrs_apart n hn
  simp only [List.mem_cons, List.not_mem_nil, or_false, not_or] at hno
  have noIdentity : [0xF11, 0xF12, 0xF13, 0xF15].contains n = false := by
    simp only [List.contains_eq_mem, List.mem_cons, List.not_mem_nil, or_false, decide_eq_false_iff_not, not_or]
    omega
  simp (disch := omega) only [State.cpCsr, noCount, noIdentity, hno, if_neg, Bool.false_eq_true, or_self, if_false]

theorem cpCsr_chkpt (s : State) (k : Nat) : s.cpCsr k 0x7C0 = (s.fwHart k).csr 0x7C0 := by
  have noCount : 0x7C0 ∉ countCsrs := by decide
  simp [State.cpCsr, noCount]

/-- mcycle reads as it was written at the same cycle, whether it counts or mcountinhibit stops it. -/
theorem cpCsr_mcycle_written (s : State) (k : Nat) (v : Word) :
    (s.putHart k ((s.fwHart k).setCsr 0xB00 (s.countAs ((s.fwHart k).csr 0x320) 0xB00 v))).cpCsr k 0xB00 = v := by
  have counter : ∀ t : State, t.cpCsr k 0xB00 = t.cpCount k 0xB00 := fun t => by simp [State.cpCsr, countCsrs]
  rw [counter, State.cpCount, fwHart_putHart_self, State.countAs]
  cases stopped : ((s.fwHart k).csr 0x320).getLsbD 0 <;> simp [stopped, -BitVec.getLsbD_eq_getElem, State.putHart]

end Sys2Proof.Machine

/-! SUPPORT. Steps of a command-processor hart that runs: CSR reads, and loads and stores of device registers through its PMP (R117, R136). -/

namespace Sys2Proof.Machine

/-- A hart of the hub runs from the sixth boot stage, one of Sawyer from the fifth (R134). -/
def FwRuns (s : State) (k : Nat) : Prop := k < 32 ∧ (if k < 16 then 5 else 4) ≤ s.stage

section
variable {s : State} {k : Nat} (hr : FwRuns s k)
include hr

theorem exec_csrLoad (rd n : Nat) (v : Word) : exec (.registerWrite (.csrLoad k rd) n v) s = .next (s.csrRead k n rd) := by
  simp only [exec, execRegisterWrite, if_pos (show _ ∧ _ from hr)]

theorem exec_fwLoad (rd n : Nat) (signed : Bool) (a : Nat) (v : Word) :
    exec (.registerWrite (.load k rd n signed) a v) s = .next (s.fwLoad k rd n signed a) := by
  simp only [exec, execRegisterWrite, if_pos (show _ ∧ _ from hr)]

theorem exec_fwStore (n a : Nat) (v : Word) : exec (.registerWrite (.store k n) a v) s = .next (s.fwStore k n a v.toNat) := by
  simp only [exec, execRegisterWrite, if_pos (show _ ∧ _ from hr)]

theorem exec_fwRet (machine : Bool) (a : Nat) (v : Word) :
    exec (.registerWrite (.ret k machine) a v) s = .next (s.putHart k ((s.fwHart k).ret machine)) := by
  simp only [exec, execRegisterWrite, if_pos (show _ ∧ _ from hr)]

theorem exec_fwCompute (rd pc : Nat) (v : Word) :
    exec (.registerWrite (.compute k rd) pc v) s = .next (s.putHart k { (s.fwHart k).put rd v.toNat with pc := pc }) := by
  simp only [exec, execRegisterWrite, if_pos (show _ ∧ _ from hr)]

end

/-- The place of a device register is none of memory's, flash's or PCI Express's. -/
theorem registerPlace {o : Nat} (ho : o < 2 ^ 32) :
    inRegs (Config.regBase + o) = true ∧ inFlash (Config.regBase + o) = false ∧ inPcie (Config.regBase + o) = false ∧ populated (Config.regBase + o) = true := by
  have regs : inRegs (Config.regBase + o) = true := by
    simp only [inRegs, Config.regBase, Config.regEnd, decide_eq_true_eq]
    omega
  refine ⟨regs, ?_, ?_, by simp only [populated, regs, Bool.or_true]⟩
  · simp only [inFlash, Config.regBase, Config.flashBase, Config.flashEnd, decide_eq_false_iff_not]
    omega
  · simp only [inPcie, Config.regBase, Config.pcieBase, Config.pcieEnd, decide_eq_false_iff_not]
    omega

section
variable {o : Nat} {h : FwHart} (hm : h.mode = 3) (hp : (h.csr 0x300).getLsbD 17 = false) (ho : o < 2 ^ 32)
include hm hp ho

/-- A load or store of a device register in machine mode, with MPRV clear, is let through or stopped by the PMP alone. -/
theorem fwAt_register (s : State) {acc : Acc} (hacc : acc = .load ∨ acc = .store) :
    s.fwAt h acc (Config.regBase + o) 8 =
      if h.pmpOk 3 acc (Config.regBase + o) 8 then .ok (Config.regBase + o) else .error (if acc = .load then 5 else 7) := by
  obtain ⟨-, noFlash, -, there⟩ := registerPlace ho
  have level : h.level acc = 3 := by simp only [FwHart.level, hm, hp, Bool.and_false, Bool.false_eq_true, if_false]
  obtain rfl | rfl := hacc <;> simp [State.fwAt, level, there, noFlash]

end

section
variable {s : State} {k o : Nat} (hm : (s.fwHart k).mode = 3) (hp : ((s.fwHart k).csr 0x300).getLsbD 17 = false)
  (h8 : o % 8 = 0) (ho : o < 2 ^ 32)
include hm hp h8 ho

theorem fwLoad_register (hk : k < 16) (hb : s.rowBusy (Config.regBase + o) = false) (ok : (s.fwHart k).pmpOk 3 .load (Config.regBase + o) 8 = true) (rd : Nat) :
    s.fwLoad k rd 8 false (Config.regBase + o) = s.putHart k ((s.fwHart k).put rd (s.regRead o).toNat) := by
  obtain ⟨regs, noFlash, noPcie, -⟩ := registerPlace ho
  have aligned : (Config.regBase + o) % 8 = 0 := by simp only [Config.regBase]; omega
  have goes := fwAt_register hm hp ho s (acc := .load) (.inl rfl)
  rw [if_pos ok] at goes
  simp [State.fwLoad, goes, aligned, hb, regs, noFlash, noPcie, hk, State.flashHeld, State.portDown, State.countForeign, State.regBytes, loadValue, leNat_leBytes_word]

theorem fwStore_register (hk : k < 16) (hb : s.rowBusy (Config.regBase + o) = false) (ok : (s.fwHart k).pmpOk 3 .store (Config.regBase + o) 8 = true) (v : Word) :
    s.fwStore k 8 (Config.regBase + o) v.toNat = s.regWrite .cp o v := by
  obtain ⟨regs, -, -, -⟩ := registerPlace ho
  have aligned : (Config.regBase + o) % 8 = 0 := by simp only [Config.regBase]; omega
  have goes := fwAt_register hm hp ho s (acc := .store) (.inr rfl)
  rw [if_pos ok] at goes
  simp [State.fwStore, goes, aligned, hb, regs, hk, State.regStore, leBytes_length, leNat_leBytes_word]

theorem fwStore_register_stopped (stop : (s.fwHart k).pmpOk 3 .store (Config.regBase + o) 8 = false) (v : Nat) :
    s.fwStore k 8 (Config.regBase + o) v = s.putHart k ((s.fwHart k).trap 7 (Config.regBase + o)) := by
  have aligned : (Config.regBase + o) % 8 = 0 := by simp only [Config.regBase]; omega
  have stopped := fwAt_register hm hp ho s (acc := .store) (.inr rfl)
  rw [if_neg (by simp only [stop, Bool.false_eq_true, not_false_eq_true]), if_neg (by decide)] at stopped
  simp [State.fwStore, stopped, aligned]

end

theorem csrRead_allowed {s : State} {k n : Nat} (rd : Nat) (hn : cpHasCsr n = true) (hm : n / 256 % 4 ≤ (s.fwHart k).mode) :
    s.csrRead k n rd = { s.putHart k ((s.fwHart k).put rd (s.cpCsr k n).toNat) with free := s.free + 1 } := by
  simp only [State.csrRead, csrBad_read hn hm, Bool.false_eq_true, if_false]

end Sys2Proof.Machine

/-! SUPPORT. Roles of banks (R201, R202): what giving a bank a role leaves, in its own field and in those of the other banks, and what taking effect does. -/

namespace Sys2Proof.Machine

/-- The role in effect is the field's, or the old one where a change is pending. -/
theorem bankEff_eq (s : State) (core bank : Nat) :
    s.bankEff core bank = if natsGet s.parts.oldRoles (32 * core + bank) = 0 then s.bankRole core bank else natsGet s.parts.oldRoles (32 * core + bank) - 1 := by
  unfold State.bankEff
  split
  · next h => rw [if_pos h]
  · next n h => rw [h, if_neg (Nat.succ_ne_zero n), Nat.succ_sub_one]

theorem setBank_reserved (s : State) (core bank : Nat) : s.setBank core bank 3 = s := by simp [State.setBank]

section
variable (s : State) (core : Nat) {bank role : Nat}

theorem bankRole_setBank_self (hb : bank < 32) (hr : role < 3) : (s.setBank core bank role).bankRole core bank = role := by
  simp only [State.setBank, if_neg (show role ≠ 3 by omega)]
  show fld (State.reg (s.setReg _ _) _) _ _ = role
  rw [reg_setReg_self, fld_setFld_self _ _ (by omega) (by omega), show 2 * bank + 1 + 1 - 2 * bank = 2 by omega]
  omega

theorem bankEff_setBank_self (hk : keysFrom 0 s.parts.oldRoles = true) (hb : bank < 32) (hr : role < 3) :
    (s.setBank core bank role).bankEff core bank = s.bankEff core bank := by
  have now : natsGet (s.setBank core bank role).parts.oldRoles (32 * core + bank) = if role = s.bankEff core bank then 0 else s.bankEff core bank + 1 := by
    simp only [State.setBank, if_neg (show role ≠ 3 by omega)]
    exact natsGet_natsPut_self _ _ hk
  rw [bankEff_eq, now, bankRole_setBank_self s core hb hr]
  by_cases h : role = s.bankEff core bank <;> simp [h]

/-- Another bank of the core keeps its field and its role in effect. -/
theorem setBank_other {other : Nat} (hb : bank < 32) (hne : other ≠ bank) :
    (s.setBank core bank role).bankRole core other = s.bankRole core other ∧ (s.setBank core bank role).bankEff core other = s.bankEff core other := by
  by_cases h3 : role = 3
  · rw [h3, setBank_reserved]
    exact ⟨rfl, rfl⟩
  have field : (s.setBank core bank role).bankRole core other = s.bankRole core other := by
    simp only [State.setBank, if_neg h3]
    show fld (State.reg (s.setReg _ _) _) _ _ = _
    rw [reg_setReg_self, fld_setFld_of_disjoint _ _ (by omega) (by omega) (by omega)]
    rfl
  have old : natsGet (s.setBank core bank role).parts.oldRoles (32 * core + other) = natsGet s.parts.oldRoles (32 * core + other) := by
    simp only [State.setBank, if_neg h3]
    exact natsGet_natsPut_ne _ _ (by omega)
  exact ⟨field, by rw [bankEff_eq, bankEff_eq, old, field]⟩

theorem keysFrom_setBank (hk : keysFrom 0 s.parts.oldRoles = true) : keysFrom 0 (s.setBank core bank role).parts.oldRoles = true := by
  by_cases h3 : role = 3
  · rwa [h3, setBank_reserved]
  · simp only [State.setBank, if_neg h3]
    exact keysFrom_natsPut _ hk (Nat.zero_le _)

end

/-- The state once the first n banks of a core have been given the roles of a written value. -/
def State.bankRolesTo (s : State) (core : Nat) (v : Word) (n : Nat) : State :=
  (List.range n).foldl (fun t b => t.setBank core b (fld v (2 * b + 1) (2 * b))) s

theorem bankRolesTo_succ (s : State) (core : Nat) (v : Word) (n : Nat) :
    s.bankRolesTo core v (n + 1) = (s.bankRolesTo core v n).setBank core n (fld v (2 * n + 1) (2 * n)) := by
  simp [State.bankRolesTo, List.range_succ]

/-- The role that a written value gives a bank: a field of 3 leaves the role as it stood (R201). -/
def writtenRole (v : Word) (bank old : Nat) : Nat := if fld v (2 * bank + 1) (2 * bank) = 3 then old else fld v (2 * bank + 1) (2 * bank)

theorem setBank_field (s : State) (core : Nat) (v : Word) {bank : Nat} (hk : keysFrom 0 s.parts.oldRoles = true) (hb : bank < 32) :
    let t := s.setBank core bank (fld v (2 * bank + 1) (2 * bank))
    t.bankEff core bank = s.bankEff core bank ∧ t.bankRole core bank = writtenRole v bank (s.bankRole core bank) := by
  have hlt := fld_lt v (2 * bank + 1) (2 * bank)
  rw [show 2 * bank + 1 + 1 - 2 * bank = 2 by omega] at hlt
  unfold writtenRole
  by_cases h3 : fld v (2 * bank + 1) (2 * bank) = 3
  · simp only [h3, setBank_reserved, if_true, and_self]
  · have hr : fld v (2 * bank + 1) (2 * bank) < 3 := by omega
    rw [if_neg h3]
    exact ⟨bankEff_setBank_self s core hk hb hr, bankRole_setBank_self s core hb hr⟩

/-- Of the first n banks each has its new role and the same role in effect; the banks after them stand as they did. -/
theorem bankRolesTo_spec (s : State) (core : Nat) (v : Word) (hk : keysFrom 0 s.parts.oldRoles = true) {n : Nat} (hn : n ≤ 32) :
    keysFrom 0 (s.bankRolesTo core v n).parts.oldRoles = true ∧
    ∀ b, (s.bankRolesTo core v n).bankEff core b = s.bankEff core b ∧
      (s.bankRolesTo core v n).bankRole core b = if b < n then writtenRole v b (s.bankRole core b) else s.bankRole core b := by
  induction n with
  | zero => exact ⟨hk, fun b => ⟨rfl, rfl⟩⟩
  | succ n ih =>
    obtain ⟨keys, spec⟩ := ih (by omega)
    rw [bankRolesTo_succ]
    refine ⟨keysFrom_setBank _ _ keys, fun b => ?_⟩
    obtain ⟨eff, role⟩ := spec b
    by_cases hbn : b = n
    · subst hbn
      obtain ⟨eff', role'⟩ := setBank_field (s.bankRolesTo core v b) core v (bank := b) keys (by omega)
      rw [if_neg (Nat.lt_irrefl b)] at role
      rw [eff', role', eff, role, if_pos (Nat.lt_succ_self b)]
      exact ⟨rfl, rfl⟩
    · obtain ⟨role', eff'⟩ := setBank_other (s.bankRolesTo core v n) core (role := fld v (2 * n + 1) (2 * n)) (by omega) hbn
      rw [eff', role', eff, role]
      exact ⟨rfl, if_congr (by omega) rfl rfl⟩

/-- A write of CORE_BANK_ROLE: each field stands at once, no role comes into effect. -/
theorem bankRoles_spec (s : State) (core : Nat) (v : Word) (hk : keysFrom 0 s.parts.oldRoles = true) {b : Nat} (hb : b < 32) :
    (s.bankRoles core v).bankEff core b = s.bankEff core b ∧ (s.bankRoles core v).bankRole core b = writtenRole v b (s.bankRole core b) := by
  obtain ⟨-, spec⟩ := bankRolesTo_spec s core v hk (le_refl 32)
  have bank := spec b
  rwa [if_pos hb] at bank

/-- A bank whose entry of pending roles is gone has the role of its field in effect. -/
theorem bank_settled {s t : State} {core bank : Nat} (hk : keysFrom 0 s.parts.oldRoles = true) (hregs : t.regs = s.regs)
    (hold : t.parts.oldRoles = natsPut s.parts.oldRoles (32 * core + bank) 0) :
    t.bankEff core bank = s.bankRole core bank ∧ t.bankPending core bank = false := by
  have noEntry := natsGet_natsPut_self (32 * core + bank) 0 hk
  rw [bankEff_eq, State.bankPending, hold, noEntry]
  exact ⟨by simp only [State.bankRole, State.reg, hregs, if_true], rfl⟩

/-- A pending role of a free bank takes effect: the lines of the core's L1 go where the bank leaves or enters the cache role. -/
theorem exec_bankRoleEffect {s : State} {core : Nat} {b : Fin 32} (hk : keysFrom 0 s.parts.oldRoles = true) (hp : s.bankPending core b.val = true)
    (hf : s.bankFree core b.val = true) :
    ∃ t, exec (.bankRoleEffect core b) s = .next t ∧ t.bankEff core b.val = s.bankRole core b.val ∧ t.bankPending core b.val = false ∧
      t.l1 = if s.bankEff core b.val = 0 ∨ s.bankRole core b.val = 0 then s.l1.filter (fun l => !(l.core == core)) else s.l1 := by
  simp only [exec, execBankRoleEffect, hp, hf, Bool.not_true, Bool.or_self, Bool.false_eq_true, if_false]
  refine ⟨_, rfl, ?_⟩
  rw [← and_assoc]
  refine ⟨bank_settled hk ?_ ?_, ?_⟩
  · split <;> rfl
  · split <;> rfl
  · simp only [apply_ite State.l1]
    rfl

end Sys2Proof.Machine

/-! SUPPORT. Host-die harts (R87, R115, R116, R238): when a step of one runs, and what an access that lies in one line does. -/

namespace Sys2Proof.Machine

theorem host_onHost_self (s : State) (k : Nat) (f : HostHart → HostHart) : (s.onHost k f).host k = f (s.host k) := by
  simp [State.host, State.onHost, mapGet_mapPut_self]

/-- A step of a host-die hart that runs: the die is released, there is such a hart, and nothing makes it wait. -/
structure HostRuns (s : State) (a : HostAccess) : Prop where
  released : (s.reg 0x50).getLsbD 0 = true
  hart : a.hart < 64
  goes : s.hostWaits a = false

theorem HostRuns.guard {s : State} {a : HostAccess} (h : HostRuns s a) :
    (!(s.reg 0x50).getLsbD 0 || decide (64 ≤ a.hart) || s.hostWaits a) = false := by
  obtain ⟨released, hart, goes⟩ := h
  simp only [released, goes, Bool.not_true, Bool.false_or, Bool.or_false, decide_eq_false_iff_not, not_le]
  exact hart

theorem exec_host_unreleased (s : State) (a : HostAccess) (h : (s.reg 0x50).getLsbD 0 = false) : exec (.hostHartAccess a) s = .next s := by
  simp only [exec, execHostHartAccess, h, Bool.not_false, Bool.true_or, if_true]

theorem exec_host_waits {s : State} {a : HostAccess} (h : s.hostWaits a = true) : exec (.hostHartAccess a) s = .next s := by
  simp only [exec, execHostHartAccess, h, Bool.or_true, if_true]

/-- An acquire that waits for its value, and a release or a FENCE of writes behind earlier writes, make a hart wait (R116, R238). -/
theorem hostWaits_of_order {s : State} {a : HostAccess}
    (h : s.hostAcquires a.hart = true ∨ ((a.rel = true ∨ a.op = .fence true) ∧ s.hostFlies a.hart = true)) : s.hostWaits a = true := by
  obtain h | ⟨h | h, flies⟩ := h
  · simp only [State.hostWaits, h, Bool.true_or]
  · simp only [State.hostWaits, h, flies, Bool.and_self, Bool.true_or, Bool.or_true]
  · simp only [State.hostWaits, h, flies, if_true, Bool.or_true]

/-! ### An access that lies in one line -/

theorem lineCuts_one_line {va n : Nat} (hn : 0 < n) (hl : va % 128 + n ≤ 128) : lineCuts va n = [(va, n)] := by
  obtain ⟨m, rfl⟩ := Nat.exists_eq_succ_of_ne_zero (Nat.pos_iff_ne_zero.mp hn)
  have all : min (128 - va % 128) (m + 1) = m + 1 := by omega
  have rest : m + 1 - (128 - va % 128) = 0 := by omega
  simp [lineCuts, cutLines, List.take_replicate, List.drop_replicate, all, rest]

/-- What the one piece of an access in one line meets. -/
def HostAt.span (va n : Nat) : HostAt → HostSpan
  | .ok pa pbmt => .ok [(pa, pbmt, n)]
  | .waits => .waits
  | .fault cause => .fault cause va

theorem hostPieces_one_line {s : State} {a : HostAccess} {n : Nat} (acc : Acc) (hn : 0 < n) (hl : a.va % 128 + n ≤ 128) :
    s.hostPieces a acc n = (s.hostAt (s.host a.hart) a.ctx acc a.va).span a.va n := by
  rw [State.hostPieces, lineCuts_one_line hn hl, State.hostSpan]
  cases s.hostAt (s.host a.hart) a.ctx acc a.va <;> rfl

/-- The accesses of n bytes that go through a hart's tables piece by piece: a load, an instruction fetch, a store. -/
def HostMoves (a : HostAccess) (acc : Acc) (n : Nat) : Prop :=
  (∃ bank signed, a.op = .load bank n signed ∧ acc = .load) ∨ (a.op = .fetch n ∧ acc = .fetch) ∨ ∃ d, a.op = .store d ∧ d.length = n ∧ acc = .store

/-! ### Loads, fetches and stores -/

section
variable {s : State} {a : HostAccess} (hr : HostRuns s a)
include hr

theorem exec_host_load {bank : HostBank} {n : Nat} {signed : Bool} (ho : a.op = .load bank n signed) :
    exec (.hostHartAccess a) s = .next (s.hostLoad a .load n fun _ d h => h.put bank a.rd (loadValue bank signed d)) := by
  simp only [exec, execHostHartAccess, hr.guard, ho, Bool.false_eq_true, if_false]

theorem exec_host_fetch {n : Nat} (ho : a.op = .fetch n) :
    exec (.hostHartAccess a) s = .next (s.hostLoad a .fetch n fun _ _ h => { h with pc := a.va }) := by
  simp only [exec, execHostHartAccess, hr.guard, ho, Bool.false_eq_true, if_false]

theorem exec_host_store {d : List Byte} (ho : a.op = .store d) : exec (.hostHartAccess a) s = .next (s.hostStore a d) := by
  simp only [exec, execHostHartAccess, hr.guard, ho, Bool.false_eq_true, if_false]

theorem exec_host_fault {acc : Acc} {n cause va : Nat} (ha : HostMoves a acc n) (hp : s.hostPieces a acc n = .fault cause va) :
    exec (.hostHartAccess a) s = .next (s.hostTrap a.hart cause va) := by
  obtain ⟨bank, signed, ho, rfl⟩ | ⟨ho, rfl⟩ | ⟨d, ho, rfl, rfl⟩ := ha
  · rw [exec_host_load hr ho, State.hostLoad, hp]
  · rw [exec_host_fetch hr ho, State.hostLoad, hp]
  · rw [exec_host_store hr ho, State.hostStore, hp]

theorem exec_host_held {acc : Acc} {n : Nat} (ha : HostMoves a acc n) (hp : s.hostPieces a acc n = .waits) : exec (.hostHartAccess a) s = .next s := by
  obtain ⟨bank, signed, ho, rfl⟩ | ⟨ho, rfl⟩ | ⟨d, ho, rfl, rfl⟩ := ha
  · rw [exec_host_load hr ho, State.hostLoad, hp]
  · rw [exec_host_fetch hr ho, State.hostLoad, hp]
  · rw [exec_host_store hr ho, State.hostStore, hp]

/-- A store in one line of memory leaves its hart as one transaction. -/
theorem exec_host_store_line {d : List Byte} {pa pbmt : Nat} (ho : a.op = .store d) (hp : s.hostPieces a .store d.length = .ok [(pa, pbmt, d.length)])
    (hregs : inRegs pa = false) (hpcie : inPcie pa = false) :
    exec (.hostHartAccess a) s =
      .next { s with inflight := s.inflight ++ [⟨none, .post a.hart, lineOf pa, .bytes (d.length == 64 && a.va % 64 == 0) (partsFrom pa d), false⟩] } := by
  simp [exec_host_store hr ho, State.hostStore, hp, State.hostPart, hregs, hpcie, State.send]

end

/-- What a load or fetch at one place of memory leaves: the bytes as the hart sees them, whether they are poisoned, and what the read is to do with them; but for the hart, only
registers that count reads of foreign flash (R90, R112). -/
theorem hostLoad_line {s : State} {a : HostAccess} {acc : Acc} {n pa pbmt : Nat} (put : List (Nat × Nat × Nat) → List Byte → HostHart → HostHart)
    (hp : s.hostPieces a acc n = .ok [(pa, pbmt, n)]) (hregs : inRegs pa = false) (hpcie : inPcie pa = false) (hatoms : s.hostAtoms a.hart = []) :
    let t := s.hostLoad a acc n put
    let d := bytesFrom (s.hostByte a.hart (s.ctxOwner a.ctx)) pa n
    t.host a.hart = put [(pa, pbmt, n)] d { s.host a.hart with got := d, bad := (linesIn pa n).any (s.poisonAt (s.ctxOwner a.ctx)) } ∧
      t = { s with regs := t.regs, hub := { s.hub with hosts := t.hub.hosts } } := by
  have counted : ∃ regs, s.countForeign (s.ctxOwner a.ctx) pa = { s with regs := regs } := by
    unfold State.countForeign
    split
    · exact ⟨_, rfl⟩
    · exact ⟨s.regs, rfl⟩
  obtain ⟨regs, counted⟩ := counted
  have loaded : s.hostLoad a acc n put = (s.countForeign (s.ctxOwner a.ctx) pa).onHost a.hart fun h =>
      put [(pa, pbmt, n)] (bytesFrom (s.hostByte a.hart (s.ctxOwner a.ctx)) pa n)
        { h with got := bytesFrom (s.hostByte a.hart (s.ctxOwner a.ctx)) pa n, bad := (linesIn pa n).any (s.poisonAt (s.ctxOwner a.ctx)) } := by
    simp [State.hostLoad, hp, hatoms, State.hostBytes, State.hostRead, hregs, hpcie]
  rw [counted] at loaded
  rw [loaded]
  exact ⟨host_onHost_self _ _ _, rfl⟩

section
variable {s : State} {a : HostAccess} {n pa pbmt : Nat} {acc : Acc} (hr : HostRuns s a) (hp : s.hostPieces a acc n = .ok [(pa, pbmt, n)])
  (hregs : inRegs pa = false) (hpcie : inPcie pa = false) (hatoms : s.hostAtoms a.hart = [])
include hr hp hregs hpcie hatoms

/-- A load in one line of memory fills its register with the bytes that the hart sees. -/
theorem exec_host_load_line {bank : HostBank} {signed : Bool} (hacc : acc = .load) (ho : a.op = .load bank n signed) {x : HostHart}
    (hx : x = { s.host a.hart with got := bytesFrom (s.hostByte a.hart (s.ctxOwner a.ctx)) pa n, bad := (linesIn pa n).any (s.poisonAt (s.ctxOwner a.ctx)) }) :
    ∃ t, exec (.hostHartAccess a) s = .next t ∧ t.host a.hart = x.put bank a.rd (loadValue bank signed x.got) ∧
      t = { s with regs := t.regs, hub := { s.hub with hosts := t.hub.hosts } } := by
  subst hx hacc
  exact ⟨_, exec_host_load hr ho, hostLoad_line _ hp hregs hpcie hatoms⟩

theorem exec_host_fetch_line (hacc : acc = .fetch) (ho : a.op = .fetch n) {x : HostHart}
    (hx : x = { s.host a.hart with got := bytesFrom (s.hostByte a.hart (s.ctxOwner a.ctx)) pa n, bad := (linesIn pa n).any (s.poisonAt (s.ctxOwner a.ctx)) }) :
    ∃ t, exec (.hostHartAccess a) s = .next t ∧ t.host a.hart = { x with pc := a.va } ∧
      t = { s with regs := t.regs, hub := { s.hub with hosts := t.hub.hosts } } := by
  subst hx hacc
  exact ⟨_, exec_host_fetch hr ho, hostLoad_line _ hp hregs hpcie hatoms⟩

end

/-! ### Atomics and reservations -/

theorem got_put (h : HostHart) (bank : HostBank) (rd v : Nat) : (h.put bank rd v).got = h.got := by
  unfold HostHart.put
  split
  · split <;> rfl
  · rfl
  · rfl

theorem line_of_amoOk {n va : Nat} (h : amoOk n va = true) : 0 < n ∧ va % 128 + n ≤ 128 := by
  simp only [amoOk, Bool.and_eq_true, Bool.or_eq_true, beq_iff_eq] at h
  obtain ⟨rfl | rfl, aligned⟩ := h <;> omega

section
variable {s : State} {a : HostAccess} (hr : HostRuns s a)
include hr

theorem exec_host_amo {op : Fin 9} {n v : Nat} (ho : a.op = .amo op n v) : exec (.hostHartAccess a) s = .next (s.hostAtom a op n v) := by
  simp only [exec, execHostHartAccess, hr.guard, ho, Bool.false_eq_true, if_false]

theorem exec_host_amo_misaligned {op : Fin 9} {n v : Nat} (ho : a.op = .amo op n v) (hal : amoOk n a.va = false) :
    exec (.hostHartAccess a) s = .next (s.hostTrap a.hart 6 a.va) := by
  simp only [exec_host_amo hr ho, State.hostAtom, hal, Bool.not_false, if_true]

theorem exec_host_amo_leaves {op : Fin 9} {n v pa pbmt : Nat} (ho : a.op = .amo op n v) (hal : amoOk n a.va = true)
    (hat : s.hostAt (s.host a.hart) a.ctx .atomic a.va = .ok pa pbmt) (hio : pbmt ≠ 2) :
    exec (.hostHartAccess a) s = .next { s with inflight := s.inflight ++ [⟨none, .post a.hart, lineOf pa,
      .atom (some (hostTag a.rd (n == 4) a.aq)) (hostAmo op).1 (hostTy n (hostAmo op).2) [⟨⟨0, .mem, pa, a.va, pbmt, 0, false, 1⟩, BitVec.ofNat 64 v, 0⟩], false⟩] } := by
  simp only [exec_host_amo hr ho, State.hostAtom, hal, hat, Bool.not_true, Bool.false_eq_true, if_false, if_neg hio, State.send]

theorem exec_host_lr {n : Nat} (ho : a.op = .lr n) (hal : amoOk n a.va = true) :
    exec (.hostHartAccess a) s = .next (s.hostLoad a .load n fun ps d h =>
      { h.put .x a.rd (loadValue .x true d) with resv := ps.head?.map fun p => (p.1, n) }) := by
  simp only [exec, execHostHartAccess, hr.guard, ho, hal, Bool.not_true, Bool.false_eq_true, if_false]

/-- A load-reserved reserves the place that it reads. -/
theorem exec_host_lr_reserves {n pa pbmt : Nat} (ho : a.op = .lr n) (hal : amoOk n a.va = true) (hat : s.hostAt (s.host a.hart) a.ctx .load a.va = .ok pa pbmt)
    (hregs : inRegs pa = false) (hpcie : inPcie pa = false) (hatoms : s.hostAtoms a.hart = []) :
    ∃ t, exec (.hostHartAccess a) s = .next t ∧ (t.host a.hart).resv = some (pa, n) ∧
      (t.host a.hart).got = bytesFrom (s.hostByte a.hart (s.ctxOwner a.ctx)) pa n := by
  obtain ⟨hn, hl⟩ := line_of_amoOk hal
  have hp : s.hostPieces a .load n = .ok [(pa, pbmt, n)] := by rw [hostPieces_one_line .load hn hl, hat]; rfl
  refine ⟨_, exec_host_lr hr ho hal, ?_⟩
  obtain ⟨hart, -⟩ := hostLoad_line _ hp hregs hpcie hatoms
  rw [hart]
  exact ⟨rfl, got_put _ _ _ _⟩

/-- A store-conditional of a hart with no write on its way: it writes where its reservation stands, and gives 1 where it does not. -/
theorem exec_host_sc {n v pa pbmt : Nat} (ho : a.op = .sc n v) (hal : amoOk n a.va = true)
    (hat : s.hostAt (s.host a.hart) a.ctx .store a.va = .ok pa pbmt) (hio : pbmt ≠ 2) (hrow : s.rowBusy pa = false)
    (hown : ∀ f ∈ s.inflight, f.owner ≠ .post a.hart) :
    exec (.hostHartAccess a) s = .next (if (s.host a.hart).resv = some (pa, n)
      then (s.visible none false (partsFrom pa (leBytes n v)) false).onHost a.hart fun h => { h.put .x a.rd 0 with resv := none }
      else s.onHost a.hart fun h => { h.put .x a.rd 1 with resv := none }) := by
  have noneFlies : (s.inflight.any fun f => f.owner == .post a.hart && f.line == lineOf pa) = false := by
    simp only [List.any_eq_false, Bool.and_eq_true, beq_iff_eq, not_and]
    exact fun f hf howner => absurd howner (hown f hf)
  simp only [exec, execHostHartAccess, hr.guard, ho, Bool.false_eq_true, if_false, State.hostSc, hal, hat, Bool.not_true, if_neg hio, noneFlies, hrow, Bool.or_self]

/-! ### Fences, CSRs, returns, interrupts -/

theorem exec_host_fence {w : Bool} (ho : a.op = .fence w) : exec (.hostHartAccess a) s = .next (s.onHost a.hart fun h => { h with fences := h.fences + 1 }) := by
  simp only [exec, execHostHartAccess, hr.guard, ho, Bool.false_eq_true, if_false]

theorem exec_host_csrRead {n : Nat} (ho : a.op = .csrRead n) : exec (.hostHartAccess a) s = .next (s.hostCsrOp a n none) := by
  simp only [exec, execHostHartAccess, hr.guard, ho, Bool.false_eq_true, if_false]

theorem exec_host_csrWrite {n : Nat} {v : Word} (ho : a.op = .csrWrite n v) : exec (.hostHartAccess a) s = .next (s.hostCsrOp a n (some v)) := by
  simp only [exec, execHostHartAccess, hr.guard, ho, Bool.false_eq_true, if_false]

theorem exec_host_ret {m : Bool} (ho : (a.op = .mret ∧ m = true) ∨ (a.op = .sret ∧ m = false)) :
    exec (.hostHartAccess a) s = .next (s.onHost a.hart fun h => h.ret m) := by
  obtain ⟨ho, rfl⟩ | ⟨ho, rfl⟩ := ho <;> simp only [exec, execHostHartAccess, hr.guard, ho, Bool.false_eq_true, if_false]

theorem exec_host_msi {i id : Nat} (ho : a.op = .msi i) (hi : s.hub.msis[i]? = some id) :
    ∃ t, exec (.hostHartAccess a) s = .next t ∧ (t.host a.hart).eip = insNat id (s.host a.hart).eip ∧ t.hub.msis = s.hub.msis.eraseIdx i := by
  simp only [exec, execHostHartAccess, hr.guard, ho, hi, Bool.false_eq_true, if_false]
  refine ⟨_, rfl, ?_, rfl⟩
  rw [host_onHost_self]
  rfl

theorem exec_host_compute {bank : HostBank} {w pc : Nat} (ho : a.op = .compute bank w pc) :
    exec (.hostHartAccess a) s = .next (s.onHost a.hart fun h => { h.put bank a.rd w with pc := pc }) := by
  simp only [exec, execHostHartAccess, hr.guard, ho, Bool.false_eq_true, if_false]

/-- A CSR instruction that the mode forbids is an exception. -/
theorem exec_host_csr_forbidden {n c : Nat} {v : Word} {w : Bool} (ho : (a.op = .csrRead n ∧ w = false) ∨ (a.op = .csrWrite n v ∧ w = true))
    (hbad : (s.host a.hart).csrBad n w = some c) : exec (.hostHartAccess a) s = .next (s.hostTrap a.hart c 0) := by
  obtain ⟨ho, rfl⟩ | ⟨ho, rfl⟩ := ho
  · simp only [exec_host_csrRead hr ho, State.hostCsrOp, Option.isSome_none, hbad]
  · simp only [exec_host_csrWrite hr ho, State.hostCsrOp, Option.isSome_some, hbad]

end

theorem hostCsrOp_read {s : State} {a : HostAccess} {n : Nat} (h : (s.host a.hart).csrBad n false = none) :
    s.hostCsrOp a n none = { (s.onHost a.hart fun h => h.put .x a.rd (s.hostCsr a.hart n).toNat) with free := s.free + 1 } := by
  simp only [State.hostCsrOp, Option.isSome_none, h]

theorem hostCsrOp_write {s : State} {a : HostAccess} {n : Nat} {v : Word} (h : (s.host a.hart).csrBad n true = none) :
    s.hostCsrOp a n (some v) = s.hostCsrWrite a.hart n v := by
  simp only [State.hostCsrOp, Option.isSome_some, h]

end Sys2Proof.Machine

/-! SUPPORT. O59: device registers and the host. -/

namespace Sys2Proof.Machine

/-- The clause on writes by a party on the bus. -/
theorem registerWrite_byParty (s : State) (p : Party) (o : Nat) (v : Word) (h8 : o % 8 = 0) (hr : o < 2 ^ 32) (hp : OnBus p) :
    let a := Config.regBase + o
    (regExists o = false → exec (.registerWrite p a v) s = .next s) ∧
    (∀ t < 64, o = 0x400 + 8 * t → ∃ u, exec (.registerWrite p a v) s = .next u ∧ fld (u.reg o) 55 0 = fld (s.reg o) 55 0 ∧ (∀ q, q ≠ o → u.reg q = s.reg q) ∧
      fld (u.reg o) 63 56 = (if p = .cp then fld v 63 56 else fld (s.reg o) 63 56)) ∧
    (∀ n < 256, o = 0x1800 + 8 * n → ∃ u, exec (.registerWrite p a v) s = .next u ∧ u.reg o = (if p = .cp then v else s.reg o) ∧ ∀ q, q ≠ o → u.reg q = s.reg q) ∧
    (∀ c < 1536, o = 0x20000010 + 0x1000 * c → ∃ u, exec (.registerWrite p a v) s = .next u ∧ fld (u.reg o) 63 8 = fld v 63 8 ∧ fld (u.reg o) 7 0 = fld (s.reg o) 7 0 ∧ ∀ q, q ≠ o → u.reg q = s.reg q) ∧
    (∀ c < 1536, o = 0x20000000 + 0x1000 * c → p ≠ .cp → exec (.registerWrite p a v) s = .next s) := by
  simp only [exec_registerWrite_onBus v h8 hr hp]
  refine ⟨fun hno => by rw [regWrite_of_no_register p v hno], fun t ht ho => ⟨_, rfl, ?_⟩, fun n hn ho => ⟨_, rfl, ?_⟩, fun c hc ho => ⟨_, rfl, ?_⟩, fun c hc ho hcp => ?_⟩
  · rw [regWrite_shareWeight s p v h8 (by omega) (by omega)]
    split
    · rw [reg_putFields_self]
      exact ⟨fld_take_of_disjoint _ _ (by omega) (by omega) (by omega), fun q hq => reg_putFields_ne s v _ hq, fld_take_self _ _ (by omega) (by omega)⟩
    · exact ⟨rfl, fun _ _ => rfl, rfl⟩
  · rw [regWrite_partMask s p v h8 (by omega) (by omega)]
    split
    · exact ⟨reg_setReg_self s o v, fun q hq => reg_setReg_ne s v hq⟩
    · exact ⟨rfl, fun _ _ => rfl⟩
  · have fields : s.regWrite p o v = s.putFields o v [(63, 8)] := by
      rw [show o = 0x20000000 + 0x1000 * c + 0x10 by omega, regWrite_core hc s p v (.inr rfl), if_neg (by decide)]
    rw [fields, reg_putFields_self]
    exact ⟨fld_take_self _ _ (by omega) (by omega), fld_take_of_disjoint _ _ (by omega) (by omega) (by omega), fun q hq => reg_putFields_ne s v _ hq⟩
  · have nothing := regWrite_core hc s p v (.inl rfl)
    rw [Nat.add_zero, ← ho, if_pos rfl, if_neg hcp] at nothing
    rw [nothing]

/-- The clause on a hart's write of a CSR. -/
theorem csrWrite_clause (s : State) (k n : Nat) (v : Word) (hk : k < 32) :
    let h := s.fwHart k
    let views := [0x100, 0x104, 0x144, 0x320]
    let t := s.csrWrite k n v
    (cpHasCsr n = false ∨ h.mode < n / 256 % 4 → h.mode = 3 ∨ (h.csr 0x302).getLsbD 2 = false →
        (t.fwHart k).pc = fld (h.csr 0x305) 63 2 * 4 ∧ (t.fwHart k).mode = 3 ∧ (t.fwHart k).csr 0x342 = 2 ∧ (t.fwHart k).csr 0x341 = BitVec.ofNat 64 h.pc ∧ t = { s with cp := t.cp }) ∧
      (h.mode = 3 → (n ∈ [0xFC0, 0xFC1, 0xFC2] → t = s) ∧ (n = 0x7C0 → t.cpCsr k n = wordOf [(12, fld v 55 12)] ∧ (t.fwHart k).chkpt = fld v 55 12 * 4096) ∧
        (n = 0xB00 ∨ (n ∈ stdCsrs ∧ n ∉ views ∧ n < 0x3A0) → t.cpCsr k n = v ∧ t = { s with cp := t.cp })) := by
  refine ⟨fun hbad htaken => ?_, fun hm => ⟨fun hn => csrWrite_vendor_readOnly hk hm v hn, ?_, ?_⟩⟩
  · have trapped := machineTrapped_trap 0 htaken
    simp only [csrWrite_forbidden hk v hbad, fwHart_putHart_self]
    exact ⟨trapped.pc, trapped.mode, trapped.mcause, trapped.mepc, rfl⟩
  · rintro rfl
    simp only [csrWrite_chkpt hk hm, cpCsr_chkpt, fwHart_putHart_self, csr_setCsr_self, FwHart.chkpt, fld_wordOf_address (fld_lt v 55 12), and_self]
  · rintro (rfl | plain)
    · simp only [csrWrite_mcycle hk hm, cpCsr_mcycle_written, true_and]
      rfl
    · have hn := mem_plainCsrs.mpr plain
      simp only [csrWrite_plain v hk hm hn, cpCsr_plain hn, fwHart_putHart_self, csr_setCsr_self, true_and]
      rfl

/-- Settles O59: each clause is the rule of the operation it speaks of. -/
theorem registersAndHost : Obligations.RegistersAndHost := by
  refine ⟨registerWrite_byParty, fun s k n v hk => ⟨_, rfl, csrWrite_clause s k n v hk⟩, ?csrLoad, ?device, ?steps, ?roles, ?effect, exec_host_unreleased, ?fences, ?moves, ?atoms, ?privileged⟩
  case csrLoad =>
    intro s k rd n h hk hstage h0 h32 hx hn hm
    refine ⟨_, exec_csrLoad ⟨hk, hstage⟩ rd n 0, ?_⟩
    rw [csrRead_allowed rd hn hm]
    exact ⟨(congrArg (fun h => h.get rd) (fwHart_putHart_self s k _)).trans (get_put_self h0 h32 (s.cpCsr k n).isLt hx), rfl⟩
  case device =>
    intro s k rd o v h a hk hstage hm hp h8 ho hb
    have runs : FwRuns s k := ⟨by omega, by rw [if_pos hk]; exact hstage⟩
    refine ⟨fun ok h0 h32 hx => ⟨_, exec_fwLoad runs rd 8 false a v, ?_⟩, fun ok => ?_, fun stop => ⟨_, exec_fwStore runs 8 a v, ?_⟩⟩
    · rw [fwLoad_register hm hp h8 ho hk hb ok rd, fwHart_putHart_self]
      exact get_put_self h0 h32 (s.regRead o).isLt hx
    · rw [exec_fwStore runs, fwStore_register hm hp h8 ho hk hb ok v, exec_registerWrite_onBus v h8 ho (.inl rfl)]
    · have trapped := machineTrapped_trap a (cause := 7) (.inl hm)
      rw [fwStore_register_stopped hm hp h8 ho stop, fwHart_putHart_self]
      exact ⟨trapped.pc, trapped.mcause, trapped.mtval, rfl⟩
  case steps =>
    intro s k pc rd m v h hk hstage
    have runs : FwRuns s k := ⟨hk, hstage⟩
    refine ⟨exec_fwCompute runs rd pc v, fun hm => ⟨_, exec_fwRet runs true m v, ?_⟩⟩
    rw [fwHart_putHart_self]
    exact ret_machine hm
  case roles =>
    intro s core v hc hk
    refine ⟨s.bankRoles core v, by simp only [exec, execBankRoleWrite, if_pos (show core < Config.cores from hc)], fun b hb => ?_⟩
    exact bankRoles_spec s core v hk hb
  case effect =>
    intro s core b hk hp hf
    obtain ⟨t, ran, eff, pending, l1⟩ := exec_bankRoleEffect hk hp hf
    refine ⟨t, ran, eff, pending, fun cache l hl => ?_, fun ⟨hold, hnew⟩ => ?_⟩
    · rw [l1, if_pos cache] at hl
      simpa using (List.mem_filter.mp hl).2
    · rw [l1, if_neg (by tauto)]
  case fences =>
    intro s a released hart
    exact ⟨fun order => exec_host_waits (hostWaits_of_order order), fun goes w ho => exec_host_fence ⟨released, hart, goes⟩ ho⟩
  case moves =>
    intro s a pa pbmt n acc h released hart goes hn hl ha
    have runs : HostRuns s a := ⟨released, hart, goes⟩
    have pieces := hostPieces_one_line (s := s) acc hn hl
    refine ⟨fun cause hat => exec_host_fault runs ha (by rw [pieces, hat]; rfl), fun hat => exec_host_held runs ha (by rw [pieces, hat]; rfl), fun hat hregs hpcie => ?_⟩
    replace pieces := pieces.trans (congrArg (·.span a.va n) hat)
    refine ⟨fun d ho => ?store, fun x hx hatoms => ⟨fun bank signed ho => ?load, fun ho => ?fetch⟩⟩
    case store =>
      obtain ⟨rfl, rfl⟩ : d.length = n ∧ acc = .store := by simpa [HostMoves, ho] using ha
      exact exec_host_store_line runs ho pieces hregs hpcie
    case load =>
      have hacc : acc = .load := by simpa [HostMoves, ho] using ha
      exact exec_host_load_line runs pieces hregs hpcie hatoms hacc ho hx
    case fetch =>
      have hacc : acc = .fetch := by simpa [HostMoves, ho] using ha
      exact exec_host_fetch_line runs pieces hregs hpcie hatoms hacc ho hx
  case atoms =>
    intro s a pa pbmt n v h released hart goes
    have runs : HostRuns s a := ⟨released, hart, goes⟩
    exact ⟨fun op ho => ⟨exec_host_amo_misaligned runs ho, exec_host_amo_leaves runs ho⟩, exec_host_lr_reserves runs, exec_host_sc runs⟩
  case privileged =>
    intro s a n v h released hart goes
    have runs : HostRuns s a := ⟨released, hart, goes⟩
    refine ⟨fun ho hok => ?_, fun ho hok => ?_, fun c w => exec_host_csr_forbidden runs, fun m => exec_host_ret runs, fun i id => exec_host_msi runs, fun bank w pc => exec_host_compute runs⟩
    · rw [exec_host_csrRead runs ho, hostCsrOp_read hok]
    · rw [exec_host_csrWrite runs ho, hostCsrOp_write hok]

end Sys2Proof.Machine

/-! SUPPORT. Counters and fields of device registers that a step leaves as they were (R136, R284), and what a step that is repeated along a list keeps. -/

namespace Sys2Proof.Machine

/-- What every step along a list keeps, the whole list keeps. -/
theorem foldl_keeps {α σ β : Type} (f : σ → α → σ) (p : σ → β) (h : ∀ s x, p (f s x) = p s) (l : List α) (s : σ) : p (l.foldl f s) = p s := by
  induction l generalizing s with
  | nil => rfl
  | cons x r ih => rw [List.foldl_cons, ih, h]

/-- What a step along a list makes of a state as it stood before, and every other step keeps, stands at the end. -/
theorem foldl_reaches {α σ : Type} {f : σ → α → σ} {Q P : σ → Prop} (before : ∀ s y, Q s → Q (f s y)) (after : ∀ s y, P s → P (f s y)) {x : α}
    (made : ∀ s, Q s → P (f s x)) {l : List α} (hx : x ∈ l) {s : σ} (hs : Q s) : P (l.foldl f s) := by
  induction l generalizing s with
  | nil => simp at hx
  | cons y r ih =>
    obtain rfl | hx := List.mem_cons.mp hx
    · exact List.foldlRecOn r f (made s hs) fun t ht y _ => after t y ht
    · exact ih hx (before s y hs)

theorem setFld_fld (w : Word) {hi lo : Nat} (hhi : hi < 64) (hlo : lo ≤ hi) : setFld w hi lo (fld w hi lo) = w := by
  refine BitVec.eq_of_getLsbD_eq fun i _ => ?_
  rw [getLsbD_setFld w _ _ hhi hlo, testBit_fld]
  split
  · next h => rw [decide_eq_true (by omega), Bool.true_and, Nat.add_sub_cancel' h.1]
  · rfl

/-- A counter to which nothing is added stands. -/
theorem satAdd_zero (w : Word) {hi lo : Nat} (hhi : hi < 64) (hlo : lo ≤ hi) : satAdd w hi lo 0 = w := by
  rw [satAdd, Nat.add_zero, Nat.min_eq_left (Nat.le_sub_one_of_lt (fld_lt w hi lo)), setFld_fld w hhi hlo]

theorem byte_congr {s t : State} (mem : t.mem = s.mem) (unknown : t.memOpen = s.memOpen) (a : Nat) : t.byte a = s.byte a := by
  simp only [State.byte, mem, unknown]

/-! ### Spares counted in HUB_COPPICE_k (R284) -/

theorem reg_coppice (s : State) (k used unspared : Nat) :
    (s.coppice k used unspared).reg (0x200 + 8 * k) = satAdd (satAdd (s.reg (0x200 + 8 * k)) 39 16 used) 15 8 unspared := reg_setReg_self s _ _

end Sys2Proof.Machine

/-! SUPPORT. Halves of vertical links and bridges (R13 to R18): what replacing one leaves, the steps of one, and a half that goes down. -/

namespace Sys2Proof.Machine

theorem link_id (s : State) (id : LinkId) : (s.link id).id = id := by
  unfold State.link
  cases h : s.links.find? fun l => l.id == id with
  | none => rfl
  | some l => simpa using List.find?_some h

theorem link_congr {s t : State} (h : t.links = s.links) (id : LinkId) : t.link id = s.link id := by
  simp only [State.link, h]

theorem find?_links_putLink (s : State) (l : Link) (id : LinkId) :
    (s.putLink l).links.find? (fun x => x.id == id) = if id = l.id then some l else s.links.find? fun x => x.id == id := by
  have swap : (s.links.map fun x => if x.id = l.id then l else x) = s.links.map fun x => if x.id == l.id then l else x := by simp
  simp only [State.putLink]
  split
  · next there =>
    rw [swap, find?_map_put]
    split
    · next e =>
      obtain ⟨x, hx⟩ := Option.isSome_iff_exists.mp (List.find?_isSome.mpr (List.any_eq_true.mp there))
      rw [e, hx, Option.map_some]
    · rfl
  · next absent =>
    have none_has : s.links.find? (fun x => x.id == l.id) = none := by simpa using absent
    rw [List.find?_append]
    split
    · next e => simp [e, none_has]
    · next e => simp [Ne.symm e]

theorem link_putLink_self (s : State) (l : Link) : (s.putLink l).link l.id = l := by
  simp [State.link, find?_links_putLink]

theorem link_putLink_ne (s : State) (l : Link) {j : LinkId} (h : j ≠ l.id) : (s.putLink l).link j = s.link j := by
  simp [State.link, find?_links_putLink, h]

/-- A step leaves the half id as l, and everything else as it was. -/
structure OnlyLink (s t : State) (id : LinkId) (l : Link) : Prop where
  half : t.link id = l
  others : ∀ j, j ≠ id → t.link j = s.link j
  frame : t = { s with links := t.links }

theorem onlyLink_putLink (s : State) {id : LinkId} {l : Link} (h : l.id = id) : OnlyLink s (s.putLink l) id l := by
  subst h
  exact ⟨link_putLink_self s l, fun j hj => link_putLink_ne s l hj, rfl⟩

/-! ### Beats and acknowledgements (R13, R14) -/

/-- A half that has sent one beat more, and holds it. -/
def Link.send (l : Link) (b : Beat) : Link := { l with next := (l.next + 1) % 256, unacked := l.unacked ++ [b] }

theorem failedGroups_one {id : LinkId} {g k : Nat} (ours : g < dataGroups id ∨ g = 0xFE) : failedGroups id [(g, k)] = [g] := by
  have ok : groupOk id g = true := by simpa [groupOk, ctlGroup] using ours
  simp [failedGroups, ok, List.eraseDups_cons]

section
variable {s : State} {id : LinkId} {l : Link} (hl : s.link id = l) (there : linkExists id = true)
include hl there

theorem exec_vlinkBeatReceive_new {b : Beat} (up : l.state = 0) (next : b.seq = l.next) (room : l.unacked.length < 128)
    (fresh : ∀ x ∈ l.unacked, x.seq ≠ b.seq) (ok : beatOk id b = true) :
    exec (.vlinkBeatReceive id b) s = .next (s.putLink ((l.send b).receive b.ok b)) := by
  have unsent : l.unacked.find? (fun x => x.seq == b.seq) = none := by simpa using fresh
  have sends : ¬(b.seq ≠ l.next ∨ 128 ≤ l.unacked.length ∨ (!beatOk id b) = true) := by simp [next, room, ok]
  have goes : ¬((!linkExists id || l.state == 3) = true) := by simp [there, up]
  simp only [exec, execVlinkBeatReceive, hl, if_neg goes, unsent, if_neg sends]
  rfl

theorem exec_vlinkAckReceive_held {n i : Nat} {nak : Bool} (up : l.state ≠ 3) (held : (l.unacked.findIdx? fun x => x.seq == n) = some i)
    (had : i + 1 ≤ l.delivered) :
    exec (.vlinkAckReceive id n nak) s = .next (s.putLink { l with unacked := l.unacked.drop (if nak then i else i + 1) }) := by
  have upTo : min (if nak then i else i + 1) l.delivered = if nak then i else i + 1 := by split <;> omega
  simp [exec, execVlinkAckReceive, hl, there, up, held, upTo]

/-! ### Lane tests (R14 to R17) -/

/-- A test without a failed lane, and the end of retraining, go on to the replay or to the test of what was queued. -/
theorem exec_test_or_retrain_ends {i : Instr} (down : l.state = 1)
    (ends : (i = .laneTestDone id [] ∧ l.testing = true) ∨ (i = .laneRetrainDone id ∧ l.testing = false)) : exec i s = .next (s.putLink l.afterStep) := by
  obtain ⟨rfl, testing⟩ | ⟨rfl, testing⟩ := ends
  · simp [exec, execLaneTestDone, hl, there, down, testing, failedGroups]
  · simp [exec, execLaneRetrainDone, hl, there, down, testing]

theorem exec_laneTestDone_queued {g k : Nat} (ours : g < dataGroups id ∨ g = 0xFE) (busy : l.state = 1 ∨ l.state = 2) (testing : l.testing = false) :
    exec (.laneTestDone id [(g, k)]) s = .next (s.putLink { l with queued := true }) := by
  obtain st | st := busy <;> simp [exec, execLaneTestDone, hl, there, failedGroups_one ours, testing, st]

/-- One failed lane of a group whose spare is free takes the spare. -/
theorem exec_laneTestDone_spared {g k : Nat} (ours : g < dataGroups id ∨ g = 0xFE) (st : l.state = 1) (testing : l.testing = true)
    (width : l.width ≠ 3) (now : l.widthNow = l.width) (free : g ∉ l.spared) :
    exec (.laneTestDone id [(g, k)]) s = .next ((s.coppice 1 1 0).putLink { l with testing := false, spared := l.spared ++ [g] }) := by
  have holds : l.lost [(g, k)] g = false := by simp [Link.lost, free, List.eraseDups_cons]
  have width' : ({ l with testing := false, spared := l.spared ++ [g] } : Link).widthNow = l.width := now
  have up : l.state ≠ 3 := by omega
  simp [exec, execLaneTestDone, hl, there, failedGroups_one ours, up, testing, holds, width', width]

/-- Another failed lane of the control group, whose spare is in use, takes the half down. -/
theorem exec_laneTestDone_lost {k : Nat} (st : l.state = 1) (testing : l.testing = true) (used : 0xFE ∈ l.spared) :
    ∃ m : Link, exec (.laneTestDone id [(0xFE, k)]) s = .next ((s.coppice 1 0 1).linkDown m) ∧
      m.id = l.id ∧ m.got = l.got ∧ m.unacked = l.unacked ∧ m.delivered = l.delivered := by
  have lost : l.lost [(0xFE, k)] 0xFE = true := by simp [Link.lost, used]
  have width : ({ l with testing := false, broken := l.broken ++ [0xFE].filter (fun g => !decide (g ∈ l.broken)) } : Link).widthNow = 3 := by
    by_cases h : 0xFE ∈ l.broken <;> simp [Link.widthNow, ctlGroup, h]
  have up : l.state ≠ 3 := by omega
  refine ⟨{ l with testing := false, broken := l.broken ++ [0xFE].filter (fun g => !decide (g ∈ l.broken)), width := 3 }, ?_, rfl, rfl, rfl, rfl⟩
  simp [exec, execLaneTestDone, hl, there, failedGroups_one (.inr rfl), up, testing, lost, width]

end

/-! ### The outcomes of a beat and of a test -/

theorem receive_expected {l : Link} {b : Beat} (up : l.state = 0) (h : b.seq = l.expect) :
    l.receive true b = { l with expect := (l.expect + 1) % 256, got := l.got ++ [(b, false)] } := by
  simp [Link.receive, Link.endReplay, up, h]

theorem receive_other {l : Link} {b : Beat} (up : l.state = 0) (h : b.seq ≠ l.expect) : l.receive true b = l := by
  simp [Link.receive, Link.endReplay, up, h]

theorem receive_bad {l : Link} (b : Beat) (up : l.state = 0) :
    l.receive false b = { l with crcErrors := min (l.crcErrors + 1) 0xFFFF, state := 1, testing := true, queued := false } := by
  simp [Link.receive, Link.startTest, up]

theorem afterStep_of_queued {l : Link} (st : l.state = 1) (h : l.queued = true) : l.afterStep = { l with testing := true, queued := false } := by
  simp [Link.afterStep, Link.startTest, h, ← st]

theorem afterStep_of_not_queued {l : Link} (h : l.queued = false) :
    l.afterStep = { l with testing := false, replays := min (l.replays + 1) 0xFFFF, replayEnd := l.lastSent, state := if l.unacked = [] then 0 else 2 } := by
  by_cases e : l.unacked = [] <;> simp [Link.afterStep, Link.startReplay, h, e, Link.lastSent]

theorem afterStep_id (l : Link) : l.afterStep.id = l.id := by
  unfold Link.afterStep Link.startReplay Link.startTest
  split
  · rfl
  · dsimp only
    split <;> rfl

theorem endReplay_id (l : Link) (seq : Nat) : (l.endReplay seq).id = l.id := by
  unfold Link.endReplay
  split
  · split <;> rfl
  · rfl

theorem receive_id (l : Link) (ok : Bool) (b : Beat) : (l.receive ok b).id = l.id := by
  unfold Link.receive
  split
  · dsimp only
    split
    · rfl
    · exact endReplay_id _ _
  · split <;> exact endReplay_id _ _

/-! ### A half that goes down (R16, R29) -/

/-- An undelivered line touches no link and no byte of memory. -/
theorem undelivered_keeps (s : State) (x : Carried) :
    (s.undelivered x).links = s.links ∧ (s.undelivered x).mem = s.mem ∧ (s.undelivered x).memOpen = s.memOpen := by
  cases x <;> simp [State.undelivered, State.onTile]

/-- A write of the source b to line n is in flight, known to be poisoned where bad says so. -/
def State.writeInFlight (s : State) (b : Option BKey) (n : Nat) (bad : Bool) : Prop :=
  ∃ f ∈ s.inflight, f.owner.bundle? = b ∧ f.line = n ∧ (bad = true → f.bad = true)

section
variable {α : Type} {p : α → Bool} {f : α → α}

theorem exists_onFirst {P : α → Prop} (hP : ∀ x, P x → P (f x)) {l : List α} (h : ∃ x ∈ l, P x) : ∃ x ∈ onFirst p f l, P x := by
  induction l with
  | nil => simp at h
  | cons a r ih =>
    unfold onFirst
    split
    · obtain ⟨x, hx, hPx⟩ := h
      obtain rfl | hx := List.mem_cons.mp hx
      · exact ⟨f x, List.mem_cons_self, hP x hPx⟩
      · exact ⟨x, List.mem_cons_of_mem _ hx, hPx⟩
    · obtain ⟨x, hx, hPx⟩ := h
      obtain rfl | hx := List.mem_cons.mp hx
      · exact ⟨x, List.mem_cons_self, hPx⟩
      · obtain ⟨y, hy, hPy⟩ := ih ⟨x, hx, hPx⟩
        exact ⟨y, List.mem_cons_of_mem _ hy, hPy⟩

theorem exists_onFirst_changed {l : List α} (h : ∃ x ∈ l, p x = true) : ∃ x, p x = true ∧ f x ∈ onFirst p f l := by
  induction l with
  | nil => simp at h
  | cons a r ih =>
    unfold onFirst
    split
    · next ha => exact ⟨a, ha, List.mem_cons_self⟩
    · next ha =>
      obtain ⟨x, hx, hpx⟩ := h
      obtain rfl | hx := List.mem_cons.mp hx
      · exact absurd hpx ha
      · obtain ⟨y, hy, hfy⟩ := ih ⟨x, hx, hpx⟩
        exact ⟨y, hy, List.mem_cons_of_mem _ hfy⟩

end

theorem undelivered_keeps_writes {s : State} {b : Option BKey} {n : Nat} {bad : Bool} (x : Carried) (h : s.writeInFlight b n bad) :
    (s.undelivered x).writeInFlight b n bad := by
  cases x with
  | write b' n' => exact exists_onFirst (fun f ⟨owner, line, poisoned⟩ => ⟨owner, line, fun _ => rfl⟩) h
  | vault | data | copy | tile => simpa [State.writeInFlight, State.undelivered, State.onTile] using h
  | old | coll => exact h

/-- A write that a lost beat brought is poisoned. -/
theorem undelivered_poisons {s : State} {b : Option BKey} {n : Nat} (h : s.writeInFlight b n false) : (s.undelivered (.write b n)).writeInFlight b n true := by
  obtain ⟨f, hf, owner, line, -⟩ := h
  by_cases already : f.bad = true
  · exact undelivered_keeps_writes _ ⟨f, hf, owner, line, fun _ => already⟩
  · obtain ⟨g, picked, changed⟩ := exists_onFirst_changed (f := fun f => { f with bad := true })
      (p := fun f => f.owner.bundle? == b && f.line == n && !f.bad) (l := s.inflight) ⟨f, hf, by simp [owner, line, already]⟩
    simp only [Bool.and_eq_true, beq_iff_eq] at picked
    obtain ⟨⟨gowner, gline⟩, -⟩ := picked
    exact ⟨_, changed, gowner, gline, fun _ => rfl⟩

/-- The half once it is down: what was not delivered has reached the consumer poisoned. -/
def Link.wentDown (l : Link) : Link :=
  { l with state := 3, width := 3, testing := false, queued := false, unacked := [], got := l.got ++ (l.unacked.drop l.delivered).map fun x => (x, true) }

/-- The lines of the beats that a half going down has not delivered are lost. -/
def State.linesLost (s : State) (l : Link) : State := ((l.unacked.drop l.delivered).flatMap fun x => x.lines).foldl State.undelivered (s.putLink l.wentDown)

theorem linesLost_frame (s : State) (l : Link) :
    (s.linesLost l).links = (s.putLink l.wentDown).links ∧ (s.linesLost l).mem = s.mem ∧ (s.linesLost l).memOpen = s.memOpen := by
  have kept := foldl_keeps State.undelivered (fun t => (t.links, t.mem, t.memOpen)) (fun t x => by simp [undelivered_keeps])
    ((l.unacked.drop l.delivered).flatMap fun x => x.lines) (s.putLink l.wentDown)
  exact ⟨congrArg (fun p => p.1) kept, congrArg (fun p => p.2.1) kept, congrArg (fun p => p.2.2) kept⟩

/-- A half that goes down loses its lines, and at most takes its column and its vault out of use besides. -/
theorem linkDown_eq (s : State) (l : Link) : ∃ parts, s.linkDown l = { s.linesLost l with parts := parts } ∧
    ∀ g n, l.id = .vlink g n → (g, n / 4) ∈ parts.retiredCols ∧ (n / 2 % 2 = 1 → (g, n / 4) ∈ parts.downVaults) := by
  have added (cs : List (Nat × Nat)) (c : Nat × Nat) : c ∈ addCol cs c := by
    unfold addCol
    split
    · next h => simpa using h
    · simp
  unfold State.linkDown
  split
  · next g n e =>
    refine ⟨_, rfl, fun g' n' h => ?_⟩
    obtain ⟨rfl, rfl⟩ : g = g' ∧ n = n' := by simpa [e] using h
    exact ⟨added _ _, fun odd => by simpa [odd] using added _ _⟩
  · next b k d e => exact ⟨_, rfl, fun g n h => by simp [e] at h⟩

end Sys2Proof.Machine

/-! SUPPORT. Proof of O48: vertical links and bridges (R12 to R18, R28, R29). -/

namespace Sys2Proof.Machine

/-- Settles O48, clause by clause: a beat, an acknowledgement, the end of a test or a retraining, a failure that is queued, one that takes a spare, and one that takes the half down. -/
theorem linksReplayAndSpare : Obligations.LinksReplayAndSpare := by
  unfold Obligations.LinksReplayAndSpare
  refine ⟨?beat, ?ack, ?ends, ?queued, ?spared, ?down⟩
  case beat =>
    intro s id b l there up next room fresh bytes lines
    have ok : beatOk id b = true := by
      rw [beatOk, beatBytes, bytes, beq_self_eq_true, Bool.true_and, decide_eq_true_eq]
      omega
    refine ⟨_, exec_vlinkBeatReceive_new (l := l) rfl there up next room fresh ok, ?_⟩
    obtain ⟨half, others, frame⟩ := onlyLink_putLink s (id := id) ((receive_id (l.send b) b.ok b).trans (link_id s id))
    refine ⟨others, frame, fun good h => ?_, fun good h => ?_, fun bad => ?_⟩
    · exact half.trans (by rw [good]; exact receive_expected up h)
    · exact half.trans (by rw [good]; exact receive_other up h)
    · exact half.trans (by rw [bad]; exact receive_bad b up)
  case ack =>
    intro s id n i nak l there up held had
    obtain ⟨half, others, frame⟩ := onlyLink_putLink s (id := id) (l := { l with unacked := l.unacked.drop (if nak then i else i + 1) }) (link_id s id)
    exact ⟨_, exec_vlinkAckReceive_held (l := l) rfl there up held had, half, others, frame⟩
  case ends =>
    intro s id i l there st ends
    obtain ⟨half, others, frame⟩ := onlyLink_putLink s (id := id) ((afterStep_id _).trans (link_id s id))
    exact ⟨_, exec_test_or_retrain_ends (l := l) rfl there st ends, others, frame, fun h => half.trans (afterStep_of_not_queued h), fun h => half.trans (afterStep_of_queued st h)⟩
  case queued =>
    intro s id g k l there busy testing ours
    obtain ⟨half, others, frame⟩ := onlyLink_putLink s (id := id) (l := { l with queued := true }) (link_id s id)
    exact ⟨_, exec_laneTestDone_queued (l := l) rfl there ours busy testing, half, others, frame⟩
  case spared =>
    intro s id g k l there st testing ours width now free
    obtain ⟨half, others, -⟩ := onlyLink_putLink (s.coppice 1 1 0) (id := id) (l := { l with testing := false, spared := l.spared ++ [g] }) (link_id s id)
    refine ⟨_, exec_laneTestDone_spared (l := l) rfl there ours st testing width now free, half, ?_, others, rfl⟩
    exact (reg_coppice s 1 1 0).trans (satAdd_zero _ (by omega) (by omega))
  case down =>
    intro s id k l there st testing used
    obtain ⟨m, ran, mid, got, unacked, delivered⟩ := exec_laneTestDone_lost (k := k) (l := l) rfl there st testing used
    have same : m.id = id := mid.trans (link_id s id)
    obtain ⟨parts, eq, retired⟩ := linkDown_eq (s.coppice 1 0 1) m
    obtain ⟨links, mem, unknown⟩ := linesLost_frame (s.coppice 1 0 1) m
    rw [eq] at ran
    have half : ((s.coppice 1 0 1).linesLost m).link id = m.wentDown :=
      (link_congr links id).trans (by rw [← same]; exact link_putLink_self _ m.wentDown)
    refine ⟨_, m.wentDown, ran, half, rfl, rfl, rfl, by simp only [Link.wentDown, got, unacked, delivered], fun g n h => retired g n (same.trans h),
      fun x hx b n hw held => ?_, fun j hj => (link_congr links j).trans (link_putLink_ne _ m.wentDown (by rw [← same] at hj; exact hj)), fun a => byte_congr mem unknown a⟩
    obtain ⟨f, hf, owner, line⟩ := held
    have brought : Carried.write b n ∈ (m.unacked.drop m.delivered).flatMap fun x => x.lines := List.mem_flatMap.mpr ⟨x, by rwa [unacked, delivered], hw⟩
    have inFlight : ((s.coppice 1 0 1).putLink m.wentDown).writeInFlight b n false := ⟨f, hf, owner, line, nofun⟩
    obtain ⟨f', hf', owner', line', bad⟩ := foldl_reaches (Q := (State.writeInFlight · b n false)) (P := (State.writeInFlight · b n true))
      (fun _ y => undelivered_keeps_writes y) (fun _ y => undelivered_keeps_writes y) (fun _ => undelivered_poisons) brought inFlight
    exact ⟨f', hf', owner', line', bad rfl⟩

end Sys2Proof.Machine
/-! SUPPORT. What a die's parts keep while they age and heat (R20, R21, R25, R215, R283): lists of pairs, saves asked for, what waits on the hub. -/

namespace Sys2Proof.Machine

section
variable {α β : Type} [DecidableEq α] (l : List (α × β)) {k j : α} (v : β)

theorem assoc_assocPut_self : assoc (assocPut l k v) k = some v := by
  have gone : l.find? (fun x => decide (decide (x.1 ≠ k) = true ∧ decide (x.1 = k) = true)) = none := by simp
  rw [assoc, assocPut, List.find?_append, List.find?_filter, gone]
  simp

theorem assoc_assocPut_ne (h : j ≠ k) : assoc (assocPut l k v) j = assoc l j := by
  have others : (fun x : α × β => decide (decide (x.1 ≠ k) = true ∧ decide (x.1 = j) = true)) = fun x => decide (x.1 = j) := by
    funext x
    by_cases e : x.1 = j <;> simp [e, h]
  rw [assoc, assocPut, List.find?_append, List.find?_filter, others]
  simp [assoc, Ne.symm h]

end

theorem natsGet_natsPut_pos (m : Nats) (k : Nat) {v : Nat} (hv : 0 < v) : natsGet (natsPut m k v) k = v := by
  rw [natsGet, natsPut, if_neg (by omega), mapGet_mapPut_self, Option.getD_some]

/-- What asks for the save of a crew touches no register and no part. -/
theorem preempt_keeps (s : State) (k : CKey) (why : PreemptWhy) : (s.preempt k why).regs = s.regs ∧ (s.preempt k why).parts = s.parts := by
  unfold State.preempt
  split
  · split
    · exact ⟨rfl, rfl⟩
    · constructor <;> exact foldl_keeps _ _ (fun _ _ => by rfl) _ s
  · exact ⟨rfl, rfl⟩

theorem saveCore_keeps (s : State) (core : Nat) (why : PreemptWhy) : (s.saveCore core why).regs = s.regs ∧ (s.saveCore core why).parts = s.parts :=
  ⟨foldl_keeps _ State.regs (fun t (c : Crew) => (preempt_keeps t c.key why).1) _ s,
    foldl_keeps _ State.parts (fun t (c : Crew) => (preempt_keeps t c.key why).2) _ s⟩

theorem heatNext_regs (s : State) (grove col : Nat) : (s.heatNext grove col).regs = s.regs := by
  unfold State.heatNext
  dsimp only
  split
  · rfl
  · split
    · exact (preempt_keeps _ _ _).1
    · rfl

/-- With nothing held at the hub, nothing is tried again. -/
theorem hubRetry_of_none {s : State} (h : s.hubFx = []) : s.hubRetry = s := by
  rw [State.hubRetry, h]
  cases s
  simpa using h.symm

theorem fireWaiting_of_none {s : State} (h : ∀ a ∈ s.armed, a.waits = false) : s.fireWaiting = s := by
  have waiting : s.armed.filter (fun a => a.waits) = [] := by simpa using h
  have ready : s.armed.filter (fun a => !a.waits) = s.armed := by simpa using h
  simp only [State.fireWaiting, waiting, ready]
  rfl

end Sys2Proof.Machine

/-! SUPPORT. The steps of DRAM rows, heat and spares (R20, R21, R25, R215, R283, R284). -/

namespace Sys2Proof.Machine

/-! ### Rows (R20, R21) -/

theorem binMs_eq {bin : Nat} (h0 : bin ≠ 0) (h4 : bin < 4) : binMs bin = 2 ^ (bin + 3) := by
  obtain rfl | rfl | rfl : bin = 1 ∨ bin = 2 ∨ bin = 3 := by omega
  all_goals rfl

theorem interval_eq {s : State} {r : RowId} (h0 : s.bin r ≠ 0) (h4 : s.bin r < 4) :
    s.interval r = 2 ^ (s.bin r + 3) * 1000 * Config.cyclesPerUs / (if r.stack ∈ s.phys.hot then 2 else 1) := by
  simp only [State.interval, usCycles, binMs_eq h0 h4, List.contains_iff_mem, Nat.mul_comm 1000]

theorem exec_rowRefresh_due {s : State} {r : RowId} (here : r.stack < 12) (h0 : s.bin r ≠ 0) :
    ∃ t, exec (.rowRefresh r) s = .next t ∧ t.clock = max s.clock ((assoc s.phys.refresh r).getD 0 + s.interval r) ∧
      t = { s with clock := t.clock, phys := { s.phys with refresh := assocPut s.phys.refresh r t.clock } } := by
  have goes : ¬(12 ≤ r.stack ∨ s.bin r = 0) := by omega
  exact ⟨_, by rw [exec, execRowRefresh, if_neg goes], rfl, rfl⟩

section
variable {s t : State} {r : RowId} {bin : Nat}

theorem bin_of_put_self (h : t.phys.bins = assocPut s.phys.bins r bin) : t.bin r = bin := by
  rw [State.bin, h, assoc_assocPut_self, Option.getD_some]

theorem bin_of_put_ne (h : t.phys.bins = assocPut s.phys.bins r bin) (q : RowId) (hq : q ≠ r) : t.bin q = s.bin q := by
  rw [State.bin, h, assoc_assocPut_ne _ _ hq, State.bin]

end

section
variable {s : State} {r : RowId} {m : Retention} (here : r.stack < 12) (moves : binOf m.ms < s.bin r ∨ (s.bin r ≠ 0 ∧ m.assign = true))
include here moves

/-- The patrol goes on for a row that is not remapped, and that was measured lower or may be assigned what was measured. -/
theorem patrol_goes : ¬(12 ≤ r.stack ∨ s.bin r = 0 ∨ (s.bin r ≤ binOf m.ms ∧ (!m.assign) = true)) := by
  obtain lower | ⟨h0, assign⟩ := moves
  · omega
  · simp [here, h0, assign]

theorem exec_retentionPatrol_kept (h : binOf m.ms ≠ 0) :
    exec (.retentionPatrol r m) s = .next (s.setPhys { s.phys with bins := assocPut s.phys.bins r (binOf m.ms) }) := by
  rw [exec, execRetentionPatrol, if_neg (patrol_goes here moves), if_pos h]

theorem exec_retentionPatrol_spared (h : binOf m.ms = 0) (free : (assoc s.phys.spares (r.stack, r.bank)).getD 0 < 128) :
    exec (.retentionPatrol r m) s = .next ((s.setPhys { s.phys with
      bins := assocPut s.phys.bins r 0
      spares := assocPut s.phys.spares (r.stack, r.bank) ((assoc s.phys.spares (r.stack, r.bank)).getD 0 + 1)
      remaps := s.phys.remaps ++ [r] }).coppice 3 1 0) := by
  rw [exec, execRetentionPatrol, if_neg (patrol_goes here moves), if_neg (not_not_intro h), if_pos free]

theorem exec_retentionPatrol_worn (h : binOf m.ms = 0) (none_free : 128 ≤ (assoc s.phys.spares (r.stack, r.bank)).getD 0) :
    exec (.retentionPatrol r m) s = .next ((s.setPhys { s.phys with bins := assocPut s.phys.bins r 1 }).coppice 3 0 1) := by
  rw [exec, execRetentionPatrol, if_neg (patrol_goes here moves), if_neg (not_not_intro h), if_neg (by omega)]

end

theorem exec_rowRemapCopyDone {s : State} (r : RowId) (hub : s.hubFx = []) (armed : ∀ a ∈ s.armed, a.waits = false) :
    exec (.rowRemapCopyDone r) s = .next (s.setPhys { s.phys with remaps := s.phys.remaps.filter fun x => x != r }) := by
  rw [exec, execRowRemapCopyDone, hubRetry_of_none (by exact hub), fireWaiting_of_none (by exact armed)]

/-! ### Temperature and throttling (R20, R25, R215) -/

theorem exec_dramTemperatureChange {s : State} {k : Nat} (hot : Bool) (here : k < 12) :
    exec (.dramTemperatureChange k hot) s = .next (s.setPhys { s.phys with
      hot := if hot then (s.phys.hot.filter fun x => x != k) ++ [k] else s.phys.hot.filter fun x => x != k }) := by
  rw [exec, execDramTemperatureChange, if_neg (by omega)]

theorem exec_throttle (s : State) (d : Option (Fin 24)) (raise : Bool) (k : Nat) (hk : k = match d with | none => 0 | some x => x.val + 1) :
    exec (.throttle (d.map fun x => x.val) raise) s = .next (s.setPhys { s.phys with
      throttle := natsPut s.phys.throttle k (if raise then min (natsGet s.phys.throttle k + 1) 16 else natsGet s.phys.throttle k - 1) }) := by
  subst hk
  cases d with
  | none => rfl
  | some x =>
    have ours : ¬ Config.dies < x.val + 1 := by simp only [Config.dies]; omega
    simp only [exec, execThrottle, Option.map_some, if_neg ours]

/-- The hot bit after an evaluation (R215): set at the threshold, cleared 5 °C below it, else as it was. -/
theorem heatEval_hot (w : Word) : fld (heatEval w) 0 0 =
    if fld w 23 16 ≤ fld w 15 8 then 1 else if fld w 15 8 ≤ fld w 23 16 - 5 then 0 else fld w 0 0 := by
  rw [heatEval, fld_setFld_self _ _ (by omega) (by omega)]
  have bit : fld w 0 0 < 2 := fld_lt w 0 0
  split
  · rfl
  · split
    · rfl
    · omega

theorem exec_columnHot {s : State} {g col temp : Nat} (grove : g < 12) (column : col < 32) :
    ∃ t, exec (.columnHot g col temp) s = .next t ∧
      t.reg (0x10000600 + 0x100000 * g + 8 * col) = heatEval (setFld (s.reg (0x10000600 + 0x100000 * g + 8 * col)) 15 8 temp) := by
  have ours : ¬(Config.groves ≤ g ∨ 32 ≤ col) := by simp only [Config.groves]; omega
  refine ⟨_, by rw [exec, execColumnHot, if_neg ours], ?_⟩
  split
  · rw [State.reg, heatNext_regs]
    exact reg_setReg_self s _ _
  · exact reg_setReg_self s _ _

/-! ### Spare cores and vault rows (R283, R284) -/

section
variable {s : State} {core : Nat} (hc : core < 1536) (runs : core ∉ s.parts.retiredCores)
include hc runs

theorem coreSpare_goes : ¬(Config.cores ≤ core ∨ s.parts.retiredCores.contains core = true) := by
  simp only [Config.cores, List.contains_iff_mem]
  exact not_or.mpr ⟨by omega, runs⟩

/-- A spare takes the place of an empty core. -/
theorem exec_coreSpareBringIn_empty (spare : natsGet s.parts.spareCores (core / 64) < 2) (empty : s.residents core = []) :
    exec (.coreSpareBringIn core) s = .next ((({ s with parts := { s.parts with
      spareCores := natsPut s.parts.spareCores (core / 64) (natsGet s.parts.spareCores (core / 64) + 1)
      sparing := s.parts.sparing.filter fun c => c != core } } : State).coppice 0 1 0).l1DropCore core) := by
  simp only [exec, execCoreSpareBringIn, if_neg (coreSpare_goes hc runs), dieOf, if_pos spare, empty, List.isEmpty_nil, Bool.not_true, Bool.false_eq_true, if_false]

/-- A core that crews are on waits for their save. -/
theorem exec_coreSpareBringIn_waits (spare : natsGet s.parts.spareCores (core / 64) < 2) (used : s.residents core ≠ []) :
    exec (.coreSpareBringIn core) s = .next (({ s with parts := { s.parts with
      sparing := if s.parts.sparing.contains core then s.parts.sparing else core :: s.parts.sparing } } : State).saveCore core .commanded) := by
  have busy : (!(s.residents core).isEmpty) = true := by simpa using used
  simp only [exec, execCoreSpareBringIn, if_neg (coreSpare_goes hc runs), dieOf, if_pos spare, if_pos busy]

/-- With no spare left in its die, the core is retired. -/
theorem exec_coreSpareBringIn_retired (gone : ¬ natsGet s.parts.spareCores (core / 64) < 2) :
    exec (.coreSpareBringIn core) s = .next ((({ s with parts := { s.parts with
      retiredCores := s.parts.retiredCores ++ [core] } } : State).coppice 0 0 1).saveCore core .retired) := by
  simp only [exec, execCoreSpareBringIn, if_neg (coreSpare_goes hc runs), if_neg (show ¬ natsGet s.parts.spareCores (dieOf core) < 2 from gone)]

end

theorem exec_vaultRowRemap_spared {s : State} {g col : Nat} (row : Nat) (grove : g < 12) (column : col < 32)
    (spare : (s.phys.vaultRows.filter fun x => x.1.1 == g && x.1.2.1 == col).length < 512) :
    exec (.vaultRowRemap g col row) s = .next ((s.setPhys { s.phys with
      vaultRows := s.phys.vaultRows ++ [((g, col, row), (s.phys.vaultRows.filter fun x => x.1.1 == g && x.1.2.1 == col).length)] }).coppice 2 1 0) := by
  have ours : ¬(Config.groves ≤ g ∨ 32 ≤ col) := by simp only [Config.groves]; omega
  simp only [exec, execVaultRowRemap, if_neg ours, if_pos spare]

end Sys2Proof.Machine

/-! SUPPORT. Proof of O49: rows, heat and spares. -/

namespace Sys2Proof.Machine

/-- A row the patrol moves (R21): to the lower bin that was measured, out of bin 0 onto a spare, or, with none left in its bank, to bin 1. -/
theorem retentionPatrol_moves (s : State) (r : RowId) (ms : Nat) (assign : Bool) (here : r.stack < 12) (moves : binOf ms < s.bin r ∨ (s.bin r ≠ 0 ∧ assign = true)) :
    ∃ t, exec (.retentionPatrol r ⟨ms, assign⟩) s = .next t ∧ (∀ q, q ≠ r → t.bin q = s.bin q) ∧ t = { s with phys := t.phys, regs := t.regs } ∧
      (binOf ms ≠ 0 → t.bin r = binOf ms ∧ t.regs = s.regs) ∧
      (binOf ms = 0 → (assoc s.phys.spares (r.stack, r.bank)).getD 0 < 128 → t.bin r = 0 ∧ r ∈ t.phys.remaps ∧
        t.reg 0x218 = satAdd (satAdd (s.reg 0x218) 39 16 1) 15 8 0 ∧
        assoc t.phys.spares (r.stack, r.bank) = some ((assoc s.phys.spares (r.stack, r.bank)).getD 0 + 1)) ∧
      (binOf ms = 0 → 128 ≤ (assoc s.phys.spares (r.stack, r.bank)).getD 0 → t.bin r = 1 ∧ t.reg 0x218 = satAdd (satAdd (s.reg 0x218) 39 16 0) 15 8 1) := by
  by_cases lowest : binOf ms = 0
  case neg =>
    exact ⟨_, exec_retentionPatrol_kept (m := ⟨ms, assign⟩) here moves lowest, bin_of_put_ne rfl, rfl, fun _ => ⟨bin_of_put_self rfl, rfl⟩,
      fun h => absurd h lowest, fun h => absurd h lowest⟩
  by_cases free : (assoc s.phys.spares (r.stack, r.bank)).getD 0 < 128
  case pos =>
    exact ⟨_, exec_retentionPatrol_spared (m := ⟨ms, assign⟩) here moves lowest free, bin_of_put_ne rfl, rfl, fun h => absurd lowest h,
      fun _ _ => ⟨bin_of_put_self rfl, List.mem_append_right _ List.mem_cons_self, reg_coppice _ 3 1 0, assoc_assocPut_self _ _⟩, fun _ h => by omega⟩
  case neg =>
    exact ⟨_, exec_retentionPatrol_worn (m := ⟨ms, assign⟩) here moves lowest (by omega), bin_of_put_ne rfl, rfl, fun h => absurd lowest h,
      fun _ h => absurd h free, fun _ _ => ⟨bin_of_put_self rfl, reg_coppice _ 3 0 1⟩⟩

/-- Settles O49, clause by clause: a refresh, the patrol, the end of a remap's copy, a stack's temperature, throttling, a failing core, a failing vault row, a column's temperature. -/
theorem rowsHeatAndSpares : Obligations.RowsHeatAndSpares := by
  unfold Obligations.RowsHeatAndSpares
  refine ⟨?refresh, ?patrol, ?copied, ?temperature, ?throttled, ?core, ?vault, ?column⟩
  case refresh =>
    intro s r here h0 h4
    obtain ⟨t, ran, clock, frame⟩ := exec_rowRefresh_due here h0
    have at_clock : t.phys.refresh = assocPut s.phys.refresh r t.clock := congrArg (fun u : State => u.phys.refresh) frame
    rw [interval_eq h0 h4] at clock
    exact ⟨t, ran, by rw [at_clock, assoc_assocPut_self], clock, by rw [at_clock]; exact frame⟩
  case patrol => exact retentionPatrol_moves
  case copied =>
    intro s r hub armed
    exact ⟨_, exec_rowRemapCopyDone r hub armed, fun q => by simp [State.setPhys], rfl⟩
  case temperature =>
    intro s k hot here
    refine ⟨_, exec_dramTemperatureChange hot here, fun q => ?_, rfl⟩
    cases hot <;> simp [State.setPhys, and_comm]
  case throttled =>
    intro s d raise k keys
    exact ⟨_, exec_throttle s d raise k rfl, natsGet_natsPut_self _ _ keys, rfl⟩
  case core =>
    intro s core hc runs
    by_cases spare : natsGet s.parts.spareCores (core / 64) < 2
    case neg =>
      obtain ⟨regs, parts⟩ := saveCore_keeps (({ s with parts := { s.parts with retiredCores := s.parts.retiredCores ++ [core] } } : State).coppice 0 0 1) core .retired
      refine ⟨_, exec_coreSpareBringIn_retired hc runs spare, ?_⟩
      rw [if_neg spare, parts, State.reg, regs]
      exact ⟨rfl, rfl, reg_coppice s 0 0 1⟩
    by_cases used : s.residents core = []
    case pos =>
      refine ⟨_, exec_coreSpareBringIn_empty hc runs spare used, ?_⟩
      rw [if_pos spare]
      refine ⟨rfl, fun _ => ⟨natsGet_natsPut_pos _ _ (Nat.succ_pos _), reg_coppice s 0 1 0, fun h => ?_, fun x hx => ?_⟩, fun h => absurd used h⟩
      · simpa using List.of_mem_filter (show core ∈ s.parts.sparing.filter fun c => c != core from h)
      · simpa using List.of_mem_filter hx
    case neg =>
      obtain ⟨regs, parts⟩ := saveCore_keeps ({ s with parts := { s.parts with
        sparing := if s.parts.sparing.contains core then s.parts.sparing else core :: s.parts.sparing } } : State) core .commanded
      refine ⟨_, exec_coreSpareBringIn_waits hc runs spare used, ?_⟩
      rw [if_pos spare, parts, State.reg, regs]
      refine ⟨rfl, fun h => absurd h used, fun _ => ⟨?_, rfl, rfl⟩⟩
      by_cases h : core ∈ s.parts.sparing <;> simp [h]
  case vault =>
    intro s g col row grove column spare
    exact ⟨_, exec_vaultRowRemap_spared row grove column spare, reg_coppice s 2 1 0, rfl, _, List.mem_append_right _ List.mem_cons_self⟩
  case column =>
    intro s g col temp grove column small o th
    obtain ⟨t, ran, reads⟩ := exec_columnHot (s := s) (temp := temp) grove column
    have threshold : fld (setFld (s.reg o) 15 8 temp) 23 16 = th := fld_setFld_of_disjoint _ _ (by omega) (by omega) (by omega)
    have hot : fld (setFld (s.reg o) 15 8 temp) 0 0 = fld (s.reg o) 0 0 := fld_setFld_of_disjoint _ _ (by omega) (by omega) (by omega)
    have temperature : fld (setFld (s.reg o) 15 8 temp) 15 8 = temp := by rw [fld_setFld_self _ _ (by omega) (by omega)]; omega
    have eval := heatEval_hot (setFld (s.reg o) 15 8 temp)
    rw [← reads, threshold, hot, temperature] at eval
    refine ⟨t, ran, ?_, fun h => ?_, fun h1 h2 => ?_, fun h1 h2 => ?_⟩
    · rw [reads, heatEval, fld_setFld_of_disjoint _ _ (by omega) (by omega) (by omega), temperature]
    · rw [eval, if_pos h]
    · rw [eval, if_neg (by omega), if_pos h2]
    · rw [eval, if_neg (by omega), if_neg (by omega)]

end Sys2Proof.Machine
/-! SUPPORT. The registers of firmware slots and of boot (R129 to R131, R134, R135): what a change of slot and a step of boot leave in them. -/

namespace Sys2Proof.Machine

theorem getLsbD_eq_testBit_fld (w : Word) (i : Nat) : w.getLsbD i = (fld w i i).testBit 0 := by
  rw [testBit_fld, decide_eq_true (by omega), Bool.true_and, Nat.add_zero]

theorem offFwCtl_eq {x : Nat} (hx : 1 ≤ x) : offFwCtl x = 8 + 8 * x := by
  unfold offFwCtl
  omega

theorem offFwCtl_lt {x : Nat} (hx : x ≤ 3) : offFwCtl x < 0x28 := by
  unfold offFwCtl
  omega

theorem offFwCtl_ne {x y : Nat} (hx : 1 ≤ x) (hy : 1 ≤ y) (h : y ≠ x) : offFwCtl y ≠ offFwCtl x := by
  rw [offFwCtl_eq hx, offFwCtl_eq hy]
  omega

theorem active_congr {s t : State} (h : t.regs = s.regs) (x : Nat) : t.active x = s.active x := by
  simp only [State.active, State.reg, h]

/-! ### A field of HUB_FW_CTL_x or of HUB_BOOT_STATUS -/

section
variable (s : State) {x : Nat}

@[simp] theorem bootField_clock (hi lo v : Nat) : (s.bootField hi lo v).clock = s.clock := rfl

@[simp] theorem fwHart_bootField (hi lo v k : Nat) : (s.bootField hi lo v).fwHart k = s.fwHart k := rfl

theorem active_setReg_high {o : Nat} (w : Word) (hx : x ≤ 3) (ho : 0x28 ≤ o) : (s.setReg o w).active x = s.active x := by
  have h := offFwCtl_lt hx
  rw [State.active, reg_setReg_ne s _ (by omega), State.active]

theorem active_bootField (hi lo v : Nat) (hx : x ≤ 3) : (s.bootField hi lo v).active x = s.active x := active_setReg_high s _ hx (by omega)

theorem reg_fwState_self (v : Nat) : (s.fwState x v).reg (offFwCtl x) = setFld (s.reg (offFwCtl x)) 7 5 v := reg_setReg_self s _ _

theorem reg_fwState_ne (v : Nat) {o : Nat} (h : o ≠ offFwCtl x) : (s.fwState x v).reg o = s.reg o := reg_setReg_ne s _ h

theorem state_fwState {v : Nat} (hv : v < 8) : fld ((s.fwState x v).reg (offFwCtl x)) 7 5 = v := by
  rw [reg_fwState_self, fld_setFld_self _ _ (by omega) (by omega)]
  exact Nat.mod_eq_of_lt hv

theorem active_fwState (v y : Nat) : (s.fwState x v).active y = s.active y := by
  by_cases h : offFwCtl y = offFwCtl x
  · rw [State.active, h, reg_fwState_self, fld_setFld_of_disjoint _ _ (by omega) (by omega) (by omega), State.active, h]
  · rw [State.active, reg_fwState_ne s v h, State.active]

end

/-! ### The other slot (R135) -/

theorem otherSlot_frame (s : State) (x : Nat) : s.otherSlot x = { s with regs := (s.otherSlot x).regs } := by
  unfold State.otherSlot
  split
  · rfl
  · split <;> rfl

section
variable (s : State) {x : Nat} (hx : x ≤ 3)
include hx

theorem reg_otherSlot_self : (s.otherSlot x).reg (offFwCtl x) = setFld (s.reg (offFwCtl x)) 0 0 (1 - s.active x) := by
  have h := offFwCtl_lt hx
  unfold State.otherSlot State.bootField
  split
  · rw [reg_setReg_ne _ _ (by omega), reg_setReg_self]; rfl
  · split
    · rw [reg_setReg_ne _ _ (by omega), reg_setReg_self]; rfl
    · rw [reg_setReg_self]; rfl

omit hx in
theorem reg_otherSlot_ne {o : Nat} (h : o ≠ offFwCtl x) (hb : o ≠ 0x50) : (s.otherSlot x).reg o = s.reg o := by
  unfold State.otherSlot State.bootField
  split
  · rw [reg_setReg_ne _ _ hb, reg_setReg_ne _ _ h]
  · split
    · rw [reg_setReg_ne _ _ hb, reg_setReg_ne _ _ h]
    · rw [reg_setReg_ne _ _ h]

/-- HUB_BOOT_STATUS keeps all but the slots' bits, 2 and 3. -/
theorem boot_otherSlot {hi lo : Nat} (apart : hi < 2 ∨ 3 < lo) : fld ((s.otherSlot x).reg 0x50) hi lo = fld (s.reg 0x50) hi lo := by
  have h := offFwCtl_lt hx
  unfold State.otherSlot State.bootField
  split
  · rw [reg_setReg_self, fld_setFld_of_disjoint _ _ (by omega) (by omega) (by omega), reg_setReg_ne _ _ (by omega)]
  · split
    · rw [reg_setReg_self, fld_setFld_of_disjoint _ _ (by omega) (by omega) (by omega), reg_setReg_ne _ _ (by omega)]
    · rw [reg_setReg_ne _ _ (by omega)]

theorem active_otherSlot_self : (s.otherSlot x).active x = 1 - s.active x := by
  rw [State.active, reg_otherSlot_self s hx, fld_setFld_self _ _ (by omega) (by omega)]
  exact Nat.mod_eq_of_lt (by omega)

theorem state_otherSlot : fld ((s.otherSlot x).reg (offFwCtl x)) 7 5 = fld (s.reg (offFwCtl x)) 7 5 := by
  rw [reg_otherSlot_self s hx, fld_setFld_of_disjoint _ _ (by omega) (by omega) (by omega)]

end

theorem active_otherSlot_ne (s : State) {x y : Nat} (hx : 1 ≤ x) (hy : 1 ≤ y) (hy3 : y ≤ 3) (h : y ≠ x) : (s.otherSlot x).active y = s.active y := by
  have lt := offFwCtl_lt hy3
  rw [State.active, reg_otherSlot_ne s (offFwCtl_ne hx hy h) (by omega), State.active]

theorem swapDone_frame (s : State) (x : Nat) : s.swapDone x = { s with regs := (s.swapDone x).regs } := by
  rw [State.swapDone, otherSlot_frame]
  rfl

/-- A swap that is complete: the other slot is active and swapped is set, the state field stands (R131). -/
theorem swapDone_spec (s : State) {x : Nat} (hx : x ≤ 3) :
    (s.swapDone x).active x = 1 - s.active x ∧ ((s.swapDone x).reg (offFwCtl x)).getLsbD 4 = true ∧
      fld ((s.swapDone x).reg (offFwCtl x)) 7 5 = fld (s.reg (offFwCtl x)) 7 5 := by
  have own : (s.swapDone x).reg (offFwCtl x) = setFld ((s.otherSlot x).reg (offFwCtl x)) 4 4 1 := reg_setReg_self _ _ _
  refine ⟨?_, ?_, ?_⟩
  · rw [State.active, own, fld_setFld_of_disjoint _ _ (by omega) (by omega) (by omega)]
    exact active_otherSlot_self s hx
  · rw [own, getLsbD_setFld _ _ _ (by omega) (by omega)]
    rfl
  · rw [own, fld_setFld_of_disjoint _ _ (by omega) (by omega) (by omega), state_otherSlot s hx]

/-! ### The slot that boot takes (R135) -/

/-- What the choice of a slot keeps of HUB_BOOT_STATUS: the step and `failed`. -/
structure BootKept (s t : State) : Prop where
  stage : fld (t.reg 0x50) 7 4 = fld (s.reg 0x50) 7 4
  failed : (t.reg 0x50).getLsbD 1 = (s.reg 0x50).getLsbD 1

theorem BootKept.trans {s t u : State} (h : BootKept s t) (k : BootKept t u) : BootKept s u :=
  ⟨k.stage.trans h.stage, k.failed.trans h.failed⟩

theorem bootKept_of_regs {s t : State} (regs : t.regs = s.regs) : BootKept s t := by
  constructor <;> simp only [State.reg, regs]

theorem bootKept_otherSlot (s : State) {x : Nat} (hx : x ≤ 3) : BootKept s (s.otherSlot x) where
  stage := boot_otherSlot s hx (by omega)
  failed := by rw [getLsbD_eq_testBit_fld, boot_otherSlot s hx (by omega), ← getLsbD_eq_testBit_fld]

section
variable (s : State) {x : Nat} (own other : Bool)

theorem bootKept_bootSlot (hx : x ≤ 3) : BootKept s (s.bootSlot x own other).1 := by
  unfold State.bootSlot
  split
  · exact ⟨rfl, rfl⟩
  · split
    · exact bootKept_otherSlot s hx
    · exact ⟨rfl, rfl⟩

theorem bootSlot_clock : (s.bootSlot x own other).1.clock = s.clock := by
  unfold State.bootSlot
  split
  · rfl
  · split
    · show (s.otherSlot x).clock = s.clock
      rw [otherSlot_frame]
    · rfl

theorem bootSlot_passes : (s.bootSlot x own other).2 = (own || other) := by
  cases own <;> cases other <;> rfl

theorem active_bootSlot_self (hx : x ≤ 3) : (s.bootSlot x own other).1.active x = if own = false ∧ other = true then 1 - s.active x else s.active x := by
  cases own <;> cases other
  case false.true => exact active_otherSlot_self s hx
  all_goals rfl

theorem active_bootSlot_ne {y : Nat} (hx : 1 ≤ x) (hy : 1 ≤ y) (hy3 : y ≤ 3) (h : y ≠ x) : (s.bootSlot x own other).1.active y = s.active y := by
  cases own <;> cases other
  case false.true => exact active_otherSlot_ne s hx hy hy3 h
  all_goals rfl

end

/-- A boot step goes on to the next step, with its image verified, or stops with `failed` set. -/
structure BootWent (s t : State) (pass : Prop) : Prop where
  on : pass → (t.reg 0x50).getLsbD 1 = false ∧ fld (t.reg 0x50) 7 4 = fld (s.reg 0x50) 7 4 + 1
  stopped : ¬ pass → (t.reg 0x50).getLsbD 1 = true ∧ fld (t.reg 0x50) 7 4 = fld (s.reg 0x50) 7 4

theorem stage_bootField (s : State) {n : Nat} (hn : n < 16) : fld ((s.bootField 7 4 n).reg 0x50) 7 4 = n := by
  rw [State.bootField, reg_setReg_self, fld_setFld_self _ _ (by omega) (by omega)]
  exact Nat.mod_eq_of_lt hn

theorem failed_bootField (s : State) (n : Nat) : ((s.bootField 7 4 n).reg 0x50).getLsbD 1 = (s.reg 0x50).getLsbD 1 := by
  rw [State.bootField, reg_setReg_self, getLsbD_setFld _ _ _ (by omega) (by omega), if_neg (by omega)]

section
variable {s u : State} (kept : BootKept s u) (fine : (s.reg 0x50).getLsbD 1 = false) {n : Nat} (stage : fld (s.reg 0x50) 7 4 = n) (hn : n < 6)
include kept fine stage hn

/-- A step that verifies nothing goes on. -/
theorem bootWent_bootField {pass : Prop} (h : pass) : BootWent s (u.bootField 7 4 (n + 1)) pass where
  on _ := ⟨by rw [failed_bootField, kept.failed, fine], by rw [stage_bootField _ (by omega), stage]⟩
  stopped h' := absurd h h'

/-- A verification goes on if it passes. -/
theorem bootWent_bootTo (passes : Bool) : BootWent s (State.bootTo (u, passes) (n + 1)) (passes = true) := by
  cases passes
  case true => exact bootWent_bootField kept fine stage hn rfl
  case false =>
    have word : (State.bootTo (u, false) (n + 1)).reg 0x50 = setFld (u.reg 0x50) 1 1 1 := reg_setReg_self _ _ _
    refine ⟨nofun, fun _ => ⟨?_, ?_⟩⟩
    · rw [word, getLsbD_setFld _ _ _ (by omega) (by omega)]
      rfl
    · rw [word, fld_setFld_of_disjoint _ _ (by omega) (by omega) (by omega), kept.stage]

end

theorem active_bootTo (r : State × Bool) (n : Nat) {x : Nat} (hx : x ≤ 3) : (State.bootTo r n).active x = r.1.active x := by
  unfold State.bootTo
  split <;> exact active_bootField _ _ _ _ hx

theorem bootTo_clock (r : State × Bool) (n : Nat) : (State.bootTo r n).clock = r.1.clock := by
  unfold State.bootTo
  split <;> rfl

end Sys2Proof.Machine
/-! SUPPORT. Restarts of firmware harts (R131, R132, R134) and the steps of boot (R134, R135). -/

namespace Sys2Proof.Machine

/-! ### Where an image is entered -/

theorem image_congr {s t : State} (images : t.cp.images = s.cp.images) (mem : t.mem = s.mem) (unknown : t.memOpen = s.memOpen) (x slot : Nat) :
    t.image x slot = s.image x slot := by
  have bytes : t.byte = s.byte := funext (byte_congr mem unknown)
  have words : t.rd64 = s.rd64 := by
    funext a
    rw [State.rd64, State.rdMem, bytes, State.rd64, State.rdMem]
  have header : t.header = s.header := by
    unfold State.header
    rw [words]
  rw [State.image, images, header, State.image]

theorem fwEntry_congr {s t : State} (images : t.cp.images = s.cp.images) (mem : t.mem = s.mem) (unknown : t.memOpen = s.memOpen) (x slot : Nat) :
    t.fwEntry x slot = s.fwEntry x slot := by
  rw [State.fwEntry, image_congr images mem unknown, State.fwEntry]

/-! ### A hart that restarts -/

theorem fwHart_putHart_ne (s : State) {k j : Nat} (h : FwHart) (hj : j ≠ k) : (s.putHart k h).fwHart j = s.fwHart j := by
  simp [State.fwHart, State.putHart, mapGet_mapPut_ne _ _ hj]

section
variable (h : FwHart) (pc v : Nat)

@[simp] theorem restart_pc : (h.restart pc v).pc = pc := rfl

theorem restart_x : (h.restart pc v).x = natsPut (natsPut h.x 10 (h.chkpt % 2 ^ 64)) 11 (v % 2 ^ 64) := by
  simp [FwHart.restart, FwHart.put, FwHart.setCsr]

@[simp] theorem restart_chkpt : (h.restart pc v).chkpt = h.chkpt := by
  have csrs : (h.restart pc v).csrs = mapPut h.csrs 0x300 (setFld (setFld (h.csr 0x300) 3 3 0) 17 17 0) := by
    simp [FwHart.restart, FwHart.put, FwHart.setCsr]
  rw [FwHart.chkpt, FwHart.csr, csrs, mapGet_mapPut_ne _ _ (by omega), FwHart.chkpt, FwHart.csr]

variable {h v}

theorem keysFrom_restart (hx : keysFrom 0 h.x = true) : keysFrom 0 (h.restart pc v).x = true := by
  rw [restart_x]
  exact keysFrom_natsPut _ (keysFrom_natsPut _ hx (Nat.zero_le _)) (Nat.zero_le _)

/-- x11 holds the reason of a restart; a reason of 0 takes out what stood there. -/
theorem restart_x11 (hv : v < 2 ^ 64) (hx : 0 < v ∨ keysFrom 0 h.x = true) : (h.restart pc v).x11 = v := by
  rw [FwHart.x11, FwHart.get, restart_x, Nat.mod_eq_of_lt hv]
  obtain hpos | hx := hx
  · exact natsGet_natsPut_pos _ _ hpos
  · exact natsGet_natsPut_self _ _ (keysFrom_natsPut _ hx (Nat.zero_le _))

/-- x10 holds the checkpoint's address. -/
theorem restart_x10 (hx : keysFrom 0 h.x = true) : (h.restart pc v).x10 = h.chkpt := by
  have small : h.chkpt < 2 ^ 64 := by
    have := fld_lt (h.csr 0x7C0) 55 12
    simp only [FwHart.chkpt]
    omega
  rw [FwHart.x10, FwHart.get, restart_x, natsGet_natsPut_ne _ _ (by omega), natsGet_natsPut_self _ _ hx, Nat.mod_eq_of_lt small]

end

theorem fwHart_restartHart_self (s : State) (k v pc : Nat) : (s.restartHart k v pc).fwHart k = (s.fwHart k).restart pc v := fwHart_putHart_self s k _

theorem fwHart_restartHart_ne (s : State) {k j : Nat} (v pc : Nat) (hj : j ≠ k) : (s.restartHart k v pc).fwHart j = s.fwHart j := fwHart_putHart_ne s _ hj

/-- Every hart of a target starts at its running image, with the reason in x11. -/
theorem startHarts_at (s : State) (x : Nat) {v : Nat} (h0 : 0 < v) (h64 : v < 2 ^ 64) {h : Nat} (hh : h < 16) :
    ((s.startHarts x v).fwHart (hartKey x h)).pc = s.fwEntry x (s.active x) ∧ ((s.startHarts x v).fwHart (hartKey x h)).x11 = v := by
  have started (t : State) (k : Nat) : ((t.restartHart k v (s.fwEntry x (s.active x))).fwHart k).pc = s.fwEntry x (s.active x) ∧
      ((t.restartHart k v (s.fwEntry x (s.active x))).fwHart k).x11 = v := by
    rw [fwHart_restartHart_self]
    exact ⟨rfl, restart_x11 _ h64 (.inl h0)⟩
  unfold State.startHarts
  refine foldl_reaches (Q := fun _ => True) (P := fun t : State => (t.fwHart (hartKey x h)).pc = s.fwEntry x (s.active x) ∧ (t.fwHart (hartKey x h)).x11 = v)
    (fun _ _ _ => trivial) (fun t j ht => ?_) (fun t _ => ?_) (List.mem_range.mpr hh) trivial
  case refine_2 => exact started t _
  by_cases same : hartKey x h = hartKey x j
  · rw [← same]
    exact started t _
  · rw [fwHart_restartHart_ne _ _ _ same]
    exact ht

theorem startHarts_keeps (s : State) (x v : Nat) : (s.startHarts x v).clock = s.clock ∧ (s.startHarts x v).regs = s.regs :=
  ⟨foldl_keeps _ State.clock (fun _ _ => by rfl) _ s, foldl_keeps _ State.regs (fun _ _ => by rfl) _ s⟩

theorem bootKept_startHarts (s : State) (x v : Nat) : BootKept s (s.startHarts x v) :=
  bootKept_of_regs (startHarts_keeps s x v).2

theorem kickAll_reserve_keeps (s : State) :
    s.kickAll.reserve.clock = s.clock ∧ s.kickAll.reserve.regs = s.regs ∧ ∀ k, s.kickAll.reserve.fwHart k = s.fwHart k := ⟨rfl, rfl, fun _ => rfl⟩

/-! ### The steps of boot (R134) -/

theorem bootStep_goes {s : State} {n : Nat} (stage : fld (s.reg 0x50) 7 4 = n) (h0 : 1 ≤ n) (h6 : n < 6) (fine : (s.reg 0x50).getLsbD 1 = false)
    (power : s.parts.powered = true) : ¬(s.stage = 0 ∨ 6 ≤ s.stage ∨ (s.reg 0x50).getLsbD 1 = true ∨ (!s.parts.powered) = true) := by
  have : s.stage = n := stage
  simp only [fine, power, Bool.not_true, Bool.false_eq_true, or_false]
  omega

section
variable {s : State} {a o : SlotCheck} (fine : (s.reg 0x50).getLsbD 1 = false) (power : s.parts.powered = true)
include fine power

/-- Step 1 verifies nothing: hart 0 runs from its ROM. -/
theorem exec_bootStep_one (stage : fld (s.reg 0x50) 7 4 = 1) :
    ∃ t, exec (.bootStep a o) s = .next t ∧ t.clock = max s.clock (msCycles (stageMs 2)) ∧ BootWent s t True := by
  have goes := bootStep_goes stage (by omega) (by omega) fine power
  have kept : BootKept s (s.upTo (msCycles (stageMs 2))) := bootKept_of_regs rfl
  refine ⟨(s.upTo (msCycles (stageMs 2))).bootField 7 4 2, ?_, rfl, bootWent_bootField kept fine stage (by omega) trivial⟩
  rw [exec, execBootStep, if_neg goes, show s.stage = 1 from stage]
  rfl

/-- At step 2 the images of the command processors and of Sawyer are read and verified, the other slots' where the active ones fail. -/
theorem exec_bootStep_two (stage : fld (s.reg 0x50) 7 4 = 2) :
    ∃ t, exec (.bootStep a o) s = .next t ∧ t.clock = max s.clock (msCycles (stageMs 3)) ∧
      BootWent s t ((a.own = true ∨ o.own = true) ∧ (a.sawyer = true ∨ o.sawyer = true)) ∧
      t.active 1 = (if a.own = false ∧ o.own = true then 1 - s.active 1 else s.active 1) ∧
      t.active 2 = (if a.sawyer = false ∧ o.sawyer = true then 1 - s.active 2 else s.active 2) := by
  have goes := bootStep_goes stage (by omega) (by omega) fine power
  let t := s.upTo (msCycles (stageMs 3))
  let own := ((t.norRead 1).norRead 2).bootSlot 1 a.own o.own
  let saw := own.1.bootSlot 2 a.sawyer o.sawyer
  have read : BootKept s ((t.norRead 1).norRead 2) := bootKept_of_regs rfl
  have kept : BootKept s saw.1 := read.trans ((bootKept_bootSlot _ a.own o.own (x := 1) (by omega)).trans (bootKept_bootSlot _ a.sawyer o.sawyer (x := 2) (by omega)))
  have clock : saw.1.clock = t.clock := (bootSlot_clock _ _ _).trans (bootSlot_clock _ _ _)
  have passes : (own.2 && saw.2) = true ↔ (a.own = true ∨ o.own = true) ∧ (a.sawyer = true ∨ o.sawyer = true) := by
    simp only [own, saw, bootSlot_passes, Bool.and_eq_true, Bool.or_eq_true]
  refine ⟨State.bootTo (saw.1, own.2 && saw.2) 3, ?_, (bootTo_clock _ _).trans clock, ?_, ?_, ?_⟩
  · rw [exec, execBootStep, if_neg goes, show s.stage = 2 from stage]
    rfl
  · rw [← passes]
    exact bootWent_bootTo kept fine stage (by omega) _
  · rw [active_bootTo _ _ (by omega), active_bootSlot_ne _ _ _ (by omega) (by omega) (by omega) (by omega)]
    exact active_bootSlot_self _ _ _ (by omega)
  · rw [active_bootTo _ _ (by omega), active_bootSlot_self _ _ _ (by omega), active_bootSlot_ne _ _ _ (by omega) (by omega) (by omega) (by omega)]
    rfl

/-- At step 3 Sawyer's harts start. -/
theorem exec_bootStep_three (stage : fld (s.reg 0x50) 7 4 = 3) :
    ∃ t, exec (.bootStep a o) s = .next t ∧ t.clock = max s.clock (msCycles (stageMs 4)) ∧ BootWent s t True ∧
      ∀ h < 16, (t.fwHart (16 + h)).pc = s.fwEntry 2 (s.active 2) ∧ (t.fwHart (16 + h)).x11 = 2 := by
  have goes := bootStep_goes stage (by omega) (by omega) fine power
  have kept : BootKept s ((s.upTo (msCycles (stageMs 4))).startHarts 2 2) :=
    (bootKept_of_regs (s := s) (t := s.upTo (msCycles (stageMs 4))) rfl).trans (bootKept_startHarts _ 2 2)
  refine ⟨((s.upTo (msCycles (stageMs 4))).startHarts 2 2).bootField 7 4 4, ?_, (bootField_clock _ 7 4 4).trans (startHarts_keeps _ 2 2).1, bootWent_bootField kept fine stage (by omega) trivial,
    fun h hh => ?_⟩
  · rw [exec, execBootStep, if_neg goes, show s.stage = 3 from stage]
    rfl
  · have starts := startHarts_at (s.upTo (msCycles (stageMs 4))) 2 (v := 2) (by omega) (by omega) hh
    rw [show hartKey 2 h = 16 + h by simp [hartKey], fwEntry_congr (s := s) (by rfl) (by rfl) (by rfl)] at starts
    rw [fwHart_bootField]
    exact starts

/-- At step 4 the command processors start, record the reserved frames and reserve Landing. -/
theorem exec_bootStep_four (stage : fld (s.reg 0x50) 7 4 = 4) :
    ∃ t, exec (.bootStep a o) s = .next t ∧ t.clock = max s.clock (msCycles (stageMs 5)) ∧ BootWent s t True ∧
      (∀ h < 16, (t.fwHart h).pc = s.fwEntry 1 (s.active 1) ∧ (t.fwHart h).x11 = 2) ∧ t.xl.reserved = Config.reserved ∧
      t.net.landing = some (Config.landingFrame * Config.frameBytes) := by
  have goes := bootStep_goes stage (by omega) (by omega) fine power
  have kept : BootKept s ((s.upTo (msCycles (stageMs 5))).startHarts 1 2).kickAll.reserve :=
    (bootKept_of_regs (s := s) (t := s.upTo (msCycles (stageMs 5))) rfl).trans ((bootKept_startHarts _ 1 2).trans (bootKept_of_regs (kickAll_reserve_keeps _).2.1))
  obtain ⟨clock, -, harts⟩ := kickAll_reserve_keeps ((s.upTo (msCycles (stageMs 5))).startHarts 1 2)
  refine ⟨((s.upTo (msCycles (stageMs 5))).startHarts 1 2).kickAll.reserve.bootField 7 4 5, ?_, (bootField_clock _ 7 4 5).trans (clock.trans (startHarts_keeps _ 1 2).1), bootWent_bootField kept fine stage (by omega) trivial,
    fun h hh => ?_, rfl, rfl⟩
  · rw [exec, execBootStep, if_neg goes, show s.stage = 4 from stage]
    rfl
  · have starts := startHarts_at (s.upTo (msCycles (stageMs 5))) 1 (v := 2) (by omega) (by omega) hh
    rw [show hartKey 1 h = h by simp [hartKey], fwEntry_congr (s := s) (by rfl) (by rfl) (by rfl)] at starts
    rw [fwHart_bootField, harts]
    exact starts

/-- At step 5 the host dies' loader is verified; with it host_released is set. -/
theorem exec_bootStep_five (stage : fld (s.reg 0x50) 7 4 = 5) :
    ∃ t, exec (.bootStep a o) s = .next t ∧ t.clock = max s.clock (msCycles (stageMs 6)) ∧ BootWent s t (a.own = true ∨ o.own = true) ∧
      (a.own = true ∨ o.own = true → (t.reg 0x50).getLsbD 0 = true) := by
  have goes := bootStep_goes stage (by omega) (by omega) fine power
  let t := s.upTo (msCycles (stageMs 6))
  let r := (t.norRead 3).bootSlot 3 a.own o.own
  have read : BootKept s (t.norRead 3) := bootKept_of_regs rfl
  have kept : BootKept s r.1 := read.trans (bootKept_bootSlot _ a.own o.own (x := 3) (by omega))
  have clock : (State.bootTo r 6).clock = t.clock := (bootTo_clock r 6).trans (bootSlot_clock _ _ _)
  have passes : r.2 = true ↔ a.own = true ∨ o.own = true := by simp only [r, bootSlot_passes, Bool.or_eq_true]
  have went := bootWent_bootTo kept fine stage (by omega) r.2
  rw [← passes]
  refine ⟨if r.2 then ((State.bootTo r 6).openRange Config.loaderAt slotBytes).bootField 0 0 1 else State.bootTo r 6, ?_, ?_, ?_, fun pass => ?_⟩
  · rw [exec, execBootStep, if_neg goes, show s.stage = 5 from stage]
    rfl
  · split <;> exact clock
  · split
    · next pass =>
      obtain ⟨ok, next⟩ := went.on pass
      have word : (((State.bootTo r 6).openRange Config.loaderAt slotBytes).bootField 0 0 1).reg 0x50 = setFld ((State.bootTo r 6).reg 0x50) 0 0 1 := reg_setReg_self _ _ _
      refine ⟨fun _ => ⟨?_, ?_⟩, fun h => absurd pass h⟩
      · rw [word, getLsbD_setFld _ _ _ (by omega) (by omega), if_neg (by omega)]
        exact ok
      · rw [word, fld_setFld_of_disjoint _ _ (by omega) (by omega) (by omega)]
        exact next
    · exact went
  · rw [if_pos pass, State.bootField, reg_setReg_self, getLsbD_setFld _ _ _ (by omega) (by omega)]
    rfl

end

end Sys2Proof.Machine
/-! SUPPORT. What a device reset leaves (R108, R132, R134): the firmware floors and the ends of flash regions. -/

namespace Sys2Proof.Machine

/-- Registers in a place that a reset keeps whole are read as before. -/
theorem mapGet_keptReg (l : List (Nat × Word)) {o : Nat} (kept : ∀ w, keptReg (o, w) = some (o, w)) : mapGet (l.filterMap keptReg) o = mapGet l o := by
  have place (j : Nat) (w : Word) (y : Nat × Word) (h : keptReg (j, w) = some y) : y.1 = j := by
    simp only [keptReg] at h
    split_ifs at h
    all_goals exact (congrArg (fun p : Nat × Word => p.1) (Option.some.inj h)).symm
  induction l with
  | nil => rfl
  | cons c r ih =>
    obtain ⟨j, w⟩ := c
    by_cases e : j = o
    · subst e
      rw [List.filterMap_cons_some (kept w)]
      simp [mapGet]
    · rw [mapGet, if_neg (by simpa using e), ← ih]
      cases h : keptReg (j, w) with
      | none => rw [List.filterMap_cons_none h]
      | some y =>
        obtain ⟨j', w'⟩ := y
        obtain rfl : j' = j := place j w _ h
        rw [List.filterMap_cons_some h, mapGet, if_neg (by simpa using e)]

theorem keptReg_floor {o : Nat} (h : o ∈ [0x30, 0x38, 0x40]) (w : Word) : keptReg (o, w) = some (o, w) := by
  simp only [List.mem_cons, List.not_mem_nil, or_false] at h
  rw [keptReg, if_pos (by simp only; omega)]

theorem keptReg_regionEnd {n : Nat} (h : n < 16384) (w : Word) : keptReg (offRegionEnd n, w) = some (offRegionEnd n, w) := by
  have place : 0x30010000 ≤ offRegionEnd n ∧ offRegionEnd n < 0x30050000 := by
    simp only [offRegionEnd]
    omega
  unfold keptReg
  rw [if_neg (by simp only; omega), if_neg (by simp only; omega), if_neg (by simp only; omega), if_pos place]

/-! ### The flash tier settles (R108) -/

theorem sealedEnd_setSealed_self (s : State) (n e : Nat) : (s.setSealed n e).sealedEnd n = e % 2 ^ 40 := by
  rw [State.sealedEnd, State.setSealed, reg_setReg_self, fld_setFld_self _ _ (by omega) (by omega)]

theorem sealedEnd_setSealed_ne (s : State) {n m : Nat} (e : Nat) (h : m ≠ n) : (s.setSealed n e).sealedEnd m = s.sealedEnd m := by
  rw [State.sealedEnd, State.setSealed, reg_setReg_ne _ _ (by simp only [offRegionEnd]; omega), State.sealedEnd]

theorem sealedEnd_foldl_below {l : List (Nat × Nat)} {lo n : Nat} (keys : keysFrom lo l = true) (h : n < lo) (s : State) :
    (l.foldl (fun t x => t.setSealed x.1 x.2) s).sealedEnd n = s.sealedEnd n := by
  induction l generalizing s lo with
  | nil => rfl
  | cons c r ih =>
    obtain ⟨j, e⟩ := c
    simp only [keysFrom, Bool.and_eq_true, decide_eq_true_eq] at keys
    rw [List.foldl_cons, ih keys.2 (by omega), sealedEnd_setSealed_ne _ _ (by omega)]

/-- Every region stands at its last committed end. -/
theorem sealedEnd_foldl {l : List (Nat × Nat)} {lo n e : Nat} (keys : keysFrom lo l = true) (h : mapGet l n = some e) (s : State) :
    (l.foldl (fun t x => t.setSealed x.1 x.2) s).sealedEnd n = e % 2 ^ 40 := by
  induction l generalizing s lo with
  | nil => simp at h
  | cons c r ih =>
    obtain ⟨j, v⟩ := c
    simp only [keysFrom, Bool.and_eq_true, decide_eq_true_eq] at keys
    rw [mapGet] at h
    split at h
    · next same =>
      obtain ⟨rfl, rfl⟩ : v = e ∧ j = n := ⟨by simpa using h, by simpa using same⟩
      rw [List.foldl_cons, sealedEnd_foldl_below keys.2 (by omega), sealedEnd_setSealed_self]
    · exact ih keys.2 h _

@[simp] theorem reg_setFlash (s : State) (f : Flash) (o : Nat) : (s.setFlash f).reg o = s.reg o := rfl

/-- A slot that closes changes its own register and the bit that says its region is open. -/
theorem reg_closeSlot (s : State) (h : Nat) {o : Nat} (ho : o ≠ offStream h) : (s.closeSlot h).reg o = (s.setOpen (s.streamRegion h) false).reg o := by
  rw [State.closeSlot, reg_setFlash, reg_setReg_ne _ _ ho]

/-- A slot that closes leaves every region's sealed end. -/
theorem sealedEnd_closeSlot (s : State) (h : Nat) {n : Nat} (hn : n < 16384) : (s.closeSlot h).sealedEnd n = s.sealedEnd n := by
  rw [State.sealedEnd, reg_closeSlot s h (by simp only [offRegionEnd, offStream]; omega), State.setOpen]
  by_cases same : n = s.streamRegion h
  · rw [same, reg_setReg_self, fld_setFld_of_disjoint _ _ (by omega) (by omega) (by omega), State.sealedEnd]
  · rw [reg_setReg_ne _ _ (by simp only [offRegionEnd]; omega), State.sealedEnd]

/-- No register below those of flash regions changes when a slot closes. -/
theorem reg_closeSlot_low (s : State) (h : Nat) {o : Nat} (ho : o < 0x30030000) : (s.closeSlot h).reg o = s.reg o := by
  rw [reg_closeSlot s h (by simp only [offStream]; omega), State.setOpen, reg_setReg_ne _ _ (by simp only [offRegionEnd]; omega)]

theorem reg_flashSettle_low (s : State) {o : Nat} (ho : o < 0x30030000) : s.flashSettle.reg o = s.reg o := by
  have closed := foldl_keeps (fun t (x : Nat × FStream) => (t.dropExtents x.2 (t.streamRegion x.1) (t.sealedEnd (t.streamRegion x.1))).closeSlot x.1)
    (State.reg · o) (fun t x => reg_closeSlot_low _ x.1 ho)
  have set := foldl_keeps (fun t (x : Nat × Nat) => t.setSealed x.1 x.2) (State.reg · o)
    (fun t x => reg_setReg_ne t _ (by simp only [offRegionEnd]; omega)) s.flash.committed s
  exact (closed _ _).trans set

theorem sealedEnd_flashSettle {s : State} (keys : keysFrom 0 s.flash.committed = true) {n e : Nat} (hn : n < 16384) (h : mapGet s.flash.committed n = some e) :
    s.flashSettle.sealedEnd n = e % 2 ^ 40 := by
  have closed := foldl_keeps (fun t (x : Nat × FStream) => (t.dropExtents x.2 (t.streamRegion x.1) (t.sealedEnd (t.streamRegion x.1))).closeSlot x.1)
    (State.sealedEnd · n) (fun t x => sealedEnd_closeSlot _ x.1 hn)
  exact (closed _ _).trans (sealedEnd_foldl keys h s)

/-! ### The reset -/

/-- HUB_BOOT_STATUS apart, a register in a place that a reset keeps is the settled one. -/
theorem reg_reborn (s : State) (last : Nat) (powered : Bool) {o : Nat} (h : o ≠ 0x50) (kept : ∀ w, keptReg (o, w) = some (o, w)) :
    (s.reborn last powered).reg o = s.flashSettle.reg o := by
  show (mapGet (mapPut (s.flashSettle.regs.filterMap keptReg) 0x50 _) o).getD (regReset o) = _
  rw [mapGet_mapPut_ne _ _ h, mapGet_keptReg _ kept, State.reg]

/-- What a device reset leaves, for each of its causes. -/
theorem reborn_spec (s : State) (last : Nat) (powered : Bool) : Reborn s (s.reborn last powered) last powered := by
  refine ⟨rfl, rfl, rfl, rfl, rfl, rfl, rfl, ?_, fun o ho => ?_, fun keys n e hn h => ?_⟩
  · show (mapGet (mapPut _ 0x50 _) 0x50).getD _ = _
    rw [mapGet_mapPut_self, Option.getD_some]
  · have low : o < 0x50 := by
      simp only [List.mem_cons, List.not_mem_nil, or_false] at ho
      omega
    rw [reg_reborn s _ _ (by omega) (keptReg_floor ho), reg_flashSettle_low s (by omega)]
  · rw [State.sealedEnd, reg_reborn s _ _ (by simp only [offRegionEnd]; omega) (keptReg_regionEnd hn)]
    exact sealedEnd_flashSettle keys hn h

end Sys2Proof.Machine

/-! SUPPORT. A verification of firmware ends (R130, R131). -/

namespace Sys2Proof.Machine

theorem accepted_iff (s : State) (x : Nat) : s.accepted x = true ↔
    s.signed x (1 - s.active x) = true ∧ (s.image x (1 - s.active x)).formed = true ∧ (s.reg (offFwFloor x)).toNat ≤ (s.image x (1 - s.active x)).version ∧
      ((s.image x (1 - s.active x)).ckfmt = (s.image x (s.active x)).ckfmt ∨ (s.image x (1 - s.active x)).ckfmt = (s.image x (s.active x)).ckfmt + 1) := by
  simp only [State.accepted, Bool.and_eq_true, Bool.or_eq_true, beq_iff_eq, decide_eq_true_eq]
  tauto

section
variable {s : State} {x : Nat} (h1 : 1 ≤ x) (h3 : x ≤ 3) (verifying : fld (s.reg (offFwCtl x)) 7 5 = 2) (took : Nat)
include h1 h3 verifying

theorem fwVerify_goes : ¬(x = 0 ∨ 3 < x ∨ fld (s.reg (offFwCtl x)) 7 5 ≠ 2) := by omega

theorem exec_fwVerifyDone_rejected (bad : ¬ s.accepted x = true) : exec (.fwVerifyDone x took) s = .next ((s.upTo (s.clock + took)).fwState x 5) := by
  rw [exec, execFwVerifyDone, if_neg (fwVerify_goes h1 h3 verifying), if_pos (by simpa using bad)]

/-- The harts of an accepted image wait to be handed over. -/
theorem exec_fwVerifyDone_harts (good : s.accepted x = true) (hx : x ≠ 3) :
    exec (.fwVerifyDone x took) s = .next ({ (s.upTo (s.clock + took)).fwState x 3 with
      cp := { s.cp with swaps := mapPut s.cp.swaps x ⟨0, [], (s.upTo (s.clock + took)).clock⟩ } } : State) := by
  rw [exec, execFwVerifyDone, if_neg (fwVerify_goes h1 h3 verifying), if_neg (by simpa using good)]
  dsimp only
  rw [if_neg hx]
  rfl

/-- The loader, which has no harts, changes at once. -/
theorem exec_fwVerifyDone_loader (good : s.accepted x = true) (hx : x = 3) :
    exec (.fwVerifyDone x took) s = .next (((s.upTo (s.clock + took)).fwState x 3).swapDone x) := by
  subst hx
  rw [exec, execFwVerifyDone, if_neg (fwVerify_goes h1 h3 verifying), if_neg (by simpa using good)]
  rfl

end

end Sys2Proof.Machine
/-! SUPPORT. Quiescent points (R119, R131): the heads of queues advance, a hart goes back to the old image or over to the new one. -/

namespace Sys2Proof.Machine

/-! ### Launch queues -/

theorem queue_congr {s t : State} (h : t.hub.queues = s.hub.queues) (q : Nat) : t.queue q = s.queue q := by
  simp only [State.queue, h]

theorem queue_setQueue_self {s : State} (keys : keysFrom 0 s.hub.queues = true) (n : Nat) (l : List (List Word)) : (s.setQueue n l).queue n = l := by
  cases l with
  | nil => simp [State.queue, State.setQueue, mapGet_mapDel_self n keys]
  | cons r l => simp [State.queue, State.setQueue, mapGet_mapPut_self]

theorem queue_setQueue_ne (s : State) {n q : Nat} (l : List (List Word)) (h : q ≠ n) : (s.setQueue n l).queue q = s.queue q := by
  cases l with
  | nil => simp [State.queue, State.setQueue, mapGet_mapDel_ne _ h]
  | cons r l => simp [State.queue, State.setQueue, mapGet_mapPut_ne _ _ h]

theorem keysFrom_setQueue {s : State} (keys : keysFrom 0 s.hub.queues = true) (n : Nat) (l : List (List Word)) : keysFrom 0 (s.setQueue n l).hub.queues = true := by
  cases l with
  | nil => exact keysFrom_mapDel n keys
  | cons r l => exact keysFrom_mapPut _ keys (Nat.zero_le _)

/-- The head of a queue advances. -/
def State.advanceHead (s : State) (q : Nat) : State := (s.setQueue q (s.queue q).tail).headMoved q true

/-- Each of some queues advances by one record. -/
theorem queue_foldl_advanceHead {l : List Nat} (once : l.Nodup) {s : State} (keys : keysFrom 0 s.hub.queues = true) (q : Nat) :
    (l.foldl State.advanceHead s).queue q = if q ∈ l then (s.queue q).tail else s.queue q := by
  induction l generalizing s with
  | nil => rfl
  | cons n r ih =>
    obtain ⟨new, rest⟩ := List.nodup_cons.mp once
    have keys' : keysFrom 0 (s.advanceHead n).hub.queues = true := keysFrom_setQueue keys n _
    rw [List.foldl_cons, ih rest keys']
    by_cases e : q = n
    · subst e
      have advanced : (s.advanceHead q).queue q = (s.queue q).tail := queue_setQueue_self keys q _
      rw [if_neg new, if_pos List.mem_cons_self, advanced]
    · have other : (s.advanceHead n).queue q = s.queue q := queue_setQueue_ne s _ e
      simp only [List.mem_cons, e, false_or, other]

/-! ### What a quiescent point keeps of the firmware -/

/-- What a hand-over looks at is as it was: slots, images, swaps under way, harts to go back, the hart's registers and checkpoint. -/
structure SameFirmware (s t : State) (k : Nat) : Prop where
  clock : t.clock = s.clock
  regs : t.regs = s.regs
  swaps : t.cp.swaps = s.cp.swaps
  images : t.cp.images = s.cp.images
  back : t.cp.back = s.cp.back
  x : (t.fwHart k).x = (s.fwHart k).x
  csrs : (t.fwHart k).csrs = (s.fwHart k).csrs

theorem SameFirmware.trans {s t u : State} {k : Nat} (h : SameFirmware s t k) (h' : SameFirmware t u k) : SameFirmware s u k where
  clock := h'.clock.trans h.clock
  regs := h'.regs.trans h.regs
  swaps := h'.swaps.trans h.swaps
  images := h'.images.trans h.images
  back := h'.back.trans h.back
  x := h'.x.trans h.x
  csrs := h'.csrs.trans h.csrs

theorem sameFirmware_checkpoint (s : State) (k j : Nat) : SameFirmware s (s.checkpoint k) j := by
  unfold State.checkpoint
  dsimp only
  split <;> exact ⟨rfl, rfl, rfl, rfl, rfl, rfl, rfl⟩

theorem sameFirmware_advanceHead (s : State) (q k : Nat) : SameFirmware s (s.advanceHead q) k := ⟨rfl, rfl, rfl, rfl, rfl, rfl, rfl⟩

theorem sameFirmware_advanceHeads (s : State) (h k : Nat) : SameFirmware s (s.advanceHeads h) k := by
  have fold := List.foldlRecOn (s.cp.served.filter fun q => q % 16 == h) State.advanceHead (motive := fun t => SameFirmware s t k)
    ⟨rfl, rfl, rfl, rfl, rfl, rfl, rfl⟩ fun t ht q _ => ht.trans (sameFirmware_advanceHead t q k)
  exact ⟨fold.clock, fold.regs, fold.swaps, fold.images, fold.back, fold.x, fold.csrs⟩

theorem sameFirmware_settleIrq (s : State) (k : Nat) : SameFirmware s (s.settleIrq k) k := by
  unfold State.settleIrq
  split
  · have hart := fwHart_putHart_self s k { s.fwHart k with irq := false }
    exact ⟨rfl, rfl, rfl, rfl, rfl, (congrArg FwHart.x hart :), (congrArg FwHart.csrs hart :)⟩
  · exact ⟨rfl, rfl, rfl, rfl, rfl, rfl, rfl⟩

/-- After the checkpoint, the heads and the interrupt, a quiescent point takes the hart back or over. -/
theorem exec_cpQuiesceWrite_goes {s : State} {saw : Bool} {h : Fin 16} (runs : (if saw then 4 else 5) ≤ fld (s.reg 0x50) 7 4) :
    ∃ u, exec (.cpQuiesceWrite ⟨saw, h⟩) s = .next ((u.goBack (16 * ((if saw then 2 else 1) - 1) + h.val)).handOver (16 * ((if saw then 2 else 1) - 1) + h.val)) ∧
      SameFirmware s u (16 * ((if saw then 2 else 1) - 1) + h.val) := by
  cases saw
  case true =>
    have stage : ¬ s.stage < 4 := not_lt.mpr runs
    refine ⟨s.checkpoint (16 + h.val), ?_, sameFirmware_checkpoint s _ _⟩
    simp only [exec, execCpQuiesceWrite, if_neg stage, if_true]
  case false =>
    have runs' : s.cpRuns = true := decide_eq_true runs
    refine ⟨((s.checkpoint h.val).advanceHeads h.val).settleIrq h.val, ?_, ?_⟩
    · simp [exec, execCpQuiesceWrite, runs']
    · rw [show 16 * ((if false = true then 2 else 1) - 1) + h.val = h.val by simp]
      exact (sameFirmware_checkpoint s _ _).trans ((sameFirmware_advanceHeads _ _ _).trans (sameFirmware_settleIrq _ _))

/-! ### Going back and going over (R131) -/

theorem hartTarget_key {x h : Nat} (h1 : 1 ≤ x) (hh : h < 16) : hartTarget (16 * (x - 1) + h) = x := by
  unfold hartTarget
  omega

theorem fwEntry_of_image {s : State} {x slot : Nat} {im : FwImage} (h : mapGet s.cp.images (2 * x + slot) = some im) :
    s.fwEntry x slot = slotAt x slot + 64 + im.entry := by
  rw [State.fwEntry, State.image, h, Option.getD_some]

theorem chkpt_congr {h k : FwHart} (csrs : k.csrs = h.csrs) : k.chkpt = h.chkpt := by
  simp only [FwHart.chkpt, FwHart.csr, csrs]

/-- Going back changes nothing that a hand-over then looks at, but for the hart's registers. -/
theorem goBack_keeps (s : State) (k : Nat) : (s.goBack k).clock = s.clock ∧ (s.goBack k).regs = s.regs ∧ (s.goBack k).cp.swaps = s.cp.swaps ∧
    (s.goBack k).cp.images = s.cp.images ∧ (s.goBack k).hub = s.hub ∧ (s.goBack k).cp.served = s.cp.served ∧ ((s.goBack k).fwHart k).chkpt = (s.fwHart k).chkpt ∧
    (keysFrom 0 (s.fwHart k).x = true → keysFrom 0 ((s.goBack k).fwHart k).x = true) := by
  unfold State.goBack
  split
  · have hart := fwHart_restartHart_self s k 1 (s.fwEntry (hartTarget k) (s.active (hartTarget k)))
    refine ⟨rfl, rfl, rfl, rfl, rfl, rfl, ?_, fun keys => ?_⟩
    · exact (congrArg FwHart.chkpt hart).trans (restart_chkpt _ _ _)
    · exact (congrArg (fun h : FwHart => keysFrom 0 h.x) hart).trans (keysFrom_restart _ keys)
  · exact ⟨rfl, rfl, rfl, rfl, rfl, rfl, rfl, id⟩

/-- A hart that an aborted swap left on the new image restarts on the old one. -/
theorem goBack_returns {s : State} {k : Nat} (h : k ∈ s.cp.back) :
    ((s.goBack k).fwHart k).pc = s.fwEntry (hartTarget k) (s.active (hartTarget k)) ∧ ((s.goBack k).fwHart k).x11 = 1 ∧ k ∉ (s.goBack k).cp.back := by
  have hart := fwHart_restartHart_self s k 1 (s.fwEntry (hartTarget k) (s.active (hartTarget k)))
  rw [State.goBack, if_pos (by simpa using h)]
  refine ⟨congrArg FwHart.pc hart, (congrArg FwHart.x11 hart).trans (restart_x11 _ (by omega) (.inl (by omega))), ?_⟩
  show k ∉ s.cp.back.filter fun j => j != k
  simp

theorem handOver_of_none {s : State} {k : Nat} (h : mapGet s.cp.swaps (hartTarget k) = none) : s.handOver k = s := by
  rw [State.handOver, h]

theorem handOver_hub_served (s : State) (k : Nat) : (s.handOver k).hub = s.hub ∧ (s.handOver k).cp.served = s.cp.served := by
  unfold State.handOver
  dsimp only
  split
  · exact ⟨rfl, rfl⟩
  · split
    · exact ⟨rfl, rfl⟩
    · split
      · exact ⟨rfl, rfl⟩
      · rw [swapDone_frame]
        exact ⟨rfl, rfl⟩

section
variable {s : State} {x h : Nat} (h1 : 1 ≤ x) (hh : h < 16) {w : Swap} (under : mapGet s.cp.swaps x = some w) (turn : w.waiting = h)
include h1 hh under turn

/-- A hand-over's turn at the hart: it restarts on the new image, and the next hart is waited for, or, after the last, the swap is complete. -/
theorem handOver_eq : s.handOver (16 * (x - 1) + h) =
    let t := (s.restartHart (16 * (x - 1) + h) 1 (s.fwEntry x (1 - s.active x))).fwState x 4
    if h < 15 then t.setCp { t.cp with swaps := mapPut s.cp.swaps x ⟨h + 1, w.handed ++ [h], s.clock⟩ }
    else ((t.fwState x 0).swapDone x).setCp { t.cp with swaps := mapDel s.cp.swaps x } := by
  have waits : ¬ w.waiting ≠ (16 * (x - 1) + h) % 16 := by omega
  subst turn
  rw [State.handOver, hartTarget_key h1 hh, under]
  dsimp only
  rw [if_neg waits]
  rfl

theorem handOver_hart : (s.handOver (16 * (x - 1) + h)).fwHart (16 * (x - 1) + h) =
    (s.fwHart (16 * (x - 1) + h)).restart (s.fwEntry x (1 - s.active x)) 1 := by
  rw [handOver_eq h1 hh under turn]
  dsimp only
  split
  · exact fwHart_restartHart_self s _ 1 _
  · exact fwHart_restartHart_self s _ 1 _

theorem handOver_next (more : h < 15) : fld ((s.handOver (16 * (x - 1) + h)).reg (offFwCtl x)) 7 5 = 4 ∧
    (s.handOver (16 * (x - 1) + h)).active x = s.active x ∧ mapGet (s.handOver (16 * (x - 1) + h)).cp.swaps x = some ⟨h + 1, w.handed ++ [h], s.clock⟩ := by
  rw [handOver_eq h1 hh under turn]
  dsimp only
  rw [if_pos more]
  exact ⟨state_fwState _ (by omega), active_fwState _ _ _, mapGet_mapPut_self _ _ _⟩

theorem handOver_last (h3 : x ≤ 3) (last : h = 15) (keys : keysFrom 0 s.cp.swaps = true) : fld ((s.handOver (16 * (x - 1) + h)).reg (offFwCtl x)) 7 5 = 0 ∧
    (s.handOver (16 * (x - 1) + h)).active x = 1 - s.active x ∧ ((s.handOver (16 * (x - 1) + h)).reg (offFwCtl x)).getLsbD 4 = true ∧
    mapGet (s.handOver (16 * (x - 1) + h)).cp.swaps x = none := by
  rw [handOver_eq h1 hh under turn]
  dsimp only
  rw [if_neg (by omega)]
  generalize ht : (s.restartHart (16 * (x - 1) + h) 1 (s.fwEntry x (1 - s.active x))).fwState x 4 = t
  have same : t.active x = s.active x := by
    rw [← ht, active_fwState]
    rfl
  obtain ⟨active, swapped, state⟩ := swapDone_spec (t.fwState x 0) h3
  refine ⟨state.trans (state_fwState t (by omega)), active.trans ?_, swapped, mapGet_mapDel_self x keys⟩
  rw [active_fwState, same]

end

/-- A hart of the hub declares a quiescent point: its queues advance past what it has processed (R119), and no others do. -/
theorem exec_cpQuiesceWrite_queues {s : State} {h : Fin 16} (runs : 5 ≤ fld (s.reg 0x50) 7 4) (once : s.cp.served.Nodup) (keys : keysFrom 0 s.hub.queues = true) :
    ∃ t, exec (.cpQuiesceWrite ⟨false, h⟩) s = .next t ∧ (∀ q ∈ s.cp.served, q % 16 = h.val → t.queue q = (s.queue q).tail ∧ q ∉ t.cp.served) ∧
      ∀ q, q ∉ s.cp.served ∨ q % 16 ≠ h.val → t.queue q = s.queue q := by
  have runs' : s.cpRuns = true := decide_eq_true runs
  let u := (s.checkpoint h.val).advanceHeads h.val
  let v := (u.settleIrq h.val).goBack h.val
  have ran : exec (.cpQuiesceWrite ⟨false, h⟩) s = .next (v.handOver h.val) := by simp [exec, execCpQuiesceWrite, runs', u, v]
  have kept : (s.checkpoint h.val).cp = s.cp ∧ (s.checkpoint h.val).hub = s.hub := by
    unfold State.checkpoint
    dsimp only
    split <;> exact ⟨rfl, rfl⟩
  have settled : (u.settleIrq h.val).hub = u.hub ∧ (u.settleIrq h.val).cp.served = u.cp.served := by
    unfold State.settleIrq
    split <;> exact ⟨rfl, rfl⟩
  obtain ⟨-, -, -, -, backHub, backServed, -, -⟩ := goBack_keeps (u.settleIrq h.val) h.val
  obtain ⟨overHub, overServed⟩ := handOver_hub_served v h.val
  have hub : (v.handOver h.val).hub = u.hub := overHub.trans (backHub.trans settled.1)
  have served : (v.handOver h.val).cp.served = s.cp.served.filter fun q => q % 16 != h.val := by
    have heads : u.cp.served = (s.checkpoint h.val).cp.served.filter fun q => q % 16 != h.val :=
      congrArg (fun l => l.filter fun q => q % 16 != h.val) (foldl_keeps State.advanceHead (fun t => t.cp.served) (fun _ _ => rfl) _ (s.checkpoint h.val))
    rw [overServed, backServed, settled.2, heads, kept.1]
  have queues (q : Nat) : (v.handOver h.val).queue q = if q ∈ s.cp.served.filter (fun q => q % 16 == h.val) then (s.queue q).tail else s.queue q := by
    have heads := queue_foldl_advanceHead (once.filter fun q => q % 16 == h.val) (s := s.checkpoint h.val) (by rw [kept.2]; exact keys) q
    rw [queue_congr (congrArg Hub.queues kept.2)] at heads
    rw [queue_congr (congrArg Hub.queues hub), ← heads, ← kept.1]
    rfl
  refine ⟨_, ran, fun q hq mine => ⟨?_, ?_⟩, fun q other => ?_⟩
  · rw [queues, if_pos (by simp [hq, mine])]
  · rw [served]
    simp [mine]
  · rw [queues, if_neg (by simpa [or_iff_not_imp_left] using other)]

end Sys2Proof.Machine
/-! SUPPORT. The watchdog ladder (R118, R131 to R133): a hand-over that is given up, a level that is counted, the records of an action. -/

namespace Sys2Proof.Machine

theorem msCycles_eq (n : Nat) : msCycles n = n * 1000 * Config.cyclesPerUs := by
  rw [msCycles, usCycles, Nat.mul_comm 1000]

theorem fwHart_congr {s t : State} (h : t.cp.harts = s.cp.harts) (k : Nat) : t.fwHart k = s.fwHart k := by
  simp only [State.fwHart, h]

/-! ### A hand-over is given up (R131) -/

/-- The harts that a target's swap has handed over. -/
def State.handedOver (s : State) (x : Nat) : List Nat := ((mapGet s.cp.swaps x).map Swap.handed).getD []

theorem handedOver_of_some {s : State} {x : Nat} {w : Swap} (h : mapGet s.cp.swaps x = some w) : s.handedOver x = w.handed := by
  rw [State.handedOver, h, Option.map_some, Option.getD_some]

theorem abortSwap_frame (s : State) (x : Nat) : s.abortSwap x =
    { s with regs := (s.abortSwap x).regs, cp := { s.cp with swaps := (s.abortSwap x).cp.swaps, back := (s.abortSwap x).cp.back } } := by
  unfold State.abortSwap
  split <;> rfl

section
variable (s : State) {x : Nat}

theorem reg_abortSwap_ne {o : Nat} (h : o ≠ offFwCtl x) : (s.abortSwap x).reg o = s.reg o := by
  unfold State.abortSwap
  split
  · rfl
  · exact reg_fwState_ne s 5 h

theorem active_abortSwap (y : Nat) : (s.abortSwap x).active y = s.active y := by
  unfold State.abortSwap
  split
  · rfl
  · exact active_fwState s 5 y

theorem abortSwap_back : (s.abortSwap x).cp.back = s.cp.back ++ (s.handedOver x).map (hartKey x) := by
  unfold State.abortSwap State.handedOver
  split
  · next h => simp [h]
  · next w h => simp [h, State.setCp]

theorem mapGet_swaps_abortSwap_ne {y : Nat} (h : y ≠ x) : mapGet (s.abortSwap x).cp.swaps y = mapGet s.cp.swaps y := by
  unfold State.abortSwap
  split
  · rfl
  · exact mapGet_mapDel_ne _ h

/-- Its state field is then 5. -/
theorem state_abortSwap (h : (mapGet s.cp.swaps x).isSome = true) : fld ((s.abortSwap x).reg (offFwCtl x)) 7 5 = 5 := by
  obtain ⟨w, hw⟩ := Option.isSome_iff_exists.mp h
  rw [State.abortSwap, hw]
  exact state_fwState s (by omega)

variable (keys : keysFrom 0 s.cp.swaps = true)
include keys

theorem mapGet_swaps_abortSwap_self : mapGet (s.abortSwap x).cp.swaps x = none := by
  unfold State.abortSwap
  split
  · assumption
  · exact mapGet_mapDel_self x keys

theorem keysFrom_abortSwap : keysFrom 0 (s.abortSwap x).cp.swaps = true := by
  unfold State.abortSwap
  split
  · exact keys
  · exact keysFrom_mapDel x keys

end

/-- The hart that a swap waits for reaches no quiescent point in time. -/
theorem exec_handoverTimeout_waits {s : State} {saw : Bool} {h : Fin 16} {w : Swap} (under : mapGet s.cp.swaps (if saw then 2 else 1) = some w) (turn : w.waiting = h.val) :
    exec (.handoverTimeout ⟨saw, h⟩) s = .next ((s.upTo (w.since + msCycles 50)).abortSwap (if saw then 2 else 1)) := by
  simp only [exec, execHandoverTimeout, under, if_pos turn]

/-- Both targets' hand-overs are given up. -/
def State.abortSwaps (s : State) : State := (s.abortSwap 1).abortSwap 2

theorem abortSwaps_frame (s : State) : s.abortSwaps =
    { s with regs := s.abortSwaps.regs, cp := { s.cp with swaps := s.abortSwaps.cp.swaps, back := s.abortSwaps.cp.back } } := by
  rw [State.abortSwaps, abortSwap_frame (s.abortSwap 1), abortSwap_frame s]

theorem reg_abortSwaps_high (s : State) {o : Nat} (h : 0x28 ≤ o) : (s.abortSwaps).reg o = s.reg o := by
  have h1 := offFwCtl_lt (x := 1) (by omega)
  have h2 := offFwCtl_lt (x := 2) (by omega)
  rw [State.abortSwaps, reg_abortSwap_ne _ (by omega), reg_abortSwap_ne _ (by omega)]

theorem active_abortSwaps (s : State) (y : Nat) : s.abortSwaps.active y = s.active y := by
  rw [State.abortSwaps, active_abortSwap, active_abortSwap]

theorem abortSwaps_gives_up {s : State} (keys : keysFrom 0 s.cp.swaps = true) : ∀ x ∈ [1, 2],
    mapGet s.abortSwaps.cp.swaps x = none ∧ ((mapGet s.cp.swaps x).isSome = true → fld (s.abortSwaps.reg (offFwCtl x)) 7 5 = 5) := by
  intro x hx
  obtain rfl | rfl : x = 1 ∨ x = 2 := by simpa using hx
  · refine ⟨?_, fun h => ?_⟩
    · rw [State.abortSwaps, mapGet_swaps_abortSwap_ne _ (by omega)]
      exact mapGet_swaps_abortSwap_self s keys
    · rw [State.abortSwaps, reg_abortSwap_ne _ (offFwCtl_ne (by omega) (by omega) (by omega))]
      exact state_abortSwap s h
  · refine ⟨mapGet_swaps_abortSwap_self _ (keysFrom_abortSwap s keys), fun h => state_abortSwap _ ?_⟩
    rwa [mapGet_swaps_abortSwap_ne _ (by omega)]

/-- A hart of the hub runs from the slot it ran from: one that was handed over is now one that is to go back. -/
theorem hartSlot_abortSwaps {s : State} (keys : keysFrom 0 s.cp.swaps = true) {k : Nat} (hk : k < 16) : s.abortSwaps.hartSlot k = s.hartSlot k := by
  have target : hartTarget k = 1 := by unfold hartTarget; omega
  have gone := (abortSwaps_gives_up keys 1 (by simp)).1
  have back : k ∈ s.abortSwaps.cp.back ↔ k ∈ s.cp.back ∨ k ∈ s.handedOver 1 := by
    have mine : k ∈ (s.handedOver 1).map (hartKey 1) ↔ k ∈ s.handedOver 1 := by simp [hartKey]
    have saw : k ∉ ((s.abortSwap 1).handedOver 2).map (hartKey 2) := by
      simp only [List.mem_map, hartKey, not_exists, not_and]
      omega
    rw [State.abortSwaps, abortSwap_back, abortSwap_back, List.mem_append, List.mem_append, mine, or_iff_left saw]
  have moved : (s.abortSwaps.cp.back.contains k || (mapGet s.abortSwaps.cp.swaps 1).any fun w => w.handed.contains (k % 16)) =
      (s.cp.back.contains k || (mapGet s.cp.swaps 1).any fun w => w.handed.contains (k % 16)) := by
    rw [gone, Nat.mod_eq_of_lt hk, Bool.eq_iff_iff]
    simp only [Option.any_none, Bool.or_false, List.contains_iff_mem, back, Bool.or_eq_true]
    cases h : mapGet s.cp.swaps 1 <;> simp [State.handedOver, h]
  simp only [State.hartSlot, target, active_abortSwaps, moved]

/-! ### A level is counted in HUB_WD_STATUS (R133) -/

theorem wdCount_one (s : State) : s.wdCount 1 = s.abortSwaps.setReg 0x48 (setFld (satAdd (s.reg 0x48) 47 32 1) 2 0 1) := by
  rw [← reg_abortSwaps_high s (by omega)]
  rfl

theorem wdCount_four (s : State) : s.wdCount 4 = s.abortSwaps.setReg 0x48 (setFld (satAdd (s.reg 0x48) 15 8 1) 2 0 4) := by
  rw [← reg_abortSwaps_high s (by omega)]
  rfl

theorem hartSlot_wdCount_one {s : State} (keys : keysFrom 0 s.cp.swaps = true) {k : Nat} (hk : k < 16) : (s.wdCount 1).hartSlot k = s.hartSlot k := by
  have target : hartTarget k ≤ 3 := by unfold hartTarget; omega
  rw [← hartSlot_abortSwaps keys hk, wdCount_one]
  simp only [State.hartSlot, active_setReg_high _ _ target (show 0x28 ≤ 0x48 by omega), setReg_cp]

/-! ### Records (R125) -/

/-- What the posting of records keeps: the clock, the command processors, translation, launch queues, and the hub's registers below those of tenants. -/
structure KeptByRecords (s t : State) : Prop where
  clock : t.clock = s.clock
  cp : t.cp = s.cp
  xl : t.xl = s.xl
  queues : t.hub.queues = s.hub.queues
  low : ∀ o < 0x1000000, t.reg o = s.reg o

theorem KeptByRecords.refl (s : State) : KeptByRecords s s := ⟨rfl, rfl, rfl, rfl, fun _ _ => rfl⟩

theorem KeptByRecords.trans {s t u : State} (h : KeptByRecords s t) (k : KeptByRecords t u) : KeptByRecords s u :=
  ⟨k.clock.trans h.clock, k.cp.trans h.cp, k.xl.trans h.xl, k.queues.trans h.queues, fun o ho => (k.low o ho).trans (h.low o ho)⟩

theorem keptByRecords_setReg (s : State) {o : Nat} (w : Word) (h : 0x1000000 ≤ o) : KeptByRecords s (s.setReg o w) :=
  ⟨rfl, rfl, rfl, rfl, fun _ hj => reg_setReg_ne s w (by omega)⟩

theorem keptByRecords_wr64 (s : State) (a : Nat) (w : Word) : KeptByRecords s (s.wr64 a w) := by
  constructor <;> simp [State.reg]

theorem keptByRecords_winDrop (s : State) (n count : Nat) : KeptByRecords s (s.winDrop n count) := by
  rw [State.winDrop]
  exact keptByRecords_setReg s _ (by omega)

theorem keptByRecords_unitWrote (s : State) (a n : Nat) : KeptByRecords s (s.unitWrote a n) := by
  unfold State.unitWrote
  refine List.foldlRecOn _ _ (motive := KeptByRecords s) ⟨rfl, rfl, rfl, rfl, fun _ _ => rfl⟩ fun t ht i _ => ?_
  extract_lets lo hi
  clear_value lo hi
  split
  · exact ht.trans (keptByRecords_winDrop t _ _)
  · exact ht

/-- The message to the host die, where one is asked for. -/
theorem KeptByRecords.msi {s t : State} (h : KeptByRecords s t) (asked : Bool) (l : List Nat) :
    KeptByRecords s (if asked = true then { t with hub := { t.hub with msis := l } } else t) := by
  cases asked
  · exact h
  · exact h.trans ⟨rfl, rfl, rfl, rfl, fun _ _ => rfl⟩

/-- The four words of a record. -/
theorem keptByRecords_words (s : State) (pa : Nat) (w0 w1 w2 w3 : Word) :
    KeptByRecords s (((((s.wr64 pa w0).wr64 (pa + 8) w1).wr64 (pa + 16) w2).wr64 (pa + 24) w3).unitWrote pa 32) :=
  (keptByRecords_wr64 s pa w0).trans ((keptByRecords_wr64 _ (pa + 8) w1).trans
    ((keptByRecords_wr64 _ (pa + 16) w2).trans ((keptByRecords_wr64 _ (pa + 24) w3).trans (keptByRecords_unitWrote _ pa 32))))

theorem keptByRecords_post (s : State) (t : Nat) (w0 w1 w2 : Word) (hi3 : Nat) : KeptByRecords s (s.post t w0 w1 w2 hi3) := by
  have queue : 0x1000000 ≤ offFq t + 8 := by unfold offFq; omega
  unfold State.post
  dsimp only
  split
  · exact keptByRecords_setReg s _ queue
  · generalize fld (s.reg (offFq t)) 55 12 * 4096 = page
    generalize page + _ = pa  -- an address that stays a variable: the checker would compute with it
    have written := keptByRecords_words s pa w0 w1 w2 (wordOf [(32, hi3), (0, State.us (((s.wr64 pa w0).wr64 (pa + 8) w1).wr64 (pa + 16) w2))])
    generalize State.unitWrote _ pa 32 = posted at written ⊢
    exact (written.msi _ _).trans (keptByRecords_setReg _ _ queue)

theorem keptByRecords_wdRecord (s : State) (ts : List Nat) (level who : Nat) : KeptByRecords s (s.wdRecord ts level who) :=
  List.foldlRecOn _ _ (motive := KeptByRecords s) (.refl s) fun _ ht _ _ => ht.trans (keptByRecords_post _ _ _ _ _ _)

/-! ### Level 0: a queue stalls (R132) -/

theorem since_append (l : List (Nat × Nat)) (k t now : Nat) : since (l ++ [(k, now)]) k t ≤ since l k t + 1 := by
  rw [since, List.filter_append, List.length_append, since]
  exact Nat.add_le_add_left (List.length_filter_le _ _) _

/-- A queue's first stalls within 20 ms raise the queue interrupt of its hart, and no more. -/
theorem exec_watchdogQueueStall_level0 {s : State} {q now : Nat} (due : now = max s.clock (natsGet s.cp.headAt q + msCycles 2)) (work : s.queue q ≠ [])
    (runs : 5 ≤ fld (s.reg 0x50) 7 4) (no2 : since s.cp.level2 q (now - msCycles 1000) = 0) (few : since s.cp.level0 q (now - msCycles 20) < 2) :
    ∃ t, exec (.watchdogQueueStall q) s = .next t ∧ t.clock = now ∧ t.reg 0x48 = setFld (satAdd (s.reg 0x48) 63 48 1) 2 0 0 ∧
      (q, now) ∈ t.cp.level0 ∧ (t.fwHart (q % 16)).irq = true ∧ t.queue q = s.queue q := by
  let u := (s.upTo (natsGet s.cp.headAt q + msCycles 2)).headMoved q true
  have clock : u.clock = now := due.symm
  have goes : ¬(((s.queue q).isEmpty || !s.cpRuns) = true) := by
    have runs' : s.cpRuns = true := decide_eq_true runs
    simpa [runs'] using work
  have no2' : ¬ 1 ≤ since u.cp.level2 q (u.clock - msCycles 1000) := by
    rw [clock, show u.cp.level2 = s.cp.level2 from rfl]
    omega
  have noted : (u.level0 q).cp.level0 = s.cp.level0 ++ [(q, now)] := clock ▸ rfl
  have few' : ¬ 3 ≤ since (u.level0 q).cp.level0 q ((u.level0 q).clock - msCycles 20) := by
    have one_more := since_append s.cp.level0 q (now - msCycles 20) now
    rw [noted, show (u.level0 q).clock = now from clock]
    omega
  refine ⟨u.level0 q, ?_, clock, reg_setReg_self s _ _, ?_, congrArg FwHart.irq (fwHart_putHart_self _ (q % 16) _), rfl⟩
  · rw [exec, execWatchdogQueueStall, if_neg goes]
    exact (if_neg no2').trans (if_neg few')
  · rw [noted]
    exact List.mem_append_right _ List.mem_cons_self

/-! ### Level 1: a kick is missed (R132) -/

/-- A hart that has taken no level 1 in 100 ms restarts from its checkpoint. -/
theorem exec_watchdogKickMissed_level1 {s : State} {h : Fin 16} {now : Nat} (due : now = max s.clock (s.kickDue h.val)) (runs : 5 ≤ fld (s.reg 0x50) 7 4)
    (no1 : since s.cp.level1 h.val (now - msCycles 100) = 0) (keys : keysFrom 0 s.cp.swaps = true) :
    ∃ t, exec (.watchdogKickMissed h) s = .next t ∧ t.clock = now ∧ t.reg 0x48 = setFld (satAdd (s.reg 0x48) 47 32 1) 2 0 1 ∧
      t.fwHart h.val = (s.fwHart h.val).restart (s.fwEntry 1 (s.hartSlot h.val)) 0 ∧ (h.val, now) ∈ t.cp.level1 ∧
      ∀ x ∈ [1, 2], mapGet t.cp.swaps x = none ∧ ((mapGet s.cp.swaps x).isSome = true → fld (t.reg (offFwCtl x)) 7 5 = 5) := by
  let u := (s.upTo (s.kickDue h.val)).setCp { s.cp with kicked := natsPut s.cp.kicked h.val (max s.clock (s.kickDue h.val)) }
  let v := u.wdCount 1
  let cp := { v.cp with
    level1 := v.cp.level1 ++ [(h.val, v.clock)]
    wdog := mapPut v.cp.wdog h.val (satAdd ((mapGet v.cp.wdog h.val).getD 0xA00) 23 16 1)
    kicked := natsPut v.cp.kicked h.val v.clock }
  let c := (v.setCp cp).restartHart h.val 0 (v.fwEntry 1 (v.hartSlot h.val))
  have ran : exec (.watchdogKickMissed h) s = .next (c.wdRecord (hartTenants h.val) 1 h.val) := by
    have runs' : s.cpRuns = true := decide_eq_true runs
    have no1' : ¬ 1 ≤ since u.cp.level1 h.val (u.clock - msCycles 100) := by
      rw [show since u.cp.level1 h.val (u.clock - msCycles 100) = 0 by subst due; exact no1]
      omega
    rw [exec, execWatchdogKickMissed, runs']
    exact congrArg Host.Outcome.next (if_neg no1')
  have counted : v = u.abortSwaps.setReg 0x48 (setFld (satAdd (s.reg 0x48) 47 32 1) 2 0 1) := wdCount_one u
  have clock : v.clock = now := by
    rw [counted, abortSwaps_frame]
    exact due.symm
  have kept : v.mem = s.mem ∧ v.memOpen = s.memOpen ∧ v.cp.images = s.cp.images ∧ v.cp.harts = s.cp.harts := by
    rw [counted, abortSwaps_frame]
    exact ⟨rfl, rfl, rfl, rfl⟩
  obtain ⟨mem, unknown, images, harts⟩ := kept
  have entry : v.fwEntry 1 (v.hartSlot h.val) = s.fwEntry 1 (s.hartSlot h.val) :=
    (fwEntry_congr images mem unknown _ _).trans (congrArg (s.fwEntry 1) (hartSlot_wdCount_one (s := u) keys h.isLt))
  obtain ⟨recClock, recCp, -, -, low⟩ := keptByRecords_wdRecord c (hartTenants h.val) 1 h.val
  refine ⟨_, ran, recClock.trans clock, ?_, ?_, ?_, fun x hx => ?_⟩
  · rw [low _ (by omega)]
    show v.reg 0x48 = _
    rw [counted, reg_setReg_self]
  · rw [fwHart_congr (congrArg Cp.harts recCp), fwHart_restartHart_self, entry]
    exact congrArg (fun k : FwHart => k.restart (s.fwEntry 1 (s.hartSlot h.val)) 0) (fwHart_congr harts h.val)
  · rw [recCp, ← clock]
    exact List.mem_append_right _ List.mem_cons_self
  · have place : offFwCtl x < 0x48 := by
      have := offFwCtl_lt (x := x) (by simp only [List.mem_cons, List.not_mem_nil, or_false] at hx; omega)
      omega
    obtain ⟨gone, state⟩ := abortSwaps_gives_up (s := u) keys x hx
    rw [recCp, low _ (by omega)]
    show mapGet v.cp.swaps x = none ∧ (_ → fld (v.reg (offFwCtl x)) 7 5 = 5)
    rw [counted, reg_setReg_ne _ _ (by omega)]
    exact ⟨gone, state⟩

/-! ### Level 4: an engine makes no progress (R132) -/

theorem exec_engineNoProgress_resets {s : State} {e : EngineStall} (work : s.engineWork e.engine ≠ [])
    (fresh : e.restored = true ∨ (s.cp.level4.find? fun x => x.1 == e.engine) = none) :
    exec (.engineNoProgress e) s = .next ((s.upTo (s.clock + msCycles 20)).level4 e.engine (s.engineWork e.engine)) := by
  have goes : ¬ (s.engineWork e.engine).isEmpty = true := by simpa using work
  rw [exec, execEngineNoProgress]
  dsimp only
  rw [if_neg goes]
  split
  · next h =>
    rw [if_pos (fresh.resolve_right (by simp [h]))]
  · rfl

theorem exec_engineNoProgress_again {s : State} {e : EngineStall} (work : s.engineWork e.engine ≠ []) (stuck : e.restored = false)
    (last : (s.cp.level4.find? fun x => x.1 == e.engine).isSome = true) :
    ∃ n, exec (.engineNoProgress e) s = .next ((s.upTo n).reborn 1 true) := by
  have goes : ¬ (s.engineWork e.engine).isEmpty = true := by simpa using work
  obtain ⟨x, hx⟩ := Option.isSome_iff_exists.mp last
  refine ⟨max (s.clock + msCycles 20) (x.2 + msCycles 100), ?_⟩
  rw [exec, execEngineNoProgress]
  dsimp only
  rw [if_neg goes, hx]
  dsimp only
  rw [if_neg (by simp [stuck])]
  simp only [State.upTo, max_assoc]

/-- Level 4 on a walker: no walk of its grove is under way. -/
theorem level4_walker (s : State) (g : Nat) (ts : List Nat) : (s.level4 (.walker g) ts).clock = s.clock ∧
    (s.level4 (.walker g) ts).reg 0x48 = setFld (satAdd (s.reg 0x48) 15 8 1) 2 0 4 ∧ (.walker g, s.clock) ∈ (s.level4 (.walker g) ts).cp.level4 ∧
    ∀ m ∈ (s.level4 (.walker g) ts).xl.misses, m.grove = g → m.walking = false := by
  let v := s.wdCount 4
  let c := (v.setCp { v.cp with level4 := (v.cp.level4.filter fun x => x.1 != .walker g) ++ [(.walker g, v.clock)] }).setMisses
    (v.xl.misses.map fun m => if m.grove = g then { m with walking := false } else m)
  have clock : v.clock = s.clock := by
    rw [show v = _ from wdCount_four s, abortSwaps_frame]
    rfl
  obtain ⟨recClock, recCp, recXl, -, low⟩ : KeptByRecords c (s.level4 (.walker g) ts) := keptByRecords_wdRecord c ts 4 (engineNo (.walker g))
  refine ⟨recClock.trans clock, ?_, ?_, fun m hm own => ?_⟩
  · rw [low _ (by omega)]
    show v.reg 0x48 = _
    rw [show v = _ from wdCount_four s, reg_setReg_self]
  · rw [recCp, ← clock]
    exact List.mem_append_right _ List.mem_cons_self
  · rw [recXl] at hm
    obtain ⟨m', -, rfl⟩ := List.mem_map.mp hm
    by_cases e : m'.grove = g
    · rw [if_pos e]
    · rw [if_neg e] at own
      exact absurd own e

end Sys2Proof.Machine
/-! SUPPORT. Proof of O56: boot, firmware and the watchdog. -/

namespace Sys2Proof.Machine

theorem exec_powerGood_starts {s : State} (h : s.parts.powered = false ∨ fld (s.reg 0x50) 7 4 = 0) :
    ∃ t, exec .powerGood s = .next t ∧ t.parts.powered = true ∧ fld (t.reg 0x50) 7 4 = 1 := by
  have off : ¬((s.parts.powered && s.stage != 0) = true) := by
    obtain h | h := h
    · simp [h]
    · simp [State.stage, h]
  exact ⟨_, by rw [exec, execPowerGood, if_neg off], rfl, stage_bootField _ (by omega)⟩

/-- A step of boot, at its time: what it verifies passes, and boot goes on, or boot stops with `failed` set (R134, R135). -/
theorem exec_bootStep_at (s : State) (a o : SlotCheck) (n : Nat) (stage : fld (s.reg 0x50) 7 4 = n) (h1 : 1 ≤ n) (h6 : n < 6)
    (fine : (s.reg 0x50).getLsbD 1 = false) (power : s.parts.powered = true) :
    let passes := (n = 2 → (a.own = true ∨ o.own = true) ∧ (a.sawyer = true ∨ o.sawyer = true)) ∧ (n = 5 → a.own = true ∨ o.own = true)
    ∃ t, exec (.bootStep a o) s = .next t ∧ t.clock = max s.clock (msCycles (stageMs (n + 1))) ∧ BootWent s t passes ∧
      (n = 5 → passes → (t.reg 0x50).getLsbD 0 = true) ∧
      (n = 2 → t.active 1 = (if a.own = false ∧ o.own = true then 1 - s.active 1 else s.active 1) ∧ t.active 2 = (if a.sawyer = false ∧ o.sawyer = true then 1 - s.active 2 else s.active 2)) ∧
      (n = 3 → ∀ h < 16, (t.fwHart (16 + h)).pc = s.fwEntry 2 (s.active 2) ∧ (t.fwHart (16 + h)).x11 = 2) ∧
      (n = 4 → (∀ h < 16, (t.fwHart h).pc = s.fwEntry 1 (s.active 1) ∧ (t.fwHart h).x11 = 2) ∧ t.xl.reserved = Config.reserved ∧
        t.net.landing = some (Config.landingFrame * Config.frameBytes)) := by
  intro passes
  obtain rfl | rfl | rfl | rfl | rfl : n = 1 ∨ n = 2 ∨ n = 3 ∨ n = 4 ∨ n = 5 := by omega
  · obtain ⟨t, ran, clock, went⟩ := exec_bootStep_one (a := a) (o := o) fine power stage
    have all : passes = True := by simp [passes]
    exact ⟨t, ran, clock, all ▸ went, nofun, nofun, nofun, nofun⟩
  · obtain ⟨t, ran, clock, went, own, saw⟩ := exec_bootStep_two (a := a) (o := o) fine power stage
    have all : passes = ((a.own = true ∨ o.own = true) ∧ (a.sawyer = true ∨ o.sawyer = true)) := by simp [passes]
    exact ⟨t, ran, clock, all ▸ went, nofun, fun _ => ⟨own, saw⟩, nofun, nofun⟩
  · obtain ⟨t, ran, clock, went, harts⟩ := exec_bootStep_three (a := a) (o := o) fine power stage
    have all : passes = True := by simp [passes]
    exact ⟨t, ran, clock, all ▸ went, nofun, nofun, fun _ => harts, nofun⟩
  · obtain ⟨t, ran, clock, went, harts, reserved, landing⟩ := exec_bootStep_four (a := a) (o := o) fine power stage
    have all : passes = True := by simp [passes]
    exact ⟨t, ran, clock, all ▸ went, nofun, nofun, nofun, fun _ => ⟨harts, reserved, landing⟩⟩
  · obtain ⟨t, ran, clock, went, released⟩ := exec_bootStep_five (a := a) (o := o) fine power stage
    have all : passes = (a.own = true ∨ o.own = true) := by simp [passes]
    exact ⟨t, ran, clock, all ▸ went, fun _ h => released (all ▸ h), nofun, nofun, nofun⟩

/-- A verification of the inactive slot ends (R130, R131). -/
theorem exec_fwVerifyDone_ends {s : State} {x : Nat} (h1 : 1 ≤ x) (h3 : x ≤ 3) (verifying : fld (s.reg (offFwCtl x)) 7 5 = 2) (took : Nat) :
    ∃ t, exec (.fwVerifyDone x took) s = .next t ∧ t.clock = s.clock + took ∧
      (¬ s.accepted x = true → fld (t.reg (offFwCtl x)) 7 5 = 5 ∧ t.active x = s.active x ∧ t.cp = s.cp) ∧
      (s.accepted x = true → fld (t.reg (offFwCtl x)) 7 5 = 3 ∧ (x ≠ 3 → t.active x = s.active x ∧ mapGet t.cp.swaps x = some ⟨0, [], t.clock⟩) ∧
        (x = 3 → t.active x = 1 - s.active x ∧ (t.reg (offFwCtl x)).getLsbD 4 = true)) := by
  have clock : (s.upTo (s.clock + took)).clock = s.clock + took := Nat.max_eq_right (Nat.le_add_right _ _)
  by_cases good : s.accepted x = true
  case neg =>
    exact ⟨_, exec_fwVerifyDone_rejected h1 h3 verifying took good, clock, fun _ => ⟨state_fwState _ (by omega), active_fwState _ _ _, rfl⟩, fun h => absurd h good⟩
  by_cases hx : x = 3
  case neg =>
    exact ⟨_, exec_fwVerifyDone_harts h1 h3 verifying took good hx, clock, fun h => absurd good h,
      fun _ => ⟨state_fwState (s.upTo _) (by omega), fun _ => ⟨active_fwState (s.upTo _) 3 x, mapGet_mapPut_self _ _ _⟩, fun h => absurd h hx⟩⟩
  case pos =>
    obtain ⟨active, swapped, state⟩ := swapDone_spec ((s.upTo (s.clock + took)).fwState x 3) h3
    refine ⟨_, exec_fwVerifyDone_loader h1 h3 verifying took good hx, ?_, fun h => absurd good h, fun _ => ?_⟩
    · rw [swapDone_frame]
      exact clock
    · exact ⟨state.trans (state_fwState _ (by omega)), fun h => absurd hx h, fun _ => ⟨active.trans (congrArg (1 - ·) (active_fwState _ _ _)), swapped⟩⟩

/-- The word that a write of CP_WDOG leaves: the counted restarts are firmware's to write, and an interval of 1 to 100 ms (R118). -/
def wdogWritten (old v : Word) : Word :=
  if 1 ≤ fld v 15 8 ∧ fld v 15 8 ≤ 100 then take (take old v 23 16) v 15 8 else take old v 23 16

theorem interval_wdogWritten (old : Word) {v : Word} (lo : 1 ≤ fld v 15 8) (hi : fld v 15 8 ≤ 100) : fld (wdogWritten old v) 15 8 = fld v 15 8 := by
  rw [wdogWritten, if_pos ⟨lo, hi⟩, fld_take_self _ _ (by omega) (by omega)]

/-- A kick restarts the hart's interval, whose length the write may set, and the hub's own timer. -/
theorem exec_cpWdogKick_restarts (s : State) (h : Fin 16) (v : Word) (keys : keysFrom 0 s.cp.kicked = true) : ∃ t w, exec (.cpWdogKick h v) s = .next t ∧
    mapGet t.cp.wdog h.val = some w ∧ (v.getLsbD 0 = true → natsGet t.cp.kicked h.val = s.clock ∧ t.cp.hubKick = s.clock) ∧
    (1 ≤ fld v 15 8 → fld v 15 8 ≤ 100 → fld w 15 8 = fld v 15 8) ∧ t = { s with cp := t.cp } := by
  let w := wdogWritten ((mapGet s.cp.wdog h.val).getD 0xA00) v
  let cp := { s.cp with wdog := mapPut s.cp.wdog h.val w }
  have ran : exec (.cpWdogKick h v) s = .next (s.setCp (if v.getLsbD 0 then { cp with kicked := natsPut s.cp.kicked h.val s.clock, hubKick := s.clock } else cp)) := rfl
  refine ⟨_, w, ran, ?_, fun kick => ?_, interval_wdogWritten _, rfl⟩
  · split <;> exact mapGet_mapPut_self _ _ _
  · rw [if_pos kick]
    exact ⟨natsGet_natsPut_self _ _ keys, rfl⟩

/-- A hart's turn in a hand-over (R131): it restarts on the new image with its checkpoint in x10, and the swap goes on, or is complete after the last hart. -/
theorem exec_cpQuiesceWrite_handsOver {s : State} {saw : Bool} {h : Fin 16} {w : Swap} {im : FwImage} {x k : Nat} (hx : x = if saw then 2 else 1)
    (hk : k = 16 * (x - 1) + h.val) (runs : (if saw then 4 else 5) ≤ fld (s.reg 0x50) 7 4) (under : mapGet s.cp.swaps x = some w) (turn : w.waiting = h.val)
    (image : mapGet s.cp.images (2 * x + (1 - s.active x)) = some im) (keys : keysFrom 0 s.cp.swaps = true) (regs : keysFrom 0 (s.fwHart k).x = true) :
    ∃ t, exec (.cpQuiesceWrite ⟨saw, h⟩) s = .next t ∧ (t.fwHart k).pc = slotAt x (1 - s.active x) + 64 + im.entry ∧ (t.fwHart k).x11 = 1 ∧
      (t.fwHart k).x10 = (s.fwHart k).chkpt ∧
      (h.val < 15 → fld (t.reg (offFwCtl x)) 7 5 = 4 ∧ t.active x = s.active x ∧ mapGet t.cp.swaps x = some ⟨h.val + 1, w.handed ++ [h.val], s.clock⟩) ∧
      (h.val = 15 → fld (t.reg (offFwCtl x)) 7 5 = 0 ∧ t.active x = 1 - s.active x ∧ (t.reg (offFwCtl x)).getLsbD 4 = true ∧ mapGet t.cp.swaps x = none) := by
  have target : 1 ≤ x ∧ x ≤ 3 := by cases saw <;> simp [hx]
  obtain ⟨u, ran, same⟩ := exec_cpQuiesceWrite_goes (h := h) runs
  rw [← hx, ← hk] at ran same
  obtain ⟨clock, vregs, swaps, images, -, -, chkpt, regsKept⟩ := goBack_keeps u k
  generalize u.goBack k = v at *
  have active : v.active x = s.active x := (active_congr vregs x).trans (active_congr same.regs x)
  have under' : mapGet v.cp.swaps x = some w := by rw [swaps, same.swaps, under]
  have keys' : keysFrom 0 v.cp.swaps = true := by rw [swaps, same.swaps, keys]
  have entry : v.fwEntry x (1 - v.active x) = slotAt x (1 - s.active x) + 64 + im.entry := by
    rw [active]
    exact fwEntry_of_image (by rw [images, same.images, image])
  subst hk
  have hart := handOver_hart target.1 h.isLt under' turn
  rw [entry] at hart
  refine ⟨_, ran, by rw [hart, restart_pc], by rw [hart, restart_x11 _ (by omega) (.inl (by omega))], ?_, fun more => ?_, fun last => ?_⟩
  · rw [hart, restart_x10 _ (regsKept (by rw [same.x, regs])), chkpt, chkpt_congr same.csrs]
  · obtain ⟨state, slot, next⟩ := handOver_next target.1 h.isLt under' turn more
    exact ⟨state, slot.trans active, by rw [next, clock, same.clock]⟩
  · obtain ⟨state, slot, swapped, gone⟩ := handOver_last target.1 h.isLt under' turn target.2 last keys'
    exact ⟨state, by rw [slot, active], swapped, gone⟩

/-- A hart that an aborted swap left on the new image returns to the old one (R131). -/
theorem exec_cpQuiesceWrite_goesBack {s : State} {saw : Bool} {h : Fin 16} {im : FwImage} {x k : Nat} (hx : x = if saw then 2 else 1)
    (hk : k = 16 * (x - 1) + h.val) (runs : (if saw then 4 else 5) ≤ fld (s.reg 0x50) 7 4) (idle : mapGet s.cp.swaps x = none)
    (image : mapGet s.cp.images (2 * x + s.active x) = some im) (left : k ∈ s.cp.back) :
    ∃ t, exec (.cpQuiesceWrite ⟨saw, h⟩) s = .next t ∧ (t.fwHart k).pc = slotAt x (s.active x) + 64 + im.entry ∧ (t.fwHart k).x11 = 1 ∧ k ∉ t.cp.back := by
  have target : 1 ≤ x := by cases saw <;> simp [hx]
  obtain ⟨u, ran, same⟩ := exec_cpQuiesceWrite_goes (h := h) runs
  rw [← hx, ← hk] at ran same
  have mine : hartTarget k = x := hk ▸ hartTarget_key target h.isLt
  have idle' : mapGet (u.goBack k).cp.swaps (hartTarget k) = none := by rw [(goBack_keeps u k).2.2.1, same.swaps, mine, idle]
  rw [handOver_of_none idle'] at ran
  obtain ⟨pc, reason, back⟩ := goBack_returns (s := u) (k := k) (by rw [same.back]; exact left)
  rw [mine, active_congr same.regs, fwEntry_of_image (by rw [same.images, image])] at pc
  exact ⟨_, ran, pc, reason, back⟩

/-- Settles O56, clause by clause: power, the steps of boot, the causes of a reset, a verification, quiescent points with their queues and hand-overs, a hand-over that is late,
the kick of a watchdog, and the levels that a stalled queue, a missed kick and an engine without progress set off. -/
theorem bootFirmwareWatchdog : Obligations.BootFirmwareWatchdog := by
  unfold Obligations.BootFirmwareWatchdog
  refine ⟨?power, ?boot, ?resets, ?timer, ?verified, ?queues, ?handed, ?back, ?late, ?kick, ?stalled, ?missed, ?engine⟩
  case power => exact fun s off => exec_powerGood_starts off
  case boot =>
    intro s a o n passes h1 h6 fine power
    obtain ⟨t, ran, clock, went, released, slots, sawyer, own⟩ := exec_bootStep_at s a o n rfl h1 h6 fine power
    have due : msCycles (stageMs (n + 1)) = ([0, 150, 250, 250, 260, 300][n]?).getD 0 * 1000 * Config.cyclesPerUs := by
      rw [msCycles_eq]
      clear_value n
      obtain rfl | rfl | rfl | rfl | rfl : n = 1 ∨ n = 2 ∨ n = 3 ∨ n = 4 ∨ n = 5 := by omega
      all_goals rfl
    exact ⟨t, ran, due ▸ clock, fun no => went.stopped no, fun yes => ⟨(went.on yes).1, (went.on yes).2, fun five => released five yes⟩, slots, sawyer, own⟩
  case resets =>
    intro s power
    exact ⟨⟨_, by rw [exec, execInputPowerLoss, power]; rfl, reborn_spec s 0 false⟩, ⟨_, by rw [exec, execUndervoltage, if_pos power], reborn_spec s 3 true⟩,
      fun d => ⟨_, by rw [exec, execOverTemperature, if_pos power], reborn_spec s 2 true⟩⟩
  case timer =>
    intro s runs
    have runs' : s.cpRuns = true := decide_eq_true runs
    exact ⟨_, by rw [exec, execHubTimerExpiry, if_pos runs'], reborn_spec (s.upTo _) 1 true⟩
  case verified =>
    intro s x took h1 h3 verifying im ok
    obtain ⟨t, ran, clock, bad, good⟩ := exec_fwVerifyDone_ends h1 h3 (by rw [offFwCtl_eq h1]; exact verifying) took
    have floor : offFwFloor x = 0x28 + 8 * x := by unfold offFwFloor; omega
    have accepted := accepted_iff s x
    rw [floor] at accepted
    rw [offFwCtl_eq h1] at bad good
    refine ⟨t, ran, clock, fun h => bad (mt accepted.mp h), fun h => ?_⟩
    obtain ⟨state, harts, loader⟩ := good (accepted.mpr h)
    exact ⟨state, harts, fun e => by subst e; exact loader rfl⟩
  case queues => exact fun s h runs once keys => exec_cpQuiesceWrite_queues runs once keys
  case handed =>
    intro s saw h w im x k runs under turn image keys regs
    have target : 1 ≤ x := by cases saw <;> simp [x]
    rw [← offFwCtl_eq target]
    exact exec_cpQuiesceWrite_handsOver rfl rfl runs under turn image keys regs
  case back => exact fun s saw h im runs idle image left => exec_cpQuiesceWrite_goesBack rfl rfl runs idle image left
  case late =>
    intro s saw h w x under turn keys
    have target : 1 ≤ x := by cases saw <;> simp [x]
    rw [← offFwCtl_eq target]
    let u := s.upTo (w.since + msCycles 50)
    refine ⟨_, exec_handoverTimeout_waits under turn, ?_, state_abortSwap u (Option.isSome_iff_exists.mpr ⟨w, under⟩), active_abortSwap u x,
      mapGet_swaps_abortSwap_self u keys, (abortSwap_back u).trans ?_⟩
    · rw [abortSwap_frame]
      rfl
    · rw [handedOver_of_some (s := u) under]
      rfl
  case kick => exact fun s h v keys => exec_cpWdogKick_restarts s h v keys
  case stalled =>
    intro s q now work runs no2 few
    exact exec_watchdogQueueStall_level0 rfl work runs no2 few
  case missed =>
    intro s h now runs no1 keys regs
    obtain ⟨t, ran, clock, counted, hart, noted, swaps⟩ := exec_watchdogKickMissed_level1 rfl runs no1 keys
    refine ⟨t, ran, clock, counted, by rw [hart, restart_pc], by rw [hart, restart_x11 _ (by omega) (.inr regs)], noted, fun x hx => ?_⟩
    have target : 1 ≤ x := by
      simp only [List.mem_cons, List.not_mem_nil, or_false] at hx
      omega
    rw [← offFwCtl_eq target]
    exact swaps x hx
  case engine =>
    intro s e now last work
    refine ⟨fun ⟨stuck, again⟩ => ?_, fun fresh g walker => ?_⟩
    · obtain ⟨n, ran⟩ := exec_engineNoProgress_again work stuck again
      exact ⟨_, ran, reborn_spec (s.upTo n) 1 true⟩
    · have ran := exec_engineNoProgress_resets work fresh
      rw [walker] at ran ⊢
      obtain ⟨clock, counted, noted, walks⟩ := level4_walker (s.upTo (s.clock + msCycles 20)) g (s.engineWork (.walker g))
      have later : (s.upTo (s.clock + msCycles 20)).clock = now := Nat.max_eq_right (Nat.le_add_right _ _)
      exact ⟨_, ran, clock.trans later, counted, later ▸ noted, walks⟩

end Sys2Proof.Machine

/-! SUPPORT. What an instruction that queues an effect leaves: the issue, the store queue, the outstanding result, the crew, the path past it (R32, R187, R223, R299). -/

namespace Sys2Proof.Machine

/-! ### The state around the issuing bundle -/

/-- t is u but for the issuing bundle, which is b, its charge and the next free number. -/
structure IssuesFrom (u t : State) (c : Cur) (b : Bundle) : Prop where
  own : OwnOnly u t c
  bundle : t.bundle? c.b.key = some b

/-- The issuing bundle once an instruction has issued, before the instruction's own effect. -/
def Cur.entered (c : Cur) (n : Need) (now id : Nat) : Bundle := (c.b.issued c.slot c.g.width now id n.kills).enter c n now

theorem issuesFrom_issued {s : State} {c : Cur} (hc : s.cur = some c) (n : Need) : IssuesFrom s (s.issued c n) c (c.entered n s.clock s.free) :=
  ⟨ownOnly_issued n, issued_bundle hc n⟩

section
variable {u t : State} {c : Cur} {b : Bundle}

theorem IssuesFrom.clock (h : IssuesFrom u t c b) : t.clock = u.clock := by rw [h.own.1]

theorem IssuesFrom.onBundle (h : IssuesFrom u t c b) {f : Bundle → Bundle} (key : ∀ b, (f b).key = b.key) :
    IssuesFrom u (t.onBundle c.b.key f) c (f b) := by
  obtain ⟨⟨rest, bytes, others, regs⟩, hb⟩ := h
  refine ⟨⟨?_, fun a => ?_, fun k hk => ?_, fun o ho => ?_⟩, bundle?_onBundle_self hb (key b)⟩
  · rw [onBundle_frame, rest]
  · rw [← bytes a, onBundle_frame]; rfl
  · rw [bundle?_onBundle_ne key hk, others k hk]
  · rw [← regs o ho, onBundle_frame]; rfl

theorem IssuesFrom.xl (h : IssuesFrom u t c b) (x : Xl) : IssuesFrom { u with xl := x } { t with xl := x } c b :=
  ⟨⟨by rw [h.own.1], h.own.2.1, h.own.2.2.1, h.own.2.2.2⟩, h.bundle⟩

theorem IssuesFrom.crews (h : IssuesFrom u t c b) (l : List Crew) : IssuesFrom { u with crews := l } { t with crews := l } c b :=
  ⟨⟨by rw [h.own.1], h.own.2.1, h.own.2.2.1, h.own.2.2.2⟩, h.bundle⟩

theorem IssuesFrom.setFree (h : IssuesFrom u t c b) (n : Nat) : IssuesFrom u { t with free := n } c b :=
  ⟨⟨by rw [h.own.1], h.own.2.1, h.own.2.2.1, h.own.2.2.2⟩, h.bundle⟩

/-- The bundle with its issuing path past the instruction. -/
def Cur.advanced (c : Cur) (b : Bundle) : Bundle := { b with arch := b.arch.setPath c.slot ((b.arch.path c.slot).map Path.advance) }

theorem IssuesFrom.advance (h : IssuesFrom u t c b) : IssuesFrom u (t.advance c) c (c.advanced b) :=
  h.onBundle fun _ => rfl

theorem gatherAll_frame (t : State) (c : Cur) (l : List LaneAcc) : t.gatherAll c l = { t with xl := (t.gatherAll c l).xl } := by
  unfold State.gatherAll
  induction l generalizing t with
  | nil => rfl
  | cons a l ih =>
    rw [List.foldl_cons, ih]
    split <;> rfl

theorem IssuesFrom.gatherAll (h : IssuesFrom u t c b) (l : List LaneAcc) :
    IssuesFrom { u with xl := (t.gatherAll c l).xl } (t.gatherAll c l) c b := by
  rw [gatherAll_frame]
  exact h.xl _

/-- The bundle with an entry at the end of its store queue that counts some lines. -/
def Bundle.queued (b : Bundle) (now : Nat) (op : SqOp) (lines : Nat) : Bundle := { b with sq := b.sq ++ [⟨now, op, lines⟩], ackcnt := b.ackcnt + lines }

theorem IssuesFrom.pushSq (h : IssuesFrom u t c b) (op : SqOp) (lines : Nat) : IssuesFrom u (t.pushSq c op lines) c (b.queued u.clock op lines) := by
  rw [← h.clock]
  exact h.onBundle (f := fun b => b.queued t.clock op lines) fun _ => rfl

/-- The bundle with a token outstanding for a register (R187). -/
def Cur.owes (c : Cur) (b : Bundle) (now id : Nat) (d : Sel) : Bundle :=
  { b with pend := b.pend ++ [tokenPend c d now id], arch := b.arch.awaitAll (regsOf d false) id, results := match b.results with | e :: r => (e.1, []) :: r | [] => [] }

theorem IssuesFrom.addToken (h : IssuesFrom u t c b) (d : Sel) : IssuesFrom u (t.addPend c .token .n64 d false [] 1 none) c (c.owes b u.clock t.free d) := by
  rw [← h.clock]
  exact (h.setFree (t.free + 1)).onBundle (f := fun b => c.owes b t.clock t.free d) fun _ => rfl

end

/-! ### The issuing bundle -/

/-- The issuing bundle as an instruction with needs n leaves it that changes no register but by kill marks: its path, its outstanding results, store queue and acknowledgement counter, the
registers that wait. -/
structure LeftAt (c : Cur) (n : Need) (p : Path) (pend : List Pend) (sq : List SqEntry) (ackcnt : Nat) (awaits : List (Sel × Nat)) (b : Bundle) : Prop where
  but : BundleBut c b pend sq ackcnt c.b.arch.fpflags
  path : PathNow c b n .litS p
  regs : RegsBut c b (killed c n)
  awaits : b.arch.awaits = awaits

theorem entered_leftAt {c : Cur} (hp : c.b.arch.path c.slot = some c.p) (n : Need) (now id : Nat) :
    LeftAt c n c.begunPath c.b.pend c.b.sq c.b.ackcnt c.b.arch.awaits (c.entered n now id) := by
  obtain ⟨a, q, ha, hq, begun, mask, other, rest, regs⟩ := entered_spec c n now id hp c.b.fid
  have harch : (c.entered n now id).arch = a := ha
  refine ⟨⟨rfl, ?_, by rw [harch, other]⟩, ⟨q, by rw [harch, hq], begun, fun _ hk => mask hk⟩, fun k hk => ⟨?_, ?_⟩, by rw [harch, rest]⟩
  · rw [harch, rest]
  · rw [harch]; exact regs k hk
  · rw [harch, rest]

section
variable {c : Cur} {n : Need} {p : Path} {pend : List Pend} {sq : List SqEntry} {ackcnt : Nat} {awaits : List (Sel × Nat)} {b : Bundle}

/-- The path of a bundle past its instruction, with the mask it has. -/
theorem PathNow.advanced {d : Sel} (h : PathNow c b n d p) : PathNow c (c.advanced b) n d p.advance := by
  obtain ⟨q, hq, same, mask⟩ := h
  refine ⟨q.advance, ?_, ?_, fun hd hk => by rw [advance_mask, mask hd hk]⟩
  · show (b.arch.setPath c.slot _).path c.slot = _
    rw [path_setPath, hq]; rfl
  · rw [advance_mask, ← advance_withMask, same]

/-- An instruction that writes no mask leaves the path as one with any destination may. -/
theorem PathNow.anyDst (h : PathNow c b n .litS p) (d : Sel) : PathNow c b n d p := by
  obtain ⟨q, hq, same, mask⟩ := h
  exact ⟨q, hq, same, fun _ hk => mask (by decide) hk⟩

theorem RegsBut.advanced {ks : List Nat} (h : RegsBut c b ks) : RegsBut c (c.advanced b) ks := fun k hk => by
  have e : (c.advanced b).arch = b.arch.setPath c.slot ((b.arch.path c.slot).map Path.advance) := rfl
  rw [e, setPath_regs, setPath_rest]
  exact h k hk

theorem LeftAt.advanced (h : LeftAt c n p pend sq ackcnt awaits b) : LeftAt c n p.advance pend sq ackcnt awaits (c.advanced b) := by
  obtain ⟨⟨rest, arch, other⟩, path, regs, waits⟩ := h
  have e : (c.advanced b).arch = b.arch.setPath c.slot ((b.arch.path c.slot).map Path.advance) := rfl
  refine ⟨⟨?_, ?_, ?_⟩, path.advanced, regs.advanced, ?_⟩
  · rw [Cur.advanced, rest]
  · rw [e, setPath_rest, arch]
  · rw [e, path_setPath_not, other]
  · rw [e, setPath_awaits, waits]

theorem LeftAt.queued (h : LeftAt c n p pend sq ackcnt awaits b) (now : Nat) (op : SqOp) (lines : Nat) :
    LeftAt c n p pend (sq ++ [⟨now, op, lines⟩]) (ackcnt + lines) awaits (b.queued now op lines) := by
  obtain ⟨⟨rest, arch, other⟩, path, regs, waits⟩ := h
  exact ⟨⟨by rw [Bundle.queued, rest], arch, other⟩, path, regs, waits⟩

theorem awaitAll_rest (a : Arch) (rs : List Sel) (id : Nat) : a.awaitAll rs id = { a with awaits := (a.awaitAll rs id).awaits } := by
  unfold Arch.awaitAll
  induction rs generalizing a with
  | nil => rfl
  | cons r rs ih => rw [List.foldl_cons, ih]; rfl

theorem awaitAll_scalar (a : Arch) (k : Fin 64) (id : Nat) : (a.awaitAll (regsOf (.s k) false) id).awaits = (.s k, id) :: filled a.awaits (.s k) := rfl

theorem LeftAt.owes (h : LeftAt c n p pend sq ackcnt awaits b) (now id : Nat) (k : Fin 64) :
    LeftAt c n p (pend ++ [tokenPend c (.s k) now id]) sq ackcnt ((.s k, id) :: filled awaits (.s k)) (c.owes b now id (.s k)) := by
  obtain ⟨⟨rest, arch, other⟩, path, regs, waits⟩ := h
  have e : (c.owes b now id (.s k)).arch = b.arch.awaitAll (regsOf (.s k) false) id := rfl
  refine ⟨⟨by rw [Cur.owes, rest], ?_, ?_⟩, ?_, ?_, ?_⟩
  · rw [e, awaitAll_rest, arch]
  · rw [e, awaitAll_rest, ← other]; rfl
  · rw [PathNow, e, awaitAll_rest]; exact path
  · rw [RegsBut, e, awaitAll_rest]; exact regs
  · rw [e, awaitAll_scalar, waits]

end

/-! ### The outcomes of the statements -/

section
variable {s : State} {c : Cur} {n : Need} {i : Instr}

/-- An instruction that only moves past itself. -/
theorem moves_of (hc : s.cur = some c) (h : exec i s = .next ((s.issued c n).advance c)) : Moves i s c n c.past c.b.arch.fpflags := by
  have state := (issuesFrom_issued hc n).advance
  have left := (entered_leftAt (cur_path hc) n s.clock s.free).advanced
  exact ⟨_, _, h, state.own, state.bundle, left.but, left.path, left.regs, left.awaits⟩

/-- An instruction that gathers marks, queues an effect and moves past itself. -/
theorem queues_of (hc : s.cur = some c) {l : List LaneAcc} {op : SqOp} {lines : Nat}
    (h : exec i s = .next ((((s.issued c n).gatherAll c l).pushSq c op lines).advance c)) : Queues i s c n op lines := by
  have state := (((issuesFrom_issued hc n).gatherAll l).pushSq op lines).advance
  have left := ((entered_leftAt (cur_path hc) n s.clock s.free).queued s.clock op lines).advanced
  refine ⟨_, _, h, ?_, state.bundle, left.but, left.path, left.regs, left.awaits⟩
  have own := state.own
  rwa [show ((s.issued c n).gatherAll c l).xl = ((((s.issued c n).gatherAll c l).pushSq c op lines).advance c).xl by
    simp [State.pushSq, State.advance]] at own

/-- An instruction that queues an effect with a token for a scalar register, from the state t that its issue and its reads of records leave. -/
theorem sendsTokenAfter_of (hc : s.cur = some c) {u t : State} (ht : IssuesFrom u t c (c.entered n s.clock s.free)) (hu : u.clock = s.clock) {l : List LaneAcc} {op : Nat → SqOp} {lines : Nat}
    {d : Sel} {k : Fin 64} (hd : d = .s k)
    (h : exec i s = .next ((((t.gatherAll c l).pushSq c (op t.free) lines).addPend c .token .n64 d false [] 1 none).advance c)) :
    SendsTokenAfter i s u c n d op lines := by
  subst hd
  have state := (((ht.gatherAll l).pushSq (op t.free) lines).addToken (.s k)).advance
  have free : ((t.gatherAll c l).pushSq c (op t.free) lines).free = t.free := by
    rw [gatherAll_frame]; simp [State.pushSq]
  rw [free] at state
  have left := (((entered_leftAt (cur_path hc) n s.clock s.free).queued s.clock (op t.free) lines).owes s.clock t.free k).advanced
  have bundle := state.bundle
  rw [show ({ u with xl := (t.gatherAll c l).xl } : State).clock = s.clock from hu] at bundle
  refine ⟨_, _, t.free, h, ?_, bundle, left.but, left.path.anyDst _, left.regs, left.awaits⟩
  have own := state.own
  rwa [show (t.gatherAll c l).xl = ((((t.gatherAll c l).pushSq c (op t.free) lines).addPend c .token .n64 (.s k) false [] 1 none).advance c).xl by
    simp [State.pushSq, State.advance, State.addPend]] at own

end
end Sys2Proof.Machine

/-! SUPPORT. Memory instructions whose lanes pass their checks (R370 to R377); a store enters the store queue (O19). -/

namespace Sys2Proof.Machine

section
variable {s : State} {c : Cur} {x : MArgs} {sh : Shape} {acc : Acc} {ok : List LaneAcc}

theorem passedLanes_ok (ok : List LaneAcc) : passedLanes (ok.map fun a => (a.lane, LaneRes.ok a)) = ok := by
  simp [passedLanes, List.filterMap_map]

theorem missLane_ok (ok : List LaneAcc) : missLane (ok.map fun a => (a.lane, LaneRes.ok a)) = none := by
  simp [missLane]

theorem lowestCause_ok (ok : List LaneAcc) : lowestCause (ok.map fun a => (a.lane, LaneRes.ok a)) = none := by
  unfold lowestCause
  induction ok with
  | nil => rfl
  | cons a r ih => exact ih

/-- A write whose lanes all pass, that need not wait and whose lines the acknowledgement counter has room for, goes on. -/
theorem memOwn_go {need : Cur → Need} {eff : Cur → List LaneAcc → State → State} (pass : AllPass s c x sh acc ok) (wait : NoWait s c x)
    (room : c.b.ackcnt + (accLines ok).length ≤ 512) : s.memOwn x sh acc need eff c = .go := by
  have release : (orderRel x.order && !s.performed c.b x.scope) = false := by
    cases h : orderRel x.order with
    | false => rfl
    | true => simp [wait.2 h]
  unfold State.memOwn
  rw [pass]
  simp [missLane_ok, passedLanes_ok, lowestCause_ok, wait.1, release, Nat.not_lt.2 room]

/-- A memory instruction whose lanes all pass, and that need not wait, has its effect on all its lanes. -/
theorem memIssue_passes {need : Cur → Need} {eff : Cur → List LaneAcc → State → State} (ready : Ready s c (need c)) (pass : AllPass s c x sh acc ok)
    (wait : NoWait s c x) (room : c.b.ackcnt + (accLines ok).length ≤ 512) :
    s.memIssue x sh acc need eff = .next ((eff c ok (s.issued c (need c))).advance c) := by
  rw [State.memIssue, issue_ready ready (memOwn_go pass wait room), pass, passedLanes_ok]

end

/-- Settles O19: the lanes pass, so the store's effect is one entry of the store queue, or nothing where no lane is active. -/
theorem storesEnterTheStoreQueue : Obligations.StoresEnterTheStoreQueue := by
  intro p hp x s c ok ready pass wait room
  have runs : exec (p.1 x) s = .next ((storeEff x p.2 c ok (s.issued c (needStore x c))).advance c) := by
    rw [← memIssue_passes (eff := storeEff x p.2) ready pass wait room]
    simp only [List.mem_cons, List.not_mem_nil, or_false] at hp
    rcases hp with rfl | rfl | rfl <;> rfl
  split
  · next none => exact moves_of ready.1 (by rw [runs, storeEff, none]; rfl)
  · next some => exact queues_of (l := ok) ready.1 (by rw [runs, storeEff, if_neg (by simpa using some)])

end Sys2Proof.Machine
/-! SUPPORT. Barrier objects, event counters and armings join the store queue (O37). -/

namespace Sys2Proof.Machine

/-! ### A record of flash is read after the issue (R90, R112) -/

theorem filterMap_mapPut {α β : Type} (f : Nat × α → Option β) (l : List (Nat × α)) {k : Nat} (x : α) (h : ∀ v, f (k, v) = none) :
    (mapPut l k x).filterMap f = l.filterMap f := by
  induction l with
  | nil => simp [mapPut, h]
  | cons a l ih =>
    obtain ⟨j, v⟩ := a
    unfold mapPut
    split
    · simp [h]
    · split
      · next e => subst e; simp [h]
      · simp [List.filterMap_cons, ih]

/-- A tenant's charges stand below the registers of the flash regions, those of a number that no region's owner field holds aside. -/
theorem regionNums_charged (s : State) (k : Nat) {t : Nat} (ht : t < 64) (n : Nat) : (s.charged k t n).regionNums = s.regionNums := by
  unfold State.charged
  dsimp only
  split
  · rfl
  · exact filterMap_mapPut _ _ _ fun v => if_neg (by simp; omega)

theorem regionNums_issued (s : State) {c : Cur} (ht : c.g.tenant < 64) (n : Need) : (s.issued c n).regionNums = s.regionNums := by
  unfold State.issued
  dsimp only
  rw [regionNums_charged _ _ ht, State.regionNums, onBundle_frame]
  rfl

theorem regionOf_issued (s : State) {c : Cur} (ht : c.g.tenant < 64) (n : Need) (u : Nat) : (s.issued c n).regionOf u = s.regionOf u := by
  unfold State.regionOf
  rw [regionNums_issued s ht]
  congr 1
  funext m
  rw [issued_reg s c n (by simp only [offRegion]; omega)]

/-- A number of 64 or more owns no region: each of its reads of flash is foreign. -/
theorem flashForeign_of_large (s : State) {t : Nat} (ht : 64 ≤ t) (pa : Nat) : s.flashForeign t pa = true := by
  unfold State.flashForeign
  split
  · rfl
  · next m _ =>
    have := fld_lt (s.reg (offRegion m)) 61 56
    simp; omega

theorem flashForeign_issued (s : State) (c : Cur) (n : Need) (pa : Nat) : (s.issued c n).flashForeign c.g.tenant pa = s.flashForeign c.g.tenant pa := by
  by_cases ht : c.g.tenant < 64
  · unfold State.flashForeign
    rw [regionOf_issued s ht]
    split
    · rfl
    · rw [issued_reg s c n (by simp only [offRegion]; omega)]
  · rw [flashForeign_of_large _ (by omega), flashForeign_of_large _ (by omega)]

theorem issuesFrom_recRead {s : State} {c : Cur} (hc : s.cur = some c) (n : Need) (d : LaneAcc) :
    IssuesFrom (s.recRead c d) ((s.issued c n).recRead c d) c (c.entered n s.clock s.free) := by
  have issued := issuesFrom_issued hc n
  unfold State.recRead State.countForeign
  rw [flashForeign_issued]
  split
  · obtain ⟨⟨rest, bytes, others, regs⟩, hb⟩ := issued
    refine ⟨⟨by rw [rest]; rfl, bytes, others, fun o ho => ?_⟩, hb⟩
    by_cases e : o = offWear (unitOf d.addr / 16777216)
    · subst e; rw [reg_setReg_self, reg_setReg_self, regs _ ho]
    · rw [reg_setReg_ne _ _ e, reg_setReg_ne _ _ e, regs _ ho]
  · exact issued

/-! ### The instructions -/

section
variable {x : RArgs} {s : State} {c : Cur} {a : LaneAcc} (free : c.b.acquiring = false) (room : c.b.ackcnt < 512)
include free room

theorem aboInit_queues (ready : Ready s c (needX x true 2 c)) (access : s.xAccess c .atomic x.pred 32 (c.raw x.a.sel) = .ok a)
    (count : aboCountBad (c.raw x.b.sel) = false) :
    Queues (.aboInit x) s c (needX x true 2 c) (.aboInit a (aboBytes (c.raw x.b.sel).toNat x.md.val c.g.id c.c.key.crew)) 1 := by
  refine queues_of (l := [a]) ready.1 ?_
  show execAboInit x s = _
  unfold execAboInit
  rw [issue_ready ready]
  · simp [onAcc, access]
  · simp [count, ownAcc, access, free, room]

theorem aboArrive_sendsToken (ready : Ready s c (needX x true 2 c)) (access : s.xAccess c .atomic x.pred 32 (c.raw x.a.sel) = .ok a)
    (count : aboCountBad (c.raw x.b.sel) = false) {k : Fin 64} (hd : x.dst = .s k) (line : s.lineBusy c.b a.addr = false) (release : s.performed c.b (s.aboScope a.addr) = true) :
    SendsToken (.aboArrive x) s c (needX x true 2 c) x.dst (fun pid => .aboArrive pid a (c.raw x.b.sel).toNat) 1 := by
  refine sendsTokenAfter_of (l := [a]) ready.1 (issuesFrom_issued ready.1 _) rfl hd ?_
  show execAboArrive x s = _
  unfold execAboArrive
  rw [issue_ready ready]
  · simp [onAcc, access]
  · simp [count, access, free, room, line, release]

theorem evAdd_sendsToken (ready : Ready s c (needX x true 2 c)) (access : s.xAccess c .atomic x.pred 8 (c.raw x.a.sel) = .ok a)
    {k : Fin 64} (hd : x.dst = .s k) (release : x.md.val = 1 → s.performed c.b .system = true) :
    SendsToken (.evAdd x) s c (needX x true 2 c) x.dst (fun pid => .evAdd pid a (c.raw x.b.sel)) 1 := by
  refine sendsTokenAfter_of (l := [a]) ready.1 (issuesFrom_issued ready.1 _) rfl hd ?_
  have performed : (x.md.val == 1 && !s.performed c.b .system) = false := by
    by_cases h : x.md.val = 1
    · simp [release h]
    · simp [h]
  show execEvAdd x s = _
  unfold execEvAdd
  rw [issue_ready ready]
  · simp [onAcc, access]
  · simp only [ownAcc, access, free, performed, Nat.not_le.2 room]; rfl

/-- An arming joins the queue from the state t that its issue, and the read of its record where it reads one, leave. -/
theorem evArm_sendsToken (ready : Ready s c (needArm x c)) (access : s.xAccess c .atomic x.pred 8 (c.raw x.a.sel) = .ok a) {r : List Word} (rcd : s.armRecord c x = .ok r)
    (counter : (c.raw x.a.sel).toNat % 8 = 0) (arg : (c.raw x.c.sel).toNat % armAlign x.md.val = 0) {k : Fin 64} (hd : x.dst = .s k)
    {u t : State} (ht : IssuesFrom u t c (c.entered (needArm x c) s.clock s.free)) (hu : u.clock = s.clock)
    (reads : (if x.md.val = 0 then onAcc (s.xRead c x.pred 64 (c.raw x.c.sel)) (s.issued c (needArm x c)) ((s.issued c (needArm x c)).recRead c) else s.issued c (needArm x c)) = t) :
    SendsTokenAfter (.evArm x) s u c (needArm x c) x.dst (fun pid => .evArm pid a x.md.val (c.raw x.b.sel) (c.raw x.c.sel) (c.raw x.dst) r) 1 := by
  refine sendsTokenAfter_of (l := [a]) ready.1 ht hu hd ?_
  show execEvArm x s = _
  unfold execEvArm
  rw [issue_ready ready]
  · simp only [access, rcd, onAcc] at reads ⊢
    rw [reads]
  · simp [ownArm, counter, arg, access, rcd, free, room]

end

theorem aboCountBad_of_range {v : Word} (lo : 1 ≤ v.toNat) (hi : v.toNat ≤ 65535) : aboCountBad v = false := by
  have : v ≠ 0#64 := by rintro rfl; simp at lo
  simp [aboCountBad, this, Nat.not_lt.2 hi]

theorem armAlign_eq (kind : Nat) : armAlign kind = if kind = 0 then 64 else if kind = 1 then 32 else 8 := by
  match kind with
  | 0 => rfl
  | 1 => rfl
  | _ + 2 => rfl

/-- Settles O37, an instruction at a time: each may go on, and its effect is one entry of the store queue. -/
theorem barrierObjectsAndCounters : Obligations.BarrierObjectsAndCounters := by
  intro x s c a free room
  refine ⟨fun ready access lo hi => ⟨?_, fun k hd line release => ?_⟩, fun k hd ready access release => ?_, fun k r hd ready access rcd counter arg u hu => ?_⟩
  · exact aboInit_queues free room ready access (aboCountBad_of_range lo hi)
  · exact aboArrive_sendsToken free room ready access (aboCountBad_of_range lo hi) hd line release
  · exact evAdd_sendsToken free room ready access hd release
  · rw [← armAlign_eq] at arg
    rcases hu with ⟨kind, rfl⟩ | ⟨d, kind, read, rfl⟩
    · exact evArm_sendsToken free room ready access rcd counter arg hd (issuesFrom_issued ready.1 _) rfl (if_neg kind)
    · refine evArm_sendsToken free room ready access rcd counter arg hd (issuesFrom_recRead ready.1 _ d) ?_ ?_
      · unfold State.recRead State.countForeign
        split <;> rfl
      · rw [if_pos kind, read]; rfl

end Sys2Proof.Machine

/-! SUPPORT. Tile instructions at issue (R393 to R398, R409), and the proof of O24. -/

namespace Sys2Proof.Machine

/-! ### The issuing crew -/

theorem cur_crew {s : State} {c : Cur} (h : s.cur = some c) : s.crew? c.c.key = some c.c := by
  unfold State.cur at h
  split at h
  · cases h
  · split at h
    · next hcrew _ =>
      split at h
      · split at h
        · cases h
          rw [crew?_key hcrew]
          exact hcrew
        · cases h
      · cases h
    · cases h

theorem IssuesFrom.onCrew {u t : State} {c : Cur} {b : Bundle} (h : IssuesFrom u t c b) (k : CKey) (f : Crew → Crew) :
    IssuesFrom { u with crews := (t.onCrew k f).crews } (t.onCrew k f) c b := by
  rw [onCrew_frame]
  exact h.crews _

/-! ### Checks (R393, R394, R396) -/

section
variable {s : State} {c : Cur} {x : TArgs} {rdy : Bool} {segs : List (Space × List (Nat × Nat))}

theorem operandsBad_none (h : ∀ y ∈ segs, ∀ z ∈ y.2, s.spaceBad c y.1 z.1 z.2 = none) : s.operandsBad c segs = none := by
  simp only [State.operandsBad, State.segsBad, List.findSome?_eq_none_iff]
  exact h

/-- With some lanes but not all a tile instruction traps, whatever its other checks say (R393). -/
theorem tileMask_trap {k : Own} (act : c.active x.pred ≠ 0) (part : c.allActive x.pred = false) : tileMask x c k = .trap 0x0A (c.active x.pred) fun _ => 0 := by
  rw [tileMask, if_neg act, part]; rfl

theorem tileMask_all {k : Own} (act : c.active x.pred ≠ 0) (all : c.allActive x.pred = true) : tileMask x c k = k := by
  rw [tileMask, if_neg act, if_pos all]

theorem tileOwn_go (act : c.active x.pred ≠ 0) (all : c.allActive x.pred = true) (may : TileMay s c x rdy segs) : tileOwn x s rdy segs c = .go := by
  obtain ⟨⟨k, tile, room⟩, fine, fence⟩ := may
  have performed : (rdy && !s.performed c.b .device) = false := by
    cases rdy with
    | false => rfl
    | true => simp [fence rfl]
  have roomy : k.roomy = true := decide_eq_true room
  simp [tileOwn, tileMask_all act all, operandsBad_none fine, performed, tile, roomy]

end

/-! ### The queue (R394) -/

/-- The crew with a tile instruction at the end of its tile's queue, which stands at a time under the fence that its .rdy, or the crew's last, gives. -/
def Crew.joins (y : Crew) (k : BKey) (now n : Nat) (op : TileOp) (since : Option Nat) (drain : Bool) : Crew :=
  { y with fence := since, tiles := y.tiles.modify n fun k' => { k' with queue := k'.queue ++ [⟨k, now, op, k'.wp, 0, 0, none, 0, since⟩], full := if drain then k'.full else false } }

/-- What joins the queue of a tile is the crew's only change, and the tile is as full as before for a drain, empty for the others. -/
theorem tileEff_joins {x : TArgs} {op : TileOp} {rdy drain : Bool} {c : Cur} (t : State) (act : c.active x.pred ≠ 0) :
    tileEff x op rdy drain c t =
      let u := t.onCrew c.c.key fun y => y.joins c.b.key t.clock x.tile.val op (if rdy then some t.clock else c.c.fence) drain
      (if drain then u.onBundle c.b.key fun b => { b with drains := b.drains + 1 } else u).advance c := by
  simp only [tileEff, if_neg act]
  rfl

section
variable {s : State} {c : Cur} {n : Need} {f : Crew → Crew}

/-- A change of the issuing crew, in a state with the crews of the one it issued from. -/
theorem crews_onCrew {t : State} (hc : s.cur = some c) (key : ∀ y, (f y).key = y.key) (same : t.crews = s.crews) :
    (t.onCrew c.c.key f).crew? c.c.key = some (f c.c) ∧ ∀ j, j ≠ c.c.key → (t.onCrew c.c.key f).crew? j = s.crew? j := by
  have there : ∀ j, t.crew? j = s.crew? j := fun j => by simp only [State.crew?, same]
  exact ⟨crew?_onCrew_self ((there _).trans (cur_crew hc)) (key _), fun j hj => (crew?_onCrew_ne key hj).trans (there j)⟩

theorem issued_clock (s : State) (c : Cur) (n : Need) : (s.issued c n).clock = s.clock := by rw [issued_frame]
theorem issued_crews (s : State) (c : Cur) (n : Need) : (s.issued c n).crews = s.crews := by rw [issued_frame]

/-- An instruction that changes its crew and moves past itself. -/
theorem changesCrew_of {i : Instr} (hc : s.cur = some c) (key : ∀ y, (f y).key = y.key)
    (h : exec i s = .next (((s.issued c n).onCrew c.c.key f).advance c)) : ChangesCrew i s c n (f c.c) := by
  have state := ((issuesFrom_issued hc n).onCrew c.c.key f).advance
  have left := (entered_leftAt (cur_path hc) n s.clock s.free).advanced
  have crews : (((s.issued c n).onCrew c.c.key f).advance c).crews = ((s.issued c n).onCrew c.c.key f).crews := by simp [State.advance]
  obtain ⟨issuer, others⟩ := crews_onCrew hc key (issued_crews s c n)
  exact ⟨_, _, h, ⟨by rw [crews]; exact state.own, by rw [State.crew?, crews]; exact issuer, fun j hj => by rw [State.crew?, crews]; exact others j hj⟩,
    state.bundle, left.but, left.path, left.regs, left.awaits⟩

/-- A tile instruction traps where some but not all lanes are active, before its other checks (R393). -/
theorem tile_traps {x : TArgs} {need : Cur → Need} {own : Cur → Own} {skip : Path → Path} {eff : Cur → State → State} {rest : Own} (ready : Ready s c (need c))
    (hown : own c = tileMask x c rest) (act : c.active x.pred ≠ 0) (part : c.allActive x.pred = false) :
    s.issue need own skip eff = .next (s.takeTrap c 0x0A (c.active x.pred) fun _ => 0) := by
  obtain ⟨hc, eligible, held, checked, active, clean, -⟩ := ready
  simp [State.issue, hc, eligible, held, checked, active, clean, hown, tileMask_trap act part]

/-- A tile instruction other than a drain, whose checks and operation these are. -/
theorem tileIssues_of {i : Instr} {x : TArgs} {rdy : Bool} {segs : List (Space × List (Nat × Nat))} {op : TileOp} {need : Cur → Need} {own : Cur → Own} {eff : Cur → State → State}
    (h : exec i s = s.issue need own Path.advance eff) (ready : Ready s c (need c)) (hown : own c = tileOwn x s rdy segs c) (heff : eff c = tileEff x op rdy false c) : TileIssues i s c x (need c) rdy segs op := by
  refine ⟨fun act all may => ?_, fun act part => h.trans (tile_traps ready hown act part)⟩
  refine changesCrew_of (f := fun y => y.joins c.b.key s.clock x.tile.val op (if rdy then some s.clock else c.c.fence) false) ready.1 (fun _ => rfl) ?_
  rw [h, issue_ready ready (hown.trans (tileOwn_go act all may)), heff, tileEff_joins _ act, issued_clock]
  rfl

end

/-! ### Drains (R32, R409) -/

section
variable {s : State} {c : Cur} {x : TArgs}

theorem mdrain_traps (ready : Ready s c (needT x [x.crdb] 64 c)) (act : c.active x.pred ≠ 0) (part : c.allActive x.pred = false) :
    exec (.mdrain x) s = .next (s.takeTrap c 0x0A (c.active x.pred) fun _ => 0) := by
  show execMdrain x s = _
  unfold execMdrain
  exact tile_traps ready rfl act part

/-- The bundle with some more lines on its acknowledgement counter. -/
def Bundle.counting (lines : Nat) (b : Bundle) : Bundle := { b with ackcnt := b.ackcnt + lines }

/-- The bundle with one more drain. -/
def Bundle.draining (b : Bundle) : Bundle := { b with drains := b.drains + 1 }

theorem exec_mdrain (ready : Ready s c (needT x [x.crdb] 64 c)) (act : c.active x.pred ≠ 0) (all : c.allActive x.pred = true) (aligned : (c.opB s x).c0 * (c.opB s x).t.c % 8 = 0)
    (may : TileMay s c x false (placed (c.opB s x).t ((c.opB s x).outSegs ++ (c.opB s x).outScales))) (room : c.b.ackcnt + (c.opB s x).outLines.length ≤ 512) :
    exec (.mdrain x) s = .next (((((s.issued c (needT x [x.crdb] 64 c)).onBundle c.b.key (Bundle.counting (c.opB s x).outLines.length)).onCrew c.c.key fun y =>
      y.joins c.b.key s.clock x.tile.val (.drain (c.opB s x).t x.tfb.val x.dirb (c.raw x.crdb.sel)) c.c.fence true).onBundle c.b.key Bundle.draining).advance c) := by
  show execMdrain x s = _
  unfold execMdrain
  rw [issue_ready ready]
  · simp only [if_neg act, tileEff_joins _ act, onBundle_clock, issued_clock]
    rfl
  · simp [tileMask_all act all, aligned, tileOwn_go act all may, Nat.not_lt.2 room]

/-- A drain joins its tile's queue, its lines counted, as one drain of its bundle. -/
theorem mdrain_joins (ready : Ready s c (needT x [x.crdb] 64 c)) (act : c.active x.pred ≠ 0) (all : c.allActive x.pred = true) (aligned : (c.opB s x).c0 * (c.opB s x).t.c % 8 = 0)
    (may : TileMay s c x false (placed (c.opB s x).t ((c.opB s x).outSegs ++ (c.opB s x).outScales))) (room : c.b.ackcnt + (c.opB s x).outLines.length ≤ 512) :
    Outcome (.mdrain x) s c (needT x [x.crdb] 64 c) (fun t => { s with crews := t.crews }) .litS c.past fun t b' =>
      t.crew? c.c.key = some (tileQueued s c x false (.drain (c.opB s x).t x.tfb.val x.dirb (c.raw x.crdb.sel)) fun k => k.full) ∧ (∀ j, j ≠ c.c.key → t.crew? j = s.crew? j) ∧
      b'.drains = c.b.drains + 1 ∧ b'.ackcnt = c.b.ackcnt + (c.opB s x).outLines.length ∧ b'.pend = c.b.pend ∧ b'.sq = c.b.sq ∧ b'.arch.awaits = c.b.arch.awaits := by
  have runs := exec_mdrain ready act all aligned may room
  generalize hn : needT x [x.crdb] 64 c = n at runs
  generalize hf : (fun y : Crew => y.joins c.b.key s.clock x.tile.val (.drain (c.opB s x).t x.tfb.val x.dirb (c.raw x.crdb.sel)) c.c.fence true) = f at runs
  have key : ∀ y, (f y).key = y.key := fun y => by rw [← hf]; rfl
  have state := ((((issuesFrom_issued ready.1 n).onBundle (f := Bundle.counting (c.opB s x).outLines.length) fun _ => rfl).onCrew c.c.key f).onBundle (f := Bundle.draining) fun _ => rfl).advance
  obtain ⟨⟨rest, -, -⟩, path, regs, awaits⟩ := entered_leftAt (cur_path ready.1) n s.clock s.free
  obtain ⟨issuer, others⟩ := crews_onCrew (t := (s.issued c n).onBundle c.b.key (Bundle.counting (c.opB s x).outLines.length)) ready.1 key (by rw [onBundle_crews, issued_crews])
  generalize ht : (((s.issued c n).onBundle c.b.key (Bundle.counting (c.opB s x).outLines.length)).onCrew c.c.key f) = t at *
  have crews : ((t.onBundle c.b.key Bundle.draining).advance c).crews = t.crews := by simp [State.advance]
  have there : ∀ j, ((t.onBundle c.b.key Bundle.draining).advance c).crew? j = t.crew? j := fun j => by simp only [State.crew?, crews]
  refine ⟨_, _, runs, ?_, state.bundle, PathNow.advanced path, RegsBut.advanced regs, ?_, fun j hj => (there j).trans (others j hj), ?_, ?_, ?_, ?_, ?_⟩
  · rw [← crews] at state; exact state.own
  · rw [there, issuer, ← hf]; rfl
  · show (c.entered n s.clock s.free).drains + 1 = _
    rw [rest]
  · show (c.entered n s.clock s.free).ackcnt + _ = _
    rw [rest]
  · show (c.entered n s.clock s.free).pend = _
    rw [rest]
  · show (c.entered n s.clock s.free).sq = _
    rw [rest]
  · exact (setPath_awaits _ _ _).trans awaits

end

/-- Settles O24: each instruction's checks and operation are those of tileOwn and tileEff; a drain counts its lines too. -/
theorem tileInstructionsAreQueued : Obligations.TileInstructionsAreQueued := by
  refine ⟨fun x s c => ⟨fun ready => ?_, fun ready => ⟨?_, ?_⟩, fun ready => ?_⟩, fun x s c ready => ⟨?_, ?_⟩⟩
  · exact tileIssues_of rfl ready rfl rfl
  · exact tileIssues_of rfl ready rfl rfl
  · exact tileIssues_of rfl ready rfl rfl
  · exact tileIssues_of rfl ready rfl rfl
  · exact mdrain_traps ready
  · exact mdrain_joins ready

end Sys2Proof.Machine

/-! SUPPORT. The store queue and the home slice: a store leaves its queue, a write in flight becomes visible, an acknowledgement comes back (R32, R206, R223). -/

namespace Sys2Proof.Machine

/-! ### A store to memory leaves its queue (R223) -/

section
variable {s : State} {k : BKey} {b : Bundle} {c : Crew} {g : Grid} {e : SqEntry} {rest : List SqEntry}

/-- An entry that nothing holds back, and that does not stay, leaves past the strike horizon. -/
theorem exec_storeQueueLeave (hb : s.bundle? k = some b) (hc : s.crew? k.ck = some c) (hg : s.grid? k.grid = some g) (unparked : b.parked = none) (hq : b.sq = e :: rest)
    (late : s.tooEarly b e = false) {u : State} (gone : (s.upTo (e.time + Config.horizon)).leaves b c g e = .gone u) :
    exec (.storeQueueLeave k) s = .next (u.onBundle k fun x => { x with sq := x.sq.tail }) := by
  show execStoreQueueLeave k s = _
  unfold execStoreQueueLeave
  simp [hb, hc, hg, unparked, hq, late, gone]

/-- A store to cacheable memory leaves as one flight for each line, and its core's L1 takes its bytes where the page's type lets it. -/
theorem leaveStore_mem {time : Nat} {block : Bool} {parts : List (LaneAcc × List Byte)} (some : parts ≠ []) (mem : ∀ p ∈ parts, p.1.space = .mem ∧ p.1.pbmt ≠ 2) :
    s.leaveStore b c g time block parts =
      .gone ((s.l1Store c.core (parts.flatMap fun x => if x.1.pbmt = 0 then partsFrom x.1.addr x.2 else [])).send (storeFlights b.key c.core block parts)) := by
  have noIo : parts.filter (fun x => x.1.pbmt == 2) = [] := List.filter_eq_nil_iff.2 fun p hp => by simpa using (mem p hp).2
  have allMem : parts.filter (fun x => x.1.pbmt != 2) = parts := List.filter_eq_self.2 fun p hp => by simpa using (mem p hp).2
  obtain ⟨p, r, rfl⟩ := List.exists_cons_of_ne_nil some
  simp [State.leaveStore, (mem p List.mem_cons_self).1, State.leaveMem, noIo, allMem]

theorem store_leaves {block : Bool} {parts : List (LaneAcc × List Byte)} (hb : s.bundle? k = some b) (hc : s.crew? k.ck = some c) (hg : s.grid? k.grid = some g)
    (unparked : b.parked = none) (hq : b.sq = e :: rest) (op : e.op = .store block parts) (some : parts ≠ []) (mem : ∀ p ∈ parts, p.1.space = .mem ∧ p.1.pbmt ≠ 2)
    (late : s.tooEarly b e = false) :
    ∃ t, exec (.storeQueueLeave k) s = .next t ∧ t.bundle? k = Option.some { b with sq := rest } ∧ (∀ k', k' ≠ k → t.bundle? k' = s.bundle? k') ∧
      t = { s with clock := max s.clock (e.time + 40), bundles := t.bundles, l1 := t.l1, inflight := s.inflight ++ storeFlights k c.core block parts } := by
  have gone := leaveStore_mem (s := s.upTo (e.time + Config.horizon)) (b := b) (c := c) (g := g) (time := e.time) (block := block) some mem
  rw [bundle?_key hb] at gone
  refine ⟨_, exec_storeQueueLeave hb hc hg unparked hq late (by rw [State.leaves, op]; exact gone), ?_, fun k' hk' => ?_, ?_⟩
  · rw [bundle?_onBundle_self (b := b) (by exact hb) rfl, hq]; rfl
  · exact bundle?_onBundle_ne (f := fun x : Bundle => { x with sq := x.sq.tail }) (fun _ => rfl) hk'
  · rw [onBundle_frame]; rfl

end

/-! ### The bytes of a write (R206) -/

theorem putParts_frame (s : State) (l : List (Nat × Byte)) : s.putParts l = { s with mem := (s.putParts l).mem, memOpen := (s.putParts l).memOpen } := by
  induction l generalizing s with
  | nil => rfl
  | cons p r ih => rw [State.putParts, ih]; rfl

theorem byte_putParts_out (s : State) {l : List (Nat × Byte)} {a : Nat} (h : ∀ p ∈ l, p.1 ≠ a) : (s.putParts l).byte a = s.byte a := by
  induction l generalizing s with
  | nil => rfl
  | cons p r ih =>
    rw [State.putParts, ih _ fun q hq => h q (List.mem_cons_of_mem _ hq), byte_setByte_ne _ _ (h p List.mem_cons_self).symm]

theorem byte_putParts_in (s : State) {l : List (Nat × Byte)} (wf : memWf s.mem = true) (once : (l.map fun p => p.1).Nodup) {p : Nat × Byte} (hp : p ∈ l) :
    (s.putParts l).byte p.1 = p.2 := by
  induction l generalizing s with
  | nil => cases hp
  | cons q r ih =>
    rw [List.map_cons, List.nodup_cons] at once
    rw [State.putParts]
    rcases List.mem_cons.1 hp with rfl | hp
    · rw [byte_putParts_out _ fun x hx e => once.1 (List.mem_map.2 ⟨x, hx, e⟩), byte_setByte_self _ _ _ wf]
    · exact ih _ (memWf_setByte s _ _ wf) once.2 hp

/-! ### What a visible write leaves (R156, R206, R238, R278, R419) -/

theorem windowOf_congr {s t : State} (h : t.regs = s.regs) (a : Nat) : t.windowOf a = s.windowOf a := by
  unfold State.windowOf State.reg
  rw [h]

/-- t is s but for poison, what is noted of writes, reservations, and what the bundles that watch a line remember. -/
def NotesOnly (s t : State) : Prop :=
  ∃ poison mended by' bundles wrote hosts, t = { s with poison := poison, mended := mended, poisonBy := by', bundles := bundles, hub := { s.hub with wrote := wrote, hosts := hosts } }

theorem NotesOnly.trans {s t u : State} : NotesOnly s t → NotesOnly t u → NotesOnly s u := by
  rintro ⟨_, _, _, _, _, _, rfl⟩ ⟨_, _, _, _, _, _, rfl⟩
  exact ⟨_, _, _, _, _, _, rfl⟩

theorem NotesOnly.windowOf {s t : State} (h : NotesOnly s t) (a : Nat) : t.windowOf a = s.windowOf a := by
  obtain ⟨_, _, _, _, _, _, rfl⟩ := h
  exact windowOf_congr rfl a

theorem noteWrite_notes (s : State) (place : Option (Space × CKey)) (addrs : List Nat) (writer : Option BKey) : NotesOnly s (s.noteWrite place addrs writer) :=
  ⟨_, _, _, _, _, _, rfl⟩

theorem poisonWrite_notes (s : State) (addrs : List Nat) (bad : Bool) : NotesOnly s (s.poisonWrite addrs bad) := by
  unfold State.poisonWrite
  dsimp only
  split
  · exact ⟨_, _, _, _, _, _, rfl⟩
  · split <;> exact ⟨_, _, _, _, _, _, rfl⟩

theorem poisonFrom_notes (s : State) (line source : Nat) : NotesOnly s (s.poisonFrom line source) := ⟨_, _, _, _, _, _, rfl⟩

theorem watchHit_notes (s : State) (writer : Option BKey) (lines : List Nat) : NotesOnly s (s.watchHit writer lines) := ⟨_, _, _, _, _, _, rfl⟩

/-- Bytes outside the windows, while no receive is armed, stand at the home slice as they were written. -/
theorem landed_notes {s : State} {parts : List (Nat × Byte)} (writer : Option BKey) (block bad : Bool) (narms : s.net.narms = []) (out : ∀ p ∈ parts, s.windowOf p.1 = none) :
    NotesOnly (s.putParts parts) (s.landed writer block parts bad) := by
  have bytes : s.veiled parts = parts := by simp [State.veiled, narms]
  have notes := ((noteWrite_notes (s.putParts parts) none (parts.map fun p => p.1) writer).trans (poisonWrite_notes _ (parts.map fun p => p.1) bad)).trans
    (watchHit_notes _ writer (linesOf (parts.map fun p => p.1)))
  unfold State.landed
  dsimp only
  rw [bytes]
  cases parts with
  | nil => exact notes
  | cons p r =>
    have clear := ((notes.windowOf p.1).trans (windowOf_congr (s := s) (by rw [putParts_frame]) p.1)).trans (out p List.mem_cons_self)
    simp only [List.map_cons] at clear notes ⊢
    rw [clear]
    exact notes

/-! ### Actions armed elsewhere do not fire (R159) -/

theorem firing_nil {l : List Armed} {pa : Nat} (v : Nat) (h : ∀ x ∈ l, x.pa ≠ pa) : firing l pa v = [] := by
  have none : l.filter (fun a => !a.waits && a.pa == pa && decide (a.thr ≤ v)) = [] := List.filter_eq_nil_iff.2 fun x hx => by simp [h x hx]
  simp [firing, none]

theorem takeFired_nil {s : State} {pas : List Nat} (h : ∀ x ∈ s.armed, ∀ pa ∈ pas, x.pa ≠ pa) : s.takeFired pas = (s, []) := by
  have none : (pas.flatMap fun pa => firing s.armed pa (s.rd64 pa).toNat) = [] := List.flatMap_eq_nil_iff.2 fun pa hpa => firing_nil _ fun x hx => h x hx pa hpa
  simp [State.takeFired, none]

theorem fire_nil (n : Nat) (s : State) : State.fire n [] s = s := by cases n <;> rfl

theorem spoil_eq (s : State) (addrs : List Nat) : s.spoil addrs =
    { s with hub := { s.hub with objs := s.hub.objs.map fun o => (o.1, o.2 || addrs.any fun a => decide (o.1 ≤ a ∧ a < o.1 + 32)) } } := by
  unfold State.spoil
  split
  · next h => rw [List.isEmpty_iff.1 h, List.map_nil, ← List.isEmpty_iff.1 h]
  · rfl

/-- An ordinary write that fires nothing: its bytes stand in memory, and the barrier objects that it meets are spoilt. -/
theorem visible_notes {s : State} {parts : List (Nat × Byte)} (writer : Option BKey) (block bad : Bool) (narms : s.net.narms = []) (out : ∀ p ∈ parts, s.windowOf p.1 = none)
    (quiet : ∀ x ∈ s.armed, ∀ p ∈ parts, x.pa ≠ p.1 / 8 * 8) :
    NotesOnly ((s.spoil (parts.map fun p => p.1)).putParts parts) (s.visible writer block parts bad) := by
  have landed := landed_notes (s := s.spoil (parts.map fun p => p.1)) (parts := parts) writer block bad (by rw [spoil_eq]; exact narms) (fun p hp => by rw [spoil_eq]; exact out p hp)
  have armed : ((s.spoil (parts.map fun p => p.1)).landed writer block parts bad).armed = s.armed := by
    obtain ⟨_, _, _, _, _, _, e⟩ := landed
    rw [e, putParts_frame, spoil_eq]
  have fires : ((s.spoil (parts.map fun p => p.1)).landed writer block parts bad).takeFired ((parts.map fun p => p.1 / 8 * 8).eraseDups) =
      ((s.spoil (parts.map fun p => p.1)).landed writer block parts bad, []) := by
    refine takeFired_nil fun x hx pa hpa => ?_
    rw [armed] at hx
    obtain ⟨p, hp, rfl⟩ := List.mem_map.1 (List.mem_eraseDups.1 hpa)
    exact quiet x hx p hp
  rw [State.visible, State.shown, fires, fire_nil]
  exact landed

/-- A barrier object that a write meets is spoilt (R419). -/
theorem objSpoilt_spoil {s : State} {addrs : List Nat} {pa : Nat} {b : Bool} (obj : (pa, b) ∈ s.hub.objs) {a : Nat} (ha : a ∈ addrs) (lo : pa ≤ a) (hi : a < pa + 32) :
    (s.spoil addrs).objSpoilt pa = true := by
  have met : addrs.any (fun a => decide (pa ≤ a ∧ a < pa + 32)) = true := List.any_eq_true.2 ⟨a, ha, by simp [lo, hi]⟩
  rw [spoil_eq, State.objSpoilt, List.contains_iff_mem]
  exact List.mem_map.2 ⟨_, obj, by simp only [met, Bool.or_true]⟩

/-! ### The events -/

/-- The write of some bytes that nothing holds back becomes visible, and its acknowledgement sets out; one delivered poisoned poisons its line (R33, R206). -/
theorem exec_homeSliceWrite {s : State} {i : Nat} {f : Flight} {block : Bool} {parts : List (Nat × Byte)} (hf : s.inflight[i]? = some f) (free : heldBack (s.inflight.take i) f = false)
    (row : s.rowBusy f.line = false) (op : f.op = .bytes block parts) :
    ∃ u, NotesOnly (({ s with inflight := s.inflight.eraseIdx i } : State).visible f.owner.bundle? block parts f.bad) u ∧
      exec (.homeSliceWrite i) s = .next { u with acks := u.acks ++ [{ f with op := .bytes false [] }] } := by
  have runs : exec (.homeSliceWrite i) s = .next (let r := ({ s with inflight := s.inflight.eraseIdx i } : State).arrives f; { r.1 with acks := r.1.acks ++ r.2 }) := by
    show execHomeSliceWrite i s = _
    simp [execHomeSliceWrite, hf, free, row]
  rw [runs]
  simp only [State.arrives, op]
  cases f.bad with
  | false => exact ⟨_, ⟨_, _, _, _, _, _, rfl⟩, rfl⟩
  | true => exact ⟨_, poisonFrom_notes _ f.line 7, rfl⟩

theorem write_becomesVisible {s : State} {i : Nat} {f : Flight} {block : Bool} {parts : List (Nat × Byte)} (wf : memWf s.mem = true) (hf : s.inflight[i]? = some f)
    (free : heldBack (s.inflight.take i) f = false) (row : s.rowBusy f.line = false) (op : f.op = .bytes block parts) (once : (parts.map fun p => p.1).Nodup)
    (out : ∀ p ∈ parts, s.windowOf p.1 = none) (quiet : ∀ x ∈ s.armed, ∀ p ∈ parts, x.pa ≠ p.1 / 8 * 8) (narms : s.net.narms = []) :
    ∃ t, exec (.homeSliceWrite i) s = .next t ∧ (∀ p ∈ parts, t.byte p.1 = p.2) ∧ (∀ a, (∀ p ∈ parts, p.1 ≠ a) → t.byte a = s.byte a) ∧
      t.acks = s.acks ++ [{ f with op := .bytes false [] }] ∧ t.inflight = s.inflight.eraseIdx i ∧
      t = { s with mem := t.mem, memOpen := t.memOpen, poison := t.poison, mended := t.mended, poisonBy := t.poisonBy, bundles := t.bundles, acks := t.acks, inflight := t.inflight,
                   hub := { s.hub with wrote := t.hub.wrote, objs := t.hub.objs, hosts := t.hub.hosts } } ∧
      ∀ pa, (∃ b, (pa, b) ∈ s.hub.objs) → (∃ p ∈ parts, pa ≤ p.1 ∧ p.1 < pa + 32) → t.objSpoilt pa = true := by
  obtain ⟨u, marked, runs⟩ := exec_homeSliceWrite hf free row op
  have seen := visible_notes (s := { s with inflight := s.inflight.eraseIdx i }) f.owner.bundle? block f.bad narms (fun p hp => (windowOf_congr rfl _).trans (out p hp)) quiet
  obtain ⟨_, _, _, _, _, _, rfl⟩ := seen.trans marked
  generalize hs : ({ s with inflight := s.inflight.eraseIdx i } : State).spoil (parts.map fun p => p.1) = S at *
  have spoilt := hs.symm.trans (spoil_eq _ _)
  have bytes : ∀ a, S.byte a = s.byte a := fun a => by rw [spoilt]; rfl
  refine ⟨_, runs, fun p hp => ?_, fun a ha => ?_, ?_, ?_, ?_, ?_⟩
  · exact byte_putParts_in S (by rw [spoilt]; exact wf) once hp
  · exact (byte_putParts_out S ha).trans (bytes a)
  · rw [putParts_frame, spoilt]
  · rw [putParts_frame, spoilt]
  · rw [putParts_frame, spoilt]
  · rintro pa ⟨b, obj⟩ ⟨p, hp, lo, hi⟩
    have := objSpoilt_spoil (s := { s with inflight := s.inflight.eraseIdx i }) obj (List.mem_map_of_mem hp) lo hi
    rw [hs] at this
    rw [putParts_frame]
    exact this

/-- An acknowledgement that brings no value counts down its bundle's counter (R32). -/
theorem acknowledgement_counts {s : State} {i : Nat} {f : Flight} {k : BKey} {b : Bundle} (hf : s.acks[i]? = some f) (owner : f.owner = .bundle k) (op : f.op = .bytes false [])
    (hb : s.bundle? k = some b) :
    ∃ t, exec (.acknowledgement i) s = .next t ∧ t.bundle? k = some { b with ackcnt := b.ackcnt - 1 } ∧ (∀ k', k' ≠ k → t.bundle? k' = s.bundle? k') ∧
      t = { s with acks := s.acks.eraseIdx i, bundles := t.bundles } := by
  have runs : exec (.acknowledgement i) s = .next (({ s with acks := s.acks.eraseIdx i } : State).onBundle k fun b => { b with ackcnt := b.ackcnt - 1 }) := by
    show execAcknowledgement i s = _
    simp [execAcknowledgement, hf, owner, op]
  refine ⟨_, runs, bundle?_onBundle_self (f := fun b : Bundle => { b with ackcnt := b.ackcnt - 1 }) hb rfl,
    fun k' hk' => bundle?_onBundle_ne (f := fun b : Bundle => { b with ackcnt := b.ackcnt - 1 }) (fun _ => rfl) hk', ?_⟩
  rw [onBundle_frame]

end Sys2Proof.Machine

/-! SUPPORT. A load's data arrive (R187, R206, R223), and the proof of O46. -/

namespace Sys2Proof.Machine

/-! ### A result in its register (R187) -/

/-- A result that one register alone waits for is put there, and the register is full. -/
theorem arrive_of_single {a : Arch} {id : Nat} {r : Sel} (waits : ∀ q, (q, id) ∈ a.awaits ↔ q = r) (put : Arch → Sel → Arch) : ∃ x, a.arrive id put = (put x r).fill r := by
  have mem : (r, id) ∈ a.awaits.filter (fun x => x.2 == id) := by simp [(waits r).2 rfl]
  have only : ∀ x ∈ a.awaits.filter (fun x => x.2 == id), x = (r, id) := fun x hx => by
    simp only [List.mem_filter, beq_iff_eq] at hx
    obtain ⟨q, j⟩ := x
    obtain ⟨hx, rfl⟩ := hx
    rw [(waits q).1 hx]
  unfold Arch.arrive
  obtain ⟨l, last, e⟩ : ∃ l last, a.awaits.filter (fun x => x.2 == id) = l ++ [last] :=
    ⟨_, _, (List.dropLast_append_getLast (List.ne_nil_of_mem mem)).symm⟩
  rw [e] at only ⊢
  rw [List.foldl_append, only last (by simp)]
  exact ⟨_, rfl⟩

theorem orFlags_rest (a : Arch) (l : List (Nat × Nat)) : a.orFlags l = { a with fpflags := (a.orFlags l).fpflags } := by
  induction l generalizing a with
  | nil => rfl
  | cons x r ih => rw [Arch.orFlags, ih]

/-- A load into a scalar register leaves no free lanes (R340). -/
theorem clashLoad_scalar (a : Arch) {p : Pend} {n : Fin 64} (dst : p.dst = .s n) : a.clashLoad p = a := by
  unfold Arch.clashLoad
  split
  · rfl
  · simp [Arch.freeLanes, dst, vRegs]

/-! ### What a performed lane leaves (R90, R112, R205, R206) -/

/-- t is s but for caches, free numbers and counters of device registers. -/
def CachesOnly (s t : State) : Prop := ∃ l1 regs free l2, t = { s with l1 := l1, regs := regs, free := free, flash := { s.flash with l2 := l2 } }

theorem CachesOnly.refl (s : State) : CachesOnly s s := ⟨_, _, _, _, rfl⟩

theorem CachesOnly.trans {s t u : State} : CachesOnly s t → CachesOnly t u → CachesOnly s u := by
  rintro ⟨_, _, _, _, rfl⟩ ⟨_, _, _, _, rfl⟩
  exact ⟨_, _, _, _, rfl⟩

theorem CachesOnly.ite {s t : State} (q : Prop) [Decidable q] (h : CachesOnly s t) : CachesOnly s (if q then t else s) := by
  split
  · exact h
  · exact .refl s

theorem l1Drop_caches (s : State) (pick : L1Line → Bool) : CachesOnly s (s.l1Drop pick) := ⟨_, _, _, _, rfl⟩

theorem l2Fill_caches (s : State) (pa : Nat) : CachesOnly s (s.l2Fill pa) := by
  unfold State.l2Fill
  split
  · exact .refl s
  · exact ⟨_, _, _, _, rfl⟩

theorem l1Room_caches (s : State) (core a : Nat) : CachesOnly s (s.l1Room core a) := by
  unfold State.l1Room
  dsimp only
  split
  · exact .refl s
  · split
    · exact .refl s
    · exact ⟨_, _, _, _, rfl⟩

theorem l1Fill_caches (s : State) (core tenant a : Nat) : CachesOnly s (s.l1Fill core tenant a) := by
  unfold State.l1Fill
  split
  · exact .refl s
  · exact (l1Room_caches s core a).trans ⟨_, _, _, _, rfl⟩

theorem countForeign_caches (s : State) (tenant pa : Nat) : CachesOnly s (s.countForeign tenant pa) := by
  unfold State.countForeign
  split
  · exact ⟨_, _, _, _, rfl⟩
  · exact .refl s

/-- The result of a load with one more lane there. -/
def Pend.gets (q : Pend) (lane : Nat) (v : Word) : Pend := { q with lanes := q.lanes.filter fun x => x.lane != lane, got := q.got ++ [(lane, v, 0)] }

/-- A lane of cacheable memory is performed: beside caches and counters, only its result changes. -/
theorem laneDone_eq (s : State) (b : Bundle) (c : Crew) (g : Grid) (p : Pend) (v : Word) {a : LaneAcc} (page : a.pbmt ≠ 2) :
    ∃ t, CachesOnly s t ∧ s.laneDone b c g p v a = t.onPend b.key p.id fun q => q.gets a.lane v := by
  unfold State.laneDone
  dsimp only
  rw [if_neg (c := a.space = .mem ∧ a.pbmt = 2 ∧ inPcie a.addr = true) fun h => page h.2.1]
  exact ⟨_, ((((l1Drop_caches s _).ite _).trans ((l2Fill_caches _ _).ite _)).trans ((l1Fill_caches _ _ _ _).ite _)).trans ((countForeign_caches _ _ _).ite _), rfl⟩

/-! ### A load of one lane -/

/-- The bundle with its result p complete. -/
def Bundle.finished (b : Bundle) (p : Pend) : Bundle :=
  { b.arrive p.id (putLoad p.ty p.dst p.got) with arch := ((b.arrive p.id (putLoad p.ty p.dst p.got)).arch.orFlags (p.got.map fun x => (x.1, x.2.2))).clashLoad p }

theorem finish_eq (s : State) (b : Bundle) {p : Pend} (acq : p.acq = none) : s.finish b p = s.onBundle b.key fun k => k.finished p := by
  rw [State.finish, acq]
  rfl

theorem acqDone_of_none {s : State} {k : BKey} {pid : Nat} {b : Bundle} (hb : s.bundle? k = some b) (h : ∀ q ∈ b.pend, q.id = pid → q.acq = none) : s.acqDone k pid = s := by
  have none : (b.pend.find? fun p => p.id == pid && p.acq.isSome && !p.unperformed) = none := List.find?_eq_none.2 fun q hq => by
    by_cases e : q.id = pid
    · simp [h q hq e]
    · simp [e]
  simp [State.acqDone, hb, none]

/-- The bundle with one more lane of its result. -/
def Bundle.gets (b : Bundle) (pid lane : Nat) (v : Word) : Bundle := { b with pend := b.pend.map fun q => if q.id = pid then q.gets lane v else q }

theorem find?_gets {b : Bundle} {p : Pend} (hp : p ∈ b.pend) (unique : ∀ q ∈ b.pend, q.id = p.id → q = p) (lane : Nat) (v : Word) :
    (b.gets p.id lane v).pend.find? (fun q => q.id == p.id) = some (p.gets lane v) := by
  have key : ∀ q : Pend, (if q.id = p.id then q.gets lane v else q).id = q.id := fun q => by split <;> rfl
  have there : ((b.gets p.id lane v).pend.find? fun q => q.id == p.id).isSome = true :=
    List.find?_isSome.2 ⟨_, List.mem_map_of_mem hp, by rw [key]; exact beq_self_eq_true _⟩
  obtain ⟨q, hq⟩ := Option.isSome_iff_exists.1 there
  obtain ⟨q', hq', rfl⟩ := List.mem_map.1 (List.mem_of_find?_eq_some hq)
  have e := List.find?_some hq
  simp only [key, beq_iff_eq] at e
  rw [hq, if_pos e, unique q' hq' e]

section
variable {s : State} {b : Bundle} {c : Crew} {g : Grid} {p : Pend} {a : LaneAcc} {na : Bool}

/-- Where nothing holds back a load of one lane of cacheable memory and it meets no poison, that lane is performed. -/
theorem response_performs (kind : p.kind = .load na) (lanes : p.lanes = [a]) (clean : p.bad = none) (page : a.pbmt ≠ 2) (ready : a.defer = false)
    (flash : s.flashWaits c g a = false) (pure : s.lanePoison c g a = none) (free : s.laneWaits b p.time a = false) :
    s.response b c g p = ((({ s with free := s.free + 1 } : State).laneDone b c g p (s.laneValue b c g p s.free a) a).acqDone b.key p.id).settle b.key p.id := by
  have cacheable : (a.pbmt == 2) = false := by simpa using page
  simp [State.response, kind, lanes, ready, free, cacheable, State.performLoad, flash, clean, pure]

/-- It completes its result: the bundle's registers fill, and beside it only caches and counters change. -/
theorem response_completes (kind : p.kind = .load na) (lanes : p.lanes = [a]) (want : p.want = 1) (clean : p.bad = none) (acq : p.acq = none) (page : a.pbmt ≠ 2) (ready : a.defer = false)
    (flash : s.flashWaits c g a = false) (pure : s.lanePoison c g a = none) (free : s.laneWaits b p.time a = false) (hb : s.bundle? b.key = some b) (hp : p ∈ b.pend)
    (unique : ∀ q ∈ b.pend, q.id = p.id → q = p) :
    ∃ t, s.response b c g p = t ∧ t = { s with bundles := t.bundles, regs := t.regs, l1 := t.l1, free := t.free, flash := { s.flash with l2 := t.flash.l2 } } ∧
      t.bundle? b.key = some ((b.gets p.id a.lane (s.laneValue b c g p s.free a)).finished (p.gets a.lane (s.laneValue b c g p s.free a))) := by
  rw [response_performs kind lanes clean page ready flash pure free]
  generalize s.laneValue b c g p s.free a = v
  obtain ⟨t, ⟨l1, regs, next, l2, rfl⟩, done⟩ := laneDone_eq { s with free := s.free + 1 } b c g p v page
  rw [done]
  generalize hu : State.onPend _ b.key p.id (fun q => q.gets a.lane v) = u
  have got : u.bundle? b.key = some (b.gets p.id a.lane v) := by
    rw [← hu]
    exact bundle?_onBundle_self (f := fun b : Bundle => b.gets p.id a.lane v) hb rfl
  obtain ⟨bundles, frame⟩ : ∃ bundles, u = { s with l1 := l1, regs := regs, free := next, flash := { s.flash with l2 := l2 }, bundles := bundles } :=
    ⟨_, hu.symm.trans (onBundle_frame _ _ _)⟩
  have acqs : ∀ q ∈ (b.gets p.id a.lane v).pend, q.id = p.id → q.acq = none := fun q hq e => by
    obtain ⟨q', hq', rfl⟩ := List.mem_map.1 hq
    split at e
    · next h => rw [if_pos h, unique q' hq' h]; exact acq
    · next h => exact absurd e h
  have complete : p.want ≤ (p.gets a.lane v).got.length := by simp [Pend.gets, want]
  have settled : u.settle b.key p.id = u.onBundle b.key fun k => k.finished (p.gets a.lane v) := by
    simp only [State.settle, got, find?_gets hp unique]
    rw [if_pos (by exact complete), finish_eq _ _ (by exact acq)]
    rfl
  rw [acqDone_of_none got acqs, settled]
  refine ⟨_, rfl, ?_, bundle?_onBundle_self (f := fun k : Bundle => k.finished (p.gets a.lane v)) got rfl⟩
  rw [onBundle_frame, frame]

end

/-! ### The value of a load (R223, R377) -/

theorem leNat_lt (l : List Byte) : leNat l < 256 ^ l.length := by
  induction l with
  | nil => simp [leNat]
  | cons b r ih =>
    have := b.isLt
    rw [leNat, List.length_cons, Nat.pow_succ]
    omega

theorem bytesFrom_eq (f : Nat → Byte) (a n : Nat) : bytesFrom f a n = (List.range n).map fun j => f (a + j) := by
  induction n generalizing a with
  | zero => rfl
  | succ n ih =>
    rw [bytesFrom, ih, List.range_succ_eq_map, List.map_cons, List.map_map]
    refine congrArg₂ List.cons rfl (List.map_congr_left fun j _ => ?_)
    rw [Function.comp_apply, Nat.add_right_comm, Nat.add_assoc]

theorem ty_bytes_le (ty : Ty) : ty.bytes ≤ 8 := by cases ty <;> decide

/-- A lane of cacheable memory reads the bytes that its bundle sees there, its own queued stores of before the load first. -/
theorem laneValue_mem (s : State) (b : Bundle) (c : Crew) (g : Grid) (p : Pend) (id : Nat) {a : LaneAcc} (mem : a.space = .mem) (page : a.pbmt ≠ 2) :
    (s.laneValue b c g p id a).toNat = leNat ((List.range p.ty.bytes).map fun j => s.bundleByte (b.asOf p.time) c.core g.tenant a.pbmt (a.addr + j)) := by
  have bytes : s.laneBytes (b.asOf p.time) c g id p.ty.bytes a = (List.range p.ty.bytes).map fun j => s.bundleByte (b.asOf p.time) c.core g.tenant a.pbmt (a.addr + j) := by
    simp only [State.laneBytes, mem, if_neg page, bytesFrom_eq]
  rw [State.laneValue, bytes, BitVec.toNat_ofNat]
  refine Nat.mod_eq_of_lt (lt_of_lt_of_le (leNat_lt _) ?_)
  rw [List.length_map, List.length_range]
  exact Nat.pow_le_pow_right (by decide) (ty_bytes_le p.ty)

/-! ### A scalar destination -/

section
variable {b : Bundle} {p : Pend} {n : Fin 64} {lane : Nat} {v : Word}

theorem finished_pend : ((b.gets p.id lane v).finished (p.gets lane v)).pend = b.pend.filter fun q => q.id != p.id := by
  show (b.pend.map fun q => if q.id = p.id then q.gets lane v else q).filter (fun q => q.id != p.id) = _
  induction b.pend with
  | nil => rfl
  | cons q r ih =>
    rw [List.map_cons, List.filter_cons, List.filter_cons, ih]
    by_cases e : q.id = p.id
    · simp [e, Pend.gets]
    · simp [e]

theorem finished_scalar (dst : p.dst = .s n) (int : p.ty.isInt = true) (got : p.got = []) (waits : ∀ r, (r, p.id) ∈ b.arch.awaits ↔ r = .s n) :
    ((b.gets p.id lane v).finished (p.gets lane v)).empty (.s n) = false ∧
      ((b.gets p.id lane v).finished (p.gets lane v)).s n.val = wrVal p.ty (tyVal p.ty.bits p.ty.signed v.toNat) := by
  obtain ⟨x, arrived⟩ := arrive_of_single waits (putLoad p.ty p.dst [(lane, v, 0)])
  have arch : ((b.gets p.id lane v).finished (p.gets lane v)).arch = ((putLoad p.ty p.dst [(lane, v, 0)] x (.s n)).fill (.s n)).orFlags [(lane, 0)] := by
    rw [← arrived]
    refine (clashLoad_scalar _ (p := p.gets lane v) dst).trans ?_
    simp only [Pend.gets, got]
    rfl
  have put : putLoad p.ty p.dst [(lane, v, 0)] x (.s n) = x.put (sKey n.val) (wrVal p.ty (tyVal p.ty.bits p.ty.signed v.toNat)) := by
    simp [putLoad, dst, int]
  refine ⟨?_, ?_⟩
  · rw [Bundle.empty, arch, put, orFlags_rest]
    simp [Arch.fill]
  · rw [Bundle.s, arch, put, orFlags_rest]
    exact bankGet_mapPut_self _ _ _ _

end

/-! ### The events (R91, R187) -/

theorem exec_loadResponse {s : State} {k : BKey} {b : Bundle} {c : Crew} {g : Grid} {p : Pend} (hb : s.bundle? k = some b) (hc : s.crew? k.ck = some c) (hg : s.grid? k.grid = some g)
    (live : b.live = true) (oldest : b.oldest = some p) : exec (.loadResponse ⟨k, none⟩) s = .next (s.response b c g p) := by
  show execLoadResponse ⟨k, none⟩ s = _
  simp [execLoadResponse, State.respond, hb, hc, hg, live, oldest]

/-- A flash line that comes within its retries answers the one bundle whose oldest access reads it. -/
theorem exec_flashReadComplete {s : State} {b : Bundle} {c : Crew} {g : Grid} {p : Pend} {line retries : Nat} (inLine : inFlash (lineOf line) = true) (few : retries ≤ 8)
    (once : (s.bundles.map fun x => x.key).Nodup) (hb : s.bundle? b.key = some b) (hc : s.crew? b.key.ck = some c) (hg : s.grid? b.key.grid = some g) (live : b.live = true)
    (oldest : b.oldest = some p) (reads : p.readsLine (lineOf line) = true) (others : ∀ x ∈ s.bundles, x.key ≠ b.key → ∀ q, x.oldest = some q → q.readsLine (lineOf line) = false) :
    exec (.flashReadComplete line retries) s = .next (s.response b c g p) := by
  have mem : b ∈ s.bundles := List.mem_of_find?_eq_some hb
  have only : s.bundles.filter (fun x => x.live && x.oldest.any fun q => q.readsLine (lineOf line)) = [b] := by
    have same : s.bundles.filter (fun x => x.live && x.oldest.any fun q => q.readsLine (lineOf line)) = s.bundles.filter (fun x => x == b) := by
      refine List.filter_congr fun x hx => ?_
      by_cases e : x.key = b.key
      · rw [List.inj_on_of_nodup_map once hx mem e]
        simp [live, oldest, reads]
      · have : (x == b) = false := beq_eq_false_iff_ne.2 fun h => e (congrArg Bundle.key h)
        rw [this]
        cases hq : x.oldest with
        | none => simp
        | some q => simp [others x hx e q hq]
    rw [same, List.filter_beq, List.count_eq_one_of_mem once.of_map mem]
    rfl
  show execFlashReadComplete line retries s = _
  simp [execFlashReadComplete, inLine, few, State.lineCame, only, hb, hc, hg, oldest]

/-- Settles O46: a store leaves, a write becomes visible, an acknowledgement counts, a load fills its register, whichever of the two events brings its data. -/
theorem writesTravelToTheirHome : Obligations.WritesTravelToTheirHome := by
  refine ⟨fun s k b c g e rest block parts hb hc hg unparked hq op some mem late => store_leaves hb hc hg unparked hq op some mem late,
    fun s i f block parts wf hf free row op once out quiet narms => write_becomesVisible wf hf free row op once out quiet narms,
    fun s i f k b hf owner op hb => acknowledgement_counts hf owner op hb, ?_⟩
  intro s k b c g p a na n i hb hc hg live oldest kind lanes want got clean acq dst int mem page ready flash pure free unique waits how
  obtain rfl : b.key = k := bundle?_key hb
  have hp : p ∈ b.pend := List.mem_of_find?_eq_some oldest
  have runs : exec i s = .next (s.response b c g p) := by
    rcases how with rfl | ⟨line, once, others, r, few, rfl⟩
    · exact exec_loadResponse hb hc hg live oldest
    · have same : lineOf (lineOf a.addr) = lineOf a.addr := by simp only [lineOf]; omega
      exact exec_flashReadComplete (by rw [same]; exact line) few once hb hc hg live oldest (by simp [Pend.readsLine, kind, lanes, mem, ready, same]) (by rw [same]; exact others)
  obtain ⟨t, e, frame, hb'⟩ := response_completes kind lanes want clean acq page ready flash pure free hb hp unique
  obtain ⟨full, value⟩ := finished_scalar (lane := a.lane) (v := s.laneValue b c g p s.free a) dst int got waits
  rw [laneValue_mem s b c g p _ mem page] at value
  exact ⟨_, _, runs.trans (congrArg Host.Outcome.next e), hb', full, finished_pend, value, fun x => by rw [frame]; rfl, frame⟩

end Sys2Proof.Machine

/-! SUPPORT. The links of PCI Express: their control and status registers (R38 to R40, R463). -/

namespace Sys2Proof.Machine

/-! ### The status register (R40) -/

theorem reg_setLinkState_ne (s : State) (port st speed width : Nat) {r : Nat} (h : r ≠ offPcie port + 8) : (s.setLinkState port st speed width).reg r = s.reg r :=
  reg_setReg_ne _ _ h

/-- The state, the rate and the width that a port's status register holds. -/
theorem linkFields_setLinkState (s : State) (port st speed width : Nat) :
    fld ((s.setLinkState port st speed width).reg (offPcie port + 8)) 1 0 = st % 4 ∧ fld ((s.setLinkState port st speed width).reg (offPcie port + 8)) 15 12 = speed % 16 ∧
      fld ((s.setLinkState port st speed width).reg (offPcie port + 8)) 11 8 = width % 16 := by
  rw [State.setLinkState, reg_setReg_self]
  refine ⟨?_, ?_, ?_⟩
  · rw [fld_setFld_of_disjoint _ _ (by omega) (by omega) (by omega), fld_setFld_of_disjoint _ _ (by omega) (by omega) (by omega), fld_setFld_self _ _ (by omega) (by omega)]; rfl
  · rw [fld_setFld_of_disjoint _ _ (by omega) (by omega) (by omega), fld_setFld_self _ _ (by omega) (by omega)]; rfl
  · rw [fld_setFld_self _ _ (by omega) (by omega)]; rfl

/-- The rate and the width as one field. -/
theorem fld_rate_width (w : Word) : fld w 15 8 = 16 * fld w 15 12 + fld w 11 8 := by
  simp only [fld, natBits, Nat.shiftRight_eq_div_pow]
  omega

theorem fld_mod_sixteen (w : Word) (hi lo : Nat) (h : hi + 1 - lo = 4) : fld w hi lo % 16 = fld w hi lo := Nat.mod_eq_of_lt (by have := fld_lt w hi lo; rw [h] at this; exact this)

/-! ### Training (R463) -/

section
variable (s : State) (port : Nat)

theorem startTraining_reg (r : Nat) : (s.startTraining port).reg r = (s.setLinkState port 1 0 0).reg r := rfl

theorem startTraining_limits : (s.startTraining port).trainLimits port = (fld (s.reg (offPcie port)) 27 24, fld (s.reg (offPcie port)) 19 16) := by
  have old : (s.pcie.limits.filter fun x => x.1 != port).find? (fun x => x.1 == port) = none := List.find?_eq_none.2 fun x hx => by simpa using (List.mem_filter.1 hx).2
  simp only [State.trainLimits, State.startTraining, State.setLinkState, setReg_pcie, List.find?_append, old]
  simp

end

/-! ### The control register (R39) -/

/-- The control register once a value has been written to it: limits that a port may have, and the bits 8 to 4 and 0. -/
def ctlWritten (old v : Word) : Word :=
  let w := if 1 ≤ fld v 27 24 ∧ fld v 27 24 ≤ 7 then take old v 27 24 else old
  let w := if fld v 19 16 ≤ 4 then take w v 19 16 else w
  take (take w v 8 4) v 0 0

theorem getLsbD_ctlWritten_zero (old v : Word) : (ctlWritten old v).getLsbD 0 = v.getLsbD 0 := by
  rw [ctlWritten, take, getLsbD_setFld _ _ _ (by omega) (by omega), if_pos (by omega), testBit_fld]
  simp

/-- The state that a write of a port's control register leaves before the link follows it. -/
def State.ctlStored (s : State) (port : Nat) (v : Word) : State :=
  let t := s.setReg (offPcie port) (ctlWritten (s.reg (offPcie port)) v)
  if v.getLsbD 2 then t.streamClear port else t

section
variable (s : State) (port : Nat) (v : Word)

theorem pcieCtl_eq : s.pcieCtl port v = if !v.getLsbD 0 then (s.ctlStored port v).setLinkState port 0 0 0
    else if (s.reg (offPcie port)).getLsbD 0 then s.ctlStored port v else (s.ctlStored port v).startTraining port := rfl

theorem ctlStored_reg (r : Nat) : (s.ctlStored port v).reg r = (s.setReg (offPcie port) (ctlWritten (s.reg (offPcie port)) v)).reg r := by
  unfold State.ctlStored
  dsimp only
  split <;> rfl

theorem ctlStored_reg_ne {r : Nat} (h : r ≠ offPcie port) : (s.ctlStored port v).reg r = s.reg r := by
  rw [ctlStored_reg, reg_setReg_ne _ _ h]

/-- What the link makes of a write to its control register concerns its status and its training alone. -/
theorem pcieCtl_rest (r : Nat) (h : r ≠ offPcie port + 8) : (s.pcieCtl port v).reg r = (s.ctlStored port v).reg r := by
  rw [pcieCtl_eq]
  split
  · exact reg_setLinkState_ne _ _ _ _ _ h
  · split
    · rfl
    · exact reg_setLinkState_ne _ _ _ _ _ h

theorem pcieCtl_pcie : (s.pcieCtl port v).pcie = { (s.ctlStored port v).pcie with limits := (s.pcieCtl port v).pcie.limits } := by
  rw [pcieCtl_eq]
  split
  · rfl
  · split <;> rfl

end

/-- A write of a port's control register: the link trains, goes down or stays, and its streams leave the error state where that is asked for. -/
theorem exec_pcieCtl (s : State) (port : Fin 2) (v : Word) : let o := offPcie port.val
    ∃ t, exec (.pcieLinkEnable port v) s = .next t ∧ (t.reg o).getLsbD 0 = v.getLsbD 0 ∧
      (v.getLsbD 0 = true → (s.reg o).getLsbD 0 = false → fld (t.reg (o + 8)) 1 0 = 1 ∧ t.trainLimits port.val = (fld (t.reg o) 27 24, fld (t.reg o) 19 16)) ∧
      (v.getLsbD 0 = false → fld (t.reg (o + 8)) 1 0 = 0) ∧
      (v.getLsbD 0 = true → (s.reg o).getLsbD 0 = true → t.reg (o + 8) = s.reg (o + 8)) ∧
      (∀ r, r ≠ o → r ≠ o + 8 → t.reg r = s.reg r) ∧ exec (.pcieStreamClear port v) s = .next t ∧
      (v.getLsbD 2 = true → ∀ x ∈ t.pcie.errs, x.1 ≠ port) ∧ (v.getLsbD 2 = false → t.pcie = { s.pcie with limits := t.pcie.limits }) := by
  intro o
  have ctl : (s.pcieCtl port.val v).reg o = ctlWritten (s.reg o) v := by
    rw [pcieCtl_rest _ _ _ _ (by omega), ctlStored_reg, reg_setReg_self]
  refine ⟨s.pcieCtl port.val v, rfl, ?_, fun on off => ?_, fun off => ?_, fun on was => ?_, fun r hr hr' => ?_, rfl, fun clear x hx => ?_, fun keep => ?_⟩
  · rw [ctl, getLsbD_ctlWritten_zero]
  · have trains : s.pcieCtl port.val v = (s.ctlStored port.val v).startTraining port.val := by
      rw [pcieCtl_eq, on, show (s.reg (offPcie port.val)).getLsbD 0 = false from off]; rfl
    refine ⟨?_, ?_⟩
    · rw [trains, startTraining_reg]
      exact (linkFields_setLinkState _ _ _ _ _).1
    · rw [ctl, trains, startTraining_limits, ctlStored_reg, reg_setReg_self]
  · rw [pcieCtl_eq, off]
    exact (linkFields_setLinkState _ _ _ _ _).1
  · rw [pcieCtl_eq, on, show (s.reg (offPcie port.val)).getLsbD 0 = true from was]
    exact ctlStored_reg_ne _ _ _ (by omega)
  · rw [pcieCtl_rest _ _ _ _ hr', ctlStored_reg_ne _ _ _ hr]
  · rw [pcieCtl_pcie] at hx
    simp only [State.ctlStored, clear, if_true] at hx
    have := (List.mem_filter.1 hx).2
    intro e
    simp [e] at this
  · rw [pcieCtl_pcie, State.ctlStored, keep]; rfl

/-! ### Training ends, the link is lost (R463) -/

theorem exec_pcieTrainingDone {s : State} {port : Fin 2} {speed width : Nat} (trains : s.linkState port.val = 1 ∨ s.linkState port.val = 3) (some : 0 < speed) (speed16 : speed < 16)
    (width16 : width < 16) (rate : speed ≤ (s.trainLimits port.val).1) (lanes : width ≤ (s.trainLimits port.val).2) : let o := offPcie port.val
    ∃ t, exec (.pcieTrainingDone port speed width) s = .next t ∧ fld (t.reg (o + 8)) 1 0 = 2 ∧ fld (t.reg (o + 8)) 15 12 = speed ∧ fld (t.reg (o + 8)) 11 8 = width ∧
      ∀ r, r ≠ o + 8 → t.reg r = s.reg r := by
  intro o
  have runs : exec (.pcieTrainingDone port speed width) s = .next (s.setLinkState port.val 2 speed width) := by
    have hs : (speed == 0) = false := beq_eq_false_iff_ne.2 (by omega)
    have hst : (s.linkState port.val == 1 || s.linkState port.val == 3) = true := by simpa using trains
    show execPcieTrainingDone port speed width s = _
    simp [execPcieTrainingDone, hst, hs, Nat.not_lt.2 rate, Nat.not_lt.2 lanes]
  obtain ⟨state, hspeed, hwidth⟩ := linkFields_setLinkState s port.val 2 speed width
  exact ⟨_, runs, state, hspeed.trans (Nat.mod_eq_of_lt speed16), hwidth.trans (Nat.mod_eq_of_lt width16), fun r hr => reg_setLinkState_ne _ _ _ _ _ hr⟩

theorem exec_pcieLinkLoss {s : State} {port : Fin 2} (up : 2 ≤ s.linkState port.val) : let o := offPcie port.val
    ∃ t u, exec (.pcieLinkLoss port true) s = .next t ∧ exec (.pcieLinkLoss port false) s = .next u ∧
      fld (t.reg (o + 8)) 1 0 = 3 ∧ fld (t.reg (o + 8)) 15 8 = fld (s.reg (o + 8)) 15 8 ∧ fld (u.reg (o + 8)) 1 0 = 1 ∧ fld (u.reg (o + 8)) 15 8 = 0 ∧
      ∀ r, r ≠ o + 8 → t.reg r = s.reg r ∧ u.reg r = s.reg r := by
  intro o
  have recovers : exec (.pcieLinkLoss port true) s = .next (s.setLinkState port.val 3 (fld (s.reg (o + 8)) 15 12) (fld (s.reg (o + 8)) 11 8)) := by
    show execPcieLinkLoss port true s = _
    simp [execPcieLinkLoss, Nat.not_lt.2 up, o]
  have anew : exec (.pcieLinkLoss port false) s = .next (s.startTraining port.val) := by
    show execPcieLinkLoss port false s = _
    simp [execPcieLinkLoss, Nat.not_lt.2 up]
  obtain ⟨state, speed, width⟩ := linkFields_setLinkState s port.val 3 (fld (s.reg (o + 8)) 15 12) (fld (s.reg (o + 8)) 11 8)
  obtain ⟨state', speed', width'⟩ := linkFields_setLinkState s port.val 1 0 0
  refine ⟨_, _, recovers, anew, state, ?_, state', ?_, fun r hr => ⟨reg_setLinkState_ne _ _ _ _ _ hr, reg_setLinkState_ne _ _ _ _ _ hr⟩⟩
  · rw [fld_rate_width, speed, width, fld_mod_sixteen _ _ _ rfl, fld_mod_sixteen _ _ _ rfl, ← fld_rate_width]
  · rw [fld_rate_width, startTraining_reg, speed', width']

end Sys2Proof.Machine

/-! SUPPORT. The ingress ordering point (R35, R37, R38, R445, R446): trackers, the lines of a write in physical memory, forwarding. -/

namespace Sys2Proof.Machine

/-! ### Trackers (R37) -/

theorem pstream_key (s : State) (port : Fin 2) (k : StreamKey) : (s.pstream port k).port = port ∧ (s.pstream port k).rid = k.1 ∧ (s.pstream port k).pasid = k.2 := by
  unfold State.pstream
  cases h : s.pcie.streams.find? fun x => x.port == port && x.rid == k.1 && x.pasid == k.2 with
  | none => exact ⟨rfl, rfl, rfl⟩
  | some p => simpa [and_assoc] using List.find?_some h

theorem streamFor_port (s : State) (port : Fin 2) (k : StreamKey) : (s.streamFor port k).port = port := (pstream_key s port _).1

theorem pstream_congr {s t : State} (h : t.pcie.streams = s.pcie.streams) (port : Fin 2) (k : StreamKey) : t.pstream port k = s.pstream port k := by
  unfold State.pstream
  rw [h]

/-- A tracker that was replaced reads as its new self; without work it is free. -/
theorem pstream_putPstream (s : State) (q : PStream) : (s.putPstream q).pstream q.port (q.rid, q.pasid) = if q.flying = [] then ⟨q.port, q.rid, q.pasid, [], []⟩ else q := by
  have old : (s.pcie.streams.filter fun x => !(x.port == q.port && x.rid == q.rid && x.pasid == q.pasid)).find? (fun x => x.port == q.port && x.rid == q.rid && x.pasid == q.pasid) = none :=
    List.find?_eq_none.2 fun x hx => by simpa [imp_iff_not_or, or_assoc] using (List.mem_filter.1 hx).2
  simp only [State.pstream, State.putPstream, State.setPcie, List.isEmpty_iff]
  split
  · rw [old]; rfl
  · rw [List.find?_append, old]; simp

/-! ### The lines of a transaction (R445) -/

theorem cutLines_length (fuel a : Nat) (d : List Byte) : (cutLines fuel a d).length ≤ fuel := by
  induction fuel generalizing a d with
  | zero => exact Nat.le_refl 0
  | succ fuel ih =>
    rw [cutLines]
    split
    · exact Nat.zero_le _
    · exact Nat.succ_le_succ (ih _ _)

/-- A line starts inside its transaction. -/
theorem cutLines_inside {fuel a : Nat} {d : List Byte} {x : Nat × List Byte} (h : x ∈ cutLines fuel a d) : a ≤ x.1 ∧ x.1 < a + d.length := by
  induction fuel generalizing a d with
  | zero => cases h
  | succ fuel ih =>
    rw [cutLines] at h
    split at h
    · cases h
    · next some =>
      have : d.length ≠ 0 := by simpa [List.isEmpty_iff] using some
      rcases List.mem_cons.1 h with rfl | h
      · exact ⟨Nat.le_refl a, by show a < _; omega⟩
      · have := ih h
        rw [List.length_drop] at this
        omega

theorem bytesFrom_add (f : Nat → Byte) (a m n : Nat) : bytesFrom f a (m + n) = bytesFrom f a m ++ bytesFrom f (a + m) n := by
  induction m generalizing a with
  | zero => rw [Nat.zero_add]; rfl
  | succ m ih => rw [Nat.succ_add, bytesFrom, ih, bytesFrom, List.cons_append, Nat.succ_add_eq_add_succ]

/-- The bytes of a transaction are those of its lines, one after another. -/
theorem cutLines_bytes (f : Nat → Byte) {fuel a : Nat} {d : List Byte} (h : d.length < fuel) :
    ((cutLines fuel a d).flatMap fun x => bytesFrom f x.1 x.2.length) = bytesFrom f a d.length := by
  induction fuel generalizing a d with
  | zero => omega
  | succ fuel ih =>
    rw [cutLines]
    split
    · next none => rw [List.isEmpty_iff.1 none]; rfl
    · next some =>
      have : d.length ≠ 0 := by simpa [List.isEmpty_iff] using some
      rw [List.flatMap_cons, ih (by rw [List.length_drop]; omega), List.length_drop, List.length_take]
      by_cases fits : d.length ≤ 128 - a % 128
      · rw [Nat.min_eq_right fits, Nat.sub_eq_zero_of_le fits]
        exact List.append_nil _
      · rw [Nat.min_eq_left (by omega), ← bytesFrom_add]
        congr 1
        omega

/-! ### Physical addresses (R35) -/

theorem iommu_physical (s : State) (acc : Acc) {a : Nat} (h : inHbm a = true ∨ inLp a = true) : s.iommu none acc a = .ok a none := by
  rcases h with h | h <;> simp [State.iommu, h]

section
variable {s : State} {w : IngressWrite} (ctx : w.ctx = none) (phys : ∀ x ∈ cutLines (w.data.length + 1) w.addr w.data, inHbm x.1 = true ∨ inLp x.1 = true)
include ctx phys

/-- A write to physical memory is not rejected and waits for no table: its lines are where they say. -/
theorem inLines_physical : s.inLines w = (.ok 0 none, (cutLines (w.data.length + 1) w.addr w.data).map fun x => (x.1, x.2, none)) := by
  unfold State.inLines
  rw [ctx]
  generalize cutLines (w.data.length + 1) w.addr w.data = l at phys
  induction l using List.reverseRecOn with
  | nil => rfl
  | append_singleton r x ih =>
    rw [List.foldl_append, ih fun y hy => phys y (List.mem_append_left _ hy)]
    simp [iommu_physical s .store (phys x (by simp))]

end

/-! ### Forwarding (R37, R446) -/

/-- The lines of a write leave for their home slices, and its tracker flies them. -/
def State.linesOut (s : State) (p : PStream) (k : StreamKey) (id : Nat) (ls : List (Nat × List Byte)) : State :=
  let out := ls.map fun x => (id, lineOf x.1)
  let t := (s.send (ls.map fun x => ⟨none, .stream id, lineOf x.1, .bytes (ls.length == 1) (partsFrom x.1 x.2), false⟩)).putPstream { p with flying := p.flying ++ out, targets := p.targets ++ out }
  t.setPcie { t.pcie with owners := t.pcie.owners ++ [(id, k)] }

theorem forwardLines_physical (s : State) (p : PStream) (k : StreamKey) (id : Nat) (ls : List (Nat × List Byte)) :
    s.forwardLines p k id (ls.map fun x => (x.1, x.2, none)) = s.linesOut p k id ls := by
  simp only [State.forwardLines, List.foldl_map, List.foldl_fixed, List.map_map, List.length_map]
  rfl

theorem pstream_linesOut (s : State) {p : PStream} (k : StreamKey) (id : Nat) (ls : List (Nat × List Byte)) (flying : p.flying = []) (targets : p.targets = []) :
    (s.linesOut p k id ls).pstream p.port (p.rid, p.pasid) = { p with flying := ls.map fun x => (id, lineOf x.1), targets := ls.map fun x => (id, lineOf x.1) } := by
  refine (pstream_congr (s := (s.send _).putPstream _) rfl _ _).trans ((pstream_putPstream _ { p with flying := p.flying ++ _, targets := p.targets ++ _ }).trans ?_)
  simp only [flying, targets, List.nil_append]
  split
  · next none => rw [none]
  · rfl

/-- A transaction whose stream has nothing before it, and whose lines no earlier write of the tracker targets, may be forwarded. -/
theorem mayForward_first {s : State} {p : PStream} {id : Nat} {relaxed : Bool} {lines : List Nat} {names : List (Option Nat × Nat)} (flying : p.flying = [])
    (targets : ∀ x ∈ p.targets, x.2 ∉ lines) (first : ∀ h ∈ s.pcie.held, p.holds h = true → id ≤ h.id) (room : lines.length ≤ 1024) :
    s.mayForward p id relaxed lines names = true := by
  have earlier : (s.pcie.held.filter fun h => p.holds h && decide (h.id < id)) = [] := List.filter_eq_nil_iff.2 fun h hh => by
    simp only [Bool.and_eq_true, decide_eq_true_eq, not_and, Nat.not_lt]
    exact first h hh
  simpa [State.mayForward, earlier, flying, room] using targets

/-- A write that is not relaxed waits for the acknowledgement of an earlier one (R37). -/
theorem mayForward_behind {s : State} {p : PStream} {id : Nat} {lines : List Nat} {names : List (Option Nat × Nat)} {x : Nat × Nat} (hx : x ∈ p.flying) (earlier : x.1 < id) :
    s.mayForward p id false lines names = false := by
  have waits : (p.flying.all fun x => decide (id ≤ x.1)) = false := List.all_eq_false.2 ⟨x, hx, by simpa using earlier⟩
  simp [State.mayForward, waits]

section
variable {s : State} {w : IngressWrite} (ctx : w.ctx = none) (phys : ∀ x ∈ cutLines (w.data.length + 1) w.addr w.data, inHbm x.1 = true ∨ inLp x.1 = true)
include ctx phys

theorem forward_physical (p : PStream) (k : StreamKey) (id : Nat) : s.forward p k id (.write w) =
    if s.mayForward p id (s.relaxed w) ((cutLines (w.data.length + 1) w.addr w.data).map fun x => lineOf x.1) (inNames w)
    then some (s.linesOut p k id (cutLines (w.data.length + 1) w.addr w.data)) else none := by
  simp only [State.forward, inLines_physical (s := s) ctx phys, forwardLines_physical, List.map_map]
  rfl

end
end Sys2Proof.Machine

/-! SUPPORT. Transactions of PCI Express arrive and leave (R34 to R38, R87, R446, R447), and the proof of O50. -/

namespace Sys2Proof.Machine

/-! ### Arrival (R34, R37) -/

theorem portUp_of {s : State} {port : Nat} (h : 2 ≤ fld (s.reg (0x108 + 0x10 * port)) 1 0) : s.portUp port = true := by
  rw [State.portUp, State.linkState, offPcie, show 0x100 + 0x10 * port + 8 = 0x108 + 0x10 * port by omega]
  exact decide_eq_true h

/-- The state once a transaction has its number. -/
def State.numbered (s : State) : State := s.setPcie { s.pcie with nextId := s.pcie.nextId + 1 }

theorem arrive_forwards {s t : State} {port : Fin 2} {k : StreamKey} {tx : InTx} (h : s.numbered.forward (s.streamFor port k) k s.pcie.nextId tx = some t) : s.arrive port k tx = t := by
  unfold State.numbered at h
  simp only [State.arrive, h]

theorem arrive_holds {s : State} {port : Fin 2} {k : StreamKey} {p : PStream} {tx : InTx} (tracker : s.streamFor port k = p) (h : s.numbered.forward p k s.pcie.nextId tx = none) :
    s.arrive port k tx = { s with pcie := { s.pcie with nextId := s.pcie.nextId + 1, held := s.pcie.held ++ [⟨s.pcie.nextId, p.port, p.rid, p.pasid, k, tx⟩] } } := by
  unfold State.numbered at h
  simp only [State.arrive, tracker, h]
  rfl

section
variable {s : State} {w : IngressWrite} {k : StreamKey} {p : PStream} (key : s.streamKey w.port w.rid w.pasid = k) (tracker : s.streamFor w.port k = p)
  (up : 2 ≤ fld (s.reg (0x108 + 0x10 * w.port.val)) 1 0) (requester : requesterOk w.rid w.pasid = true) (len : w.data.length ≤ 512) (fine : s.inError w.port k = false)

section
include key up requester len fine

/-- A posted write that the port supports, of a stream that is not in error, arrives where the IOMMU does not reject it. -/
theorem ingress_write_arrives (goes : (s.inLines w).1 ≠ .reject) : s.ingress w false = s.arrive w.port k (.write w) := by
  simp [State.ingress, key, portUp_of up, requester, Nat.not_lt.2 len, fine, goes]

theorem ingress_msi_arrives : s.ingress w true = s.arrive w.port k (.msi w) := by
  simp [State.ingress, key, portUp_of up, requester, Nat.not_lt.2 len, fine]

end
include key tracker up requester len fine

/-- A posted write to physical memory with nothing before it leaves at once, one write in flight for each line. -/
theorem exec_ingressPostedWrite_leaves (ctx : w.ctx = none) (phys : ∀ x ∈ cutLines (w.data.length + 1) w.addr w.data, inHbm x.1 = true ∨ inLp x.1 = true) (flying : p.flying = [])
    (targets : p.targets = []) (alone : ∀ h ∈ s.pcie.held, p.holds h = false) :
    exec (.ingressPostedWrite w) s = .next (s.numbered.linesOut p k s.pcie.nextId (cutLines (w.data.length + 1) w.addr w.data)) := by
  have lines : ((cutLines (w.data.length + 1) w.addr w.data).map fun x => lineOf x.1).length ≤ 1024 := by
    have := cutLines_length (w.data.length + 1) w.addr w.data
    rw [List.length_map]; omega
  have may := mayForward_first (s := s.numbered) (id := s.pcie.nextId) (relaxed := s.numbered.relaxed w) (names := inNames w) flying (by simp [targets])
    (fun h hh own => absurd own (by simp [alone h hh])) lines
  show Host.Outcome.next (s.ingress w false) = _
  rw [ingress_write_arrives key up requester len fine (by rw [inLines_physical ctx phys]; simp)]
  exact congrArg _ (arrive_forwards (by rw [tracker, forward_physical ctx phys, if_pos may]))

/-- One that is not relaxed, behind an unacknowledged write of its tracker, is held. -/
theorem exec_ingressPostedWrite_holds (ctx : w.ctx = none) (phys : ∀ x ∈ cutLines (w.data.length + 1) w.addr w.data, inHbm x.1 = true ∨ inLp x.1 = true) (strict : s.relaxed w = false)
    {x : Nat × Nat} (hx : x ∈ p.flying) (earlier : x.1 < s.pcie.nextId) :
    exec (.ingressPostedWrite w) s =
      .next { s with pcie := { s.pcie with nextId := s.pcie.nextId + 1, held := s.pcie.held ++ [⟨s.pcie.nextId, p.port, p.rid, p.pasid, k, .write w⟩] } } := by
  show Host.Outcome.next (s.ingress w false) = _
  rw [ingress_write_arrives key up requester len fine (by rw [inLines_physical ctx phys]; simp)]
  refine congrArg Host.Outcome.next (arrive_holds tracker ?_)
  rw [forward_physical ctx phys, show s.numbered.relaxed w = false from strict, mayForward_behind hx earlier]
  rfl

/-- An MSI with nothing of its stream before it reaches the host die (R37). -/
theorem exec_ingressMsi_reaches (flying : p.flying = []) (alone : ∀ h ∈ s.pcie.held, p.holds h = false) :
    exec (.ingressMsi w) s = .next { s with pcie := { s.pcie with nextId := s.pcie.nextId + 1 }, hub := { s.hub with msis := s.hub.msis ++ [128 + w.port.val] } } := by
  have may := mayForward_first (s := s.numbered) (id := s.pcie.nextId) (relaxed := false) (names := []) (lines := []) flying (by simp) (fun h hh own => absurd own (by simp [alone h hh])) (by simp)
  show Host.Outcome.next (s.ingress w true) = _
  rw [ingress_msi_arrives key up requester len fine]
  exact congrArg _ (arrive_forwards (by rw [tracker, State.forward, if_pos may]; rfl))

end

/-- A held write to physical memory is forwarded once nothing of its tracker is before it (R37). -/
theorem exec_heldWriteForward {s : State} {i : Nat} {h : HeldTx} {w : IngressWrite} {p : PStream} (tracker : s.pstream h.port (h.rid, h.pasid) = p) (hh : s.pcie.held[i]? = some h)
    (tx : h.tx = .write w) (ctx : w.ctx = none) (phys : ∀ x ∈ cutLines (w.data.length + 1) w.addr w.data, inHbm x.1 = true ∨ inLp x.1 = true) (flying : p.flying = []) (targets : p.targets = [])
    (room : (cutLines (w.data.length + 1) w.addr w.data).length ≤ 1024) (first : ∀ q ∈ s.pcie.held, p.holds q = true → h.id ≤ q.id) :
    exec (.heldWriteForward i) s = .next ((s.setPcie { s.pcie with held := s.pcie.held.eraseIdx i }).linesOut p h.own h.id (cutLines (w.data.length + 1) w.addr w.data)) := by
  generalize ht : s.setPcie { s.pcie with held := s.pcie.held.eraseIdx i } = t
  have may := mayForward_first (s := t) (relaxed := t.relaxed w) (lines := (cutLines (w.data.length + 1) w.addr w.data).map fun x => lineOf x.1) (names := inNames w) flying (by simp [targets])
    (fun q hq own => first q (List.mem_of_mem_eraseIdx (by rw [← ht] at hq; exact hq)) own) (by rwa [List.length_map])
  have forwards := (forward_physical (s := t) ctx phys p h.own h.id).trans (if_pos may)
  have same : t.pstream h.port (h.rid, h.pasid) = p := (pstream_congr (by rw [← ht]; rfl) _ _).trans tracker
  show execHeldWriteForward i s = _
  simp only [execHeldWriteForward, hh, tx, ht, same, forwards]

/-! ### Reads (R37, R87) -/

theorem inFlash_of_inHbm {a : Nat} (h : inHbm a = true) : inFlash a = false := by
  simp only [inHbm, Config.hbmEnd, decide_eq_true_eq] at h
  simp only [inFlash, Config.flashBase, decide_eq_false_iff_not]
  omega

section
variable {s : State} {r : IngressRead} (hbm : ∀ j < r.len, inHbm (r.addr + j) = true) (ctx : r.ctx = none)
include hbm

theorem hbm_of_line {x : Nat × List Byte} (hx : x ∈ cutLines (r.len + 1) r.addr (List.replicate r.len 0)) : inHbm x.1 = true := by
  obtain ⟨lo, hi⟩ := cutLines_inside hx
  rw [List.length_replicate] at hi
  have := hbm (x.1 - r.addr) (by omega)
  rwa [Nat.add_sub_cancel' lo] at this

include ctx

/-- A read of HBM counts no flash unit. -/
theorem inCount_hbm : s.inCount r = s := by
  have lines := fun x hx => hbm_of_line hbm (x := x) hx
  unfold State.inCount
  rw [ctx]
  generalize cutLines (r.len + 1) r.addr (List.replicate r.len 0) = l at lines
  induction l with
  | nil => rfl
  | cons x l ih =>
    have hx := lines x List.mem_cons_self
    rw [List.foldl_cons, iommu_physical s .load (.inl hx)]
    simp only [State.countForeign, inFlash_of_inHbm hx, Bool.false_eq_true, false_and, if_false]
    exact ih fun y hy => lines y (List.mem_cons_of_mem _ hy)

/-- A read of HBM answers with the bytes of memory. -/
theorem inRead_hbm : s.inRead r = (List.range r.len).map fun j => s.byte (r.addr + j) := by
  have lines := fun x hx => hbm_of_line hbm (x := x) hx
  have answers : s.inRead r = (cutLines (r.len + 1) r.addr (List.replicate r.len 0)).flatMap fun x => bytesFrom (s.homeByte (s.ctxTenant none)) x.1 x.2.length := by
    unfold State.inRead
    rw [ctx]
    generalize cutLines (r.len + 1) r.addr (List.replicate r.len 0) = l at lines
    have there : (l.map fun x => (s.iommu none .load x.1, x.2.length)) = l.map fun x => (Iommu.ok x.1 none, x.2.length) :=
      List.map_congr_left fun x hx => by rw [iommu_physical s .load (.inl (lines x hx))]
    simp only [there]
    rw [if_neg (by simp), List.flatMap_map]
  rw [answers, cutLines_bytes _ (by simp), bytesFrom_eq, List.length_replicate]
  refine List.map_congr_left fun j hj => ?_
  rw [State.homeByte, inFlash_of_inHbm (hbm j (List.mem_range.1 hj))]
  rfl

/-- A read of HBM with no posted write of its stream before it answers at once. -/
theorem exec_ingressReadRequest_answers {k : StreamKey} {p : PStream} (key : s.streamKey r.port r.rid r.pasid = k) (tracker : s.streamFor r.port k = p)
    (up : 2 ≤ fld (s.reg (0x108 + 0x10 * r.port.val)) 1 0) (requester : requesterOk r.rid r.pasid = true) (len : r.len ≤ 4096) (flying : p.flying = [])
    (alone : ∀ h ∈ s.pcie.held, p.holds h = false) (ready : s.inHeld r = false) :
    exec (.ingressReadRequest r) s =
      .next { s with pcie := { s.pcie with nextId := s.pcie.nextId + 1, replies := s.pcie.replies ++ [(r.port, r.addr, (List.range r.len).map fun j => s.byte (r.addr + j))] } } := by
  have up' := portUp_of up
  have ready' : s.numbered.inHeld r = false := by
    rw [← ready]
    simp only [State.inHeld, ctx]
    rfl
  have port : p.port = r.port := by rw [← tracker, streamFor_port]
  have may := mayForward_first (s := s.numbered) (id := s.pcie.nextId) (relaxed := false) (names := []) (lines := []) flying (by simp) (fun h hh own => absurd own (by simp [alone h hh])) (by simp)
  have arrives : exec (.ingressReadRequest r) s = .next (s.arrive r.port k (.read r)) := by
    show execIngressReadRequest r s = _
    simp [execIngressReadRequest, up', requester, Nat.not_lt.2 len, key]
  rw [arrives]
  refine congrArg _ (arrive_forwards ?_)
  rw [tracker, State.forward, port, show s.numbered.portUp r.port.val = true from up', ready', may, inCount_hbm hbm ctx, inRead_hbm hbm ctx]
  rfl

end

/-! ### Acknowledgements (R38, R447) -/

/-- A stream in the error state has lost its held writes after a number; beside it only reports and counters change. -/
theorem streamError_spec (s : State) (port : Fin 2) (k : StreamKey) (after : Nat) :
    ∃ hub regs errs, s.streamError port k after = { s with hub := hub, regs := regs, pcie := { (s.dropLater port k after).pcie with errs := errs } } ∧
      errs.contains (port, k) = true := by
  unfold State.streamError
  dsimp only
  split
  · next h => exact ⟨s.hub, s.regs, s.pcie.errs, rfl, h⟩
  · exact ⟨_, _, _, rfl, by simp⟩

theorem not_held_after {s : State} {port : Fin 2} {k : StreamKey} {after : Nat} {h : HeldTx} (hh : h ∈ (s.dropLater port k after).pcie.held) (hp : h.port = port) (hk : h.own = k)
    (later : after < h.id) : h.tx.isWrite = false := by
  have := (List.mem_filter.1 hh).2
  simpa [hp, hk, later] using this

/-- An acknowledgement takes its line from its tracker; with the last line of its write its targets are free. -/
theorem acked_spec (p : PStream) (id line : Nat) :
    (p.acked id line).flying = p.flying.erase (id, line) ∧ ((∀ x ∈ (p.acked id line).flying, x.1 ≠ id) → ∀ x ∈ (p.acked id line).targets, x.1 ≠ id) := by
  refine ⟨rfl, fun last x hx => ?_⟩
  have none : (p.acked id line).flying.any (fun x => x.1 == id) = false := List.any_eq_false.2 fun y hy => by simpa using last y hy
  have free : (p.acked id line).targets = p.targets.filter fun x => x.1 != id := by
    unfold PStream.acked at none ⊢
    simp only [none]
    rfl
  rw [free] at hx
  simpa using (List.mem_filter.1 hx).2

theorem exec_orderingPointAck_frees {s : State} {i id : Nat} {f : Flight} {p : PStream} (hf : s.acks[i]? = some f) (owner : f.owner = .stream id)
    (hp : s.pcie.streams.find? (fun p => p.flying.contains (id, f.line)) = some p) {k : StreamKey} (hk : (mapGet s.pcie.owners id).getD (p.rid, p.pasid) = k) :
    ∃ t q, exec (.orderingPointAck i) s = .next t ∧ t.acks = s.acks.eraseIdx i ∧ t.pstream p.port (p.rid, p.pasid) = q ∧ q.flying = p.flying.erase (id, f.line) ∧
      ((∀ x ∈ q.flying, x.1 ≠ id) → ∀ x ∈ q.targets, x.1 ≠ id) ∧ t.inError p.port k = (s.inError p.port k || f.bad) ∧
      t = { s with acks := t.acks, pcie := t.pcie, regs := t.regs, hub := t.hub } ∧
      (f.bad = true → ∀ h ∈ t.pcie.held, h.port = p.port → h.own = k → id < h.id → h.tx.isWrite = false) := by
  obtain ⟨owners, runs⟩ : ∃ owners, exec (.orderingPointAck i) s = .next (let u := ({ s with acks := s.acks.eraseIdx i } : State).putPstream (p.acked id f.line)
      let u := u.setPcie { u.pcie with owners := owners }
      if f.bad then u.streamError p.port k id else u) := by
    refine ⟨if (p.acked id f.line).flying.any (fun x => x.1 == id) then s.pcie.owners else s.pcie.owners.filter fun x => x.1 != id, ?_⟩
    show execOrderingPointAck i s = _
    simp only [execOrderingPointAck, hf, owner, hp, hk]
  have tracker := pstream_putPstream { s with acks := s.acks.eraseIdx i } (p.acked id f.line)
  obtain ⟨flying, targets⟩ := acked_spec p id f.line
  have work : ∀ q, (if (p.acked id f.line).flying = [] then ⟨p.port, p.rid, p.pasid, [], []⟩ else p.acked id f.line : PStream) = q →
      q.flying = p.flying.erase (id, f.line) ∧ ((∀ x ∈ q.flying, x.1 ≠ id) → ∀ x ∈ q.targets, x.1 ≠ id) := by
    rintro q rfl
    split
    · next none => exact ⟨by rw [← flying, none], fun _ x hx => absurd hx List.not_mem_nil⟩
    · exact ⟨flying, targets⟩
  obtain ⟨left, free⟩ := work _ tracker.symm
  cases bad : f.bad with
  | false =>
    rw [bad] at runs
    exact ⟨_, _, runs, rfl, (pstream_congr rfl _ _), left, free, (Bool.or_false _).symm, rfl, fun h => absurd h (by decide)⟩
  | true =>
    rw [bad] at runs
    obtain ⟨hub, regs, errs, e, err⟩ := streamError_spec
      (let u := ({ s with acks := s.acks.eraseIdx i } : State).putPstream (p.acked id f.line); u.setPcie { u.pcie with owners := owners }) p.port k id
    refine ⟨_, _, runs.trans (congrArg Host.Outcome.next e), rfl, pstream_congr rfl _ _, left, free, ?_, rfl, fun _ h hh hp hk later => not_held_after hh hp hk later⟩
    rw [Bool.or_true]
    exact err

/-! ### Translation for devices (R35, R87) -/

theorem exec_atsTranslationRequest_answers {s : State} {r : IngressRead} (up : 2 ≤ fld (s.reg (0x108 + 0x10 * r.port.val)) 1 0) (requester : requesterOk r.rid r.pasid = true)
    (ctx : r.ctx = none) (hbm : inHbm r.addr = true) : exec (.atsTranslationRequest r) s =
      .next { s with pcie := { s.pcie with ats := s.pcie.ats ++ [(r.port, r.addr, if (s.reg (0x100 + 0x10 * r.port.val)).getLsbD 6 = true then some r.addr else none)] } } := by
  have bit : s.pcieBit r.port.val 6 = (s.reg (0x100 + 0x10 * r.port.val)).getLsbD 6 := rfl
  show execAtsTranslationRequest r s = _
  simp only [execAtsTranslationRequest, portUp_of up, requester, ctx, iommu_physical s .load (.inl hbm), bit]
  cases (s.reg (0x100 + 0x10 * r.port.val)).getLsbD 6 <;> rfl

theorem migFrame_page (s : State) (m : Mig) : (s.migFrame m).2.ctx = m.ctx ∧ (s.migFrame m).2.vpn = m.vpn := by
  unfold State.migFrame
  split
  · exact ⟨rfl, rfl⟩
  · split <;> exact ⟨rfl, rfl⟩

/-- A migration that is wanted is in progress. -/
theorem wantMig_starts (s : State) (tenant ctx : Nat) (va : Word) (pte : Nat) (l : Word) (lvl tag : Nat) (w : Option BKey) :
    ∃ m ∈ (s.wantMig tenant ctx va pte l lvl tag w).xl.migs, m.ctx = ctx ∧ m.vpn = vpnOf va / leafPages lvl l * leafPages lvl l := by
  unfold State.wantMig
  dsimp only
  split
  · next joins =>
    obtain ⟨m, hm, e⟩ := List.any_eq_true.1 joins
    simp only [Bool.and_eq_true, beq_iff_eq] at e
    exact ⟨_, List.mem_map_of_mem hm, by split <;> exact e⟩
  · exact ⟨_, List.mem_append_right _ (List.mem_singleton.2 rfl), migFrame_page _ _⟩

theorem exec_priPageRequest_migrates {s : State} {r : IngressRead} {c pte lvl : Nat} {l : Word} (up : 2 ≤ fld (s.reg (0x108 + 0x10 * r.port.val)) 1 0)
    (requester : requesterOk r.rid r.pasid = true) (served : (s.reg (0x100 + 0x10 * r.port.val)).getLsbD 5 = true) (ctx : r.ctx = some c)
    (page : s.walk c false .load (BitVec.ofNat 64 r.addr) = .tier3 pte l lvl) :
    ∃ t, exec (.priPageRequest r) s = .next t ∧ (c, vpnOf (BitVec.ofNat 64 r.addr) / leafPages lvl l * leafPages lvl l) ∈ t.pcie.asked ∧
      ∃ m ∈ t.xl.migs, m.ctx = c ∧ m.vpn = vpnOf (BitVec.ofNat 64 r.addr) / leafPages lvl l * leafPages lvl l := by
  have bit : s.pcieBit r.port.val 5 = true := served
  have runs : exec (.priPageRequest r) s = execPriPageRequest r s := rfl
  rw [runs]
  simp only [execPriPageRequest, ctx, portUp_of up, requester, bit, page]
  exact ⟨_, rfl, by simp [State.setPcie], wantMig_starts _ _ _ _ _ _ _ _ _⟩

/-- Settles O50: each event of a link, of the ordering point and of a device's translation, as its own lemma says. -/
theorem ingressIsOrdered : Obligations.IngressIsOrdered := by
  refine ⟨exec_pcieCtl, fun s port speed width trains some speed16 width16 rate lanes => exec_pcieTrainingDone trains some speed16 width16 rate lanes,
    fun s port up => exec_pcieLinkLoss up, ?_, ?_, ?_, ?_, fun s i id f p hf owner hp => exec_orderingPointAck_frees hf owner hp rfl,
    fun s r up requester ctx hbm => exec_atsTranslationRequest_answers up requester ctx hbm,
    fun s r c pte lvl l up requester served ctx page => exec_priPageRequest_migrates up requester served ctx page⟩
  · intro s w k p ls up requester len fine ctx phys
    refine ⟨fun flying targets alone => ?_, fun strict ⟨x, hx, earlier⟩ => exec_ingressPostedWrite_holds rfl rfl up requester len fine ctx phys strict hx earlier⟩
    have port : w.port = p.port := (streamFor_port s w.port k).symm
    have tracked := pstream_linesOut (p := p) s.numbered k s.pcie.nextId ls flying targets
    refine ⟨_, exec_ingressPostedWrite_leaves rfl rfl up requester len fine ctx phys flying targets alone, ?_, rfl⟩
    exact (congrArg (fun q => State.pstream _ q (p.rid, p.pasid)) port).trans tracked
  · intro s i h w p ls hh tx ctx phys flying targets room first
    exact ⟨_, exec_heldWriteForward rfl hh tx ctx phys flying targets room first, rfl, rfl⟩
  · intro s r p up requester len ctx hbm flying alone ready
    exact exec_ingressReadRequest_answers hbm ctx rfl rfl up requester len flying alone ready
  · intro s w k p up requester len fine flying alone
    exact exec_ingressMsi_reaches rfl rfl up requester len fine flying alone

end Sys2Proof.Machine

/-! SUPPORT. Proof of O52: what a stripe's packets say of poison (R52, R279), and a stripe of two pages whose second fragment, read alone, meets poison that the stripe's own read does not. -/

namespace Sys2Proof.Machine

/-- A packet's CRC agrees with its bytes just where it was built so (R279). -/
theorem crcOk_packet (h : FragHeader) (payload : List Byte) (delivery : Delivery) (entropy port : Nat) (good : Bool) :
    (h.packet payload delivery entropy port good).crcOk = good := by
  have flipped (c : Nat) : c ^^^ 1 ≠ c := fun same => absurd (Nat.xor_right_injective (same.trans (Nat.xor_zero c).symm)) (by decide)
  cases good
  · exact beq_eq_false_iff_ne.mpr (flipped _)
  · exact beq_self_eq_true _

/-- Does a part of a stripe, read by itself, meet poison? -/
def State.partPoison (s : State) (x : Send) (stripe a n : Nat) : Bool :=
  match s.engRead x.eng .mem ((x.buf + stripe * profK x.prof * profF x.prof + a) % 2 ^ 64) n with
  | .ok (_, _, bad) => bad
  | .error _ => false

/-- The next stripe of a send is handed to the network, each of its packets good where its own part of the buffer meets no poison. -/
theorem exec_stripeTransmit_crc {s u : State} {x : Send} {data : List Byte} {bad : Bool} (known : s.send? x.id = some x) (tx : x.ph = .tx) (goes : x.stall = none)
    (more : x.next < x.stripes) (window : x.next < x.confirmed + 16)
    (read : s.engRead x.eng .mem ((x.buf + x.next * profK x.prof * profF x.prof) % 2 ^ 64)
      (min (x.k x.next * profF x.prof) (x.len - x.next * profK x.prof * profF x.prof)) = .ok (u, data, bad)) :
    ∃ t, exec (.stripeTransmit x.id x.next) s = .next t ∧ ∃ packet : Nat → Packet,
      t.net.out = u.net.out ++ (List.range (x.k x.next + x.m)).map packet ∧
      ∀ i, (packet i).crcOk = !fragPoison (x.k x.next) (profF x.prof) (min (x.k x.next * profF x.prof) (x.len - x.next * profK x.prof * profF x.prof)) (s.partPoison x x.next) i := by
  have unasked : ¬ x.next < x.next := Nat.lt_irrefl _
  have free : ¬(x.ph ≠ .tx ∨ x.stall.isSome ∨ x.next ≠ x.next ∨ x.stripes ≤ x.next ∨ x.confirmed + 16 ≤ x.next) := by
    simp only [tx, goes, ne_eq, not_true_eq_false, Option.isSome_none, Bool.false_eq_true, false_or]
    omega
  simp only [exec, execStripeTransmit, known, if_neg unasked, if_neg free, State.sendFrags, read]
  simp only [List.filter_true]
  refine ⟨_, rfl, _, rfl, fun i => crcOk_packet _ _ _ _ _ _⟩

/-! ### The stripe -/

/-- A send of 8,192 bytes at 0x5FF000, in data fragments of 4,096 bytes, without parity. -/
def twoPages : Send where
  id := 0
  owner := ⟨0, 0, 0⟩
  pid := 0
  tenant := 0
  ctx := 0
  core := 0
  slot := 0
  gtag := 0
  prof := wordOf [(26, 2), (24, 3), (14, 2)]
  buf := 0x5FF000
  len := 8192
  dest := 1
  tag := 0
  seq := 0
  ph := .tx
  next := 0
  confirmed := 0
  busies := 0
  dues := []
  reps := []
  asks := []
  due := 0
  stall := none
  since := 0

/-- Tables of context 0: pages 0x5FF and 0x600 stand for the pages 0x705 and 0x706 of frame 1. -/
def twoPagesTables : State :=
  [(0x700000, 0x701), (0x701000, 0x702), (0x702000, 0x703), (0x703010, 0x704), (0x703018, 0x707)].foldl (fun t e => t.wr64 e.1 (wordOf [(10, e.2), (0, 1)]))
    ((State.reset.wr64 0x704FF8 (wordOf [(10, 0x705), (0, 0x17)])).wr64 0x707000 (wordOf [(10, 0x706), (0, 0x17)]))

/-- A leaf of 1 GiB at address 0, which the tables held before. In frame 1, whose scheme is recorded, it serves a read; in frame 0 it does not. -/
def staleLeaf : TlbEnt where
  ctx := 0
  vpn := 0
  pages := 262144
  leaf := wordOf [(10, 0), (0, 0x57)]
  pte := 0
  a := true
  d := false
  also := []

/-- The send stands before its first stripe, the grove's TLB still holds the stale leaf, and where that leaf leads for page 0x600 there is poison. -/
def twoPagesSent : State :=
  { twoPagesTables with
    poison := [0x600000]
    xl := { State.reset.xl with ctxs := [⟨0, 0, 0, 0, 0x700, 0⟩], frames := [(1, 1)], tlb := [(.grove 0, staleLeaf)] }
    net := { State.reset.net with sends := [twoPages] } }

/-- Read as a whole, the stripe meets no poison: the first page's own walk drives the stale leaf out of the TLB (R73), and the second page's walk leads elsewhere. Read by itself, the second fragment goes through the stale leaf. -/
theorem twoPages_poison : (∃ u data, twoPagesSent.engRead twoPages.eng .mem 0x5FF000 8192 = .ok (u, data, false)) ∧ twoPagesSent.partPoison twoPages 0 4096 4096 = true := by
  refine ⟨?_, by decide +kernel⟩
  have clean : (match twoPagesSent.engRead twoPages.eng .mem 0x5FF000 8192 with | .ok r => some r.2.2 | .error _ => none) = some false := by decide +kernel
  split at clean
  · next r read =>
    obtain ⟨u, data, bad⟩ := r
    obtain rfl : bad = false := Option.some.inj clean
    exact ⟨u, data, read⟩
  · cases clean

/-- Refutes O52: a stripe that its sender reads without poison may leave with a data fragment whose CRC fails. The poison of a fragment is that of its own read, which a TLB that holds a stale leaf
may translate otherwise than the read of the whole stripe. -/
theorem not_sendersFinish : ¬ Obligations.SendersFinish := by
  rintro ⟨transmits, -⟩
  obtain ⟨⟨u, data, read⟩, poisoned⟩ := twoPages_poison
  have known : twoPagesSent.send? twoPages.id = some twoPages := rfl
  have widths : SendOk twoPagesSent twoPages := by decide
  obtain ⟨t, ps, runs, out, -, packets, -⟩ := transmits twoPagesSent u twoPages data false known widths rfl rfl (by decide) (by decide) (by decide)
    (fun w hw => absurd hw List.not_mem_nil) read
  obtain ⟨t', runs', packet, out', crc⟩ := exec_stripeTransmit_crc known rfl rfl (by decide) (by decide) read
  obtain rfl : t = t' := by rw [runs] at runs'; exact Host.Outcome.next.inj runs'
  have sent : ps = (List.range (twoPages.k 0 + twoPages.m)).map packet := List.append_cancel_left (out.symm.trans out')
  have second : ps[1]? = some (packet 1) := by
    rw [sent, show twoPages.k 0 + twoPages.m = 2 by decide]
    rfl
  obtain ⟨-, -, -, -, -, -, -, -, -, -, -, -, good, -⟩ := packets 1 (packet 1) second
  have bad : (packet 1).crcOk = false := by
    rw [crc 1, Bool.not_eq_false']
    exact poisoned
  exact absurd (good rfl) (by rw [bad]; decide)

end Sys2Proof.Machine

/-! SUPPORT. Runs of bytes: what a run written reads back as, and the bytes and the writes beside it (R206, R372). -/

namespace Sys2Proof.Machine

theorem byte_setBytes_in {s : State} (a : Nat) {l : List Byte} (wf : memWf s.mem = true) {i : Nat} (h : i < l.length) : (s.setBytes a l).byte (a + i) = l[i] := by
  induction l generalizing s a i with
  | nil => simp at h
  | cons b r ih =>
    cases i with
    | zero => rw [State.setBytes, byte_setBytes_out _ _ _ _ (by omega)]; exact byte_setByte_self s a b wf
    | succ i =>
      rw [State.setBytes, show a + (i + 1) = a + 1 + i by omega]
      exact ih (a + 1) (memWf_setByte s a b wf) (by simpa using h)

theorem bytesFrom_setBytes {s : State} (a : Nat) (l : List Byte) (wf : memWf s.mem = true) : bytesFrom (s.setBytes a l).byte a l.length = l := by
  rw [bytesFrom_eq]
  refine List.ext_getElem (by simp) fun i hi hl => ?_
  simp only [List.getElem_map, List.getElem_range]
  exact byte_setBytes_in a wf hl

theorem rdMem_setBytes {s : State} (a : Nat) (l : List Byte) (wf : memWf s.mem = true) : (s.setBytes a l).rdMem a l.length = leNat l := by
  rw [State.rdMem, bytesFrom_setBytes a l wf]

theorem rd64_setBytes_leBytes {s : State} (a : Nat) (w : Word) (wf : memWf s.mem = true) : (s.setBytes a (leBytes 8 w.toNat)).rd64 a = w := by
  have read := rdMem_setBytes a (leBytes 8 w.toNat) wf
  rw [leBytes_length] at read
  rw [State.rd64, read, leNat_leBytes_word, BitVec.ofNat_toNat, BitVec.setWidth_eq]

theorem rdMem_congr {s t : State} {a n : Nat} (h : ∀ i < n, t.byte (a + i) = s.byte (a + i)) : t.rdMem a n = s.rdMem a n := by
  rw [State.rdMem, State.rdMem, bytesFrom_eq, bytesFrom_eq]
  exact congrArg leNat (List.map_congr_left fun i hi => h i (List.mem_range.1 hi))

theorem setBytes_append (s : State) (a : Nat) (l r : List Byte) : s.setBytes a (l ++ r) = (s.setBytes a l).setBytes (a + l.length) r := by
  induction l generalizing s a with
  | nil => rfl
  | cons b l ih => rw [List.cons_append, State.setBytes, ih, State.setBytes, List.length_cons, show a + 1 + l.length = a + (l.length + 1) by omega]

/-- Words written one after another read back, each at its place. -/
theorem rd64_setBytes_words {s : State} (a : Nat) (l : List Word) (wf : memWf s.mem = true) {i : Nat} (h : i < l.length) :
    (s.setBytes a (l.flatMap fun w => leBytes 8 w.toNat)).rd64 (a + 8 * i) = l[i] := by
  induction l generalizing s a i with
  | nil => simp at h
  | cons w r ih =>
    rw [List.flatMap_cons, setBytes_append, leBytes_length]
    have wf' := memWf_setBytes s a (leBytes 8 w.toNat) wf
    cases i with
    | zero =>
      rw [State.rd64, rdMem_congr (s := s.setBytes a (leBytes 8 w.toNat)) fun i hi => byte_setBytes_out _ _ _ _ (by omega)]
      exact rd64_setBytes_leBytes a w wf
    | succ i =>
      rw [show a + 8 * (i + 1) = a + 8 + 8 * i by omega]
      exact ih (a + 8) wf' (by simpa using h)

theorem byte_openRange_out (s : State) {lo len a : Nat} (h : a < lo ∨ lo + len ≤ a) : (s.openRange lo len).byte a = s.byte a := by
  have kept (m : List Host.Cell) : mapGet (m.filter fun c => decide (c.1 < lo) || decide (lo + len ≤ c.1)) a = mapGet m a := by
    induction m with
    | nil => rfl
    | cons c r ih =>
      obtain ⟨j, b⟩ := c
      by_cases same : j = a
      · subst same
        rw [List.filter_cons_of_pos (by simpa using h)]
        simp [mapGet]
      · have skip (q : List Host.Cell) : mapGet ((j, b) :: q) a = mapGet q a := by rw [mapGet, if_neg (by simpa using same)]
        rw [List.filter_cons, skip]
        split
        · rw [skip, ih]
        · exact ih
  have outside : openAt ((lo, len, s.free) :: s.memOpen) a = openAt s.memOpen a := by
    have miss : (decide (lo ≤ a) && decide (a < lo + len)) = false := by
      simp only [Bool.and_eq_false_iff, decide_eq_false_iff_not]
      omega
    rw [openAt, List.find?_cons, miss, openAt]
  rw [State.byte, State.byte, State.openRange]
  simp only [outside, memGet, kept]

/-! ### The parts of a write -/

theorem partsFrom_cons (a : Nat) (b : Byte) (d : List Byte) : partsFrom a (b :: d) = (a, b) :: partsFrom (a + 1) d := by
  simp only [partsFrom, List.length_cons, List.range_succ_eq_map, List.zip_cons_cons, List.map_cons, Nat.add_zero, List.zip_map_left, List.map_map, List.cons.injEq, true_and]
  refine List.map_congr_left fun x _ => congrArg (·, x.2) ?_
  simp only [Prod.map]
  omega

theorem putParts_partsFrom (s : State) (a : Nat) (d : List Byte) : s.putParts (partsFrom a d) = s.setBytes a d := by
  induction d generalizing s a with
  | nil => rfl
  | cons b d ih => rw [partsFrom_cons, State.putParts, ih, State.setBytes]

theorem addrs_partsFrom (a : Nat) (d : List Byte) : (partsFrom a d).map (fun p => p.1) = addrsFrom a d.length := by
  rw [partsFrom, addrsFrom, List.map_map]
  conv_rhs => rw [← List.map_fst_zip (l₁ := List.range d.length) (l₂ := d) (by simp), List.map_map]
  rfl

theorem mem_partsFrom {a : Nat} {d : List Byte} {p : Nat × Byte} (h : p ∈ partsFrom a d) : a ≤ p.1 ∧ p.1 < a + d.length := by
  have there : p.1 ∈ addrsFrom a d.length := addrs_partsFrom a d ▸ List.mem_map_of_mem h
  obtain ⟨i, hi, e⟩ := List.mem_map.1 there
  have := List.mem_range.1 hi
  omega

end Sys2Proof.Machine

/-! SUPPORT. The reply to a command (R128): a write of its word that fires nothing, and the ring's head past the record. -/

namespace Sys2Proof.Machine

theorem reg_congr {s t : State} (h : t.regs = s.regs) (o : Nat) : t.reg o = s.reg o := by rw [State.reg, h, State.reg]

/-! ### A write of several bytes (R121, R159, R206) -/

/-- While no receive is armed, the bytes of a write stand at the home slice; where the first of them lies in no window that is all. -/
theorem landed_headed {s : State} {a : Nat} {b : Byte} {rest : List (Nat × Byte)} (writer : Option BKey) (block bad : Bool) (narms : s.net.narms = []) :
    ∃ v, NotesOnly (s.putParts ((a, b) :: rest)) v ∧ (s.windowOf a = none → s.landed writer block ((a, b) :: rest) bad = v) ∧
      ∀ n, s.windowOf a = some n → s.landed writer block ((a, b) :: rest) bad = v.submit n a (block && wholeBlock (a :: rest.map fun p => p.1)) := by
  have bytes : s.veiled ((a, b) :: rest) = (a, b) :: rest := by simp [State.veiled, narms]
  have notes := ((noteWrite_notes (s.putParts ((a, b) :: rest)) none (a :: rest.map fun p => p.1) writer).trans (poisonWrite_notes _ (a :: rest.map fun p => p.1) bad)).trans
    (watchHit_notes _ writer (linesOf (a :: rest.map fun p => p.1)))
  have window := (notes.windowOf a).trans (windowOf_congr (s := s) (by rw [putParts_frame]) a)
  refine ⟨_, notes, fun none => ?_, fun n some => ?_⟩
  · rw [none] at window
    simp only [State.landed, bytes, List.map_cons, window]
  · rw [some] at window
    simp only [State.landed, bytes, List.map_cons, window]

/-- A write that reaches no armed counter fires nothing. -/
theorem visible_of_quiet {s : State} {parts : List (Nat × Byte)} (writer : Option BKey) (block bad : Bool)
    (armed : ((s.spoil (parts.map fun p => p.1)).landed writer block parts bad).armed = s.armed) (quiet : ∀ x ∈ s.armed, ∀ p ∈ parts, x.pa ≠ p.1 / 8 * 8) :
    s.visible writer block parts bad = (s.spoil (parts.map fun p => p.1)).landed writer block parts bad := by
  have fires : ((s.spoil (parts.map fun p => p.1)).landed writer block parts bad).takeFired ((parts.map fun p => p.1 / 8 * 8).eraseDups) =
      ((s.spoil (parts.map fun p => p.1)).landed writer block parts bad, []) := by
    refine takeFired_nil fun x hx pa hpa => ?_
    rw [armed] at hx
    obtain ⟨p, hp, rfl⟩ := List.mem_map.1 (List.mem_eraseDups.1 hpa)
    exact quiet x hx p hp
  rw [State.visible, State.shown, fires, fire_nil]

/-- A run of bytes written where no window and no armed counter is, while no receive is armed. -/
theorem visible_run {s : State} {a : Nat} {d : List Byte} (writer : Option BKey) (block bad : Bool) (some : d ≠ []) (narms : s.net.narms = []) (window : s.windowOf a = none)
    (quiet : ∀ x ∈ s.armed, ∀ j < d.length, x.pa ≠ (a + j) / 8 * 8) :
    NotesOnly ((s.spoil (addrsFrom a d.length)).setBytes a d) (s.visible writer block (partsFrom a d) bad) := by
  have quiet : ∀ x ∈ s.armed, ∀ p ∈ partsFrom a d, x.pa ≠ p.1 / 8 * 8 := fun x hx p hp => by
    obtain ⟨lo, hi⟩ := mem_partsFrom hp
    have apart := quiet x hx (p.1 - a) (by omega)
    rwa [show a + (p.1 - a) = p.1 by omega] at apart
  obtain ⟨b, rest, rfl⟩ := List.exists_cons_of_ne_nil some
  have spoilt := spoil_eq s (addrsFrom a (b :: rest).length)
  rw [← addrs_partsFrom] at spoilt ⊢
  rw [← putParts_partsFrom]
  generalize hp : (partsFrom a (b :: rest)).map (fun p => p.1) = addrs at *
  obtain ⟨v, notes, outside, -⟩ := landed_headed (s := s.spoil addrs) (a := a) (b := b) (rest := partsFrom (a + 1) rest) writer block bad (by rw [spoilt]; exact narms)
  rw [← partsFrom_cons] at notes outside
  have landed := outside (by rw [spoilt]; exact window)
  have kept : ((s.spoil ((partsFrom a (b :: rest)).map fun p => p.1)).landed writer block (partsFrom a (b :: rest)) bad).armed = s.armed := by
    rw [hp, landed]
    obtain ⟨_, _, _, _, _, _, rfl⟩ := notes
    rw [putParts_frame, spoilt]
  rw [visible_of_quiet writer block bad kept quiet, hp, landed]
  exact notes

/-- Such a write changes its bytes alone, and no register. -/
theorem visible_run_reads {s : State} {a : Nat} {d : List Byte} (writer : Option BKey) (block bad : Bool) (some : d ≠ []) (wf : memWf s.mem = true) (narms : s.net.narms = [])
    (window : s.windowOf a = none) (quiet : ∀ x ∈ s.armed, ∀ j < d.length, x.pa ≠ (a + j) / 8 * 8) :
    let t := s.visible writer block (partsFrom a d) bad
    t.regs = s.regs ∧ t.rdMem a d.length = leNat d ∧ ∀ i, i < a ∨ a + d.length ≤ i → t.byte i = s.byte i := by
  have notes := visible_run writer block bad some narms window quiet
  dsimp only
  generalize s.visible writer block (partsFrom a d) bad = t at notes
  generalize hs : s.spoil (addrsFrom a d.length) = S at notes
  have spoilt := hs.symm.trans (spoil_eq _ _)
  have wf' : memWf S.mem = true := by rw [spoilt]; exact wf
  obtain ⟨_, _, _, _, _, _, rfl⟩ := notes
  refine ⟨?_, rdMem_setBytes a d wf', fun i hi => (byte_setBytes_out S _ _ i hi).trans ?_⟩
  · rw [setBytes_frame, spoilt]
  · rw [spoilt]
    rfl

/-! ### The reply -/

/-- The word of a reply. -/
def replyWord (r : List Word) (value status : Nat) : Word := wordOf [(32, fld (recW r 0) 31 0), (8, value % 2 ^ 24), (0, status)]

/-- The state once a reply's word is written. -/
def State.replied (u : State) (r : List Word) (value status : Nat) : State :=
  u.visible none false (partsFrom (recW r 7).toNat (leBytes 8 (replyWord r value status).toNat)) false

/-- The state with the ring's head one further, and the MSI of a reply sent where it is asked for. -/
def State.headPast (s : State) : State :=
  let t := s.setReg 8 (setFld (s.reg 8) 47 32 ((fld (s.reg 8) 47 32 + 1) % 2 ^ fld (s.reg 0) 4 0))
  if (s.reg 8).getLsbD 0 then { t with hub := { t.hub with msis := t.hub.msis ++ [64] } } else t

theorem reply_eq (u : State) (r : List Word) (value status : Nat) : u.reply r value status = (u.replied r value status).headPast := by
  unfold State.reply State.headPast State.replied replyWord
  rfl

theorem headPast_regs (s : State) : s.headPast.regs = (s.setReg 8 (setFld (s.reg 8) 47 32 ((fld (s.reg 8) 47 32 + 1) % 2 ^ fld (s.reg 0) 4 0))).regs := by
  unfold State.headPast
  dsimp only
  split <;> rfl

theorem headPast_byte (s : State) (a : Nat) : s.headPast.byte a = s.byte a := by
  unfold State.headPast
  dsimp only
  split <;> rfl

/-- The word of a reply stands at its address, and beside it neither a register nor a byte changes. -/
theorem replied_spec {u : State} {r : List Word} (v st : Nat) (wf : memWf u.mem = true) (narms : u.net.narms = []) (window : u.windowOf (recW r 7).toNat = none)
    (quiet : ∀ x ∈ u.armed, ∀ j < 8, x.pa ≠ ((recW r 7).toNat + j) / 8 * 8) :
    (u.replied r v st).regs = u.regs ∧ (u.replied r v st).rd64 (recW r 7).toNat = replyWord r v st ∧
      ∀ a, a < (recW r 7).toNat ∨ (recW r 7).toNat + 8 ≤ a → (u.replied r v st).byte a = u.byte a := by
  have length := leBytes_length 8 (replyWord r v st).toNat
  obtain ⟨regs, bytes, rest⟩ := visible_run_reads (d := leBytes 8 (replyWord r v st).toNat) none false false (List.ne_nil_of_length_pos (by rw [length]; omega)) wf narms window
    (by rw [length]; exact quiet)
  rw [length] at bytes rest
  refine ⟨regs, ?_, rest⟩
  rw [State.rd64, State.replied, bytes, leNat_leBytes_word, BitVec.ofNat_toNat, BitVec.setWidth_eq]

/-- A command's reply stands at its address, the ring's head is one further, and beside them no register and no byte changes (R128). -/
theorem reply_spec {u : State} {r : List Word} {v : Nat} (st : Nat) (wf : memWf u.mem = true) (narms : u.net.narms = []) (hv : v < 2 ^ 24) (window : u.windowOf (recW r 7).toNat = none)
    (quiet : ∀ x ∈ u.armed, ∀ j < 8, x.pa ≠ ((recW r 7).toNat + j) / 8 * 8) : let t := u.reply r v st
    t.rd64 (recW r 7).toNat = wordOf [(32, fld (recW r 0) 31 0), (8, v), (0, st)] ∧ fld (t.reg 8) 47 32 = (fld (u.reg 8) 47 32 + 1) % 2 ^ fld (u.reg 0) 4 0 % 2 ^ 16 ∧
      (∀ o, o ≠ 8 → t.reg o = u.reg o) ∧ (∀ a, a < (recW r 7).toNat ∨ (recW r 7).toNat + 8 ≤ a → t.byte a = u.byte a) := by
  obtain ⟨regs, word, bytes⟩ := replied_spec v st wf narms window quiet
  rw [replyWord, Nat.mod_eq_of_lt hv] at word
  dsimp only
  rw [reply_eq]
  generalize u.replied r v st = t at regs word bytes
  refine ⟨?_, ?_, fun o ho => ?_, fun a ha => (headPast_byte t a).trans (bytes a ha)⟩
  · rw [← word, State.rd64, State.rd64, rdMem_congr fun i _ => headPast_byte t _]
  · rw [reg_congr (headPast_regs t), reg_setReg_self, fld_setFld_self _ _ (by omega) (by omega), reg_congr regs, reg_congr regs]
  · rw [reg_congr (headPast_regs t), reg_setReg_ne _ _ ho, reg_congr regs]

/-! ### Commands (R128) -/

/-- The command at the head of the ring is carried out by its own rule. -/
theorem answers_command {i : Instr} {s u : State} {r : List Word} {code value status : Nat} {pick : List Word → Bool} {run : List Word → State → Reply} {Q : State → Prop}
    (arm : exec i s = s.command pick run) (head : Head s code r) (picks : pick r = true) (ran : run r s = ⟨u, value, status⟩) (q : Q u) : Answers i s r value status Q := by
  obtain ⟨here, -, tenant⟩ := head
  have known : ¬(64 ≤ cmdTenant r ∧ cmdCodes.contains (cmdCode r)) := fun h => by omega
  refine ⟨u, ?_, q⟩
  rw [arm, State.command, here]
  simp only [picks, Bool.not_true, Bool.false_eq_true, if_false, if_neg known, ran]

theorem isCode_of_head {s : State} {code : Nat} {r : List Word} (head : Head s code r) : isCode code r = true := by
  obtain ⟨-, is, -⟩ := head
  rw [isCode, is, beq_self_eq_true]

/-- A command that may have to wait stays at the head while it does. -/
theorem commandAfter_waits {s : State} {r : List Word} {code : Nat} {waits : List Word → State → Bool} (run : List Word → State → Reply) (head : Head s code r) (h : waits r s = true) :
    s.commandAfter (isCode code) waits run = .next s := by
  have picks := isCode_of_head head
  obtain ⟨here, -, tenant⟩ := head
  rw [State.commandAfter, here]
  simp only [picks, h, tenant, decide_true, Bool.and_self, if_true]

theorem commandAfter_goes {s : State} {r : List Word} {code : Nat} {waits : List Word → State → Bool} (run : List Word → State → Reply) (head : Head s code r) (h : waits r s = false) :
    s.commandAfter (isCode code) waits run = s.command (isCode code) run := by
  obtain ⟨here, -, -⟩ := head
  rw [State.commandAfter, here]
  simp only [h, Bool.and_false, Bool.false_eq_true, if_false]

end Sys2Proof.Machine

/-! SUPPORT. Commands on contexts, frames, regions and anchors (R70, R73, R89, R97, R128). -/

namespace Sys2Proof.Machine

/-! ### Contexts (R73) -/

theorem ctx?_putCtx_self (s : State) (c : Ctx) : (s.putCtx c).ctx? c.num = some c := by
  have gone : (s.xl.ctxs.filter fun x => x.num != c.num).find? (fun x => x.num == c.num) = none :=
    List.find?_eq_none.2 fun x hx => by simpa using (List.mem_filter.1 hx).2
  rw [State.ctx?, State.putCtx]
  simp [List.find?_append, gone]

theorem find?_other_ctx (l : List Ctx) {n m : Nat} (h : m ≠ n) : (l.filter fun x => x.num != n).find? (fun x => x.num == m) = l.find? fun x => x.num == m := by
  rw [List.find?_filter]
  refine congrArg (List.find? · l) (funext fun x => ?_)
  by_cases e : x.num = m <;> simp [e, h]

theorem ctx?_putCtx_ne (s : State) {c : Ctx} {m : Nat} (h : m ≠ c.num) : (s.putCtx c).ctx? m = s.ctx? m := by
  have last : [c].find? (fun x => x.num == m) = none := by simp [Ne.symm h]
  rw [State.ctx?, State.putCtx, List.find?_append, last, find?_other_ctx _ h, Option.or_none, State.ctx?]

theorem find?_lowest {p : Nat → Bool} {n k : Nat} (h : n < k) (here : p n = true) (below : ∀ m < n, p m = false) : (List.range k).find? p = some n := by
  rw [List.find?_range_eq_some]
  exact ⟨here, List.mem_range.2 h, fun m hm => by simp [below m hm]⟩

theorem exec_cmdBindContext (s : State) : exec .cmdBindContext s = s.commandAfter (isCode 1) (fun r s => (s.bindVictim r).any fun c => s.sdWaits c.shoot) cmdBind := rfl

theorem exec_cmdUnbindContext (s : State) : exec .cmdUnbindContext s = s.commandAfter (isCode 2) (fun r s => (s.unbound r).any fun c => s.sdWaits c.shoot) cmdUnbind := rfl

theorem exec_cmdBindContext_goes {s : State} {r : List Word} (head : Head s 1 r) (h : ((s.bindVictim r).any fun c => s.sdWaits c.shoot) = false) :
    exec .cmdBindContext s = s.command (isCode 1) cmdBind :=
  (exec_cmdBindContext s).trans (commandAfter_goes cmdBind head h)

theorem exec_cmdUnbindContext_goes {s : State} {r : List Word} (head : Head s 2 r) (h : ((s.unbound r).any fun c => s.sdWaits c.shoot) = false) :
    exec .cmdUnbindContext s = s.command (isCode 2) cmdUnbind :=
  (exec_cmdUnbindContext s).trans (commandAfter_goes cmdUnbind head h)

section
variable {s : State} {r : List Word} (head : Head s 1 r) (root : rootOk (opnum r 3) = true)
include head root

/-- A live pair keeps its number and takes the new root. -/
theorem exec_cmdBindContext_live {c : Ctx} (live : s.livePair r = some c) :
    Answers .cmdBindContext s r c.num 0 fun u => u.ctx? c.num = some { c with root := opnum r 3 / 4096 } ∧ ∀ m, m ≠ c.num → u.ctx? m = s.ctx? m := by
  have waits : ((s.bindVictim r).any fun c => s.sdWaits c.shoot) = false := by simp [State.bindVictim, live]
  refine answers_command (u := s.putCtx { c with root := opnum r 3 / 4096 }) (exec_cmdBindContext_goes head waits) head (isCode_of_head head) ?_
    ⟨ctx?_putCtx_self s { c with root := opnum r 3 / 4096 }, fun m hm => ctx?_putCtx_ne s hm⟩
  simp only [cmdBind, root, live, Bool.not_true, Bool.false_eq_true, if_false]

/-- A new pair takes the lowest free number. -/
theorem exec_cmdBindContext_free {n : Nat} (new : s.livePair r = none) (hn : n < 1024) (free : s.ctx? n = none) (lowest : ∀ m < n, s.ctx? m ≠ none) :
    Answers .cmdBindContext s r n 0 fun u => u.ctx? n = some ⟨n, cmdTenant r, opnum r 1, opnum r 2, opnum r 3 / 4096, s.clock⟩ ∧ ∀ m, m ≠ n → u.ctx? m = s.ctx? m := by
  have find : (List.range 1024).find? (fun n => (s.ctx? n).isNone) = some n :=
    find?_lowest hn (by rw [free]; rfl) fun m hm => Option.isNone_eq_false_iff.2 (Option.isSome_iff_ne_none.2 (lowest m hm))
  have some : (List.range 1024).any (fun n => (s.ctx? n).isNone) = true := List.any_eq_true.2 ⟨n, List.mem_range.2 hn, by rw [free]; rfl⟩
  have waits : ((s.bindVictim r).any fun c => s.sdWaits c.shoot) = false := by simp only [State.bindVictim, some, Bool.or_true, Bool.true_or, if_true, Option.any_none]
  refine answers_command (u := s.putCtx ⟨n, cmdTenant r, opnum r 1, opnum r 2, opnum r 3 / 4096, s.clock⟩) (exec_cmdBindContext_goes head waits) head (isCode_of_head head) ?_
    ⟨ctx?_putCtx_self s ⟨n, _, _, _, _, _⟩, fun m hm => ctx?_putCtx_ne s hm⟩
  simp only [cmdBind, root, new, find, Bool.not_true, Bool.false_eq_true, if_false]

variable {c : Ctx} (new : s.livePair r = none) (full : ∀ m < 1024, s.ctx? m ≠ none) (oldest : oldestCtx s.xl.ctxs = some c)
include new full oldest

omit head in
/-- With every number bound it is the oldest context whose shoot-down the command waits for. -/
theorem bindVictim_oldest : s.bindVictim r = some c := by
  have none : (List.range 1024).any (fun n => (s.ctx? n).isNone) = false := List.any_eq_false.2 fun m hm => by
    rw [Bool.not_eq_true, Option.isNone_eq_false_iff, Option.isSome_iff_ne_none]
    exact full m (List.mem_range.1 hm)
  simp only [State.bindVictim, new, none, root, oldest, Option.isSome_none, Bool.not_true, Bool.or_self, Bool.false_eq_true, if_false]

theorem exec_cmdBindContext_waits (busy : s.sdWaits c.shoot = true) : exec .cmdBindContext s = .next s :=
  (exec_cmdBindContext s).trans (commandAfter_waits cmdBind head (by rw [bindVictim_oldest root new full oldest, Option.any_some, busy]))

/-- A new pair takes the oldest context's number once that is shot down. -/
theorem exec_cmdBindContext_oldest (done : s.sdWaits c.shoot = false) :
    Answers .cmdBindContext s r c.num 0 fun u => u.ctx? c.num = some ⟨c.num, cmdTenant r, opnum r 1, opnum r 2, opnum r 3 / 4096, s.clock⟩ := by
  have find : (List.range 1024).find? (fun n => (s.ctx? n).isNone) = none := List.find?_eq_none.2 fun m hm => by
    rw [Bool.not_eq_true, Option.isNone_eq_false_iff, Option.isSome_iff_ne_none]
    exact full m (List.mem_range.1 hm)
  refine answers_command (u := (s.sdEffect c.shoot).putCtx ⟨c.num, cmdTenant r, opnum r 1, opnum r 2, opnum r 3 / 4096, s.clock⟩)
    (exec_cmdBindContext_goes head (by rw [bindVictim_oldest root new full oldest, Option.any_some, done])) head (isCode_of_head head) ?_ (ctx?_putCtx_self _ ⟨c.num, _, _, _, _, _⟩)
  simp only [cmdBind, root, new, find, oldest, Bool.not_true, Bool.false_eq_true, if_false]

end

section
variable {s : State} {r : List Word} (head : Head s 2 r) (number : opnum r 1 < 1024)
include head number

omit head number in
theorem unbound_of_owner {c : Ctx} (bound : s.ctx? (opnum r 1) = some c) (mine : c.tenant = cmdTenant r) : s.unbound r = some c := by
  simp [State.unbound, bound, mine]

omit number in
theorem exec_cmdUnbindContext_waits {c : Ctx} (bound : s.ctx? (opnum r 1) = some c) (mine : c.tenant = cmdTenant r) (busy : s.sdWaits c.shoot = true) :
    exec .cmdUnbindContext s = .next s :=
  (exec_cmdUnbindContext s).trans (commandAfter_waits cmdUnbind head (by rw [unbound_of_owner bound mine, Option.any_some, busy]))

theorem exec_cmdUnbindContext_unbinds {c : Ctx} (bound : s.ctx? (opnum r 1) = some c) (mine : c.tenant = cmdTenant r) (done : s.sdWaits c.shoot = false) :
    Answers .cmdUnbindContext s r 0 0 fun u => u.ctx? (opnum r 1) = none := by
  have num : c.num = opnum r 1 := by simpa using List.find?_some bound
  let t := s.sdEffect c.shoot
  refine answers_command (u := { t with xl := { t.xl with ctxs := t.xl.ctxs.filter fun x => x.num != c.num } })
    (exec_cmdUnbindContext_goes head (by rw [unbound_of_owner bound mine, Option.any_some, done])) head (isCode_of_head head) ?_ ?_
  · simp only [cmdUnbind, unbound_of_owner bound mine, if_neg (show ¬ 1024 ≤ opnum r 1 by omega)]
    rfl
  · exact List.find?_eq_none.2 fun x hx => by simpa [num] using (List.mem_filter.1 hx).2

theorem exec_cmdUnbindContext_refuses (foreign : ∀ c, s.ctx? (opnum r 1) = some c → c.tenant ≠ cmdTenant r) : Answers .cmdUnbindContext s r 0 3 fun u => u = s := by
  have none : s.unbound r = none := by
    rw [State.unbound, Option.filter_eq_none_iff]
    exact fun c hc => by simpa using foreign c hc
  refine answers_command (u := s) (exec_cmdUnbindContext_goes head (by rw [none]; rfl)) head (isCode_of_head head) ?_ rfl
  simp only [cmdUnbind, none, if_neg (show ¬ 1024 ≤ opnum r 1 by omega)]
  rfl

end

/-! ### Frames (R70) -/

section
variable {s : State} {r : List Word} (head : Head s 3 r) (frame : opnum r 1 < 91552) (kind : opnum r 2 < 8)
include head frame kind

omit head in
theorem cmdScheme_operands : ¬(Config.frames ≤ opnum r 1 ∨ 8 ≤ opnum r 2) := by
  have : Config.frames = 91552 := rfl
  omega

/-- A frame that firmware reserves, or that belongs to several tenants, keeps its scheme. -/
theorem exec_cmdSetFrameScheme_refuses (h : s.frameReserved (opnum r 1) = true ∨ 2 ≤ (s.frameTenants (opnum r 1)).length) : Answers .cmdSetFrameScheme s r 0 3 fun u => u = s := by
  refine answers_command (u := s) rfl head (isCode_of_head head) ?_ rfl
  simp only [cmdScheme, if_neg (cmdScheme_operands frame kind), if_pos h]
  rfl

omit head frame kind in
/-- A recorded scheme is its frame's. -/
theorem scheme_of_recorded {t : State} {k : Nat} (h : natsGet t.xl.frames (opnum r 1) = k + 1) : t.scheme (opnum r 1 * 0x600000) = some k := by
  have here : opnum r 1 * 0x600000 / Config.frameBytes = opnum r 1 := Nat.mul_div_cancel _ (by decide)
  rw [State.scheme, here, h]

theorem exec_cmdSetFrameScheme_records (mine : s.frameReserved (opnum r 1) = false) (one : (s.frameTenants (opnum r 1)).length < 2)
    (new : s.scheme (opnum r 1 * 0x600000) ≠ some (opnum r 2)) : Answers .cmdSetFrameScheme s r 0 0 fun u =>
      u.scheme (opnum r 1 * 0x600000) = some (opnum r 2) ∧ ∀ a, a < opnum r 1 * 0x600000 ∨ opnum r 1 * 0x600000 + 0x600000 ≤ a → u.byte a = s.byte a := by
  have may : ¬(s.frameReserved (opnum r 1) = true ∨ 2 ≤ (s.frameTenants (opnum r 1)).length) := by
    rw [mine]
    simp only [Bool.false_eq_true, false_or]
    omega
  have other : ¬ natsGet s.xl.frames (opnum r 1) = opnum r 2 + 1 := fun same => new (scheme_of_recorded same)
  let t : State := { s with xl := { s.xl with frames := natsPut s.xl.frames (opnum r 1) (opnum r 2 + 1) } }
  refine answers_command (u := t.openRange (opnum r 1 * Config.frameBytes) Config.frameBytes) rfl head (isCode_of_head head) ?_ ⟨?_, fun a ha => byte_openRange_out t ha⟩
  · simp only [cmdScheme, if_neg (cmdScheme_operands frame kind), if_neg may, if_neg other]
    rfl
  · exact scheme_of_recorded (natsGet_natsPut_pos s.xl.frames _ (Nat.succ_pos _))

end

end Sys2Proof.Machine

/-! SUPPORT. The fields of a word written field by field. -/

namespace Sys2Proof.Machine

/-- The value of a list of fields, each a shift and a value. -/
def fieldSum (l : List (Nat × Nat)) : Nat := (l.map fun x => x.2 * 2 ^ x.1).sum

/-- Fields that lie below bit `n`, from the highest to the lowest, none over another. -/
def FieldsBelow : Nat → List (Nat × Nat) → Prop
  | _, [] => True
  | n, x :: r => x.1 ≤ n ∧ x.2 < 2 ^ (n - x.1) ∧ FieldsBelow x.1 r

theorem wordOf_eq (l : List (Nat × Nat)) : wordOf l = BitVec.ofNat 64 (fieldSum l) := by
  have from_ (a : Nat) : l.foldl (fun a x => a + x.2 * 2 ^ x.1) a = a + fieldSum l := by
    induction l generalizing a with
    | nil => rfl
    | cons x r ih => rw [List.foldl_cons, ih, fieldSum, fieldSum, List.map_cons, List.sum_cons, Nat.add_assoc]
  rw [wordOf, from_, Nat.zero_add]

theorem fieldSum_lt {n : Nat} {l : List (Nat × Nat)} (h : FieldsBelow n l) : fieldSum l < 2 ^ n := by
  induction l generalizing n with
  | nil => exact Nat.two_pow_pos n
  | cons x r ih =>
    obtain ⟨place, fits, rest⟩ := h
    have rest := ih rest
    have whole : 2 ^ (n - x.1) * 2 ^ x.1 = 2 ^ n := by rw [← pow_add, Nat.sub_add_cancel place]
    have here := Nat.mul_le_mul_right (2 ^ x.1) fits
    rw [Nat.succ_mul, whole] at here
    rw [fieldSum, List.map_cons, List.sum_cons]
    exact Nat.lt_of_lt_of_le (Nat.add_lt_add_left rest _) here

theorem dvd_fieldSum {n : Nat} {l : List (Nat × Nat)} (h : ∀ x ∈ l, n ≤ x.1) : 2 ^ n ∣ fieldSum l :=
  List.dvd_sum fun v hv => by
    obtain ⟨x, hx, rfl⟩ := List.mem_map.1 hv
    exact Dvd.dvd.mul_left (pow_dvd_pow 2 (h x hx)) _

/-- A field of a word made of fields: those above it and those below it do not reach it. -/
theorem fld_wordOf (pre : List (Nat × Nat)) {post : List (Nat × Nat)} {hi lo v : Nat} (top : hi < 64) (order : lo ≤ hi) (above : ∀ x ∈ pre, hi + 1 ≤ x.1) (fits : v < 2 ^ (hi + 1 - lo))
    (below : FieldsBelow lo post) : fld (wordOf (pre ++ (lo, v) :: post)) hi lo = v := by
  obtain ⟨k, hk⟩ := dvd_fieldSum above
  have sum : fieldSum (pre ++ (lo, v) :: post) = fieldSum post + 2 ^ lo * (v + 2 ^ (hi + 1 - lo) * k) := by
    rw [fieldSum, List.map_append, List.sum_append, List.map_cons, List.sum_cons, ← fieldSum, ← fieldSum, hk,
      show 2 ^ (hi + 1) = 2 ^ lo * 2 ^ (hi + 1 - lo) by rw [← pow_add]; congr 1; omega]
    ring
  have word : 2 ^ 64 = 2 ^ lo * (2 ^ (hi + 1 - lo) * 2 ^ (63 - hi)) := by rw [← pow_add, ← pow_add]; congr 1; omega
  rw [wordOf_eq, fld, natBits, Nat.shiftRight_eq_div_pow, BitVec.toNat_ofNat, word, Nat.mod_mul_right_div_self, sum, Nat.add_mul_div_left _ _ (Nat.two_pow_pos lo),
    Nat.div_eq_of_lt (fieldSum_lt below), Nat.zero_add, Nat.mod_mul_right_mod, Nat.add_mul_mod_self_left, Nat.mod_eq_of_lt fits]

end Sys2Proof.Machine

/-! SUPPORT. Commands on flash regions and their anchors (R89, R97, R128). -/

namespace Sys2Proof.Machine

/-! ### Regions (R97) -/

/-- A region that stays in one stack is written whole but for its reserved bits. -/
theorem reg_regionWrite {s : State} {n : Nat} {v : Word} (fits : (fld v 49 24 + fld v 23 0 - 1) / 16777216 = fld v 49 24 / 16777216) (o : Nat) :
    (s.regionWrite n v).reg o = (s.setReg (offRegion n) (setFld v 55 50 0)).reg o := by
  unfold State.regionWrite
  dsimp only
  rw [if_neg fun h => h.2 fits]
  split <;> rfl

theorem offRegionEnd_ne {n k : Nat} (h : n < 16384) : offRegion n ≠ offRegionEnd k := by
  rw [offRegion, offRegionEnd]
  omega

/-- The word of a region that is granted. -/
def grantWord (t u n : Nat) : Word := wordOf [(62, 1), (56, t), (24, u), (0, n)]

theorem fields_grantWord {t u n : Nat} (ht : t < 64) (hu : u < 2 ^ 26) (hn : n < 2 ^ 24) :
    fld (grantWord t u n) 63 62 = 1 ∧ fld (grantWord t u n) 61 56 = t ∧ fld (grantWord t u n) 49 24 = u ∧ fld (grantWord t u n) 23 0 = n := by
  have first : FieldsBelow 24 [(0, n)] := ⟨by omega, by simpa using hn, trivial⟩
  have second : FieldsBelow 56 [(24, u), (0, n)] := ⟨by omega, by dsimp only; omega, first⟩
  refine ⟨fld_wordOf [] (by omega) (by omega) (by simp) (by omega) ⟨by omega, by dsimp only; omega, second⟩, fld_wordOf [(62, 1)] (by omega) (by omega) (by simp) (by omega) second,
    fld_wordOf [(62, 1), (56, t)] (by omega) (by omega) (by simp) (by omega) first, fld_wordOf [(62, 1), (56, t), (24, u)] (by omega) (by omega) (by simp) (by omega) trivial⟩

theorem exec_cmdGrantRegion_grants {s : State} {r : List Word} {i : Nat} (head : Head s 4 r) (stack : opnum r 1 < 4) (first : opnum r 2 / 16777216 = opnum r 1) (some : 0 < opnum r 3)
    (last : (opnum r 2 + opnum r 3 - 1) / 16777216 = opnum r 1) (few : opnum r 3 < 16777216) (clear : s.unitsTaken (opnum r 2) (opnum r 3) = false) (hi : i < 16384)
    (free : s.regionState i = 0) (lowest : ∀ j < i, s.regionState j ≠ 0) :
    Answers .cmdGrantRegion s r i 0 fun u => u.regionState i = 1 ∧ u.regionTenant i = cmdTenant r ∧ fld (u.reg (offRegion i)) 49 24 = opnum r 2 ∧
      fld (u.reg (offRegion i)) 23 0 = opnum r 3 ∧ u.sealedEnd i = 0 := by
  obtain ⟨state, tenant, unit, units⟩ := fields_grantWord (t := cmdTenant r) (u := opnum r 2) (n := opnum r 3) head.2.2 (by omega) few
  have find : (List.range 16384).find? (fun i => s.regionState i == 0) = .some i := find?_lowest hi (by simp [free]) fun j hj => by simpa using lowest j hj
  have word : ((s.regionWrite i (grantWord (cmdTenant r) (opnum r 2) (opnum r 3))).setSealed i 0).reg (offRegion i) = setFld (grantWord (cmdTenant r) (opnum r 2) (opnum r 3)) 55 50 0 := by
    rw [State.setSealed, reg_setReg_ne _ _ (offRegionEnd_ne hi), reg_regionWrite (by rw [unit, units, last, first]), reg_setReg_self]
  refine answers_command rfl head (isCode_of_head head) (u := (s.regionWrite i (grantWord (cmdTenant r) (opnum r 2) (opnum r 3))).setSealed i 0) ?_ ⟨?_, ?_, ?_, ?_, ?_⟩
  · rw [cmdGrant, if_neg (by omega), if_neg (by simp only [clear, Bool.false_eq_true, or_false]; omega)]
    simp only [find]
    rfl
  · rw [State.regionState, word, fld_setFld_of_disjoint _ _ (by omega) (by omega) (by omega), state]
  · rw [State.regionTenant, word, fld_setFld_of_disjoint _ _ (by omega) (by omega) (by omega), tenant]
  · rw [word, fld_setFld_of_disjoint _ _ (by omega) (by omega) (by omega), unit]
  · rw [word, fld_setFld_of_disjoint _ _ (by omega) (by omega) (by omega), units]
  · rw [sealedEnd_setSealed_self, Nat.zero_mod]

section
variable {s : State} {r : List Word} (number : opnum r 1 < 16384) (held : s.regionHeld r (opnum r 1) = true)
  (fits : (fld (s.reg (offRegion (opnum r 1))) 49 24 + fld (s.reg (offRegion (opnum r 1))) 23 0 - 1) / 16777216 = fld (s.reg (offRegion (opnum r 1))) 49 24 / 16777216)
include number

include fits in
omit number in
/-- A region's own word with a new state is written to its register alone. -/
theorem regionWrite_newState {v : Nat} (hv : v < 4) : let u := s.regionWrite (opnum r 1) (setFld (s.reg (offRegion (opnum r 1))) 63 62 v)
    u.regionState (opnum r 1) = v ∧ u.regionTenant (opnum r 1) = s.regionTenant (opnum r 1) ∧ ∀ o, o ≠ offRegion (opnum r 1) → u.reg o = s.reg o := by
  have keep (hi lo : Nat) (below : hi < 62) (w : Word) : fld (setFld w 63 62 v) hi lo = fld w hi lo := fld_setFld_of_disjoint w v (by omega) (by omega) (by omega)
  have reg := reg_regionWrite (s := s) (n := opnum r 1) (v := setFld (s.reg (offRegion (opnum r 1))) 63 62 v) (by rw [keep _ _ (by omega), keep _ _ (by omega), fits])
  refine ⟨?_, ?_, fun o ho => by rw [reg, reg_setReg_ne _ _ ho]⟩
  · rw [State.regionState, reg, reg_setReg_self, fld_setFld_of_disjoint _ _ (by omega) (by omega) (by omega), fld_setFld_self _ _ (by omega) (by omega)]
    exact Nat.mod_eq_of_lt hv
  · rw [State.regionTenant, reg, reg_setReg_self, fld_setFld_of_disjoint _ _ (by omega) (by omega) (by omega), keep _ _ (by omega), State.regionTenant]

include held fits in
theorem exec_cmdFreeRegion_frees (head : Head s 5 r) (unmapped : s.regionAnchored (opnum r 1) = false) (shut : (s.reg (offRegionEnd (opnum r 1))).getLsbD 63 = false) :
    Answers .cmdFreeRegion s r 0 0 fun u => u.regionState (opnum r 1) = 3 ∧ ∀ o, o ≠ offRegion (opnum r 1) → u.reg o = s.reg o := by
  obtain ⟨state, -, rest⟩ := regionWrite_newState fits (v := 3) (by omega)
  refine answers_command rfl head (isCode_of_head head) ?_ ⟨state, rest⟩
  rw [cmdFree, if_neg (by omega), if_neg (by simp only [held, unmapped, shut, Bool.not_true, Bool.or_self, Bool.false_eq_true, not_false_eq_true])]

/-- An anchored region is not freed. -/
theorem exec_cmdFreeRegion_anchored (head : Head s 5 r) (mapped : s.regionAnchored (opnum r 1) = true) : Answers .cmdFreeRegion s r 0 3 fun u => u = s := by
  refine answers_command rfl head (isCode_of_head head) ?_ rfl
  rw [cmdFree, if_neg (by omega), if_pos (by simp [mapped])]
  rfl

include held fits in
theorem exec_cmdSetRegionReadOnly_sets (head : Head s 6 r) : Answers .cmdSetRegionReadOnly s r 0 0 fun u =>
    u.regionState (opnum r 1) = 2 ∧ u.regionTenant (opnum r 1) = s.regionTenant (opnum r 1) ∧ ∀ o, o ≠ offRegion (opnum r 1) → u.reg o = s.reg o := by
  refine answers_command rfl head (isCode_of_head head) ?_ (regionWrite_newState fits (v := 2) (by omega))
  rw [cmdReadOnly, if_neg (by omega), if_neg (by simp [held])]

end

/-! ### Anchors (R89) -/

/-- A flash leaf whose units lie in regions of the command's tenant, and under no anchor yet, becomes their anchor. -/
theorem exec_cmdAnchorFlashLeaf_anchors {s : State} {r : List Word} {size : Nat} (head : Head s 7 r) (is : opnum r 2 = size) (one : 1 ≤ size) (three : size ≤ 3) (word : opnum r 1 % 8 = 0)
    (mem : (inHbm (opnum r 1) || inLp (opnum r 1)) = true) (leaf : s.anchorOk size (s.rd64 (opnum r 1)) = true) {u0 n : Nat}
    (hu : u0 = unitOf (leafBase (size - 1) (s.rd64 (opnum r 1)) * 4096)) (hn : n = leafPages (size - 1) (s.rd64 (opnum r 1)) / 16)
    (mine : ∀ i < n, ∃ k ∈ s.regionNums, s.regionHeld r k = true ∧ fld (s.reg (offRegion k)) 49 24 ≤ u0 + i ∧ u0 + i < fld (s.reg (offRegion k)) 49 24 + fld (s.reg (offRegion k)) 23 0)
    (apart : ∀ a ∈ s.flash.anchors, u0 + n ≤ a.1 ∨ a.1 + a.2.1 ≤ u0) :
    Answers .cmdAnchorFlashLeaf s r 0 0 fun u => u.flash.anchors = s.flash.anchors ++ [(u0, n, if size = 1 then opnum r 1 / 128 * 128 else opnum r 1, size)] := by
  have none : s.flash.anchors.filter (fun a => decide (a.1 < u0 + n ∧ u0 < a.1 + a.2.1)) = [] := List.filter_eq_nil_iff.2 fun a ha => by
    have := apart a ha
    simp only [decide_eq_true_eq]
    omega
  have owned : ((List.range n).all fun i => (s.regionNums.filter (s.regionHeld r)).any fun k =>
      decide (fld (s.reg (offRegion k)) 49 24 ≤ u0 + i ∧ u0 + i < fld (s.reg (offRegion k)) 49 24 + fld (s.reg (offRegion k)) 23 0)) = true :=
    List.all_eq_true.2 fun i hi => by
      obtain ⟨k, there, holds, lo, up⟩ := mine i (List.mem_range.1 hi)
      exact List.any_eq_true.2 ⟨k, List.mem_filter.2 ⟨there, holds⟩, decide_eq_true ⟨lo, up⟩⟩
  refine answers_command (u := s.setFlash { s.flash with anchors := s.flash.anchors ++ [(u0, n, if size = 1 then opnum r 1 / 128 * 128 else opnum r 1, size)] })
    rfl head (isCode_of_head head) ?_ rfl
  have good : ¬(size = 0 ∨ 3 < size ∨ opnum r 1 % 8 ≠ 0 ∨ (!(inHbm (opnum r 1) || inLp (opnum r 1))) = true ∨ (!s.anchorOk size (s.rd64 (opnum r 1))) = true) := by
    simp only [mem, leaf, Bool.not_true, Bool.false_eq_true, or_false]
    omega
  rw [cmdAnchor]
  simp only [is, if_neg good, ← hu, ← hn, none, owned, List.any_nil, List.isEmpty_nil, Bool.not_true, Bool.or_self, Bool.false_eq_true, if_false, if_true]

end Sys2Proof.Machine

/-! SUPPORT. Commands on profiles, quotas, firmware and streams (R50, R62, R75, R109, R128 to R130). -/

namespace Sys2Proof.Machine

/-! ### Profiles and quotas (R50, R75) -/

theorem hubWrite_profile {s : State} {o : Nat} (v : Word) (lo : 0x4000 ≤ o) (hi : o < 0x6000) : s.hubWrite true o v = s.putFields o v [(57, 11)] := by
  simp (disch := omega) only [State.hubWrite, if_neg, if_pos, Bool.not_true, Bool.false_eq_true, if_false]

theorem exec_cmdWriteCodeProfile_writes {s : State} {r : List Word} (head : Head s 8 r) (number : opnum r 1 < 16) {o : Nat} (ho : o = 0x4000 + 8 * (16 * cmdTenant r + opnum r 1)) :
    Answers .cmdWriteCodeProfile s r 0 0 fun u => fld (u.reg o) 57 11 = fld (recW r 2) 57 11 ∧ ∀ q, q ≠ o → u.reg q = s.reg q := by
  have tenant := head.2.2
  have write := hubWrite_profile (s := s) (o := o) (recW r 2) (by omega) (by omega)
  refine answers_command (u := s.putFields o (recW r 2) [(57, 11)]) rfl head (isCode_of_head head) ?_ ⟨?_, fun q hq => reg_putFields_ne s _ _ hq⟩
  · rw [cmdProfile, if_neg (by omega), ← ho, write]
  · rw [reg_putFields_self, fld_take_self _ _ (by omega) (by omega)]

/-- A grove's walker takes a tenant's walk quota. -/
def State.setWalkQuota (t n : Nat) (u : State) (g : Nat) : State := u.setReg (offWalk g t) (setFld (u.reg (offWalk g t)) 7 0 n)

theorem walkQuota_setWalkQuota {t g n : Nat} (u : State) (hn : n < 256) : fld ((u.setWalkQuota t n g).reg (offWalk g t)) 7 0 = n := by
  rw [State.setWalkQuota, reg_setReg_self, fld_setFld_self _ _ (by omega) (by omega)]
  exact Nat.mod_eq_of_lt hn

theorem walkQuota_foldl {t g n : Nat} (hn : n < 256) {l : List Nat} (hg : g ∈ l) (s : State) : fld ((l.foldl (State.setWalkQuota t n) s).reg (offWalk g t)) 7 0 = n := by
  refine foldl_reaches (f := State.setWalkQuota t n) (x := g) (Q := fun _ => True) (P := fun u => fld (u.reg (offWalk g t)) 7 0 = n) (fun _ _ _ => trivial) (fun u y hu => ?_)
    (fun u _ => walkQuota_setWalkQuota u hn) hg trivial
  by_cases same : y = g
  · rw [same]
    exact walkQuota_setWalkQuota u hn
  · rw [State.setWalkQuota, reg_setReg_ne _ _ (by rw [offWalk, offWalk]; omega), hu]

theorem reg_foldl_setWalkQuota_low {t o : Nat} (n : Nat) (ho : o < 0x10000000) (l : List Nat) (s : State) : (l.foldl (State.setWalkQuota t n) s).reg o = s.reg o :=
  foldl_keeps _ (fun u => u.reg o) (fun u g => reg_setReg_ne u _ (by rw [offWalk]; omega)) l s

theorem exec_cmdSetQuotas_sets {s : State} {r : List Word} (head : Head s 9 r) (records : opnum r 1 ≤ 512) (some : 0 < opnum r 2) (walks : opnum r 2 ≤ 128) :
    Answers .cmdSetQuotas s r 0 0 fun u => fld (u.reg (0x6000 + 8 * cmdTenant r)) 63 54 = opnum r 1 ∧ ∀ g < 12, fld (u.reg (0x10000400 + 0x100000 * g + 8 * cmdTenant r)) 7 0 = opnum r 2 := by
  have tenant := head.2.2
  let t := s.setReg (0x6000 + 8 * cmdTenant r) (setFld (s.reg (0x6000 + 8 * cmdTenant r)) 63 54 (opnum r 1))
  refine answers_command (u := (List.range Config.groves).foldl (State.setWalkQuota (cmdTenant r) (opnum r 2)) t) rfl head (isCode_of_head head) ?_ ⟨?_, fun g hg => walkQuota_foldl (by omega) (List.mem_range.2 hg) t⟩
  · rw [cmdQuotas, if_neg (by omega)]
    rfl
  · rw [reg_foldl_setWalkQuota_low _ (by omega), reg_setReg_self, fld_setFld_self _ _ (by omega) (by omega)]
    exact Nat.mod_eq_of_lt (by omega)

/-! ### Firmware (R129, R130) -/

/-- A target whose image is being verified or handed over takes no other. -/
theorem exec_cmdLoadFirmwareImage_busy {s : State} {r : List Word} (head : Head s 10 r) {im : FwImage} (him : im = s.header (opnum r 1) (some (opnum r 2))) (one : 1 ≤ im.target)
    (three : im.target ≤ 3) (busy : fld (s.reg (8 + 8 * im.target)) 7 5 ∈ [1, 2, 4] ∨ (mapGet s.cp.swaps im.target).isSome = true) :
    Answers .cmdLoadFirmwareImage s r 0 4 fun u => u = s := by
  refine answers_command (u := s) rfl head (isCode_of_head head) ?_ rfl
  rw [cmdLoad]
  dsimp only
  rw [← him, if_neg (by omega), if_pos (by simpa only [offFwCtl_eq one, Bool.or_eq_true, List.contains_iff_mem] using busy)]
  rfl

/-- The state with an image's bytes and header in the inactive slot of its target. -/
def State.copiedImage (s : State) (pa len : Nat) (im : FwImage) : State :=
  (s.setCp { s.cp with images := mapPut s.cp.images (2 * im.target + (1 - s.active im.target)) im }).setBytes (slotAt im.target (1 - s.active im.target))
    (bytesFrom s.byte pa (min len slotBytes))

/-- The state with an image in the inactive slot and its verification begun. -/
def State.loaded (s : State) (pa len : Nat) (im : FwImage) : State :=
  let t := s.copiedImage pa len im
  (t.setReg (offFwCtl im.target) (setFld (t.reg (offFwCtl im.target)) 4 4 0)).fwState im.target 2

section
variable (s : State) (pa len : Nat) (im : FwImage)

theorem copiedImage_frame : s.copiedImage pa len im = { s with cp := (s.copiedImage pa len im).cp, mem := (s.copiedImage pa len im).mem, memOpen := (s.copiedImage pa len im).memOpen } := by
  rw [State.copiedImage, setBytes_frame]
  rfl

theorem active_loaded : (s.loaded pa len im).active im.target = s.active im.target := by
  rw [State.loaded, active_fwState, State.active, reg_setReg_self, fld_setFld_of_disjoint _ _ (by omega) (by omega) (by omega), copiedImage_frame]
  rfl

theorem image_loaded : (s.loaded pa len im).image im.target (1 - s.active im.target) = im := by
  have images : (s.copiedImage pa len im).cp.images = mapPut s.cp.images (2 * im.target + (1 - s.active im.target)) im := by
    rw [State.copiedImage, setBytes_frame]
    rfl
  have images : (s.loaded pa len im).cp.images = mapPut s.cp.images (2 * im.target + (1 - s.active im.target)) im := images
  rw [State.image, images, mapGet_mapPut_self]
  rfl

variable {s pa len im} in
theorem byte_loaded (wf : memWf s.mem = true) {j : Nat} (hj : j < len) (fits : j < slotBytes) :
    (s.loaded pa len im).byte (slotAt im.target (1 - s.active im.target) + j) = s.byte (pa + j) := by
  have length : j < (bytesFrom s.byte pa (min len slotBytes)).length := by
    rw [bytesFrom_eq, List.length_map, List.length_range]
    omega
  have copied := byte_setBytes_in (s := s.setCp { s.cp with images := mapPut s.cp.images (2 * im.target + (1 - s.active im.target)) im })
    (slotAt im.target (1 - s.active im.target)) wf length
  refine (byte_congr (s := s.copiedImage pa len im) rfl rfl _).trans (copied.trans ?_)
  simp only [bytesFrom_eq, List.getElem_map, List.getElem_range]

end

theorem exec_cmdLoadFirmwareImage_loads {s : State} {r : List Word} (head : Head s 10 r) {im : FwImage} (him : im = s.header (opnum r 1) (some (opnum r 2))) (one : 1 ≤ im.target)
    (three : im.target ≤ 3) (idle : fld (s.reg (8 + 8 * im.target)) 7 5 ∉ [1, 2, 4]) (noSwap : mapGet s.cp.swaps im.target = none) (wf : memWf s.mem = true) :
    Answers .cmdLoadFirmwareImage s r 0 0 fun u => fld (u.reg (8 + 8 * im.target)) 7 5 = 2 ∧ u.active im.target = s.active im.target ∧
      u.image im.target (1 - s.active im.target) = im ∧
        ∀ j < opnum r 2, j < slotBytes → u.byte (slotAt im.target (1 - s.active im.target) + j) = s.byte (opnum r 1 + j) := by
  refine answers_command (u := s.loaded (opnum r 1) (opnum r 2) im) rfl head (isCode_of_head head) ?_
    ⟨?_, active_loaded s _ _ im, image_loaded s _ _ im, fun j hj fits => byte_loaded wf hj fits⟩
  · have free : ¬(([1, 2, 4].contains (fld (s.reg (offFwCtl im.target)) 7 5) || (mapGet s.cp.swaps im.target).isSome) = true) := by
      simpa only [offFwCtl_eq one, noSwap, Option.isSome_none, Bool.or_false, List.contains_iff_mem] using idle
    rw [cmdLoad]
    dsimp only
    rw [← him, if_neg (by omega), if_neg free]
    rfl
  · rw [← offFwCtl_eq one]
    exact state_fwState _ (by omega)

/-- The floor of a target rises to the running image's least version, and never falls. -/
theorem exec_cmdCommitFirmware_raises {s : State} {r : List Word} (head : Head s 11 r) (one : 1 ≤ opnum r 1) (three : opnum r 1 ≤ 3) {v : Nat}
    (hv : v = (s.image (opnum r 1) (s.active (opnum r 1))).minVer) (word : v < 2 ^ 64) :
    Answers .cmdCommitFirmware s r 0 0 fun u => (u.reg (0x28 + 8 * opnum r 1)).toNat = max (s.reg (0x28 + 8 * opnum r 1)).toNat v := by
  have place : offFwFloor (opnum r 1) = 0x28 + 8 * opnum r 1 := by
    rw [offFwFloor]
    omega
  refine answers_command (u := if (s.reg (0x28 + 8 * opnum r 1)).toNat < v then s.setReg (0x28 + 8 * opnum r 1) (BitVec.ofNat 64 v) else s) rfl head (isCode_of_head head) ?_ ?_
  · rw [cmdCommit]
    dsimp only
    rw [if_neg (by omega), ← hv, place]
  · split
    · next up => rw [reg_setReg_self, BitVec.toNat_ofNat, Nat.mod_eq_of_lt word, Nat.max_eq_right up.le]
    · next down => rw [Nat.max_eq_left (Nat.le_of_not_lt down)]

/-! ### Streams (R109) -/

theorem refuse_flash (s : State) (k : BKey) (pid h status : Nat) : (s.refuse k pid h status).flash = s.flash := by
  unfold State.refuse State.token
  rw [onBundle_frame]
  split <;> rfl

theorem reg_closeSlot_self (s : State) (h : Nat) : (s.closeSlot h).reg (offStream h) = setFld (s.reg (offStream h)) 63 62 0 := by
  rw [State.closeSlot, reg_setFlash, reg_setReg_self]

/-- A slot that closes has no stream, and its state is 0. -/
theorem closeSlot_spec {s : State} (h : Nat) (keys : keysFrom 0 s.flash.streams = true) : (s.closeSlot h).fstream h = none ∧ (s.closeSlot h).streamState h = 0 := by
  refine ⟨mapGet_mapDel_self h keys, ?_⟩
  rw [State.streamState, reg_closeSlot_self, fld_setFld_self _ _ (by omega) (by omega), Nat.zero_mod]

/-- What a region takes back when its stream ends leaves the streams. -/
theorem streams_settled (s : State) (f : FStream) (n e : Nat) : (((s.dropExtents f n e).dropAbove n e).setSealed n e).flash.streams = s.flash.streams := rfl

theorem abortStream_spec {s : State} {f : FStream} (keys : keysFrom 0 s.flash.streams = true) : (s.abortStream f).fstream f.handle = none ∧ (s.abortStream f).streamState f.handle = 0 := by
  unfold State.abortStream
  refine closeSlot_spec f.handle ?_
  rw [streams_settled]
  have kept (l : List (BKey × Nat)) := foldl_keeps (fun (t : State) k => t.refuse k.1 k.2 f.handle 6) (fun t => t.flash.streams) (fun t k => by rw [refuse_flash]) l s
  rw [kept, keys]

theorem exec_cmdAbortStream_aborts {s : State} {r : List Word} {f : FStream} (head : Head s 12 r) (number : opnum r 1 < 256) (live : s.fstream (opnum r 1) = some f)
    (handle : f.handle = opnum r 1) (mine : s.streamTenant (opnum r 1) = cmdTenant r) (keys : keysFrom 0 s.flash.streams = true) :
    Answers .cmdAbortStream s r 0 0 fun u => u.fstream (opnum r 1) = none ∧ u.streamState (opnum r 1) = 0 := by
  refine answers_command (u := s.abortStream f) rfl head (isCode_of_head head) ?_ (handle ▸ abortStream_spec keys)
  simp only [cmdAbort, if_neg (show ¬ 256 ≤ opnum r 1 by omega), live, if_neg (not_not_intro mine)]

end Sys2Proof.Machine

/-! SUPPORT. Commands that reset engines and the device, and commands on communicators (R128, R132, R265, R266). -/

namespace Sys2Proof.Machine

/-! ### An engine's reset (R132, R388) -/

/-- Every crew stands for one that was there, on its core and with its queues of copies. -/
def CrewsFrom (s t : State) : Prop := ∀ c' ∈ t.crews, ∃ c ∈ s.crews, c.key = c'.key ∧ c.core = c'.core ∧ c.copies = c'.copies

theorem CrewsFrom.of_eq {s t : State} (h : t.crews = s.crews) : CrewsFrom s t := fun c hc => ⟨c, h ▸ hc, rfl, rfl, rfl⟩

theorem CrewsFrom.trans {s t u : State} (st : CrewsFrom s t) (tu : CrewsFrom t u) : CrewsFrom s u := fun c'' hc'' => by
  obtain ⟨c', hc', key', core', copies'⟩ := tu c'' hc''
  obtain ⟨c, hc, key, core, copies⟩ := st c' hc'
  exact ⟨c, hc, key.trans key', core.trans core', copies.trans copies'⟩

theorem CrewsFrom.foldl {α : Type} {f : State → α → State} (step : ∀ s x, CrewsFrom s (f s x)) (l : List α) (s : State) : CrewsFrom s (l.foldl f s) :=
  List.foldlRecOn l f (CrewsFrom.of_eq rfl) fun t ht x _ => ht.trans (step t x)

theorem mem_putCrew {s : State} {c d : Crew} (h : d ∈ (s.putCrew c).crews) : d = c ∨ d ∈ s.crews ∧ d.key ≠ c.key := by
  obtain ⟨x, hx, rfl⟩ := List.mem_map.1 h
  split
  · exact .inl rfl
  · next other => exact .inr ⟨hx, by simpa using other⟩

theorem CrewsFrom.putCrew {s : State} {c d : Crew} (hc : c ∈ s.crews) (key : c.key = d.key) (core : c.core = d.core) (copies : c.copies = d.copies) : CrewsFrom s (s.putCrew d) := fun x hx => by
  obtain rfl | ⟨there, -⟩ := mem_putCrew hx
  · exact ⟨c, hc, key, core, copies⟩
  · exact ⟨x, there, rfl, rfl, rfl⟩

theorem CrewsFrom.onCrew {s : State} {k : CKey} {f : Crew → Crew} (key : ∀ c, c.key = (f c).key) (core : ∀ c, c.core = (f c).core) (copies : ∀ c, c.copies = (f c).copies) :
    CrewsFrom s (s.onCrew k f) := by
  unfold State.onCrew
  split
  · next c hc => exact .putCrew (List.mem_of_find?_eq_some hc) (key c) (core c) (copies c)
  · exact .of_eq rfl

/-- What a stopped copy leaves unknown in a crew's window or vault is all it changes of a crew. -/
theorem crewsFrom_openSpan (s : State) (e : Eng) (x : Span) : CrewsFrom s (s.openSpan e x) := by
  unfold State.openSpan
  dsimp only
  split
  · exact .of_eq rfl
  · exact CrewsFrom.trans (.of_eq rfl) (.onCrew (fun _ => rfl) (fun _ => rfl) fun _ => rfl)
  · refine CrewsFrom.trans (.of_eq rfl) (.foldl (fun t a => ?_) _ _)
    split
    · next c hc => exact .putCrew (List.mem_of_find?_eq_some hc) rfl rfl rfl
    · exact .of_eq rfl

theorem crewsFrom_settleCopy (s : State) (e : Eng) (m : CopyCmd) (done : Nat) : CrewsFrom s (s.settleCopy e m done) := by
  unfold State.settleCopy
  split
  · exact .of_eq rfl
  · exact .foldl (fun t x => crewsFrom_openSpan t e x) _ _

theorem token_crews (s : State) (k : BKey) (pid : Nat) (v : Word) : (s.token k pid v).crews = s.crews := by
  rw [State.token, onBundle_frame]

theorem crewsFrom_endCopies (s : State) (e : Eng) (l : List CopyCmd) : CrewsFrom s (s.endCopies e l) :=
  .foldl (fun t m => (crewsFrom_settleCopy t e m m.done).trans (.of_eq (token_crews _ _ _ _))) l s

/-- A crew with its queues of copies empty. -/
def Crew.idle (c : Crew) : Crew := { c with copies := c.copies.map fun _ => [] }

theorem copies_idle (c : Crew) : ∀ q ∈ c.idle.copies, q = [] := fun q hq => by
  obtain ⟨_, -, rfl⟩ := List.mem_map.1 hq
  rfl

theorem crewsFrom_dropCopies (s : State) (c : Crew) : CrewsFrom (s.putCrew c.idle) (s.dropCopies c) := by
  unfold State.dropCopies
  split
  · exact crewsFrom_endCopies _ _ _
  · exact .of_eq rfl

/-- Every crew of a key has no copy in its queues. -/
def NoCopies (k : CKey) (s : State) : Prop := ∀ c ∈ s.crews, c.key = k → ∀ q ∈ c.copies, q = []

theorem noCopies_dropCopies {s : State} {k : CKey} {c : Crew} (h : c.key = k ∨ NoCopies k s) : NoCopies k (s.dropCopies c) := fun d hd key => by
  obtain ⟨x, hx, key', -, copies⟩ := crewsFrom_dropCopies s c d hd
  rw [← copies]
  obtain rfl | ⟨there, apart⟩ := mem_putCrew hx
  · exact copies_idle c
  · obtain rfl | none := h
    · exact absurd (key'.trans key) apart
    · exact none x there (key'.trans key)

/-- The copy engine of a grove is reset: no crew on the grove has a copy in its queues. -/
theorem copies_engineReset {s : State} {g : Nat} : ∀ c ∈ (s.engineReset (.copy g)).crews, groveOf c.core = g → ∀ q ∈ c.copies, q = [] := fun d hd grove => by
  let l := s.crews.filter fun c => groveOf c.core == g
  have origin : ∀ d ∈ (l.foldl State.dropCopies s).crews, ∃ c ∈ s.crews, c.key = d.key ∧ c.core = d.core :=
    List.foldlRecOn l State.dropCopies (motive := fun t => ∀ d ∈ t.crews, ∃ c ∈ s.crews, c.key = d.key ∧ c.core = d.core) (fun d hd => ⟨d, hd, rfl, rfl⟩) fun t ht c hc d hd => by
      obtain ⟨x, hx, key, core, -⟩ := crewsFrom_dropCopies t c d hd
      obtain rfl | ⟨there, -⟩ := mem_putCrew hx
      · exact ⟨c, (List.mem_filter.1 hc).1, key, core⟩
      · obtain ⟨y, hy, key', core'⟩ := ht x there
        exact ⟨y, hy, key'.trans key, core'.trans core⟩
  obtain ⟨c, hc, key, core⟩ := origin d hd
  have none : NoCopies c.key (l.foldl State.dropCopies s) :=
    foldl_reaches (Q := fun _ => True) (fun _ _ _ => trivial) (fun t y ht => noCopies_dropCopies (.inr ht)) (fun t _ => noCopies_dropCopies (.inl rfl))
      (List.mem_filter.2 ⟨hc, by rw [core, grove, beq_self_eq_true]⟩) trivial
  exact none d hd key.symm

theorem misses_engineReset {s : State} {g : Nat} : ∀ m ∈ (s.engineReset (.walker g)).xl.misses, m.grove = g → m.walking = false := fun m hm grove => by
  obtain ⟨x, -, rfl⟩ := List.mem_map.1 hm
  split
  · rfl
  · next other => exact absurd (by rwa [if_neg other] at grove) other

theorem exec_cmdResetEngine_resets {s : State} {r : List Word} {e : Engine} (head : Head s 13 r) (one : opnum r 1 ≠ 0xFFFF)
    (found : (engines.find? fun e => engineNo e == opnum r 1) = some e) : Answers .cmdResetEngine s r 0 0 fun u =>
      (∀ g, e = .copy g → ∀ c ∈ u.crews, groveOf c.core = g → ∀ q ∈ c.copies, q = []) ∧ (∀ g, e = .walker g → ∀ m ∈ u.xl.misses, m.grove = g → m.walking = false) := by
  refine answers_command (u := s.engineReset e) rfl head ?_ ?_ ⟨fun g he => he ▸ copies_engineReset, fun g he => he ▸ misses_engineReset⟩
  · simp only [isCode_of_head head, Bool.true_and, bne_iff_ne, ne_eq, one, not_false_eq_true]
  · simp only [cmdEngine, found]

/-! ### The device's reset (R132) -/

theorem exec_cmdResetDevice_resets {s : State} {r : List Word} (head : Head s 13 r) (all : opnum r 1 = 0xFFFF) :
    ∃ t, exec .cmdResetDevice s = .next t ∧ t.reg 0x50 = wordOf [(8, 4)] ∧ t.grids = [] ∧ t.crews = [] ∧ t.bundles = [] ∧ t.xl = State.reset.xl ∧ t.clock = 0 := by
  obtain ⟨grids, crews, bundles, -, xl, clock, -, boot, -⟩ := reborn_spec s 4 true
  have code := isCode_of_head head
  refine ⟨s.reborn 4 true, ?_, boot, grids, crews, bundles, xl, clock⟩
  have run : exec .cmdResetDevice s = execCmdResetDevice s := rfl
  rw [run, execCmdResetDevice, head.1]
  simp only [code, all, beq_self_eq_true, Bool.and_self, if_true]

end Sys2Proof.Machine

/-! SUPPORT. Commands on communicators, and commands of no known code (R128, R265, R266). -/

namespace Sys2Proof.Machine

/-- HUB_COMM_n of a communicator that is created. -/
def commWord (t prio bufs prof placed low : Nat) : Word := wordOf [(62, 1), (56, t), (54, prio), (50, bufs), (46, prof), (34, placed), (0, low)]

/-- HUB_COMM_RANK_n of a communicator that is created. -/
def commRankWord (nranks base ranks : Nat) : Word := wordOf [(44, nranks), (24, base), (8, ranks)]

theorem fields_commWord {t prio bufs prof placed low : Nat} (ht : t < 64) (hprio : prio < 4) (hbufs : bufs < 16) (hprof : prof < 16) (hplaced : placed < 2 ^ 12) (hlow : low < 2 ^ 32) :
    let w := commWord t prio bufs prof placed low
    fld w 63 62 = 1 ∧ fld w 61 56 = t ∧ fld w 53 50 = bufs ∧ fld w 45 34 = placed := by
  have b34 : FieldsBelow 34 [(0, low)] := ⟨by omega, by dsimp only; omega, trivial⟩
  have b50 : FieldsBelow 50 [(46, prof), (34, placed), (0, low)] := ⟨by omega, by dsimp only; omega, by dsimp only; omega, by dsimp only; omega, b34⟩
  have b56 : FieldsBelow 56 [(54, prio), (50, bufs), (46, prof), (34, placed), (0, low)] := ⟨by omega, by dsimp only; omega, by dsimp only; omega, by dsimp only; omega, b50⟩
  exact ⟨fld_wordOf [] (by omega) (by omega) (by simp) (by omega) ⟨by omega, by dsimp only; omega, b56⟩, fld_wordOf [(62, 1)] (by omega) (by omega) (by simp) (by omega) b56,
    fld_wordOf [(62, 1), (56, t), (54, prio)] (by omega) (by omega) (by simp) (by omega) b50,
    fld_wordOf [(62, 1), (56, t), (54, prio), (50, bufs), (46, prof)] (by omega) (by omega) (by simp) (by omega) b34⟩

theorem fields_commRankWord {nranks base ranks : Nat} (hn : nranks < 2 ^ 20) (hbase : base < 2 ^ 20) (hranks : ranks < 2 ^ 16) :
    let w := commRankWord nranks base ranks
    fld w 63 44 = nranks ∧ fld w 43 24 = base ∧ fld w 23 8 = ranks := by
  have b24 : FieldsBelow 24 [(8, ranks)] := ⟨by omega, by dsimp only; omega, trivial⟩
  exact ⟨fld_wordOf [] (by omega) (by omega) (by simp) (by omega) ⟨by omega, by dsimp only; omega, b24⟩, fld_wordOf [(44, nranks)] (by omega) (by omega) (by simp) (by omega) b24,
    fld_wordOf [(44, nranks), (24, base)] (by omega) (by omega) (by simp) (by omega) trivial⟩

/-- The state with a communicator's two registers, its member table and the number of its entries. -/
def State.withComm (s : State) (n : Nat) (comm ranks : Word) (l : List Word) : State :=
  let t := ((s.setReg (offComm n) comm).setReg (offCommRank n) ranks).setBytes (memberAt n) (l.flatMap fun x => leBytes 8 x.toNat)
  t.setColl { t.coll with members := natsPut t.coll.members n l.length, nums := t.coll.nums.filter fun x => x.1.1 != n }

section
variable (s : State) {n : Nat} (comm ranks : Word) (l : List Word)

theorem reg_withComm (o : Nat) : (s.withComm n comm ranks l).reg o = ((s.setReg (offComm n) comm).setReg (offCommRank n) ranks).reg o := by
  unfold State.withComm
  dsimp only
  rw [setBytes_frame]
  rfl

theorem comm_withComm : (s.withComm n comm ranks l).reg (offComm n) = comm := by
  rw [reg_withComm, reg_setReg_ne _ _ (by rw [offComm, offCommRank]; omega), reg_setReg_self]

theorem commRank_withComm : (s.withComm n comm ranks l).reg (offCommRank n) = ranks := by rw [reg_withComm, reg_setReg_self]

variable {s l}

theorem members_withComm (some : l ≠ []) : natsGet (s.withComm n comm ranks l).coll.members n = l.length := natsGet_natsPut_pos _ _ (List.length_pos_iff.2 some)

theorem memberTable_withComm (wf : memWf s.mem = true) {i : Nat} (hi : i < l.length) : (s.withComm n comm ranks l).rd64 (memberAt n + 8 * i) = l[i] := by
  refine Eq.trans ?_ (rd64_setBytes_words (s := (s.setReg (offComm n) comm).setReg (offCommRank n) ranks) (memberAt n) l wf hi)
  rw [State.rd64, State.rd64, rdMem_congr fun i _ => ?_]
  rfl

end

/-- A communicator takes the lowest free number, with the registers, the buffers and the member table its command asks for (R266). -/
theorem exec_cmdCreateCommunicator_creates {s : State} {r : List Word} {n : Nat} {me : Word} {l : List Word} (hl : l = (List.range (opnum r 4)).map fun i => s.rd64 (opnum r 3 + 8 * i))
    (head : Head s 16 r) (bufs : 2 ≤ fld (recW r 1) 61 58) (placed : fld (recW r 1) 53 42 ≠ 0) (ranks : 0 < opnum r 2) (few : opnum r 2 ≤ 1048575) (entries : opnum r 4 ≤ 524288)
    (wf : memWf s.mem = true) (hn : n < 256) (free : s.commState n = 0) (lowest : ∀ m < n, s.commState m ≠ 0)
    (room : ∀ k < 12, (fld (recW r 1) 53 42).testBit k = true → fld (recW r 1) 61 58 ≤ s.bufsFree k) (may : (s.profile (cmdTenant r) (fld (recW r 1) 57 54)).getLsbD 0 = true)
    (members : memberOk (opnum r 2) l = true) (mine : l.filter (fun x => memModule x == s.net.self) = [me]) (own : memRanks me ≤ 65535) :
    Answers .cmdCreateCommunicator s r n 0 fun u => u.commState n = 1 ∧ u.commTenant n = cmdTenant r ∧ u.commBufs n = fld (recW r 1) 61 58 ∧ u.commStacks n = fld (recW r 1) 53 42 ∧
      u.nranks n = opnum r 2 ∧ u.rankBase n = memBase me ∧ u.localRanks n = memRanks me ∧ natsGet u.coll.members n = opnum r 4 ∧
      ∀ i < opnum r 4, u.rd64 (memberAt n + 8 * i) = (l[i]?).getD 0 := by
  have count : l.length = opnum r 4 := by rw [hl, List.length_map, List.length_range]
  have some : l ≠ [] := fun none => by rw [none] at mine; cases mine
  obtain ⟨state, tenant, bufsField, placedField⟩ := fields_commWord head.2.2 (fld_lt (recW r 1) 63 62) (fld_lt (recW r 1) 61 58) (fld_lt (recW r 1) 57 54) (fld_lt (recW r 1) 53 42)
    (fld_lt (recW r 1) 31 0)
  obtain ⟨ranksField, baseField, localField⟩ := fields_commRankWord (nranks := opnum r 2) (base := memBase me) (ranks := memRanks me) (by omega) (fld_lt me 44 25) (by omega)
  have find : (List.range 256).find? (fun n => s.commState n == 0) = .some n := find?_lowest hn (by simp [free]) fun m hm => by simpa using lowest m hm
  have fits : (List.range 12).any (fun k => (fld (recW r 1) 53 42).testBit k && decide (s.bufsFree k < fld (recW r 1) 61 58)) = false := List.any_eq_false.2 fun k hk h => by
    simp only [Bool.and_eq_true, decide_eq_true_eq] at h
    have := room k (List.mem_range.1 hk) h.1
    omega
  generalize hw : commWord (cmdTenant r) (fld (recW r 1) 63 62) (fld (recW r 1) 61 58) (fld (recW r 1) 57 54) (fld (recW r 1) 53 42) (fld (recW r 1) 31 0) = w at state tenant bufsField placedField
  generalize hv : commRankWord (opnum r 2) (memBase me) (memRanks me) = v at ranksField baseField localField
  have comm := comm_withComm s (n := n) w v l
  have rank := commRank_withComm s (n := n) w v l
  refine answers_command (u := s.withComm n w v l) rfl head (isCode_of_head head) ?_ ⟨?_, ?_, ?_, ?_, ?_, ?_, ?_, ?_, ?_⟩
  · rw [cmdCreate]
    dsimp only
    rw [if_neg (by omega), ← hl, find]
    dsimp only
    rw [mine, fits, may, members, if_neg (by simp [Nat.not_lt.2 own]), State.withComm, ← hw, ← hv, count]
    rfl
  · rw [State.commState, comm, state]
  · rw [State.commTenant, comm, tenant]
  · rw [State.commBufs, comm, bufsField]
  · rw [State.commStacks, comm, placedField]
  · rw [State.nranks, rank, ranksField]
  · rw [State.rankBase, rank, baseField]
  · rw [State.localRanks, rank, localField]
  · rw [members_withComm w v some, count]
  · intro i hi
    rw [memberTable_withComm w v wf (count.symm ▸ hi), List.getElem?_eq_getElem (count.symm ▸ hi), Option.getD_some]

section
variable {s : State} {r : List Word} (head : Head s 17 r) (number : opnum r 1 < 256) (live : s.commState (opnum r 1) ≠ 0) (mine : s.commTenant (opnum r 1) = cmdTenant r)
include head number live mine

theorem exec_cmdDestroyCommunicator_destroys (quiet : ∀ x ∈ s.coll.recs, x.comm ≠ opnum r 1) : Answers .cmdDestroyCommunicator s r 0 0 fun u => u.commState (opnum r 1) = 0 := by
  have idle : ¬ (s.coll.recs.any fun x => x.comm == opnum r 1) = true := fun h => by
    obtain ⟨x, hx, is⟩ := List.any_eq_true.1 h
    exact quiet x hx (by simpa using is)
  let t := s.setReg (offComm (opnum r 1)) (setFld (s.reg (offComm (opnum r 1))) 63 62 0)
  have reg : (t.setColl { t.coll with members := natsPut t.coll.members (opnum r 1) 0 }).reg (offComm (opnum r 1)) = setFld (s.reg (offComm (opnum r 1))) 63 62 0 := reg_setReg_self s _ _
  refine answers_command (u := t.setColl { t.coll with members := natsPut t.coll.members (opnum r 1) 0 }) rfl head (isCode_of_head head) ?_ ?_
  · rw [cmdDestroy]
    dsimp only
    rw [if_neg (by omega), if_neg (by simp [live, mine]), if_neg idle]
  · rw [State.commState, reg, fld_setFld_self _ _ (by omega) (by omega), Nat.zero_mod]

/-- A communicator with a collective in flight is not destroyed. -/
theorem exec_cmdDestroyCommunicator_busy (busy : ∃ x ∈ s.coll.recs, x.comm = opnum r 1) : Answers .cmdDestroyCommunicator s r 0 4 fun u => u = s := by
  obtain ⟨x, hx, is⟩ := busy
  refine answers_command (u := s) rfl head (isCode_of_head head) ?_ rfl
  rw [cmdDestroy]
  dsimp only
  rw [if_neg (by omega), if_neg (by simp [live, mine]), if_pos (List.any_eq_true.2 ⟨x, hx, by simp [is]⟩)]
  rfl

end

/-- A command of no known code has status 1. -/
theorem exec_cmdUnknownCode_refuses {s : State} {r : List Word} (here : s.cmdHead = some r) (unknown : cmdCode r ∉ cmdCodes) : Answers .cmdUnknownCode s r 0 1 fun u => u = s := by
  refine ⟨s, ?_, rfl⟩
  have none : cmdCodes.contains (cmdCode r) = false := by simpa using unknown
  have run : exec .cmdUnknownCode s = s.command (fun r => !cmdCodes.contains (cmdCode r)) fun _ s => s.no 1 := rfl
  rw [run, State.command, here]
  simp only [none, Bool.not_false, Bool.not_true, Bool.false_eq_true, and_false, if_false]
  rfl

end Sys2Proof.Machine

/-! SUPPORT. A launch record on its way: the window page it is written to, its queue, and the scheduler (R121 to R124). -/

namespace Sys2Proof.Machine

/-! ### A block of 64 bytes -/

theorem eraseDups_of_nodup {l : List Nat} (h : l.Nodup) : l.eraseDups = l := by
  induction l with
  | nil => rfl
  | cons a r ih =>
    obtain ⟨new, rest⟩ := List.nodup_cons.1 h
    have kept : r.filter (fun b => !b == a) = r := List.filter_eq_self.2 fun b hb => by
      have : b ≠ a := fun e => new (e ▸ hb)
      simpa using this
    rw [List.eraseDups_cons, kept, ih rest]

/-- 64 bytes from an aligned address are one block. -/
theorem wholeBlock_addrsFrom {a : Nat} (h : a % 64 = 0) : wholeBlock (addrsFrom a 64) = true := by
  have once : (addrsFrom a 64).Nodup := (List.nodup_range (n := 64)).map fun i j e => Nat.add_left_cancel e
  have same : (addrsFrom a 64).all (fun x => x / 64 == a / 64) = true := List.all_eq_true.2 fun x hx => by
    obtain ⟨i, hi, rfl⟩ := List.mem_map.1 hx
    have := List.mem_range.1 hi
    rw [beq_iff_eq]
    omega
  have length : (addrsFrom a 64).length = 64 := by rw [addrsFrom, List.length_map, List.length_range]
  have cut : addrsFrom a 64 = a :: (List.range 63).map fun i => a + (i + 1) := by
    rw [addrsFrom, List.range_succ_eq_map, List.map_cons, List.map_map]
    rfl
  have block : wholeBlock (addrsFrom a 64) = ((addrsFrom a 64).eraseDups.length == 64 && (addrsFrom a 64).all fun x => x / 64 == a / 64) := by
    rw [cut]
    rfl
  rw [block, same, eraseDups_of_nodup once, length]
  rfl

/-- The words of some bytes, as a record holds them. -/
def wordsOf (d : List Byte) : List Word := (List.range 8).map fun j => BitVec.ofNat 64 (leNat ((d.drop (8 * j)).take 8))

theorem record_setBytes {s : State} {a : Nat} {d : List Byte} (wf : memWf s.mem = true) (len : d.length = 64) : (s.setBytes a d).record a = wordsOf d := by
  refine List.map_congr_left fun j hj => ?_
  have hj := List.mem_range.1 hj
  have bytes : bytesFrom (s.setBytes a d).byte (a + 8 * j) 8 = (d.drop (8 * j)).take 8 := by
    rw [bytesFrom_eq]
    refine List.ext_getElem (by simp only [List.length_map, List.length_range, List.length_take, List.length_drop]; omega) fun i hi _ => ?_
    have hi : i < 8 := by simpa using hi
    simp only [List.getElem_map, List.getElem_range, List.getElem_take, List.getElem_drop]
    rw [Nat.add_assoc]
    exact byte_setBytes_in a wf (by omega)
  rw [State.rd64, State.rdMem, bytes]

/-! ### A write to a window page (R121, R122) -/

/-- A whole block in the page of a window enters its queue, where the tenant does not reset and the queue has room. -/
theorem submit_enters {s : State} {n pa : Nat} (live : s.resetting (n / 4) = false) (room : (s.queue n).length < 64) :
    s.submit n pa true = (s.setQueue n (s.queue n ++ [s.record pa])).headMoved n (s.queue n).isEmpty := by
  rw [State.submit, if_neg (by simp [live]), if_neg (by omega)]

theorem headMoved_frame (s : State) (n : Nat) (now : Bool) : s.headMoved n now = { s with cp := (s.headMoved n now).cp } := by
  cases now <;> rfl

theorem queue_setQueue_append (s : State) (n : Nat) (l : List (List Word)) (r : List Word) : (s.setQueue n (l ++ [r])).queue n = l ++ [r] := by
  rw [State.queue, State.setQueue, if_neg (by simp)]
  simp only [mapGet_mapPut_self, Option.getD_some]

/-- What notes leave as it was: registers, queues, armed counters, and the words of memory. -/
structure KeptByNotes (s t : State) : Prop where
  regs : t.regs = s.regs
  queues : t.hub.queues = s.hub.queues
  armed : t.armed = s.armed
  record : ∀ a, t.record a = s.record a

theorem NotesOnly.keeps {s t : State} (h : NotesOnly s t) : KeptByNotes s t := by
  obtain ⟨_, _, _, _, _, _, rfl⟩ := h
  exact ⟨rfl, rfl, rfl, fun _ => rfl⟩

/-- 64 aligned bytes that land in the page of a window enter its queue as a record. -/
theorem landed_window {s : State} {n pa : Nat} {d : List Byte} (wf : memWf s.mem = true) (narms : s.net.narms = []) (len : d.length = 64) (aligned : pa % 64 = 0)
    (window : s.windowOf pa = some n) (live : s.resetting (n / 4) = false) (room : (s.queue n).length < 64) (writer : Option BKey) (bad : Bool) :
    ∃ (v : State) (now : Bool), v.hub.queues = s.hub.queues ∧ v.armed = s.armed ∧ s.landed writer true (partsFrom pa d) bad = (v.setQueue n (s.queue n ++ [wordsOf d])).headMoved n now := by
  obtain ⟨b, rest, rfl⟩ := List.exists_cons_of_length_eq_add_one (n := 63) (l := d) len
  obtain ⟨v, notes, -, inWindow⟩ := landed_headed (a := pa) (b := b) (rest := partsFrom (pa + 1) rest) writer true bad narms
  have whole : wholeBlock (pa :: (partsFrom (pa + 1) rest).map fun p => p.1) = true := by
    have addrs := addrs_partsFrom pa (b :: rest)
    rw [partsFrom_cons, List.map_cons, len] at addrs
    rw [addrs]
    exact wholeBlock_addrsFrom aligned
  have landed := inWindow n window
  rw [whole, Bool.and_self, ← partsFrom_cons] at landed
  rw [← partsFrom_cons, putParts_partsFrom] at notes
  have frame := setBytes_frame s pa (b :: rest)
  have queues : v.hub.queues = s.hub.queues := notes.keeps.queues.trans (by rw [frame])
  have armed : v.armed = s.armed := notes.keeps.armed.trans (by rw [frame])
  have regs : v.regs = s.regs := notes.keeps.regs.trans (by rw [frame])
  have record : v.record pa = wordsOf (b :: rest) := (notes.keeps.record pa).trans (record_setBytes wf len)
  rw [submit_enters (by rw [State.resetting, reg_congr regs]; exact live) (by rw [queue_congr queues]; exact room), queue_congr queues, record] at landed
  exact ⟨v, _, queues, armed, landed⟩

/-- 64 aligned bytes written to an enabled window page are one more record of its queue, and no other queue changes. -/
theorem visible_window {s : State} {n pa : Nat} {d : List Byte} (wf : memWf s.mem = true) (narms : s.net.narms = []) (len : d.length = 64) (aligned : pa % 64 = 0)
    (window : s.windowOf pa = some n) (live : s.resetting (n / 4) = false) (room : (s.queue n).length < 64) (quiet : ∀ x ∈ s.armed, x.pa < pa ∨ pa + 64 ≤ x.pa)
    (writer : Option BKey) (bad : Bool) : let t := s.visible writer true (partsFrom pa d) bad
    t.queue n = s.queue n ++ [wordsOf d] ∧ ∀ m, m ≠ n → t.queue m = s.queue m := by
  dsimp only
  have apart : ∀ x ∈ s.armed, ∀ p ∈ partsFrom pa d, x.pa ≠ p.1 / 8 * 8 := fun x hx p hp => by
    have := mem_partsFrom hp
    have := quiet x hx
    omega
  have spoilt := spoil_eq s ((partsFrom pa d).map fun p => p.1)
  generalize hS : s.spoil ((partsFrom pa d).map fun p => p.1) = S at spoilt
  obtain ⟨v, now, queues, armed, landed⟩ := landed_window (s := S) (n := n) (pa := pa) (by rw [spoilt]; exact wf) (by rw [spoilt]; exact narms) len aligned
    (by rw [spoilt]; exact window) (by rw [spoilt]; exact live) (by rw [spoilt]; exact room) writer bad
  have kept : (S.landed writer true (partsFrom pa d) bad).armed = s.armed := by
    rw [landed, headMoved_frame]
    exact armed.trans (by rw [spoilt])
  have same (m : Nat) : v.queue m = s.queue m := queue_congr (queues.trans (by rw [spoilt])) m
  rw [visible_of_quiet writer true bad (by rw [hS]; exact kept) apart, hS, landed]
  refine ⟨?_, fun m hm => ?_⟩
  · rw [queue_congr (s := v.setQueue n _) (by rw [headMoved_frame]), queue_setQueue_append, queue_congr (s := s) (by rw [spoilt])]
  · rw [queue_congr (s := v.setQueue n _) (by rw [headMoved_frame]), queue_setQueue_ne _ _ hm, same]

theorem windowOf_lineOf (s : State) (pa : Nat) : s.windowOf (lineOf pa) = s.windowOf pa := by
  have page : lineOf pa / 4096 = pa / 4096 := by
    rw [lineOf]
    omega
  rw [State.windowOf, page, State.windowOf]

/-- A record that reaches its window's page enters the queue (R121, R122). -/
theorem exec_launchWindowWrite_enters {s : State} {i n pa : Nat} {f : Flight} {d : List Byte} (wf : memWf s.mem = true) (narms : s.net.narms = []) (hf : s.inflight[i]? = some f)
    (free : heldBack (s.inflight.take i) f = false) (row : s.rowBusy f.line = false) (op : f.op = .bytes true (partsFrom pa d)) (len : d.length = 64) (aligned : pa % 64 = 0)
    (line : f.line = lineOf pa) (window : s.windowOf pa = some n) (live : s.resetting (n / 4) = false) (room : (s.queue n).length < 64)
    (quiet : ∀ x ∈ s.armed, x.pa < pa ∨ pa + 64 ≤ x.pa) :
    ∃ t, exec (.launchWindowWrite i) s = .next t ∧ t.queue n = s.queue n ++ [wordsOf d] ∧ ∀ m, m ≠ n → t.queue m = s.queue m := by
  have runs : exec (.launchWindowWrite i) s = execLaunchWindowWrite i s := rfl
  have writes : exec (.homeSliceWrite i) s = execHomeSliceWrite i s := rfl
  have there : (s.windowOf f.line).isSome = true := by rw [line, windowOf_lineOf, window, Option.isSome_some]
  obtain ⟨u, notes, done⟩ := exec_homeSliceWrite hf free row op
  obtain ⟨enters, others⟩ := visible_window (s := { s with inflight := s.inflight.eraseIdx i }) wf narms len aligned window live room quiet f.owner.bundle? f.bad
  rw [runs, execLaunchWindowWrite, hf]
  refine ⟨_, (if_pos there).trans (writes.symm.trans done), (queue_congr notes.keeps.queues n).trans enters, fun m hm => (queue_congr notes.keeps.queues m).trans (others m hm)⟩

/-! ### The record at a queue's head (R124) -/

/-- t is s but for memory, registers and the hub: what the posting of a record changes. -/
def RecordsOnly (s t : State) : Prop := ∃ mem unknown regs hub, t = { s with mem := mem, memOpen := unknown, regs := regs, hub := hub }

theorem RecordsOnly.trans {s t u : State} : RecordsOnly s t → RecordsOnly t u → RecordsOnly s u := by
  rintro ⟨_, _, _, _, rfl⟩ ⟨_, _, _, _, rfl⟩
  exact ⟨_, _, _, _, rfl⟩

theorem recordsOnly_setReg (s : State) (o : Nat) (w : Word) : RecordsOnly s (s.setReg o w) := ⟨_, _, _, _, rfl⟩

theorem recordsOnly_wr64 (s : State) (a : Nat) (w : Word) : RecordsOnly s (s.wr64 a w) := ⟨_, _, _, _, setBytes_frame s a _⟩

theorem recordsOnly_unitWrote (s : State) (a n : Nat) : RecordsOnly s (s.unitWrote a n) := by
  unfold State.unitWrote
  refine List.foldlRecOn _ _ (motive := RecordsOnly s) ⟨_, _, _, _, rfl⟩ fun t ht i _ => ?_
  extract_lets lo hi
  clear_value lo hi
  split
  · exact ht.trans (recordsOnly_setReg t _ _)
  · exact ht

theorem RecordsOnly.msi {s t : State} (h : RecordsOnly s t) (asked : Bool) (l : List Nat) :
    RecordsOnly s (if asked = true then { t with hub := { t.hub with msis := l } } else t) := by
  cases asked
  · exact h
  · exact h.trans ⟨_, _, _, _, rfl⟩

theorem recordsOnly_post (s : State) (t : Nat) (w0 w1 w2 : Word) (hi3 : Nat) : RecordsOnly s (s.post t w0 w1 w2 hi3) := by
  unfold State.post
  dsimp only
  split
  · exact recordsOnly_setReg s _ _
  · generalize fld (s.reg (offFq t)) 55 12 * 4096 = page
    generalize page + _ = pa  -- an address that stays a variable: the checker would compute with it
    have words := (recordsOnly_wr64 s pa w0).trans ((recordsOnly_wr64 _ (pa + 8) w1).trans (recordsOnly_wr64 _ (pa + 16) w2))
    have written := words.trans ((recordsOnly_wr64 _ (pa + 24) (wordOf [(32, hi3), (0, State.us (((s.wr64 pa w0).wr64 (pa + 8) w1).wr64 (pa + 16) w2))])).trans (recordsOnly_unitWrote _ pa 32))
    generalize State.unitWrote _ pa 32 = posted at written ⊢
    exact (written.msi _ _).trans (recordsOnly_setReg _ _ _)

section
variable {s : State} {q : Nat} {r : List Word} {l : List (List Word)} (here : s.queue q = r :: l) (hq : q < 256) (runs : 5 ≤ fld (s.reg 0x50) 7 4) (new : q ∉ s.cp.served) {g : Grid}
  (hg : g = { gridOf r with tenant := q / 4 })
include here hq runs new hg

omit here hg in
/-- The record at a queue's head that is not taken yet is taken. -/
theorem launchRecord_takes : (!s.cpRuns || s.cp.served.contains q || decide (256 ≤ q)) = false := by
  have boots : s.cpRuns = true := decide_eq_true runs
  have fresh : s.cp.served.contains q = false := by simpa using new
  have small : decide (256 ≤ q) = false := decide_eq_false (by omega)
  rw [boots, fresh, small]
  rfl

/-- A record without a fault becomes a grid of its queue's tenant. -/
theorem exec_launchRecord_enters (good : s.launchReason r g true = none) (room : s.tableFull = false) :
    ∃ t g', exec (.launchRecord q) s = .next t ∧ t.grids = s.grids ++ [g'] ∧ g' = { g with id := s.hub.nextGrid, limiting := g.limit.2, order := s.hub.nextOrder } := by
  have run : exec (.launchRecord q) s = execLaunchRecord q s := rfl
  refine ⟨((s.setCp { s.cp with served := s.cp.served ++ [q] }).gridEnter g).1, _, ?_, rfl, rfl⟩
  rw [run, execLaunchRecord, here]
  dsimp only
  rw [← hg]
  simp only [launchRecord_takes hq runs new, good, room, Bool.false_eq_true, if_false]

/-- A faulty record is rejected: no grid enters, and the hart has taken it. -/
theorem exec_launchRecord_rejects {k : Nat} (bad : s.launchReason r g true = some k) : ∃ t, exec (.launchRecord q) s = .next t ∧ t.grids = s.grids ∧ q ∈ t.cp.served := by
  have run : exec (.launchRecord q) s = execLaunchRecord q s := rfl
  have posted := recordsOnly_post (s.setCp { s.cp with served := s.cp.served ++ [q] }) (q / 4) (wordOf [(56, 0x20), (48, k), (40, q), (32, q / 4), (0, g.tag)]) 0 0 0
  have tag : (gridOf r).tag = g.tag := by rw [hg]
  refine ⟨(s.setCp { s.cp with served := s.cp.served ++ [q] }).postReject (q / 4) q 0x20 k g.tag, ?_, ?_⟩
  · rw [run, execLaunchRecord, here]
    dsimp only
    rw [← hg]
    simp only [launchRecord_takes hq runs new, bad, tag, Bool.false_eq_true, if_false]
  · rw [State.postReject]
    generalize State.post _ _ _ _ _ _ = t at posted
    obtain ⟨_, _, _, _, rfl⟩ := posted
    exact ⟨rfl, List.mem_append_right _ List.mem_cons_self⟩

end

end Sys2Proof.Machine

/-! PROOFS. O55: each command is answered and takes effect, and a launch record becomes a grid or is rejected (R121 to R130, R266). -/

namespace Sys2Proof.Machine

/-- Settles O55, one command after another: each lemma runs one command's rule, and `reply_spec` says what a reply adds to it. -/
theorem commandsAndLaunches : Obligations.CommandsAndLaunches := by
  unfold Obligations.CommandsAndLaunches
  refine ⟨?reply, ?bind, ?unbind, ?scheme, ?grant, ?regions, ?anchor, ?profile, ?quotas, ?load, ?commit, ?abort, ?engine, ?device, ?create, ?destroy, ?unknown, ?window, ?launch⟩
  case reply => exact fun u r v st wf narms hv _ window quiet => reply_spec st wf narms hv window quiet
  case bind =>
    intro s r ctx head root
    refine ⟨fun c live => exec_cmdBindContext_live head root live, fun new => ⟨fun n hn free lowest => exec_cmdBindContext_free head root new hn free lowest, fun c full oldest => ?_⟩⟩
    exact ⟨exec_cmdBindContext_waits head root new full oldest, exec_cmdBindContext_oldest head root new full oldest⟩
  case unbind =>
    intro s r head number
    exact ⟨fun c bound mine => ⟨exec_cmdUnbindContext_waits head bound mine, exec_cmdUnbindContext_unbinds head number bound mine⟩, exec_cmdUnbindContext_refuses head number⟩
  case scheme => exact fun s r head frame kind => ⟨exec_cmdSetFrameScheme_refuses head frame kind, exec_cmdSetFrameScheme_records head frame kind⟩
  case grant => exact fun s r i head stack first some last few clear hi free lowest => exec_cmdGrantRegion_grants head stack first some last few clear hi free lowest
  case regions =>
    rintro s r _ rfl number held - fits
    exact ⟨exec_cmdFreeRegion_frees number held fits, exec_cmdFreeRegion_anchored number, exec_cmdSetRegionReadOnly_sets number held fits⟩
  case anchor => exact fun s r size head is one three word mem leaf mine apart => exec_cmdAnchorFlashLeaf_anchors head is one three word mem leaf rfl rfl mine apart
  case profile => exact fun s r head number => exec_cmdWriteCodeProfile_writes head number rfl
  case quotas => exact fun s r head records some walks => exec_cmdSetQuotas_sets head records some walks
  case load =>
    intro s r im ctl head one three
    exact ⟨exec_cmdLoadFirmwareImage_busy head rfl one three, exec_cmdLoadFirmwareImage_loads head rfl one three⟩
  case commit => exact fun s r head one three word => exec_cmdCommitFirmware_raises head one three rfl word
  case abort => exact fun s r f head number live handle mine keys => exec_cmdAbortStream_aborts head number live handle mine keys
  case engine => exact fun s r e head one found => exec_cmdResetEngine_resets head one found
  case device => exact fun s r head all => exec_cmdResetDevice_resets head all
  case create =>
    intro s r n me w l head bufs placed ranks few entries wf hn free lowest room may members mine own
    exact exec_cmdCreateCommunicator_creates rfl head bufs placed ranks few entries wf hn free lowest room may members mine own
  case destroy =>
    exact fun s r head number live mine => ⟨exec_cmdDestroyCommunicator_destroys head number live mine, exec_cmdDestroyCommunicator_busy head number live mine⟩
  case unknown => exact fun s r here unknown => exec_cmdUnknownCode_refuses here unknown
  case window =>
    intro s i n pa f d wf narms hf free row op len aligned line window live room quiet
    exact exec_launchWindowWrite_enters wf narms hf free row op len aligned line window live room quiet
  case launch =>
    intro s q r l here hq runs new g
    exact ⟨exec_launchRecord_enters here hq runs new rfl, fun k => exec_launchRecord_rejects here hq runs new rfl⟩

end Sys2Proof.Machine

/-! SUPPORT. What leaves the network's state as it was: records, translation, writes as they become visible with the actions that they fire, and a unit's write through them (R56, R74, R125, R159, R206). -/

namespace Sys2Proof.Machine

theorem net_foldl {α : Type} {f : State → α → State} (h : ∀ s x, (f s x).net = s.net) (l : List α) (s : State) : (l.foldl f s).net = s.net := foldl_keeps f State.net h l s

/-! ### Records -/

theorem RecordsOnly.net {s t : State} (h : RecordsOnly s t) : t.net = s.net := by
  obtain ⟨_, _, _, _, rfl⟩ := h
  rfl

@[simp] theorem net_unitWrote (s : State) (a n : Nat) : (s.unitWrote a n).net = s.net := (recordsOnly_unitWrote s a n).net

@[simp] theorem net_post (s : State) (t : Nat) (w0 w1 w2 : Word) (hi3 : Nat) : (s.post t w0 w1 w2 hi3).net = s.net := (recordsOnly_post s t w0 w1 w2 hi3).net

@[simp] theorem net_postReject (s : State) (t q cause reason tag : Nat) : (s.postReject t q cause reason tag).net = s.net := net_post _ _ _ _ _ _

@[simp] theorem net_postActionFault (s : State) (a : Armed) (cause va : Nat) : (s.postActionFault a cause va).net = s.net := net_post _ _ _ _ _ _

@[simp] theorem net_escalate (s : State) (t ctx reason tag size : Nat) (va : Word) : (s.escalate t ctx reason tag size va).net = s.net := net_post _ _ _ _ _ _

@[simp] theorem net_put64 (s : State) (a : Nat) (w : Word) : (s.put64 a w).net = s.net := (net_unitWrote _ _ _).trans (wr64_net s a w)

/-! ### Pools and migrations (R80, R82 to R84) -/

@[simp] theorem net_poolLow (s : State) (n : Nat) : (s.poolLow n).net = s.net := by
  unfold State.poolLow
  dsimp only
  split
  · exact net_post _ _ _ _ _ _
  · rfl

@[simp] theorem net_takeDesc (s : State) (n fuel : Nat) : (s.takeDesc n fuel).1.net = s.net := by
  induction fuel generalizing s with
  | zero => rfl
  | succ fuel ih =>
    rw [State.takeDesc]
    split
    · rfl
    · dsimp only
      split
      · rw [ih, setReg_net, net_poolLow, setReg_net]
      · rw [net_poolLow, setReg_net]

@[simp] theorem net_takeFrame (s : State) (t z : Nat) : (s.takeFrame t z).1.net = s.net := by
  unfold State.takeFrame
  split
  · rfl
  · exact net_takeDesc _ _ _

@[simp] theorem net_migFrame (s : State) (m : Mig) : (s.migFrame m).1.net = s.net := by
  have taken := net_takeFrame s m.tenant m.size
  unfold State.migFrame
  split
  · exact net_escalate _ _ _ _ _ _ _
  · split
    · next t f h => rwa [h] at taken
    · next t h => exact (net_escalate t _ _ _ _ _ _).trans (by rwa [h] at taken)

@[simp] theorem net_wantMig (s : State) (tenant ctx : Nat) (va : Word) (pte : Nat) (l : Word) (lvl tag : Nat) (w : Option BKey) :
    (s.wantMig tenant ctx va pte l lvl tag w).net = s.net := by
  unfold State.wantMig
  dsimp only
  split
  · rfl
  · exact net_migFrame _ _

/-! ### Translation (R74, R77) -/

@[simp] theorem net_harvest (s : State) (e : TlbEnt) : (s.harvest e).net = s.net := by
  unfold State.harvest
  split
  · rfl
  · refine net_foldl (fun t h => ?_) _ s
    dsimp only
    split
    · exact net_put64 _ _ _
    · rfl

@[simp] theorem net_tlbPut (s : State) (e : TlbEnt) (p : TlbAt) : (s.tlbPut e p).net = s.net := by
  unfold State.tlbPut
  exact net_foldl (fun t (x : TlbAt × TlbEnt) => net_harvest t x.2) _ s

@[simp] theorem net_setA (s : State) (pte : Nat) : (s.setA pte).net = s.net := net_put64 _ _ _

theorem net_foldl_setA (l : List (Nat × Nat)) (s : State) : (l.foldl (fun t h => t.setA h.1) s).net = s.net := by
  induction l generalizing s with
  | nil => rfl
  | cons h r ih => rw [List.foldl_cons, ih, net_setA]

@[simp] theorem net_install (s : State) (places : List TlbAt) (ctx : Nat) (va : Word) (pte : Nat) (l : Word) (lvl : Nat) (d : Bool) :
    (s.install places ctx va pte l lvl d).net = s.net := by
  unfold State.install
  exact (net_foldl (fun t p => net_tlbPut t _ p) _ _).trans (net_foldl_setA _ _)

@[simp] theorem net_pwFill (s : State) (grove ctx : Nat) (va : Word) : (s.pwFill grove ctx va).net = s.net := by
  unfold State.pwFill
  split <;> rfl

@[simp] theorem net_engineXlate (s : State) (grove ctx : Nat) (acc : Acc) (va : Word) : (s.engineXlate grove ctx acc va).1.net = s.net := by
  unfold State.engineXlate
  split
  · rfl
  · split
    · rfl
    · split
      · exact ((net_install _ _ _ _ _ _ _ _).trans (net_setA _ _)).trans (net_pwFill _ _ _ _)
      · exact net_pwFill _ _ _ _

/-! ### Writes as they become visible (R121, R159, R206) -/

theorem NotesOnly.net {s t : State} (h : NotesOnly s t) : t.net = s.net := by
  obtain ⟨_, _, _, _, _, _, rfl⟩ := h
  rfl

@[simp] theorem net_putParts (s : State) (l : List (Nat × Byte)) : (s.putParts l).net = s.net := by rw [putParts_frame]

@[simp] theorem net_spoil (s : State) (addrs : List Nat) : (s.spoil addrs).net = s.net := by rw [spoil_eq]

@[simp] theorem net_submit (s : State) (n pa : Nat) (whole : Bool) : (s.submit n pa whole).net = s.net := by
  unfold State.submit
  split
  · rfl
  · split
    · exact net_postReject _ _ _ _ _ _
    · rw [headMoved_frame]
      rfl

@[simp] theorem net_landed (s : State) (writer : Option BKey) (block : Bool) (parts : List (Nat × Byte)) (bad : Bool) : (s.landed writer block parts bad).net = s.net := by
  have notes := ((noteWrite_notes (s.putParts (s.veiled parts)) none (parts.map fun p => p.1) writer).trans (poisonWrite_notes _ (parts.map fun p => p.1) bad)).trans
    (watchHit_notes _ writer (linesOf (parts.map fun p => p.1)))
  have stands := notes.net.trans (net_putParts _ _)
  unfold State.landed
  dsimp only
  split
  · split
    · exact (net_submit _ _ _ _).trans stands
    · exact stands
  · exact stands

@[simp] theorem net_aboArriveAt (s : State) (writer : Option BKey) (pa n st fl : Nat) : (s.aboArriveAt writer pa n st fl).net = s.net := by
  unfold State.aboArriveAt
  dsimp only
  refine (net_landed _ _ _ _ _).trans ?_
  split <;> rfl

@[simp] theorem net_launchArmed (s : State) (t : Nat) (r : List Word) (args : Option Word) : (s.launchArmed t r args).net = s.net := by
  unfold State.launchArmed
  dsimp only
  split
  · exact net_postReject _ _ _ _ _ _
  · rfl

/-- An armed action that holds itself, and those after it, until it can run. -/
def State.fireHolds (s : State) (a : Armed) (rest : List Armed) : State × List Nat × Bool :=
  ({ s with armed := ((a :: rest).map fun x => { x with waits := true }) ++ s.armed }, [], true)

/-- The access of an armed action: what is done where the hub's translation gives it a place, else a record or a wait. -/
def State.fireAccess (s : State) (a : Armed) (rest : List Armed) (va : Nat) (k : State → Nat → State × List Nat) : State × List Nat × Bool :=
  match s.engineXlate 0 a.ctx .atomic (BitVec.ofNat 64 va) with
  | (t, none) => t.fireHolds a rest
  | (t, some (.ok _ l _ pa)) =>
    if leafPbmt l = 2 then (s.postActionFault a 0x14 va, [], false)
    else if t.rowBusy pa then t.fireHolds a rest
    else ((k t pa).1, (k t pa).2, false)
  | (t, some (.tier3 pte l lvl)) => (t.wantMig a.tenant a.ctx (BitVec.ofNat 64 va) pte l lvl a.tag none).fireHolds a rest
  | (t, some (.defer _)) => (t.postActionFault a 0x12 va, [], false)
  | (t, some (.fault k)) => (t.postActionFault a k va, [], false)

/-- One armed action: the state it leaves, the counters it changed, whether it waits. -/
def State.fireOne (s : State) (a : Armed) (rest : List Armed) : State × List Nat × Bool :=
  match a.fx with
  | .launch rec => if s.tableFull then s.fireHolds a rest else (s.launchArmed a.tenant rec none, [], false)
  | .arrive va => s.fireAccess a rest va fun t pa => (t.aboArriveAt none pa 1 0 0, [pa, pa + 8])
  | .store va v => s.fireAccess a rest va fun t pa =>
      ((t.spoil ((List.range 8).map fun i => pa + i)).landed none false ((List.range 8).map fun i => (pa + i, BitVec.ofNat 8 (v.toNat / 256 ^ i))) false, [pa])

/-- `State.fire` runs its actions one after another. -/
theorem fire_cons (n : Nat) (a : Armed) (rest : List Armed) (s : State) : State.fire (n + 1) (a :: rest) s =
    if (s.fireOne a rest).2.2 then (s.fireOne a rest).1
    else State.fire n (rest ++ ((s.fireOne a rest).1.takeFired (s.fireOne a rest).2.1).2) ((s.fireOne a rest).1.takeFired (s.fireOne a rest).2.1).1 := rfl

theorem net_fireAccess (s : State) (a : Armed) (rest : List Armed) (va : Nat) {k : State → Nat → State × List Nat} (hk : ∀ t pa, (k t pa).1.net = t.net) :
    (s.fireAccess a rest va k).1.net = s.net := by
  have walked := net_engineXlate s 0 a.ctx .atomic (BitVec.ofNat 64 va)
  unfold State.fireAccess
  split
  case h_1 h => rwa [h] at walked
  case h_2 h =>
    rw [h] at walked
    split
    · exact net_postActionFault _ _ _ _
    · split
      · exact walked
      · exact (hk _ _).trans walked
  case h_3 h => exact (net_wantMig _ _ _ _ _ _ _ _ _).trans (by rwa [h] at walked)
  case h_4 h => exact (net_postActionFault _ _ _ _).trans (by rwa [h] at walked)
  case h_5 h => exact (net_postActionFault _ _ _ _).trans (by rwa [h] at walked)

theorem net_fireOne (s : State) (a : Armed) (rest : List Armed) : (s.fireOne a rest).1.net = s.net := by
  unfold State.fireOne
  split
  · split
    · rfl
    · exact net_launchArmed _ _ _ _
  · exact net_fireAccess _ _ _ _ fun t pa => net_aboArriveAt _ _ _ _ _ _
  · exact net_fireAccess _ _ _ _ fun t pa => (net_landed _ _ _ _ _).trans (net_spoil _ _)

/-- The actions that a write fires leave the network's state. -/
@[simp] theorem net_fire (n : Nat) (l : List Armed) (s : State) : (State.fire n l s).net = s.net := by
  induction n generalizing l s with
  | zero => rfl
  | succ n ih =>
    cases l with
    | nil => rfl
    | cons a rest =>
      rw [fire_cons]
      split
      · exact net_fireOne s a rest
      · exact (ih _ _).trans (net_fireOne s a rest)

@[simp] theorem net_shown (s : State) (writer : Option BKey) (block : Bool) (parts : List (Nat × Byte)) (bad : Bool) : (s.shown writer block parts bad).net = s.net :=
  (net_fire _ _ _).trans (net_landed s writer block parts bad)

@[simp] theorem net_visible (s : State) (writer : Option BKey) (block : Bool) (parts : List (Nat × Byte)) (bad : Bool) : (s.visible writer block parts bad).net = s.net :=
  (net_shown _ _ _ _ _).trans (net_spoil _ _)

/-! ### A unit's write of memory (R74, R205) -/

theorem net_pieces {e : Eng} {acc : Acc} {fuel va n : Nat} {s t : State} {ps : List Piece} (h : s.pieces e acc fuel va n = .ok (t, ps)) : t.net = s.net := by
  induction fuel generalizing va n s ps with
  | zero =>
    obtain ⟨rfl, -⟩ : s = t ∧ _ := by simpa [State.pieces] using h
    rfl
  | succ fuel ih =>
    have walked := net_engineXlate s e.grove e.ctx acc (BitVec.ofNat 64 va)
    rw [State.pieces] at h
    split at h
    · obtain ⟨rfl, -⟩ : s = t ∧ _ := by simpa using h
      rfl
    · dsimp only at h
      split at h
      · contradiction
      · contradiction
      · contradiction
      · contradiction
      · next xlate =>
        rw [xlate] at walked
        split at h
        · contradiction
        · split at h
          · contradiction
          · next u qs rest =>
            obtain ⟨rfl, -⟩ : u = t ∧ _ := by simpa using h
            exact (ih rest).trans walked

@[simp] theorem net_writePieces (bad block : Bool) (ps : List Piece) (d : List Byte) (s : State) : (State.writePieces bad block ps d s).net = s.net := by
  induction ps generalizing d s with
  | nil => rfl
  | cons p r ih =>
    rw [State.writePieces]
    refine (ih _ _).trans ?_
    split
    · rfl
    · split
      · rfl
      · exact net_visible _ _ _ _ _

theorem net_engWrite_mem {s t : State} {e : Eng} {a : Nat} {d : List Byte} {bad block : Bool} (h : s.engWrite e .mem a d bad block = .ok t) : t.net = s.net := by
  rw [State.engWrite] at h
  split at h
  · contradiction
  · next u ps extent =>
    obtain rfl := Except.ok.inj h
    exact (net_writePieces _ _ _ _ _).trans (net_pieces extent)

/-- Where a unit's access stops without a record of its own, the network's state stands. -/
theorem net_engStopped (s : State) (e : Eng) (x : EngStop) {rcd : Nat → Nat → State → State} (h : ∀ c va t, (rcd c va t).net = t.net) : (s.engStopped e x rcd).net = s.net := by
  unfold State.engStopped
  split
  · exact h _ _ _
  · exact net_wantMig _ _ _ _ _ _ _ _ _
  · rfl
  · rfl

end Sys2Proof.Machine

/-! SUPPORT. Packets: the fields of the module's own, the one sent last, and control packets as they arrive (R42, R46, R47). -/

namespace Sys2Proof.Machine

/-! ### The fields of a header (R46) -/

theorem fields_headWord {k m f i t s : Nat} (kind : Nat) (hk : k < 64) (hm : m < 16) (hf : f < 4) (hi : i < 64) (ht : t < 64) (hs : s < 2 ^ 32) (hkind : kind < 16) :
    let w := wordOf [(60, 1), (56, kind), (50, k), (46, m), (44, f), (38, i), (32, t), (0, s)]
    fld w 63 60 = 1 ∧ fld w 59 56 = kind ∧ fld w 37 32 = t ∧ fld w 31 0 = s := by
  have b32 : FieldsBelow 32 [(0, s)] := ⟨by omega, by simpa using hs, trivial⟩
  have b56 : FieldsBelow 56 [(50, k), (46, m), (44, f), (38, i), (32, t), (0, s)] :=
    ⟨by omega, by simpa using hk, by dsimp only; omega, by simpa using hm, by dsimp only; omega, by simpa using hf, by dsimp only; omega, by simpa using hi, by dsimp only; omega, by simpa using ht, b32⟩
  have b60 : FieldsBelow 60 [(56, kind), (50, k), (46, m), (44, f), (38, i), (32, t), (0, s)] := ⟨by omega, by simpa using hkind, b56⟩
  exact ⟨fld_wordOf [] (by omega) (by omega) (by simp) (by omega) b60, fld_wordOf [(60, 1)] (by omega) (by omega) (by simp) (by omega) b56,
    fld_wordOf [(60, 1), (56, kind), (50, k), (46, m), (44, f), (38, i)] (by omega) (by omega) (by simp) (by omega) b32,
    fld_wordOf [(60, 1), (56, kind), (50, k), (46, m), (44, f), (38, i), (32, t)] (by omega) (by omega) (by simp) (by omega) trivial⟩

section
variable (h : FragHeader) (payload : List Byte) (delivery : Delivery) (entropy port : Nat) (good : Bool)

/-- The fields of a packet that the module builds are those of its header. -/
theorem packet_fields : let p := h.packet payload delivery entropy port good
    p.version = 1 ∧ p.kind = h.kind % 16 ∧ p.dst = h.dst % 2 ^ 19 ∧ p.tenant = h.tenant % 64 ∧ p.seq = h.seq % 2 ^ 32 ∧ p.stripe = h.stripe % 2 ^ 20 ∧ p.payload = payload := by
  obtain ⟨version, kind, tenant, seq⟩ := fields_headWord (k := h.k % 64) (m := h.m % 16) (f := h.fsize % 4) (i := h.findex % 64) (t := h.tenant % 64) (s := h.seq % 2 ^ 32) (h.kind % 16)
    (by omega) (by omega) (by omega) (by omega) (by omega) (Nat.mod_lt _ (Nat.two_pow_pos _)) (by omega)
  have horizon : FieldsBelow 26 [(16, h.horizon % 1024)] := ⟨by omega, by dsimp only; omega, trivial⟩
  have length : FieldsBelow 44 [(0, h.length % 2 ^ 27)] := ⟨by omega, by dsimp only; omega, trivial⟩
  exact ⟨version, kind, fld_wordOf [(45, h.src % 2 ^ 19)] (by omega) (by omega) (by simp) (by omega) horizon, tenant, seq,
    fld_wordOf [] (by omega) (by omega) (by simp) (by omega) length, rfl⟩

end

/-- The body of a control packet is what it was built with (R47). -/
theorem body_control (h : FragHeader) {b : Nat} (port : Nat) (hb : b < 2 ^ 64) : (h.control b port).body = b := by
  have payload : (h.control b port).payload = leBytes 8 b := rfl
  rw [Packet.body, payload, List.take_of_length_le (by rw [leBytes_length]), leNat_leBytes]
  exact Nat.mod_eq_of_lt hb

/-! ### The packet sent last -/

theorem LastSent.congr {s t : State} {kind dst tenant seq stripe body : Nat} (out : t.net.out = s.net.out) (h : LastSent s kind dst tenant seq stripe body) :
    LastSent t kind dst tenant seq stripe body := by
  obtain ⟨p, last, fields⟩ := h
  exact ⟨p, out ▸ last, fields⟩

/-- A control packet handed to the network is the one sent last, with the fields of its header. -/
theorem lastSent_emit (s : State) {h : FragHeader} {b : Nat} (port : Nat) (kind : h.kind < 16) (dst : h.dst < 2 ^ 19) (tenant : h.tenant < 64) (seq : h.seq < 2 ^ 32) (stripe : h.stripe < 2 ^ 20)
    (hb : b < 2 ^ 64) : LastSent (s.emit [h.control b port]) h.kind h.dst h.tenant h.seq h.stripe b := by
  obtain ⟨version, kindField, dstField, tenantField, seqField, stripeField, -⟩ := packet_fields h (leBytes 8 b) .rud 0 port true
  exact ⟨h.control b port, List.getLast?_concat, kindField.trans (Nat.mod_eq_of_lt kind), dstField.trans (Nat.mod_eq_of_lt dst), tenantField.trans (Nat.mod_eq_of_lt tenant),
    seqField.trans (Nat.mod_eq_of_lt seq), stripeField.trans (Nat.mod_eq_of_lt stripe), body_control h port hb, version⟩

theorem emit_frame (s : State) (l : List Packet) : s.emit l = { s with net := { s.net with out := s.net.out ++ l } } := rfl

/-- An answer goes to the packet's source, of its message and stripe. -/
theorem lastSent_answer (s : State) (p : Packet) {kind b : Nat} (hkind : kind < 16) (hb : b < 2 ^ 64) : LastSent (s.answer p kind b) kind p.src p.tenant p.seq p.stripe b :=
  lastSent_emit s (h := { headerOf p with kind := kind, src := s.net.self, dst := p.src, findex := 0 }) _ hkind (fld_lt p.w1 63 45) (fld_lt p.w0 37 32) (fld_lt p.w0 31 0) (fld_lt p.w2 63 44) hb

/-- The identity of a record's message has the widths of the header (R46). -/
def NetRec.Fits (r : NetRec) : Prop := r.src < 2 ^ 19 ∧ r.tenant < 64 ∧ r.seq < 2 ^ 32

theorem fits_of_recOk {r : NetRec} (ok : RecOk r) : r.Fits := ⟨ok.1, ok.2.1, ok.2.2.1⟩

/-- A record's control packet goes to the message's sender. -/
theorem lastSent_recSend (s : State) {r : NetRec} {kind stripe b : Nat} (k : Nat) (ok : r.Fits) (hkind : kind < 16) (hstripe : stripe < 2 ^ 20) (hb : b < 2 ^ 64) :
    LastSent (s.recSend r kind stripe k b) kind r.src r.tenant r.seq stripe b := by
  obtain ⟨src, tenant, seq⟩ := ok
  exact lastSent_emit s (h := r.header s.net.self kind stripe k) _ hkind src tenant seq hstripe hb

/-! ### Packets that arrive (R42, R46) -/

section
variable {s : State} {p : Packet} {kind : Nat} (arrives : Arrives s p kind)
include arrives

theorem control_arrives (hkind : kind < 9) (f : State) : s.control p kind f = .next f := by
  obtain ⟨is, dst, version, crc, fcs, delivery⟩ := arrives
  have good : pkGood p = true := by
    have carried : (p.delivery == .uud || p.delivery == .rud) = true := by simpa only [Bool.or_eq_true, beq_iff_eq] using delivery
    rw [pkGood, version, crc, fcs, is, carried, decide_eq_true hkind]
    rfl
  rw [State.control, if_neg (not_not_intro is), good, if_neg (by simp), if_neg (not_not_intro dst)]

/-- A fragment that arrives is of a version, a kind and a delivery that the module supports. -/
theorem supported (fragment : kind < 2) : ¬(p.version ≠ 1 ∨ 9 ≤ p.kind ∨ (p.delivery ≠ .uud ∧ p.delivery ≠ .rud)) := by
  obtain ⟨is, -, version, -, -, delivery⟩ := arrives
  rintro (other | high | carried)
  · exact other version
  · omega
  · exact delivery.elim carried.1 carried.2

/-- A sound fragment of a message without a record begins a new one. -/
theorem exec_fragmentReceive_new (fragment : kind < 2) (new : s.recIdx p = none) : exec (.fragmentReceive p) s = .next (s.newMessage p) := by
  obtain ⟨is, dst, -, crc, fcs, -⟩ := id arrives
  have run : exec (.fragmentReceive p) s = execFragmentReceive p s := rfl
  rw [run, execFragmentReceive, if_neg (supported arrives fragment), if_neg (by omega), if_neg (by simp [fcs, crc]), if_neg (not_not_intro dst), new]

/-- One of a message with a record lands by its slot. -/
theorem exec_fragmentReceive_lands (fragment : kind < 2) {i : Nat} {r : NetRec} (known : s.recIdx p = some i) (there : s.net.recs[i]? = some r) :
    exec (.fragmentReceive p) s = .next (s.landFrag i r p) := by
  obtain ⟨is, dst, -, crc, fcs, -⟩ := id arrives
  have run : exec (.fragmentReceive p) s = execFragmentReceive p s := rfl
  rw [run, execFragmentReceive, if_neg (supported arrives fragment), if_neg (by omega), if_neg (by simp [fcs, crc]), if_neg (not_not_intro dst), known]
  simp only [there]

end

end Sys2Proof.Machine

/-! SUPPORT. Fragments on their way into the receive buffer: what stands there already, the one that is written, and what a record keeps (R56, R58). -/

namespace Sys2Proof.Machine

/-! ### The writes of a slot's data fragments (R58) -/

section
variable (a : Narm) (kf : Nat)

/-- What stands in the buffer is not written again. -/
theorem place_skips {l : List (Nat × List Byte)} (r : NetRec) {x : NetSlot} (s : State) (there : ∀ d ∈ l, d.1 ∈ x.placed) (rest : List (Nat × List Byte)) :
    State.place a kf (l ++ rest) r x s = State.place a kf rest r x s := by
  induction l with
  | nil => rfl
  | cons d l ih =>
    have here : x.placed.contains d.1 = true := by simpa using there d List.mem_cons_self
    rw [List.cons_append, State.place]
    dsimp only
    rw [if_pos here]
    exact ih fun e he => there e (List.mem_cons_of_mem _ he)

/-- The state after a write of the hub's own: no note of it stays. -/
def State.hubWrote (s u : State) : State := { u with hub := { u.hub with wrote := s.hub.wrote } }

/-- One that does not stand there yet is written. -/
theorem place_writes {d : Nat × List Byte} (rest : List (Nat × List Byte)) {r : NetRec} {x : NetSlot} {s u : State} {w : Nat × List Byte} (hw : r.fragPlace kf x.stripe d.1 d.2 = w)
    (new : d.1 ∉ x.placed) (some : w.2 ≠ []) (write : s.engWrite (hubEng a.tenant a.ctx a.gtag) .mem ((a.buf + w.1) % 2 ^ 64) w.2 false false = .ok u) :
    State.place a kf (d :: rest) r x s = State.place a kf rest { r with got := r.got ++ [w] } { x with placed := x.placed ++ [d.1] } (s.hubWrote u) := by
  have new : x.placed.contains d.1 = false := by simpa using new
  have some : w.2.isEmpty = false := by simpa using some
  rw [State.place]
  dsimp only
  rw [hw, new, some, if_neg (by simp), if_neg (by simp), write]
  rfl

/-- Whatever the pages answer, the network's state stands; the record changes in what it has written, the slot in what stands in the buffer. -/
theorem place_keeps (l : List (Nat × List Byte)) (r : NetRec) (x : NetSlot) (s : State) :
    ∃ t got placed all, State.place a kf l r x s = (t, { r with got := got }, { x with placed := placed }, all) ∧ t.net = s.net := by
  induction l generalizing r x s with
  | nil => exact ⟨s, r.got, x.placed, true, rfl, rfl⟩
  | cons d rest ih =>
    rw [State.place]
    dsimp only
    split
    · exact ih r x s
    · split
      · exact ⟨_, r.got, x.placed, false, rfl, net_engStopped _ _ _ fun _ _ _ => rfl⟩
      · next t written =>
        have net : t.net = s.net := by
          split at written
          · rw [← Except.ok.inj written]
          · exact net_engWrite_mem written
        obtain ⟨v, got, placed, all, places, rest⟩ := ih { r with got := r.got ++ [r.fragPlace kf x.stripe d.1 d.2] } { x with placed := x.placed ++ [d.1] } (s.hubWrote t)
        exact ⟨v, got, placed, all, places, rest.trans net⟩

end

/-! ### Slots and records (R56) -/

theorem slot_put_self {r : NetRec} {x : NetSlot} {stripe : Nat} (there : (r.slot stripe).isSome = true) (hx : x.stripe = stripe) : (r.put x).slot stripe = some x := by
  have room : stripe % 16 < r.slots.length := by
    by_contra full
    rw [NetRec.slot, List.getElem?_eq_none (by omega)] at there
    cases there
  rw [NetRec.slot, NetRec.put, hx, List.getElem?_set_self room]

theorem slot_set_ne (r : NetRec) (x : NetSlot) {stripe j : Nat} (h : j % 16 ≠ stripe % 16) : r.slots[j % 16]? = (r.slots.set (stripe % 16) x)[j % 16]? :=
  (List.getElem?_set_ne (Ne.symm h)).symm

theorem narmOf_setRec (s : State) (i : Nat) (r : NetRec) (handle : Nat) : (s.setRec i r).narmOf handle = s.narmOf handle := rfl

theorem setRec_setRec (s : State) (i : Nat) (q r : NetRec) : (s.setRec i q).setRec i r = s.setRec i r := by
  rw [State.setRec, State.setRec, State.setRec]
  simp only [State.setNet, List.set_set]

/-! ### A fragment enters its slot (R58) -/

/-- A filling slot with one more fragment. -/
def NetSlot.fill (x : NetSlot) (p : Packet) : NetSlot :=
  { x with held := x.held ++ [(p.findex, p.payload)], st := if x.k ≤ x.held.length + 1 then .decoding else .filling }

/-- An accepted fragment fills its slot, and goes into the buffer or into Landing. -/
theorem fillSlot_accepts {s : State} {i : Nat} {r : NetRec} {x : NetSlot} {p : Packet} (filling : x.st = .filling) (new : ∀ h ∈ x.held, h.1 ≠ p.findex) (whole : p.trimmed = false)
    (index : p.findex < x.k + r.m) : s.fillSlot i r x p = ((s.setRec i (r.put (x.fill p))).landParity r (x.fill p) p.findex p.payload).placeHeld i (r.put (x.fill p)) (x.fill p) := by
  have free : ¬ (x.held.any fun h => h.1 == p.findex) = true := by
    rw [List.any_eq_true]
    rintro ⟨h, hh, e⟩
    exact new h hh (by simpa using e)
  have slot : (if x.k ≤ (x.held ++ [(p.findex, p.payload)]).length then { x with held := x.held ++ [(p.findex, p.payload)], st := .decoding }
      else { x with held := x.held ++ [(p.findex, p.payload)] }) = x.fill p := by
    rw [List.length_append, List.length_singleton, NetSlot.fill, ← filling]
    split <;> rfl
  rw [State.fillSlot, if_neg free, if_neg (by simp [whole]), if_neg (by omega)]
  dsimp only
  rw [slot]

/-- A data fragment needs no place in Landing, nor does any while none is reserved. -/
theorem landParity_of_data {s : State} (r : NetRec) {x : NetSlot} {i : Nat} (d : List Byte) (h : i < x.k ∨ s.net.landing = none) : s.landParity r x i d = s := by
  rw [State.landParity]
  split
  · next base there => exact if_pos (h.resolve_right (by simp [there]))
  · rfl

theorem landFrag_filling {s : State} (i : Nat) {r : NetRec} {x : NetSlot} {p : Packet} (slot : r.slot p.stripe = some x) (filling : x.st = .filling) (mine : x.stripe = p.stripe) :
    s.landFrag i r p = s.fillSlot i r x p := by
  rw [State.landFrag, slot]
  simp only [filling, mine, if_true]

section
variable {s : State} {p : Packet} {i : Nat} {r : NetRec} {x : NetSlot} (fragment : p.kind < 2) (arrives : Arrives s p p.kind) (known : s.recIdx p = some i)
  (there : s.net.recs[i]? = some r) (slot : r.slot p.stripe = some x) (filling : x.st = .filling) (mine : x.stripe = p.stripe) (new : ∀ h ∈ x.held, h.1 ≠ p.findex)
  (whole : p.trimmed = false)
include fragment arrives known there slot filling mine new whole

/-- The state in which the fragment has its place in the slot and nowhere else. -/
theorem exec_fragmentReceive_fills (index : p.findex < x.k + r.m) (full : r.kfull = none) (landing : s.net.landing = none) :
    exec (.fragmentReceive p) s = .next (s.setRec i { r with slots := r.slots.set (p.stripe % 16) (x.fill p) }) := by
  have record : r.put (x.fill p) = { r with slots := r.slots.set (p.stripe % 16) (x.fill p) } := by
    rw [← mine]
    rfl
  rw [exec_fragmentReceive_lands arrives fragment known there, landFrag_filling i slot filling mine, fillSlot_accepts filling new whole index, landParity_of_data (s := s.setRec i (r.put (x.fill p))) (x := x.fill p) _ _ (.inr landing), record]
  refine congrArg Host.Outcome.next ?_
  rw [State.placeHeld, full]
  split
  · contradiction
  · rfl

/-- A data fragment of a message whose full k is known goes straight into the buffer. -/
theorem exec_fragmentReceive_places {u : State} {kf off : Nat} {a : Narm} {d : List Byte} (hoff : off = p.stripe * kf * fragBytes r.fsize + p.findex * fragBytes r.fsize)
    (hd : d = p.payload.take (r.length - off)) (data : p.findex < x.k) (full : r.kfull = some kf) (receive : s.narmOf r.handle = some a)
    (placed : ∀ h ∈ x.held, h.1 < x.k → h.1 ∈ x.placed) (unplaced : p.findex ∉ x.placed) (some : d ≠ [])
    (write : (s.setRec i { r with slots := r.slots.set (p.stripe % 16) (x.fill p) }).engWrite (hubEng a.tenant a.ctx a.gtag) .mem ((a.buf + off) % 2 ^ 64) d false false = .ok u) :
    exec (.fragmentReceive p) s = .next ((s.hubWrote u).setRec i
      { r with slots := r.slots.set (p.stripe % 16) { x.fill p with placed := x.placed ++ [p.findex] }, got := r.got ++ [(off, d)] }) := by
  have record : r.put (x.fill p) = { r with slots := r.slots.set (p.stripe % 16) (x.fill p) } := by
    rw [← mine]
    rfl
  have piece : (r.put (x.fill p)).fragPlace kf (x.fill p).stripe p.findex p.payload = (off, d) := by
    have stripe : (x.fill p).stripe = p.stripe := mine
    rw [hd, hoff, stripe]
    rfl
  have list : (x.fill p).held.filter (fun h => decide (h.1 < (x.fill p).k)) = x.held.filter (fun h => decide (h.1 < x.k)) ++ [(p.findex, p.payload)] := by
    rw [NetSlot.fill, List.filter_append, List.filter_cons_of_pos (by simpa using data), List.filter_nil]
  have skip : ∀ h ∈ x.held.filter (fun h => decide (h.1 < x.k)), h.1 ∈ (x.fill p).placed := fun h hh => by
    obtain ⟨held, small⟩ := List.mem_filter.1 hh
    exact placed h held (by simpa using small)
  rw [exec_fragmentReceive_lands arrives fragment known there, landFrag_filling i slot filling mine, fillSlot_accepts filling new whole (by omega), landParity_of_data (s := s.setRec i (r.put (x.fill p))) (x := x.fill p) _ _ (.inl data)]
  refine congrArg Host.Outcome.next ?_
  have receive : (s.setRec i (r.put (x.fill p))).narmOf (r.put (x.fill p)).handle = .some a := receive
  have full : (r.put (x.fill p)).kfull = .some kf := full
  rw [← record] at write
  rw [State.placeHeld, receive, full]
  dsimp only
  rw [list, place_skips a kf _ _ skip, place_writes a kf [] piece unplaced some write, State.place]
  dsimp only
  rw [Bool.not_true, Bool.or_false]
  have slots : ({ (r.put (x.fill p)) with got := (r.put (x.fill p)).got ++ [(off, d)] } : NetRec).put { x.fill p with placed := (x.fill p).placed ++ [p.findex] } =
      { r with slots := r.slots.set (p.stripe % 16) { x.fill p with placed := x.placed ++ [p.findex] }, got := r.got ++ [(off, d)] } := by
    rw [record, NetRec.put]
    simp only [NetSlot.fill, mine, List.set_set]
  rw [slots]
  rfl

end

end Sys2Proof.Machine

/-! SUPPORT. The first fragment of a message: it claims the oldest armed receive of its tag or is refused (R56 to R58). -/

namespace Sys2Proof.Machine

theorem openVa_frame (s : State) (ctx va n : Nat) : ∃ mem unknown free, s.openVa ctx va n = { s with mem := mem, memOpen := unknown, free := free } := by
  unfold State.openVa
  refine List.foldlRecOn _ _ (motive := fun t : State => ∃ mem unknown free, t = { s with mem := mem, memOpen := unknown, free := free }) ⟨_, _, _, rfl⟩ fun t ht x _ => ?_
  obtain ⟨_, _, _, rfl⟩ := ht
  split <;> exact ⟨_, _, _, rfl⟩

/-! ### What goes into the buffer of a record's receive (R58) -/

/-- Two records are of one message, and of one receive. -/
structure SameMessage (r q : NetRec) : Prop where
  src : q.src = r.src
  tenant : q.tenant = r.tenant
  seq : q.seq = r.seq
  handle : q.handle = r.handle

/-- The fragments of a slot go into the buffer: of the network's state the record alone changes, in what it has written. -/
theorem placeHeld_keeps {s : State} {i : Nat} {r : NetRec} {x : NetSlot} (there : s.net.recs[i]? = some r) (slot : r.slot x.stripe = some x) :
    ∃ q y, (s.placeHeld i r x).net = { s.net with recs := s.net.recs.set i q } ∧ SameMessage r q ∧ q.slot x.stripe = some y ∧ y.k = x.k ∧ y.held = x.held ∧ y.due = x.due := by
  unfold State.placeHeld
  split
  · next a kf _ _ =>
    obtain ⟨t, got, placed, all, places, net⟩ := place_keeps a kf (x.held.filter fun h => h.1 < x.k) r x s
    rw [places]
    have put := slot_put_self (r := { r with got := got }) (x := { x with placed := placed }) (stripe := x.stripe) (Option.isSome_of_mem slot) rfl
    refine ⟨{ ({ r with got := got } : NetRec).put { x with placed := placed } with stalled := r.stalled || !all }, { x with placed := placed }, ?_, ⟨rfl, rfl, rfl, rfl⟩, put, rfl, rfl, rfl⟩
    dsimp only [State.setRec, State.setNet]
    rw [net]
  · obtain ⟨room, rfl⟩ := List.getElem?_eq_some_iff.1 there
    exact ⟨_, x, by rw [List.set_getElem_self room], ⟨rfl, rfl, rfl, rfl⟩, slot, rfl, rfl, rfl⟩

/-! ### The first fragment (R57) -/

/-- The record that a message's first fragment makes, of the receive that it claims. -/
def recordOf (block : Nat) (p : Packet) (a : Narm) : NetRec :=
  { block := block, src := p.src, tenant := p.tenant, seq := p.seq, handle := a.handle, fsize := p.fsize, m := p.m, horizon := max 1 p.horizon, length := p.length,
    tag := p.tag, kfull := none, slots := (List.range 16).map NetSlot.empty, decoded := [], told := 0, unconf := none, stalled := false, got := [] }

/-- The state with the receive claimed and the record at the end of the records. -/
def State.claim (s : State) (p : Packet) (a : Narm) : State :=
  ((s.setNet { s.net with narms := s.net.narms.map (fun x => if x.handle = a.handle then { x with claimed := true } else x), recs := s.net.recs ++ [recordOf s.freeBlock p a] }).setBackoff p none).openVa
    a.ctx a.buf a.len

theorem claim_spec (s : State) (p : Packet) (a : Narm) : (s.claim p a).net.recs = s.net.recs ++ [recordOf s.freeBlock p a] ∧ (s.claim p a).clock = s.clock ∧
    ∀ n ∈ (s.claim p a).net.narms, n.handle = a.handle → n.claimed = true := by
  unfold State.claim
  obtain ⟨_, _, _, e⟩ := openVa_frame ((s.setNet { s.net with narms := s.net.narms.map (fun x => if x.handle = a.handle then { x with claimed := true } else x), recs := s.net.recs ++ [recordOf s.freeBlock p a] }).setBackoff p none)
    a.ctx a.buf a.len
  rw [e]
  refine ⟨rfl, rfl, fun n hn same => ?_⟩
  obtain ⟨x, -, rfl⟩ := List.mem_map.1 hn
  by_cases mine : x.handle = a.handle
  · rw [if_pos mine]
  · rw [if_neg mine] at same
    exact absurd same mine

theorem net_landParity (s : State) (r : NetRec) (x : NetSlot) (i : Nat) (d : List Byte) : (s.landParity r x i d).net = s.net := by
  unfold State.landParity
  split
  · split
    · rfl
    · exact setBytes_net _ _ _
  · rfl

/-- The slot that a message's first fragment takes (R58). -/
def firstSlot (p : Packet) (due : Nat) : NetSlot := ⟨.filling, p.stripe, p.k, [], [], 0, 0, due⟩

/-- A fragment whose slot is free takes it. -/
theorem landFrag_first {t : State} {i : Nat} {r : NetRec} {p : Packet} (there : t.net.recs[i]? = some r) (slot : r.slot p.stripe = some (NetSlot.empty p.stripe)) (whole : p.trimmed = false)
    (index : p.findex < p.k + r.m) :
    ∃ q x, (t.landFrag i r p).net = { t.net with recs := t.net.recs.set i q } ∧ SameMessage r q ∧ q.slot p.stripe = some x ∧ x.k = p.k ∧ x.held = [(p.findex, p.payload)] ∧
      x.due = t.clock + usCycles r.horizon := by
  let x := firstSlot p (t.clock + usCycles r.horizon)
  let q : NetRec := { r with slots := r.slots.set (p.stripe % 16) x, kfull := r.learn p.stripe p.k }
  have taken : q.slot p.stripe = some x := slot_put_self (r := r) (x := x) (Option.isSome_of_mem slot) rfl
  have lands : t.landFrag i r p = (t.setRec i q).fillSlot i q x p := by
    rw [State.landFrag, slot]
    exact if_pos rfl
  have room : i < t.net.recs.length := (List.getElem?_eq_some_iff.1 there).1
  have net : (((t.setRec i q).setRec i (q.put (x.fill p))).landParity q (x.fill p) p.findex p.payload).net = { t.net with recs := t.net.recs.set i (q.put (x.fill p)) } := by
    rw [net_landParity, setRec_setRec]
    rfl
  obtain ⟨q', y, kept, same, holds⟩ := placeHeld_keeps (x := x.fill p) (i := i) (r := q.put (x.fill p)) (by rw [net]; exact List.getElem?_set_self room)
    (slot_put_self (Option.isSome_of_mem taken) rfl)
  refine ⟨q', y, ?_, ⟨same.src, same.tenant, same.seq, same.handle⟩, holds⟩
  rw [lands, fillSlot_accepts rfl (fun h hh => absurd hh List.not_mem_nil) whole index, kept, net]
  simp only [List.set_set]

/-! ### Its answer (R57) -/

section
variable {s : State} {p : Packet} (fragment : p.kind < 2) (arrives : Arrives s p p.kind) (unknown : s.recIdx p = none) (fresh : s.lateFor p = none) (first : p.stripe < 16)
  (room : s.net.recs.length < 512) (quota : (s.net.recs.filter fun r => r.tenant == p.tenant).length < fld (s.reg (0x6000 + 8 * p.tenant)) 63 54)
include fresh first room quota

/-- What becomes of a message that a record can be opened for. -/
theorem newMessage_opens : ¬((s.lateFor p).isSome = true ∨ 16 ≤ p.stripe) ∧
    ¬(512 ≤ s.net.recs.length ∨ fld (s.reg (0x6000 + 8 * p.tenant)) 63 54 ≤ (s.net.recs.filter fun r => r.tenant == p.tenant).length) := by
  rw [fresh]
  refine ⟨?_, by omega⟩
  rintro (late | far)
  · cases late
  · omega

include fragment arrives unknown

theorem exec_fragmentReceive_noReceive (none : s.matchNarm p.tenant p.tag = none) : exec (.fragmentReceive p) s = .next (s.answer p 5 2) := by
  obtain ⟨opens, holds⟩ := newMessage_opens fresh first room quota
  rw [exec_fragmentReceive_new arrives fragment unknown, State.newMessage, if_neg opens, if_neg holds, none]

variable {a : Narm} (oldest : s.matchNarm p.tenant p.tag = some a)
include oldest

theorem exec_fragmentReceive_tooLong (short : a.len < p.length) : exec (.fragmentReceive p) s = .next (s.answer p 5 3) := by
  obtain ⟨opens, holds⟩ := newMessage_opens fresh first room quota
  rw [exec_fragmentReceive_new arrives fragment unknown, State.newMessage, if_neg opens, if_neg holds, oldest]
  exact congrArg _ (if_pos short)

/-- The oldest armed receive of the tag is claimed by a record that holds the fragment. -/
theorem exec_fragmentReceive_claims (fits : p.length ≤ a.len) (whole : p.trimmed = false) (index : p.findex < p.k + p.m) :
    ∃ t r x, exec (.fragmentReceive p) s = .next t ∧ t.net.recs = s.net.recs ++ [r] ∧ r.src = p.src ∧ r.tenant = p.tenant ∧ r.seq = p.seq ∧ r.handle = a.handle ∧
      r.slot p.stripe = some x ∧ x.k = p.k ∧ x.held = [(p.findex, p.payload)] ∧ x.due = s.clock + max 1 p.horizon * Config.cyclesPerUs ∧
      ∀ n ∈ t.net.narms, n.handle = a.handle → n.claimed = true := by
  obtain ⟨opens, holds⟩ := newMessage_opens fresh first room quota
  obtain ⟨recs, clock, claimed⟩ := claim_spec s p a
  have there : (s.claim p a).net.recs[s.net.recs.length]? = some (recordOf s.freeBlock p a) := by rw [recs, List.getElem?_append_right (Nat.le_refl _), Nat.sub_self]; rfl
  have slot : (recordOf s.freeBlock p a).slot p.stripe = some (NetSlot.empty p.stripe) := by
    have place : p.stripe % 16 = p.stripe := Nat.mod_eq_of_lt first
    rw [NetRec.slot, place]
    exact (List.getElem?_map ..).trans (by rw [List.getElem?_range first]; rfl)
  obtain ⟨q, x, net, same, mine, k, held, due⟩ := landFrag_first there slot whole index
  refine ⟨(s.claim p a).landFrag s.net.recs.length (recordOf s.freeBlock p a) p, q, x, ?_, ?_, same.src, same.tenant, same.seq, same.handle, mine, k, held, ?_, ?_⟩
  · rw [exec_fragmentReceive_new arrives fragment unknown, State.newMessage, if_neg opens, if_neg holds, oldest]
    exact congrArg _ (if_neg (Nat.not_lt.2 fits))
  · rw [net, recs]
    dsimp only
    rw [List.set_append_right _ _ (Nat.le_refl _), Nat.sub_self]
    rfl
  · rw [due, clock]
    rfl
  · rw [net]
    exact claimed

end

end Sys2Proof.Machine

/-! SUPPORT. The end of a stripe's decoding: what is missing goes into the buffer (R58, R65). -/

namespace Sys2Proof.Machine

/-- A list of fragments by index, cut at one of them. -/
theorem zip_range_cut {k j : Nat} {l : List (List Byte)} {d : List Byte} (hj : j < k) (hd : l[j]? = some d) :
    ∃ before after, (List.range k).zip l = before ++ (j, d) :: after ∧ ∀ e ∈ before ++ after, e.1 < k ∧ e.1 ≠ j := by
  obtain ⟨room, rfl⟩ := List.getElem?_eq_some_iff.1 hd
  have length : j < ((List.range k).zip l).length := by
    rw [List.length_zip, List.length_range]
    omega
  have at_ (i : Nat) (hi : i < ((List.range k).zip l).length) : (((List.range k).zip l)[i]).1 = i := by
    rw [List.getElem_zip, List.getElem_range]
  have small (i : Nat) (hi : i < ((List.range k).zip l).length) : i < k := by
    rw [List.length_zip, List.length_range] at hi
    omega
  refine ⟨((List.range k).zip l).take j, ((List.range k).zip l).drop (j + 1), ?_, fun e he => ?_⟩
  · have here : ((List.range k).zip l)[j] = (j, l[j]) := by rw [List.getElem_zip, List.getElem_range]
    rw [← here, List.getElem_cons_drop, List.take_append_drop]
  · obtain before | after := List.mem_append.1 he
    · obtain ⟨i, hi, rfl⟩ := List.mem_take_iff_getElem.1 before
      rw [at_ i (by omega)]
      exact ⟨small i (by omega), by omega⟩
    · obtain ⟨i, hi, rfl⟩ := List.mem_drop_iff_getElem.1 after
      rw [at_ (j + 1 + i) (by omega)]
      exact ⟨small _ (by omega), by omega⟩

section
variable {s u : State} {rec stripe kf j off : Nat} {r : NetRec} {x : NetSlot} {a : Narm} {d w : List Byte} (there : s.net.recs[rec]? = some r) (slot : r.slot stripe = some x)
  (receive : s.narmOf r.handle = some a) (decoding : x.st = .decoding) (mine : x.stripe = stripe) (message : r.length ≠ 0) (full : r.kfull = some kf)
  (placed : ∀ i < x.k, i ≠ j → i ∈ x.placed) (hj : j < x.k) (unplaced : j ∉ x.placed) (decoded : (decodeStripe x.k r.m (x.held.take x.k))[j]? = some d)
  (hoff : off = stripe * kf * fragBytes r.fsize + j * fragBytes r.fsize) (hw : w = d.take (r.length - off)) (bytes : w ≠ [])
  (write : s.engWrite (hubEng a.tenant a.ctx a.gtag) .mem ((a.buf + off) % 2 ^ 64) w false false = .ok u)
include there slot receive decoding mine message full placed hj unplaced decoded hoff hw bytes write

/-- The one fragment that does not stand in the buffer yet is written, and the stripe's writes are made. -/
theorem exec_decodeComplete_writes : exec (.decodeComplete rec stripe) s = .next ((s.hubWrote u).setRec rec
    { r with slots := r.slots.set (stripe % 16) { x with placed := x.placed ++ [j], st := .written }, got := r.got ++ [(off, w)], stalled := false }) := by
  have run : exec (.decodeComplete rec stripe) s = execDecodeComplete rec stripe s := rfl
  obtain ⟨before, after, cut, others⟩ := zip_range_cut hj decoded
  have before_placed : ∀ e ∈ before, e.1 ∈ x.placed := fun e he => by
    obtain ⟨small, other⟩ := others e (List.mem_append_left _ he)
    exact placed e.1 small other
  have after_placed : ∀ e ∈ after, e.1 ∈ x.placed ++ [j] := fun e he => by
    obtain ⟨small, other⟩ := others e (List.mem_append_right _ he)
    exact List.mem_append_left _ (placed e.1 small other)
  have piece : r.fragPlace kf x.stripe j d = (off, w) := by
    rw [hw, hoff, mine]
    rfl
  have places : State.place a kf ((List.range x.k).zip (decodeStripe x.k r.m (x.held.take x.k))) r x s =
      (s.hubWrote u, { r with got := r.got ++ [(off, w)] }, { x with placed := x.placed ++ [j] }, true) := by
    rw [cut, place_skips a kf r s before_placed, place_writes a kf after piece unplaced bytes write]
    have rest := place_skips a kf { r with got := r.got ++ [(off, w)] } (x := { x with placed := x.placed ++ [j] }) (s.hubWrote u) after_placed []
    rwa [List.append_nil] at rest
  have goes : ¬(x.st ≠ .decoding ∨ x.stripe ≠ stripe) := fun h => h.elim (· decoding) (· mine)
  rw [run, execDecodeComplete, there]
  dsimp only
  rw [slot, receive]
  dsimp only
  rw [if_neg goes, if_neg message, full]
  dsimp only
  rw [places]
  simp only [NetRec.put, mine, full, Bool.not_true, if_true]

end

end Sys2Proof.Machine

/-! SUPPORT. The frames of a message's buffer, and its bytes in them as it completes (R63). -/

namespace Sys2Proof.Machine

/-! ### Where a virtual address lies -/

section
variable {s t : State} (bytes : ∀ a, t.rd64 a = s.rd64 a) (xl : t.xl = s.xl)
include bytes

theorem walkFrom_congr (look : Look) (place : Place) (two : Bool) (a lvl table : Nat) : t.walkFrom look place two a lvl table = s.walkFrom look place two a lvl table := by
  induction lvl generalizing table with
  | zero =>
    rw [State.walkFrom, State.walkFrom]
    simp only [bytes]
  | succ lvl ih =>
    rw [State.walkFrom, State.walkFrom]
    cases place (pteAt two table (lvl + 1) a) with
    | error k => rfl
    | ok pte =>
      have entry : t.entryAt look two (lvl + 1) a pte = s.entryAt look two (lvl + 1) a pte := by rw [State.entryAt, bytes, State.entryAt]
      dsimp only
      rw [entry, ih]

include xl

omit bytes in
theorem leafCheck_congr (sup : Bool) (acc : Acc) (lvl : Nat) (l : Word) (pa : Nat) : t.leafCheck sup acc lvl l pa = s.leafCheck sup acc lvl l pa := by
  have scheme (pa : Nat) : t.scheme pa = s.scheme pa := by rw [State.scheme, State.scheme, State.frameReserved, State.frameReserved, xl]
  simp only [State.leafCheck, scheme]

theorem guestPlace_congr (look : Look) (root : Nat) : t.guestPlace look root = s.guestPlace look root := by
  funext gpa
  simp only [State.guestPlace, walkFrom_congr bytes, leafCheck_congr xl]

theorem found_congr (look : Look) (c : Ctx) (sup : Bool) (acc : Acc) (va : Word) : t.found look c sup acc va = s.found look c sup acc va := by
  have root : t.guestRoot c = s.guestRoot c := by rw [State.guestRoot, State.guestRoot, xl]
  simp only [State.found, root, walkFrom_congr bytes, guestPlace_congr bytes xl, leafCheck_congr xl]

theorem frameOf_congr (ctx va : Nat) : t.frameOf ctx va = s.frameOf ctx va := by
  have bound : t.ctx? ctx = s.ctx? ctx := by rw [State.ctx?, State.ctx?, xl]
  simp only [State.frameOf, bound, found_congr bytes xl]

end

theorem frameOf_same {s t : State} (mem : t.mem = s.mem) (unknown : t.memOpen = s.memOpen) (xl : t.xl = s.xl) (ctx va : Nat) : t.frameOf ctx va = s.frameOf ctx va :=
  frameOf_congr (fun a => by rw [State.rd64, rdMem_congr fun i _ => byte_congr mem unknown (a + i), State.rd64]) xl ctx va

/-! ### An extent within one page -/

/-- An extent that is one piece is that piece. -/
theorem pageCuts_single {a len va n : Nat} (h : pageCuts a len = [(va, n)]) : va = a ∧ n = len := by
  have only (i : Nat) (hi : i < 2) (some : min (a + len) ((a / 4096 + i + 1) * 4096) - max a ((a / 4096 + i) * 4096) ≠ 0) :
      max a ((a / 4096 + i) * 4096) = va ∧ min (a + len) ((a / 4096 + i + 1) * 4096) - max a ((a / 4096 + i) * 4096) = n := by
    have there : (max a ((a / 4096 + i) * 4096), min (a + len) ((a / 4096 + i + 1) * 4096) - max a ((a / 4096 + i) * 4096)) ∈ pageCuts a len :=
      List.mem_filter.2 ⟨List.mem_map.2 ⟨i, List.mem_range.2 (by omega), rfl⟩, by simpa using some⟩
    rw [h] at there
    injection List.mem_singleton.1 there with first second
    exact ⟨first, second⟩
  have first := only 0 (by omega)
  have second := only 1 (by omega)
  have empty : len = 0 → pageCuts a len = [] := fun none => List.filter_eq_nil_iff.2 fun x hx => by
    obtain ⟨i, -, rfl⟩ := List.mem_map.1 hx
    have nothing : min (a + len) ((a / 4096 + i + 1) * 4096) - max a ((a / 4096 + i) * 4096) = 0 := by omega
    simpa using nothing
  have some : len ≠ 0 := fun none => by
    rw [empty none] at h
    cases h
  omega

/-! ### The message's bytes in their frames -/

/-- t is s but for memory, registers and reservations: what a unit's write of bytes changes (R122). -/
def BytesOnly (s t : State) : Prop := ∃ mem unknown regs hosts, t = { s with mem := mem, memOpen := unknown, regs := regs, hub := { s.hub with hosts := hosts } }

theorem BytesOnly.trans {s t u : State} : BytesOnly s t → BytesOnly t u → BytesOnly s u := by
  rintro ⟨_, _, _, _, rfl⟩ ⟨_, _, _, _, rfl⟩
  exact ⟨_, _, _, _, rfl⟩

theorem bytesOnly_setBytes (s : State) (a : Nat) (d : List Byte) : BytesOnly s (s.setBytes a d) := ⟨_, _, _, _, setBytes_frame s a d⟩

/-- A unit's write changes no byte but its own: what its windows count stands in registers. -/
theorem unitWrote_frame (s : State) (a n : Nat) : ∃ regs hosts, s.unitWrote a n = { s with regs := regs, hub := { s.hub with hosts := hosts } } := by
  unfold State.unitWrote
  refine List.foldlRecOn _ _ (motive := fun t : State => ∃ regs hosts, t = { s with regs := regs, hub := { s.hub with hosts := hosts } }) ⟨_, _, rfl⟩ fun t ht i _ => ?_
  extract_lets lo hi
  clear_value lo hi
  obtain ⟨_, _, rfl⟩ := ht
  split <;> exact ⟨_, _, rfl⟩

theorem bytesOnly_unitWrote (s : State) (a n : Nat) : BytesOnly s (s.unitWrote a n) := by
  obtain ⟨_, _, e⟩ := unitWrote_frame s a n
  exact ⟨_, _, _, _, e⟩

theorem bytesOnly_foldl {α : Type} {f : State → α → State} (step : ∀ s x, BytesOnly s (f s x)) (l : List α) (s : State) : BytesOnly s (l.foldl f s) :=
  List.foldlRecOn l f (motive := BytesOnly s) ⟨_, _, _, _, rfl⟩ fun t ht x _ => ht.trans (step t x)

theorem bytesOnly_writeVa (s : State) (ctx buf : Nat) (l : List (Nat × List Byte)) : BytesOnly s (s.writeVa ctx buf l) := by
  refine bytesOnly_foldl (fun t d => bytesOnly_foldl (fun t x => ?_) _ t) l s
  split
  · exact (bytesOnly_setBytes _ _ _).trans (bytesOnly_unitWrote _ _ _)
  · exact ⟨_, _, _, _, rfl⟩

/-- Bytes of a message that lie in one page stand in its frame. -/
theorem rdMem_writeVa {s : State} {ctx buf off va n pa : Nat} {d : List Byte} (wf : memWf s.mem = true) (cut : pageCuts (buf + off) d.length = [(va, n)]) (frame : s.frameOf ctx va = some pa) :
    (s.writeVa ctx buf [(off, d)]).rdMem pa n = leNat d := by
  obtain ⟨rfl, rfl⟩ := pageCuts_single cut
  have whole : (d.drop (buf + off - (buf + off))).take d.length = d := by rw [Nat.sub_self, List.drop_zero, List.take_length]
  have writes : s.writeVa ctx buf [(off, d)] = (s.setBytes pa d).unitWrote pa d.length := by
    simp only [State.writeVa, List.foldl_cons, List.foldl_nil, cut, frame, whole]
  obtain ⟨_, _, e⟩ := unitWrote_frame (s.setBytes pa d) pa d.length
  rw [writes, e]
  exact (rdMem_congr fun i _ => byte_congr rfl rfl _).trans (rdMem_setBytes pa d wf)

/-- The same after a change of the network's state alone. -/
theorem writeVa_setNet (s : State) (net : Net) (ctx buf : Nat) (l : List (Nat × List Byte)) : ∃ mem unknown regs hosts,
    (s.setNet net).writeVa ctx buf l = { s with net := net, mem := mem, memOpen := unknown, regs := regs, hub := { s.hub with hosts := hosts } } :=
  bytesOnly_writeVa (s.setNet net) ctx buf l

theorem rdMem_writeVa_setNet {s : State} (net : Net) {ctx buf off va n pa : Nat} {d : List Byte} (wf : memWf s.mem = true) (cut : pageCuts (buf + off) d.length = [(va, n)])
    (frame : s.frameOf ctx va = some pa) : ((s.setNet net).writeVa ctx buf [(off, d)]).rdMem pa n = leNat d :=
  rdMem_writeVa wf cut ((frameOf_same (s := s) (t := s.setNet net) rfl rfl rfl ctx va).trans frame)

end Sys2Proof.Machine

/-! SUPPORT. How a message ends at its receiver: it fails or completes, its identity enters the filter and its receive is no longer armed (R57, R60, R63). -/

namespace Sys2Proof.Machine

theorem recordsOnly_clock {s t : State} (h : RecordsOnly s t) : t.clock = s.clock := by
  obtain ⟨_, _, _, _, rfl⟩ := h
  rfl

/-! ### Its record goes, its identity enters the filter (R57) -/

/-- The state without a record, and with its message's identity in the filter. -/
def State.closed (s : State) (r : NetRec) (ok : Bool) : State :=
  (s.setNet { s.net with recs := s.net.recs.filter fun x => x != r }).filterAdd r.src r.tenant r.seq ok

theorem getLast?_filterAdd (s : State) (src tenant seq : Nat) (ok : Bool) : (s.filterAdd src tenant seq ok).net.filter.getLast? = some ⟨src, tenant, seq, ok, s.clock⟩ := List.getLast?_concat

theorem recs_closed {s : State} {r : NetRec} (ok : Bool) : ∀ x ∈ (s.closed r ok).net.recs, x ≠ r := fun x hx => by simpa using (List.mem_filter.1 hx).2

/-- The state without an armed receive. -/
def State.disarmed (s : State) (a : Narm) : State := s.setNet { s.net with narms := s.net.narms.filter fun x => x.handle != a.handle }

theorem narms_disarmed {s : State} {handle : Nat} {a : Narm} (h : s.narmOf handle = some a) : ∀ n ∈ (s.disarmed a).net.narms, n.handle ≠ handle := fun n hn => by
  have same : a.handle = handle := by simpa using List.find?_some h
  have other := (List.mem_filter.1 hn).2
  rw [same] at other
  simpa using other

theorem narmOf_congr {s t : State} (h : t.net.narms = s.net.narms) (handle : Nat) : t.narmOf handle = s.narmOf handle := by rw [State.narmOf, h, State.narmOf]

theorem narms_of_narmOf_none {s : State} {handle : Nat} (h : s.narmOf handle = none) : ∀ n ∈ s.net.narms, n.handle ≠ handle := fun n hn => by
  simpa using List.find?_eq_none.1 h n hn

theorem narmSignal_without {s : State} {a : Narm} (h : a.obj = 0) (status : Nat) : s.narmSignal a status = s := if_pos h

/-! ### It fails (R60) -/

/-- What becomes of the receive of a message that fails. -/
def State.receiveFails (s : State) (handle cause : Nat) : State :=
  match s.narmOf handle with
  | some a => ((s.disarmed a).openVa a.ctx a.buf a.len).narmSignal a cause
  | none => s

/-- The receive of a message that fails is no longer armed; where it names no object, only its buffer changes beside. -/
theorem receiveFails_spec {s : State} {handle : Nat} (cause : Nat) (quiet : ∀ a, s.narmOf handle = some a → a.obj = 0) : let t := s.receiveFails handle cause
    t.clock = s.clock ∧ t.net = { s.net with narms := t.net.narms } ∧ ∀ n ∈ t.net.narms, n.handle ≠ handle := by
  unfold State.receiveFails
  cases h : s.narmOf handle with
  | none => exact ⟨rfl, rfl, narms_of_narmOf_none h⟩
  | some a =>
    dsimp only
    obtain ⟨_, _, _, e⟩ := openVa_frame (s.disarmed a) a.ctx a.buf a.len
    rw [narmSignal_without (quiet a h), e]
    exact ⟨rfl, rfl, narms_disarmed h⟩

/-- A failure: the notice, the count, the receive, the record. -/
theorem recFail_eq (s : State) (r : NetRec) (cause stripe : Nat) (notice : Bool) : ∃ w0 w1 w2 hi, s.recFail r cause stripe notice =
    ((((if notice then (s.closed r false).recSend r 7 stripe (r.kOf stripe) (if cause = 6 then 6 else 1) else s.closed r false).rxCount r.tenant 39 32).receiveFails r.handle cause).post r.tenant w0 w1 w2 hi) :=
  ⟨_, _, _, _, rfl⟩

/-- What the other side and the filter learn of a message that fails without a reset. -/
theorem recFail_spec {s : State} {r : NetRec} {cause stripe : Nat} (ok : r.Fits) (hstripe : stripe < 2 ^ 20) (reset : cause ≠ 6) (quiet : ∀ a, s.narmOf r.handle = some a → a.obj = 0) :
    let t := s.recFail r cause stripe true
    LastSent t 7 r.src r.tenant r.seq stripe 1 ∧ t.net.filter.getLast? = some ⟨r.src, r.tenant, r.seq, false, s.clock⟩ ∧ (∀ n ∈ t.net.narms, n.handle ≠ r.handle) ∧
      (∀ x ∈ t.net.recs, x ≠ r) ∧ t.clock = s.clock := by
  obtain ⟨w0, w1, w2, hi, e⟩ := recFail_eq s r cause stripe true
  rw [if_pos rfl, if_neg reset] at e
  have sent := lastSent_recSend (s.closed r false) (r.kOf stripe) (kind := 7) ok (by omega) hstripe (Nat.one_lt_two_pow (by omega))
  have filter := getLast?_filterAdd (s.setNet { s.net with recs := s.net.recs.filter fun x => x != r }) r.src r.tenant r.seq false
  have recs := recs_closed (s := s) (r := r) false
  obtain ⟨u, hu⟩ : ∃ u, u = ((s.closed r false).recSend r 7 stripe (r.kOf stripe) 1).rxCount r.tenant 39 32 := ⟨_, rfl⟩
  have armed : u.net.narms = s.net.narms := by rw [hu]; rfl
  have quiet : ∀ a, u.narmOf r.handle = some a → a.obj = 0 := fun a ha => quiet a (narmOf_congr armed r.handle ▸ ha)
  obtain ⟨clock, net, narms⟩ := receiveFails_spec cause quiet
  dsimp only
  rw [e, ← hu]
  have posted := recordsOnly_post (u.receiveFails r.handle cause) r.tenant w0 w1 w2 hi
  have kept := posted.net
  have time := recordsOnly_clock posted
  generalize (u.receiveFails r.handle cause).post r.tenant w0 w1 w2 hi = t at kept time ⊢
  have out : t.net.out = u.net.out := by rw [kept, net]
  have late : t.net.filter = u.net.filter := by rw [kept, net]
  have records : t.net.recs = u.net.recs := by rw [kept, net]
  refine ⟨sent.congr (by rw [out, hu]; rfl), ?_, by rw [kept]; exact narms, ?_, (time.trans clock).trans (by rw [hu]; rfl)⟩
  · rw [late, hu]
    exact filter
  · rw [records, hu]
    exact recs

/-! ### It completes (R63) -/

/-- What becomes of the receive of a message that completes. -/
def State.receiveEnds (s : State) (r : NetRec) : State :=
  match s.narmOf r.handle with
  | some a =>
    let s := s.disarmed a
    let s := if s.touchedVa a.ctx a.buf a.len a.since then s.openVa a.ctx a.buf a.len else s.writeVa a.ctx a.buf r.got
    let s := s.narmSignal a 0
    if a.launch.isEmpty then s else s.launchArmed a.tenant a.launch (some (BitVec.ofNat 64 a.buf))
  | none => s

theorem recComplete_eq (s : State) (r : NetRec) : s.recComplete r = ((s.closed r true).receiveEnds r).recSend r 4 0 (r.kOf 0) 0 := rfl

theorem lastSent_recComplete (s : State) {r : NetRec} (ok : r.Fits) : LastSent (s.recComplete r) 4 r.src r.tenant r.seq 0 0 := by
  rw [recComplete_eq]
  exact lastSent_recSend _ (r.kOf 0) ok (by omega) (Nat.two_pow_pos _) (Nat.two_pow_pos _)

theorem touchedVa_unwritten {s : State} (h : s.hub.wrote = []) (ctx va n since : Nat) : s.touchedVa ctx va n since = false := by
  rw [State.touchedVa, h]
  rfl

/-- A completed message whose receive names no object and no launch, and whose buffer nobody wrote: its bytes stand in the frames of its buffer, and its receive is no longer armed. -/
theorem recComplete_spec {s : State} {r : NetRec} {a : Narm} (receive : s.narmOf r.handle = some a) (object : a.obj = 0) (launch : a.launch = []) (unwritten : s.hub.wrote = []) :
    let t := s.recComplete r
    t.net.filter.getLast? = some ⟨r.src, r.tenant, r.seq, true, s.clock⟩ ∧ (∀ n ∈ t.net.narms, n.handle ≠ r.handle) ∧
      t = { s with net := t.net, mem := t.mem, memOpen := t.memOpen, regs := t.regs, hub := { s.hub with hosts := t.hub.hosts } } ∧
      ∀ off d va n pa, memWf s.mem = true → r.got = [(off, d)] → pageCuts (a.buf + off) d.length = [(va, n)] → s.frameOf a.ctx va = some pa → t.rdMem pa n = leNat d := by
  have filter := getLast?_filterAdd (s.setNet { s.net with recs := s.net.recs.filter fun x => x != r }) r.src r.tenant r.seq true
  have receive : (s.closed r true).narmOf r.handle = some a := receive
  have narms := narms_disarmed receive
  have ends : (s.closed r true).receiveEnds r = ((s.closed r true).disarmed a).writeVa a.ctx a.buf r.got := by
    rw [State.receiveEnds, receive]
    dsimp only
    rw [touchedVa_unwritten (s := (s.closed r true).disarmed a) unwritten, narmSignal_without object, launch, if_neg Bool.false_ne_true]
    rfl
  obtain ⟨net, hnet⟩ : ∃ net, (s.closed r true).disarmed a = s.setNet net := ⟨_, rfl⟩
  have filter : net.filter.getLast? = some ⟨r.src, r.tenant, r.seq, true, s.clock⟩ := (congrArg (fun t : State => t.net.filter.getLast?) hnet).symm.trans filter
  rw [hnet] at narms ends
  obtain ⟨mem, unknown, regs, hosts, written⟩ := writeVa_setNet s net a.ctx a.buf r.got
  dsimp only
  rw [recComplete_eq, ends]
  refine ⟨?_, ?_, ?_, fun off d va n pa wf got cut frame => ?_⟩
  · rw [written]
    exact filter
  · rw [written]
    exact narms
  · rw [written]
    rfl
  · have read := rdMem_writeVa_setNet net wf cut frame
    rw [got]
    exact read

end Sys2Proof.Machine

/-! SUPPORT. The steps of a record: a stripe decoded and confirmed, the timers, the sender's notices (R58 to R63). -/

namespace Sys2Proof.Machine

/-! ### Stripes (R58, R63) -/

theorem pending_le (r : NetRec) : r.pending ≤ r.decoded.length := by
  unfold NetRec.pending
  cases h : (List.range (r.decoded.length + 1)).find? fun i => !r.decoded.contains i with
  | none => exact Nat.zero_le _
  | some i =>
    have := List.mem_range.1 (List.mem_of_find?_eq_some h)
    rw [Option.getD_some]
    omega

theorem recs_setRec {s : State} {i : Nat} (r : NetRec) : (s.setRec i r).net.recs = s.net.recs.set i r := rfl

/-- The record once its decoded stripes are confirmed. -/
def NetRec.confirmed (r : NetRec) : NetRec := { r with told := r.decoded.length, unconf := none }

/-- A stripe confirmation names the first stripe that is not decoded. -/
theorem stripeConfirm_spec (s : State) (i : Nat) {r : NetRec} (ok : r.Fits) (few : r.decoded.length ≤ 2 ^ 20) : let t := s.stripeConfirm i r
    LastSent t 3 r.src r.tenant r.seq 0 r.pending ∧ t.net.recs = s.net.recs.set i r.confirmed ∧ t = { s with net := t.net } := by
  have body : r.pending < 2 ^ 64 := Nat.lt_of_le_of_lt ((pending_le r).trans few) (Nat.pow_lt_pow_right (by omega) (by omega))
  exact ⟨lastSent_recSend (r := r.confirmed) _ (r.kOf 0) ok (by omega) (by omega) body, rfl, rfl⟩

section
variable {s : State} {rec n : Nat} {r : NetRec} (there : s.net.recs[rec]? = some r) (ok : RecOk r)
include there ok

/-- Two microseconds after the first unconfirmed decode the stripes are confirmed (R63). -/
theorem exec_stripeConfirmTimer_confirms (due : r.unconf = some n) : ∃ t, exec (.stripeConfirmTimer rec) s = .next t ∧ t.clock = max s.clock n ∧ LastSent t 3 r.src r.tenant r.seq 0 r.pending ∧
    t.net.recs = s.net.recs.set rec { r with told := r.decoded.length, unconf := none } := by
  have run : exec (.stripeConfirmTimer rec) s = execStripeConfirmTimer rec s := rfl
  obtain ⟨sent, recs, -⟩ := stripeConfirm_spec (s.upTo n) rec (fits_of_recOk ok) ok.2.2.2.le
  refine ⟨(s.upTo n).stripeConfirm rec r, ?_, rfl, sent, recs⟩
  rw [run, execStripeConfirmTimer, there]
  dsimp only
  rw [due]

end

/-- The record once a stripe of it is decoded. -/
def NetRec.decodes (r : NetRec) (stripe : Nat) (x : NetSlot) : NetRec := { r with slots := r.slots.set (stripe % 16) { x with st := .decoded }, decoded := r.decoded ++ [stripe] }

section
variable {s : State} {rec stripe total : Nat} {r : NetRec} {x : NetSlot} (there : s.net.recs[rec]? = some r) (slot : r.slot stripe = some x) (written : x.st = .written)
  (mine : x.stripe = stripe) (ok : RecOk r) (htotal : total = stripesOf r.length (fragBytes r.fsize) (r.kfull.getD 1))
include there slot written mine htotal

/-- What becomes of the record: it completes, or its stripes are confirmed at once or later. -/
theorem exec_stripeDecoded_decodes (goes : s.holdsLaunch r = false) : exec (.stripeDecoded rec stripe) s = .next (let t := s.setRec rec (r.decodes stripe x)
    if total ≤ r.decoded.length + 1 then t.recComplete (r.decodes stripe x)
    else if 4 ≤ r.decoded.length + 1 - r.told then t.stripeConfirm rec (r.decodes stripe x)
    else if r.unconf.isSome then t else t.setRec rec { r.decodes stripe x with unconf := some (s.clock + usCycles 2) }) := by
  have run : exec (.stripeDecoded rec stripe) s = execStripeDecoded rec stripe s := rfl
  have length : (r.decoded ++ [stripe]).length = r.decoded.length + 1 := List.length_append
  rw [run, execStripeDecoded, there]
  dsimp only
  rw [slot]
  dsimp only
  rw [if_neg (by simp [written, mine, goes]), ← htotal, length]
  split
  · rfl
  · split
    · rfl
    · split
      · next n waits => exact congrArg Host.Outcome.next (if_pos (by rw [waits]; rfl)).symm
      · next waits => exact congrArg Host.Outcome.next (if_neg (by rw [waits]; exact Bool.false_ne_true)).symm

include ok

/-- Before the last stripe, the record has one more stripe decoded; four unconfirmed ones are confirmed at once. -/
theorem exec_stripeDecoded_more (more : r.decoded.length + 1 < total) : ∃ t r', exec (.stripeDecoded rec stripe) s = .next t ∧ t.net.recs = s.net.recs.set rec r' ∧
    r'.slot stripe = some { x with st := .decoded } ∧ r'.decoded = r.decoded ++ [stripe] ∧ t = { s with net := t.net } ∧
    (4 ≤ r.decoded.length + 1 - r.told → LastSent t 3 r.src r.tenant r.seq 0 r'.pending ∧ r'.told = r.decoded.length + 1 ∧ r'.unconf = none) := by
  have goes : s.holdsLaunch r = false := by
    rw [State.holdsLaunch, ← htotal, decide_eq_false (by omega), Bool.and_false]
  have decoded := exec_stripeDecoded_decodes there slot written mine htotal goes
  have taken : (r.decodes stripe x).slot stripe = some { x with st := .decoded } :=
    (congrArg (fun j => (r.slots.set (stripe % 16) { x with st := .decoded })[j]?) rfl).trans (List.getElem?_set_self (List.getElem?_eq_some_iff.1 slot).1)
  have length : (r.decodes stripe x).decoded.length = r.decoded.length + 1 := List.length_append
  dsimp only at decoded
  rw [if_neg (by omega)] at decoded
  by_cases four : 4 ≤ r.decoded.length + 1 - r.told
  · rw [if_pos four] at decoded
    obtain ⟨sent, recs, rest⟩ := stripeConfirm_spec (s.setRec rec (r.decodes stripe x)) rec (r := r.decodes stripe x) (fits_of_recOk (r := r) ok) (by rw [length]; exact ok.2.2.2)
    refine ⟨_, (r.decodes stripe x).confirmed, decoded, ?_, taken, rfl, rest, fun _ => ⟨sent, length, rfl⟩⟩
    rw [recs, recs_setRec, List.set_set]
  · rw [if_neg four] at decoded
    by_cases waits : r.unconf.isSome = true
    · rw [if_pos waits] at decoded
      exact ⟨_, r.decodes stripe x, decoded, rfl, taken, rfl, rfl, fun h => absurd h four⟩
    · rw [if_neg waits, setRec_setRec] at decoded
      exact ⟨_, { r.decodes stripe x with unconf := some (s.clock + usCycles 2) }, decoded, rfl, taken, rfl, rfl, fun h => absurd h four⟩

/-- The last stripe completes the message. -/
theorem exec_stripeDecoded_last (last : total ≤ r.decoded.length + 1) (room : ∀ a, s.narmOf r.handle = some a → a.launch = [] ∨ s.tableFull = false) (unwritten : s.hub.wrote = []) :
    ∃ t, exec (.stripeDecoded rec stripe) s = .next t ∧ LastSent t 4 r.src r.tenant r.seq 0 0 ∧ (∀ a, s.narmOf r.handle = some a → a.obj = 0 → a.launch = [] →
      t.net.filter.getLast? = some ⟨r.src, r.tenant, r.seq, true, s.clock⟩ ∧ (∀ n ∈ t.net.narms, n.handle ≠ r.handle) ∧
      t = { s with net := t.net, mem := t.mem, memOpen := t.memOpen, regs := t.regs, hub := { s.hub with hosts := t.hub.hosts } } ∧
      ∀ off d va n pa, memWf s.mem = true → r.got = [(off, d)] → pageCuts (a.buf + off) d.length = [(va, n)] → s.frameOf a.ctx va = some pa → t.rdMem pa n = leNat d) := by
  have goes : s.holdsLaunch r = false := by
    rw [State.holdsLaunch]
    cases h : s.narmOf r.handle with
    | none => simp
    | some a =>
      obtain none | free := room a h
      · simp [none]
      · simp [free]
  have decoded := exec_stripeDecoded_decodes there slot written mine htotal goes
  dsimp only at decoded
  rw [if_pos last] at decoded
  refine ⟨_, decoded, lastSent_recComplete _ (r := r.decodes stripe x) (fits_of_recOk (r := r) ok), fun a receive object launch => ?_⟩
  obtain ⟨filter, narms, frame, read⟩ := recComplete_spec (s := s.setRec rec (r.decodes stripe x)) (r := r.decodes stripe x) receive object launch unwritten
  refine ⟨filter, narms, frame, fun off d va n pa wf got cut there => read off d va n pa wf got cut ?_⟩
  exact (frameOf_same (s := s) (t := s.setRec rec (r.decodes stripe x)) rfl rfl rfl a.ctx va).trans there

end

/-! ### The timer of a stripe (R58 to R60) -/

section
variable {s : State} {rec stripe : Nat} {r : NetRec} {x : NetSlot} (there : s.net.recs[rec]? = some r) (slot : r.slot stripe = some x) (filling : x.st = .filling) (mine : x.stripe = stripe)
  (ok : RecOk r) (small : stripe < 2 ^ 20)
include there slot filling mine ok small

/-- What a slot does not hold is asked for, twice. -/
theorem exec_horizonTimerExpiry_asks (width : x.k + r.m ≤ 40) (again : x.repairs < 2) : ∃ t, exec (.horizonTimerExpiry rec stripe) s = .next t ∧ t.clock = max s.clock x.due ∧
    LastSent t 2 r.src r.tenant r.seq stripe ((x.repairs + 1) * 2 ^ 40 + ((2 ^ (x.k + r.m) - 1) - x.heldBits)) ∧
    t.net.recs = s.net.recs.set rec { r with slots := r.slots.set (stripe % 16) { x with repairs := x.repairs + 1, due := t.clock + r.horizon * Config.cyclesPerUs } } := by
  subst mine
  have run : exec (.horizonTimerExpiry rec x.stripe) s = execHorizonTimerExpiry rec x.stripe s := rfl
  have indices : 2 ^ (x.k + r.m) ≤ 2 ^ 40 := Nat.pow_le_pow_right (by omega) width
  let y : NetSlot := { x with repairs := x.repairs + 1, due := max s.clock x.due + usCycles r.horizon }
  let q : NetRec := { r with slots := r.slots.set (x.stripe % 16) y }
  have sent := lastSent_recSend ((s.upTo x.due).setRec rec q) (r := r) x.k (kind := 2) (fits_of_recOk ok) (by omega) small
    (b := (x.repairs + 1) * 2 ^ 40 + ((2 ^ (x.k + r.m) - 1) - x.heldBits)) (by omega)
  refine ⟨(((s.upTo x.due).setRec rec q).recSend r 2 x.stripe x.k ((x.repairs + 1) * 2 ^ 40 + ((2 ^ (x.k + r.m) - 1) - x.heldBits))).rxCount r.tenant 31 24, ?_, rfl, sent, rfl⟩
  rw [run, execHorizonTimerExpiry, there]
  dsimp only
  rw [slot]
  dsimp only
  rw [if_neg (fun h => h.elim (· filling) (· rfl)), if_pos again, State.repair]
  rfl

/-- Then the message fails. -/
theorem exec_horizonTimerExpiry_fails (twice : 2 ≤ x.repairs) (quiet : ∀ a, s.narmOf r.handle = some a → a.obj = 0) : ∃ t, exec (.horizonTimerExpiry rec stripe) s = .next t ∧
    t.clock = max s.clock x.due ∧ LastSent t 7 r.src r.tenant r.seq stripe 1 ∧ t.net.filter.getLast? = some ⟨r.src, r.tenant, r.seq, false, t.clock⟩ ∧
    (∀ n ∈ t.net.narms, n.handle ≠ r.handle) := by
  have run : exec (.horizonTimerExpiry rec stripe) s = execHorizonTimerExpiry rec stripe s := rfl
  let q : NetRec := { r with slots := r.slots.set (stripe % 16) { x with st := .lost } }
  obtain ⟨sent, filter, narms, -, clock⟩ := recFail_spec (s := (s.upTo x.due).setRec rec q) (r := q) (cause := 1) (fits_of_recOk ok) small (by omega) quiet
  refine ⟨((s.upTo x.due).setRec rec q).recFail q 1 stripe true, ?_, clock, sent, by rw [clock]; exact filter, narms⟩
  rw [run, execHorizonTimerExpiry, there]
  dsimp only
  rw [slot]
  dsimp only
  rw [if_neg (fun h => h.elim (· filling) (· mine)), if_neg (by omega)]

end

/-! ### The sender's notices (R59, R61) -/

/-- A loss notice for a message that the filter still knows is answered by what became of it. -/
theorem exec_lossNoticeReceiveReceiver_known {s : State} {p : Packet} {x : Late} (arrives : Arrives s p 7) (deadline : p.body % 256 = 5) (unknown : s.recIdx p = none) (late : s.lateFor p = some x) :
    exec (.lossNoticeReceiveReceiver p) s = .next (s.answer p (if x.ok then 4 else 8) 0) := by
  have run : exec (.lossNoticeReceiveReceiver p) s = execLossNoticeReceiveReceiver p s := rfl
  rw [run, execLossNoticeReceiveReceiver, control_arrives arrives (by omega), if_neg (not_not_intro deadline), unknown]
  simp only [Option.bind_none, late]

/-- For one that nobody knows, it is closed, and its identity enters the filter. -/
theorem exec_lossNoticeReceiveReceiver_unknown {s : State} {p : Packet} (arrives : Arrives s p 7) (deadline : p.body % 256 = 5) (unknown : s.recIdx p = none) (late : s.lateFor p = none) :
    exec (.lossNoticeReceiveReceiver p) s = .next ((s.filterAdd p.src p.tenant p.seq false).answer p 8 0) := by
  have run : exec (.lossNoticeReceiveReceiver p) s = execLossNoticeReceiveReceiver p s := rfl
  rw [run, execLossNoticeReceiveReceiver, control_arrives arrives (by omega), if_neg (not_not_intro deadline), unknown]
  simp only [Option.bind_none, late]

/-- A sender that closed the message fails it. -/
theorem exec_closedReceiveReceiver_fails {s : State} {p : Packet} {i : Nat} {r : NetRec} (arrives : Arrives s p 8) (known : s.recIdx p = some i) (there : s.net.recs[i]? = some r) (ok : RecOk r)
    (quiet : ∀ a, s.narmOf r.handle = some a → a.obj = 0) : ∃ t, exec (.closedReceiveReceiver p) s = .next t ∧ LastSent t 7 r.src r.tenant r.seq p.stripe 1 ∧ (∀ x ∈ t.net.recs, x ≠ r) ∧
      t.net.filter.getLast? = some ⟨r.src, r.tenant, r.seq, false, s.clock⟩ := by
  have run : exec (.closedReceiveReceiver p) s = execClosedReceiveReceiver p s := rfl
  obtain ⟨sent, filter, -, recs, -⟩ := recFail_spec (s := s) (r := r) (cause := 3) (stripe := p.stripe) (fits_of_recOk ok) (fld_lt p.w2 63 44) (by omega) quiet
  refine ⟨s.recFail r 3 p.stripe true, ?_, sent, recs, filter⟩
  rw [run, execClosedReceiveReceiver, control_arrives arrives (by omega), known]
  simp only [Option.bind_some, there]

/-- An identity leaves the filter after a millisecond (R57). -/
theorem exec_filterEntryExpiry_leaves {s : State} {i : Nat} {x : Late} (there : s.net.filter[i]? = some x) :
    exec (.filterEntryExpiry i) s = .next { s with clock := max s.clock (x.since + 1000 * Config.cyclesPerUs), net := { s.net with filter := s.net.filter.eraseIdx i } } := by
  have run : exec (.filterEntryExpiry i) s = execFilterEntryExpiry i s := rfl
  rw [run, execFilterEntryExpiry, there]
  rfl

end Sys2Proof.Machine

/-! PROOFS. O53: a receiver takes fragments, decodes, confirms, repairs and fails (R56 to R63). -/

namespace Sys2Proof.Machine

/-- Settles O53, clause by clause: a fragment of a known message, the first of one, the end of a decoding, a stripe decoded, the timers of a confirmation and of a stripe, the sender's loss notice, its closed
packet, and the filter. -/
theorem receiversFinish : Obligations.ReceiversFinish := by
  unfold Obligations.ReceiversFinish
  refine ⟨?known, ?first, ?decode, ?stripe, ?confirm, ?horizon, ?loss, ?closed, fun s i x there => exec_filterEntryExpiry_leaves there⟩
  case known =>
    intro s u p i kf r x a fragment arrives known there slot filling mine new whole y v
    refine ⟨fun index full landing => exec_fragmentReceive_fills fragment arrives known there slot filling mine new whole index full landing, ?_⟩
    intro off data full receive placed unplaced some write
    exact exec_fragmentReceive_places fragment arrives known there slot filling mine new whole rfl rfl data full receive placed unplaced some write
  case first =>
    intro s p fragment arrives unknown fresh first room quota
    refine ⟨fun none => ?_, fun a oldest => ⟨fun short => ?_, fun fits whole index => ?_⟩⟩
    · exact ⟨_, exec_fragmentReceive_noReceive fragment arrives unknown fresh first room quota none, lastSent_answer s p (by omega) (by omega), rfl⟩
    · exact ⟨_, exec_fragmentReceive_tooLong fragment arrives unknown fresh first room quota oldest short, lastSent_answer s p (by omega) (by omega), rfl⟩
    · exact exec_fragmentReceive_claims fragment arrives unknown fresh first room quota oldest fits whole index
  case decode =>
    intro s u rec stripe kf j r x a d there slot receive decoding mine message full placed hj unplaced decoded off bytes write
    refine ⟨_, _, exec_decodeComplete_writes there slot receive decoding mine message full placed hj unplaced decoded rfl rfl bytes write, rfl, ?_, ?_, rfl⟩
    · exact fun i other => (slot_set_ne r _ other).symm
    · exact List.getElem?_set_self (List.getElem?_eq_some_iff.1 slot).1
  case stripe =>
    intro s rec stripe r x there slot written mine ok unwritten total
    exact ⟨fun more => exec_stripeDecoded_more there slot written mine ok rfl more, fun last room => exec_stripeDecoded_last there slot written mine ok rfl last room unwritten⟩
  case confirm => exact fun s rec n r there ok due => exec_stripeConfirmTimer_confirms there ok due
  case horizon =>
    intro s rec stripe r x there slot filling mine ok small width
    exact ⟨exec_horizonTimerExpiry_asks there slot filling mine ok small width, exec_horizonTimerExpiry_fails there slot filling mine ok small⟩
  case loss =>
    intro s p arrives deadline unknown
    refine ⟨fun x late => ?_, fun late => ?_⟩
    · exact ⟨_, exec_lossNoticeReceiveReceiver_known arrives deadline unknown late, lastSent_answer s p (by split <;> omega) (by omega), rfl⟩
    · exact ⟨_, exec_lossNoticeReceiveReceiver_unknown arrives deadline unknown late, lastSent_answer _ p (by omega) (by omega), getLast?_filterAdd s _ _ _ _⟩
  case closed => exact fun s p i r arrives known there ok quiet => exec_closedReceiveReceiver_fails arrives known there ok quiet

end Sys2Proof.Machine

/-! SUPPORT. Canonical forms (R67, R136, R226): what they are, and that the operations of memory, translation, the schedulers and the fabric keep them, a lemma for each function under its own name. -/

namespace Sys2Proof.Machine

/-- Memory and the sorted maps of a state are in their canonical forms: `State.wf` field by field. -/
structure State.Canon (s : State) : Prop where
  mem    : memWf s.mem = true
  regs   : keysFrom 0 s.regs = true
  tft    : keysFrom 0 s.tft = true
  charge : keysFrom 0 s.charge = true

theorem State.canon_iff_wf {s : State} : s.Canon ↔ s.wf = true := by
  simp only [State.wf, Bool.and_eq_true]
  exact ⟨fun h => ⟨⟨⟨h.mem, h.regs⟩, h.tft⟩, h.charge⟩, fun h => ⟨h.1.1.1, h.1.1.2, h.1.2, h.2⟩⟩

/-- An outcome whose next state is canonical. -/
def ResCanon : Res → Prop
  | .next t => t.Canon
  | _ => True

/-- An instruction's own condition whose waiting and holding keep states canonical. -/
def OwnCanon : Own → Prop
  | .wait f | .hold f => ∀ s : State, s.Canon → (f s).Canon
  | _ => True

/-- The state of what an engine's access answers, if it is not stopped. -/
def ExcCanon {ε α : Type} (P : α → Prop) : Except ε α → Prop
  | .ok x => P x
  | .error _ => True

/-- The meaning of a check that does not pass. -/
def AccCanon {α : Type} : Except Own α → Prop
  | .ok _ => True
  | .error o => OwnCanon o

/-- A state, if there is one, that is canonical. -/
def OptCanon : Option State → Prop
  | some t => t.Canon
  | none => True

theorem State.Canon.fst {α : Type} {p : State × α} {t : State} {x : α} (h : p.1.Canon) (e : p = (t, x)) : t.Canon := by
  subst e
  exact h

theorem ExcCanon.ok {ε α : Type} {P : α → Prop} {r : Except ε α} {x : α} (h : ExcCanon P r) (e : r = .ok x) : P x := by
  subst e
  exact h

theorem ExcCanon.fst {ε α : Type} {r : Except ε (State × α)} {t : State} {x : α} (h : ExcCanon (fun r => r.1.Canon) r) (e : r = .ok (t, x)) : t.Canon := by
  subst e
  exact h

theorem AccCanon.error {α : Type} {r : Except Own α} {o : Own} (h : AccCanon r) (e : r = .error o) : OwnCanon o := by
  subst e
  exact h

theorem OptCanon.some {o : Option State} {t : State} (h : OptCanon o) (e : o = .some t) : t.Canon := by
  subst e
  exact h

theorem own_ite {c : Prop} [Decidable c] {a b : Own} (ha : OwnCanon a) (hb : OwnCanon b) : OwnCanon (if c then a else b) := by
  split
  exacts [ha, hb]

theorem res_ite {c : Prop} [Decidable c] {a b : Res} (ha : ResCanon a) (hb : ResCanon b) : ResCanon (if c then a else b) := by
  split
  exacts [ha, hb]

theorem opt_ite {c : Prop} [Decidable c] {a b : Option State} (ha : OptCanon a) (hb : OptCanon b) : OptCanon (if c then a else b) := by
  split
  exacts [ha, hb]

theorem opt_map {α : Type} {o : Option α} {f : α → State} (hf : ∀ x, (f x).Canon) : OptCanon (o.map f) := by
  cases o with
  | none => trivial
  | some x => exact hf x

theorem opt_getD {o : Option State} {s : State} (ho : OptCanon o) (h : s.Canon) : (o.getD s).Canon := by
  cases o with
  | none => exact h
  | some t => exact ho

theorem reply_ite {c : Prop} [Decidable c] {a b : Reply} (ha : a.s.Canon) (hb : b.s.Canon) : (if c then a else b).s.Canon := by
  split
  exacts [ha, hb]

/-- Whichever branch is taken. -/
theorem canon_ite {c : Prop} [Decidable c] {a b : State} (ha : a.Canon) (hb : b.Canon) : (if c then a else b).Canon := by
  split
  exacts [ha, hb]

theorem canon_foldl {α : Type} {f : State → α → State} (hf : ∀ t x, t.Canon → (f t x).Canon) {l : List α} {s : State} (h : s.Canon) : (l.foldl f s).Canon :=
  List.foldlRecOn l f h fun t ht x _ => hf t x ht

/-- What a path does next, if it is a state, is canonical. -/
def FrontCanon : Front → Prop
  | .become s => s.Canon
  | _ => True

/-- What an entry leaves as it leaves its queue, or as it stays there, is canonical. -/
def LeaveCanon : Leave → Prop
  | .gone s | .stays s => s.Canon

/-- The other fields do not matter. -/
theorem State.Canon.frame {s : State} {clock focus agenda free memOpen poison mended poisonBy l1 inflight acks armed grids crews bundles xl hub parts net hubFx links phys pcie cp flash coll} (h : s.Canon) :
    (State.mk clock focus agenda free s.mem memOpen poison mended poisonBy l1 inflight acks armed grids crews bundles s.tft xl s.regs s.charge hub parts net hubFx links phys pcie cp flash coll).Canon :=
  { h with }

theorem canon_foldl_fst {α β : Type} {f : State × β → α → State × β} (hf : ∀ r x, r.1.Canon → (f r x).1.Canon) {l : List α} {r : State × β} (h : r.1.Canon) : (l.foldl f r).1.Canon :=
  List.foldlRecOn (motive := fun r => r.1.Canon) l f h fun r hr x _ => hf r x hr

theorem LeaveCanon.gone {l : Leave} {s : State} (h : LeaveCanon l) (e : l = .gone s) : s.Canon := by
  subst e
  exact h

theorem LeaveCanon.stays {l : Leave} {s : State} (h : LeaveCanon l) (e : l = .stays s) : s.Canon := by
  subst e
  exact h

/-- Acts that keep a state canonical. -/
def ActsCanon (l : List (State → Res)) : Prop := ∀ f ∈ l, ∀ s : State, s.Canon → ResCanon (f s)

section

open State.Canon

variable {s : State}

/-! ### Machine/Ops -/

theorem State.Canon.setByte {a b} (h : s.Canon) : (s.setByte a b).Canon :=
  { h with mem := memWf_memPut a b h.mem }

theorem State.Canon.setBytes {a l} (h : s.Canon) : (s.setBytes a l).Canon := by
  induction l generalizing s a with
  | nil => exact h
  | cons b l ih => exact ih h.setByte

theorem State.Canon.wr64 {a w} (h : s.Canon) : (s.wr64 a w).Canon := h.setBytes

theorem State.Canon.openRange {lo len} (h : s.Canon) : (s.openRange lo len).Canon :=
  { h with mem := memWf_filter _ h.mem }

theorem State.Canon.setReg {off w} (h : s.Canon) : (s.setReg off w).Canon :=
  { h with regs := keysFrom_mapPut w h.regs (Nat.zero_le _) }

theorem State.Canon.winDrop {n count} (h : s.Canon) : (s.winDrop n count).Canon := h.setReg

theorem State.Canon.unitWrote {a n} (h : s.Canon) : (s.unitWrote a n).Canon := by
  unfold State.unitWrote
  dsimp only
  exact canon_foldl (fun _ _ h => by split; exacts [h.winDrop, h]) h.frame

theorem State.Canon.put64 {a w} (h : s.Canon) : (s.put64 a w).Canon := h.wr64.unitWrote

theorem State.Canon.post {t w0 w1 w2 hi3} (h : s.Canon) : (s.post t w0 w1 w2 hi3).Canon :=
  canon_ite h.setReg (setReg (canon_ite h.wr64.wr64.wr64.wr64.unitWrote.frame h.wr64.wr64.wr64.wr64.unitWrote))

theorem State.Canon.putGrid {g} (h : s.Canon) : (s.putGrid g).Canon := h.frame

theorem State.Canon.putCrew {c} (h : s.Canon) : (s.putCrew c).Canon := h.frame

theorem State.Canon.putBundle {b} (h : s.Canon) : (s.putBundle b).Canon := h.frame

theorem State.Canon.onBundle {k f} (h : s.Canon) : (s.onBundle k f).Canon := by
  unfold State.onBundle
  split
  exacts [h.putBundle, h]

theorem State.Canon.onCrew {k f} (h : s.Canon) : (s.onCrew k f).Canon := by
  unfold State.onCrew
  split
  exacts [h.putCrew, h]

theorem State.Canon.onArch {k f} (h : s.Canon) : (s.onArch k f).Canon := h.onBundle

theorem State.Canon.haltRecord {c cause source addr} (h : s.Canon) : (s.haltRecord c cause source addr).Canon := h.post

theorem State.Canon.bundleExit {k} (h : s.Canon) : (s.bundleExit k).Canon := h.onBundle.onCrew

theorem State.Canon.haltBundle {c cause source addr} (h : s.Canon) : (s.haltBundle c cause source addr).Canon :=
  h.onBundle.bundleExit.onCrew.setReg.haltRecord

theorem State.Canon.takeTrapAt {c pc idx cause F addr} (h : s.Canon) : (s.takeTrapAt c pc idx cause F addr).Canon :=
  canon_ite h.haltBundle (canon_ite h.haltBundle h.onBundle)

theorem State.Canon.takeTrap {c cause F addr} (h : s.Canon) : (s.takeTrap c cause F addr).Canon := h.takeTrapAt

theorem State.Canon.trapAll {c cause F} (h : s.Canon) : (s.trapAll c cause F).Canon := h.takeTrap

theorem State.Canon.onPath {c f} (h : s.Canon) : (s.onPath c f).Canon := h.onArch

theorem State.Canon.advance {c} (h : s.Canon) : (s.advance c).Canon := h.onPath

theorem State.Canon.onHost {x1 f} (h : s.Canon) : (s.onHost x1 f).Canon := h.frame

/-! ### Machine/Operands -/

theorem State.Canon.noteCharge {core t n} (h : s.Canon) : (s.noteCharge core t n).Canon :=
  { h with charge := keysFrom_natsPut _ (keysFrom_natsPut _ (by split; exacts [h.charge, keysFrom_filter _ h.charge]) (Nat.zero_le _)) (Nat.zero_le _) }

theorem State.Canon.charged {core t n} (h : s.Canon) : (s.charged core t n).Canon := by
  have noted := h.noteCharge (core := core) (t := t) (n := n)
  have k : ({ s.noteCharge core t n with charge := natsPut (s.noteCharge core t n).charge t ((natsGet (s.noteCharge core t n).charge t + n) % 65536) } : State).Canon :=
    { noted with charge := keysFrom_natsPut _ noted.charge (Nat.zero_le _) }
  exact canon_ite k k.setReg

theorem State.Canon.stopAt {c} (h : s.Canon) : (s.stopAt c).Canon := h.onBundle

theorem State.Canon.issued {c n} (h : s.Canon) : (s.issued c n).Canon := h.frame.onBundle.charged

theorem State.Canon.notIssued {c} (h : s.Canon) : (s.notIssued c).Canon := canon_ite h (canon_ite h.stopAt (canon_ite h.onPath h))

theorem State.Canon.clashed {c n} (h : s.Canon) : (s.clashed c n).Canon := canon_ite h h.frame.onBundle

theorem State.Canon.issue {need : Cur → Need} {own : Cur → Own} {skip : Path → Path} {body : Cur → State → State} (h : s.Canon) (hown : ∀ c, OwnCanon (own c))
    (hbody : ∀ c t, t.Canon → (body c t).Canon) : ResCanon (s.issue need own skip body) := by
  unfold State.issue
  split
  · trivial
  · rename_i c _
    split
    · exact h.notIssued
    · split
      · exact h.trapAll
      · exact h.stopAt
      · split
        · exact h.issued.onPath
        · split
          · exact h.haltBundle
          · have k := hown c
            split <;> rename_i e <;> rw [e] at k
            · exact h.stopAt
            · exact (k s h).stopAt
            · exact k s h
            · exact h.takeTrap
            · exact (hbody c _ h.issued).clashed

theorem State.Canon.setDst {c d v} (h : s.Canon) : (s.setDst c d v).Canon := h.onArch

/-! ### Machine/Translate -/

theorem State.Canon.pwFill {grove ctx va} (h : s.Canon) : (s.pwFill grove ctx va).Canon := by
  unfold State.pwFill
  split
  exacts [h, h.frame]

theorem State.Canon.wantWalk {grove ctx tenant w} (h : s.Canon) : (s.wantWalk grove ctx tenant w).Canon := h.frame

theorem State.Canon.addMiss {c acc va} (h : s.Canon) : (s.addMiss c acc va).Canon := h.wantWalk

theorem State.Canon.gatherD {core ctx va} (h : s.Canon) : (s.gatherD core ctx va).Canon := h.frame

theorem State.Canon.harvest {e} (h : s.Canon) : (s.harvest e).Canon := canon_ite h (canon_foldl (fun _ _ h => canon_ite h.put64 h) h)

theorem State.Canon.harvestAll {pick} (h : s.Canon) : (s.harvestAll pick).Canon := frame (canon_foldl (fun _ _ h => h.harvest) h)

theorem State.Canon.setA {pte} (h : s.Canon) : (s.setA pte).Canon := h.put64

theorem State.Canon.tlbPut {e p} (h : s.Canon) : (s.tlbPut e p).Canon := frame (canon_foldl (fun _ _ h => h.harvest) h)

theorem State.Canon.install {places ctx va pte l lvl d} (h : s.Canon) : (s.install places ctx va pte l lvl d).Canon :=
  canon_foldl (fun _ _ h => h.tlbPut) (canon_foldl (fun _ _ h => h.setA) h)

theorem State.Canon.engineXlate {grove ctx acc va} (h : s.Canon) : (s.engineXlate grove ctx acc va).1.Canon := by
  unfold State.engineXlate
  split
  · exact h.frame
  · split
    · exact h.wantWalk
    · split
      exacts [h.pwFill.setA.install, h.pwFill]

/-! ### Machine/Pool -/

theorem State.Canon.poolLow {n} (h : s.Canon) : (s.poolLow n).Canon := canon_ite h.post h

theorem State.Canon.takeDesc {n fuel} (h : s.Canon) : (s.takeDesc n fuel).1.Canon := by
  induction fuel generalizing s with
  | zero => exact h
  | succ fuel ih =>
    unfold State.takeDesc
    dsimp only
    split
    · exact h
    · split
      · exact ih h.setReg.poolLow.setReg
      · exact h.setReg.poolLow

theorem State.Canon.takeFrame {t z} (h : s.Canon) : (s.takeFrame t z).1.Canon := by
  unfold State.takeFrame
  split
  exacts [h.frame, h.takeDesc]

theorem State.Canon.keepFrame {t z f} (h : s.Canon) : (s.keepFrame t z f).Canon := h.frame

theorem State.Canon.escalate {t ctx reason tag size va} (h : s.Canon) : (s.escalate t ctx reason tag size va).Canon := h.post

theorem State.Canon.putLeaf {z pte l} (h : s.Canon) : (s.putLeaf z pte l).Canon := canon_ite (canon_foldl (fun _ _ h => h.put64) h) h.put64

theorem State.Canon.migFrame {m} (h : s.Canon) : (s.migFrame m).1.Canon := by
  unfold State.migFrame
  split
  · exact h.escalate
  · split
    · rename_i e
      exact (h.takeFrame.fst e)
    · rename_i e
      exact ((h.takeFrame.fst e)).escalate

theorem State.Canon.setMigs {l} (h : s.Canon) : (s.setMigs l).Canon := h.frame

theorem State.Canon.wantMig {tenant ctx va pte l lvl tag w} (h : s.Canon) : (s.wantMig tenant ctx va pte l lvl tag w).Canon :=
  canon_ite h.setMigs h.migFrame.setMigs

/-! ### Machine/Sched -/

theorem State.Canon.took {t places} (h : s.Canon) : (s.took t places).Canon := h.frame

theorem State.Canon.placeCrew {g crew core} (h : s.Canon) : (s.placeCrew g crew core).Canon := h.took.frame

theorem State.Canon.gridEnter {g} (h : s.Canon) : (s.gridEnter g).1.Canon := h.frame

theorem State.Canon.postReject {t q cause reason tag} (h : s.Canon) : (s.postReject t q cause reason tag).Canon := h.post

theorem State.Canon.launchArmed {t r args} (h : s.Canon) : (s.launchArmed t r args).Canon := by
  unfold State.launchArmed
  dsimp only
  split
  exacts [h.postReject, h.gridEnter]

/-! ### Machine/Fabric -/

theorem State.Canon.countForeign {tenant pa} (h : s.Canon) : (s.countForeign tenant pa).Canon := canon_ite h.setReg h

theorem State.Canon.l2Fill {pa} (h : s.Canon) : (s.l2Fill pa).Canon := canon_ite h h.frame

theorem State.Canon.l1Room {core a} (h : s.Canon) : (s.l1Room core a).Canon := canon_ite h (canon_ite h h.frame)

theorem State.Canon.l1Fill {core tenant a} (h : s.Canon) : (s.l1Fill core tenant a).Canon := canon_ite h h.l1Room.frame

theorem State.Canon.l1Drop {pick} (h : s.Canon) : (s.l1Drop pick).Canon := h.frame

theorem State.Canon.l1DropCore {core} (h : s.Canon) : (s.l1DropCore core).Canon := h.l1Drop

theorem State.Canon.l1Store {core parts} (h : s.Canon) : (s.l1Store core parts).Canon := h.frame

theorem State.Canon.setVault {grid grove a b} (h : s.Canon) : (s.setVault grid grove a b).Canon := by
  unfold State.setVault
  split
  exacts [h.putCrew, h]

theorem State.Canon.aboWake {pa w0 w1} (h : s.Canon) : (s.aboWake pa w0 w1).Canon := h.frame

theorem State.Canon.watchHit {writer lines} (h : s.Canon) : (s.watchHit writer lines).Canon := h.frame

theorem State.Canon.watchLocal {writer crew sp addrs} (h : s.Canon) : (s.watchLocal writer crew sp addrs).Canon := h.frame

theorem State.Canon.poisonWrite {addrs bad} (h : s.Canon) : (s.poisonWrite addrs bad).Canon := canon_ite h.frame (canon_ite h h.frame)

theorem State.Canon.poisonLine {line} (h : s.Canon) : (s.poisonLine line).Canon := h.frame

theorem State.Canon.poisonFrom {line source} (h : s.Canon) : (s.poisonFrom line source).Canon := h.poisonLine.frame

theorem State.Canon.putParts {l} (h : s.Canon) : (s.putParts l).Canon := by
  induction l generalizing s with
  | nil => exact h
  | cons p l ih => exact ih h.setByte

theorem State.Canon.setQueue {n q} (h : s.Canon) : (s.setQueue n q).Canon := h.frame

theorem State.Canon.headMoved {n now} (h : s.Canon) : (s.headMoved n now).Canon := canon_ite h.frame h

theorem State.Canon.submit {n pa whole} (h : s.Canon) : (s.submit n pa whole).Canon :=
  canon_ite h.winDrop (canon_ite h.winDrop.postReject h.setQueue.headMoved)

theorem State.Canon.takeFired {pas} (h : s.Canon) : (s.takeFired pas).1.Canon := h.frame

theorem State.Canon.postActionFault {a cause va} (h : s.Canon) : (s.postActionFault a cause va).Canon := h.post

theorem State.Canon.noteWrite {place addrs writer} (h : s.Canon) : (s.noteWrite place addrs writer).Canon := h.frame

theorem State.Canon.landed {writer block' parts bad} (h : s.Canon) : (s.landed writer block' parts bad).Canon := by
  unfold State.landed
  dsimp only
  split
  · split
    exacts [h.putParts.noteWrite.poisonWrite.watchHit.submit, h.putParts.noteWrite.poisonWrite.watchHit]
  · exact h.putParts.noteWrite.poisonWrite.watchHit

theorem State.Canon.spoil {addrs} (h : s.Canon) : (s.spoil addrs).Canon := canon_ite h h.frame

theorem State.Canon.newObj {pa} (h : s.Canon) : (s.newObj pa).Canon := h.frame

theorem State.Canon.aboArriveAt {writer pa n st fl} (h : s.Canon) : (s.aboArriveAt writer pa n st fl).Canon :=
  aboWake (landed (canon_ite h.frame h))

theorem State.Canon.fireAccess {a rest va k} (h : s.Canon) (hk : ∀ t pa, t.Canon → (k t pa).1.Canon) : (s.fireAccess a rest va k).1.Canon := by
  unfold State.fireAccess
  split <;> rename_i e <;> have ht := h.engineXlate.fst e
  · exact ht.frame
  · split
    · exact h.postActionFault
    · split
      exacts [ht.frame, hk _ _ ht]
  · exact frame ht.wantMig
  · exact ht.postActionFault
  · exact ht.postActionFault

theorem State.Canon.fireOne {a rest} (h : s.Canon) : (s.fireOne a rest).1.Canon := by
  unfold State.fireOne
  split
  · split
    exacts [h.frame, h.launchArmed]
  · exact h.fireAccess fun _ _ h => h.aboArriveAt
  · refine h.fireAccess fun _ _ h => ?_
    dsimp only
    exact h.spoil.landed

theorem State.Canon.fire {n l} (h : s.Canon) : (State.fire n l s).Canon := by
  induction n generalizing l s with
  | zero => exact h
  | succ n ih =>
    cases l with
    | nil => exact h
    | cons a rest =>
      rw [fire_cons]
      exact canon_ite h.fireOne (ih h.fireOne.takeFired)

theorem State.Canon.shown {writer block' parts bad} (h : s.Canon) : (s.shown writer block' parts bad).Canon := h.landed.takeFired.fire

theorem State.Canon.visible {writer block' parts bad} (h : s.Canon) : (s.visible writer block' parts bad).Canon := h.spoil.shown

theorem State.Canon.settleArmed (h : s.Canon) : s.settleArmed.Canon := h.takeFired.fire

theorem State.Canon.counterAdd {writer pa v} (h : s.Canon) : (s.counterAdd writer pa v).Canon := h.shown

end

end Sys2Proof.Machine

/-! SUPPORT. What the instructions of bundles do keeps the canonical forms. -/

namespace Sys2Proof.Machine

section

open State.Canon

variable {s : State}

/-! ### Machine/Memory -/

theorem State.Canon.acqDone {k pid} (h : s.Canon) : (s.acqDone k pid).Canon := by
  unfold State.acqDone
  split
  exacts [h, onBundle (canon_ite h.l1DropCore h)]

theorem memOwn_canon {x sh acc need c} {eff : Cur → List LaneAcc → State → State} (heff : ∀ c ok t, t.Canon → (eff c ok t).Canon) : OwnCanon (s.memOwn x sh acc need eff c) := by
  unfold State.memOwn
  dsimp only
  split
  · trivial
  · split
    · exact fun t h => h.addMiss
    · refine own_ite trivial (own_ite trivial (own_ite trivial ?_))
      split
      · trivial
      · exact fun t h => (heff _ _ _ h.issued).takeTrap

theorem State.Canon.memIssue {x sh acc need} {eff : Cur → List LaneAcc → State → State} (h : s.Canon) (heff : ∀ c ok t, t.Canon → (eff c ok t).Canon) :
    ResCanon (s.memIssue x sh acc need eff) :=
  h.issue (fun _ => memOwn_canon heff) fun _ _ h => (heff _ _ _ h).advance

theorem State.Canon.addPend {c kind ty dst pair lanes want acq} (h : s.Canon) : (s.addPend c kind ty dst pair lanes want acq).Canon :=
  h.frame.onBundle

theorem State.Canon.deferOne {d} (h : s.Canon) : (s.deferOne d).Canon := canon_ite h h.frame.setReg.onBundle

theorem State.Canon.deferLanes {c pid ok} (h : s.Canon) : (s.deferLanes c pid ok).Canon := by
  unfold State.deferLanes
  exact canon_foldl (fun _ _ h => canon_ite (by split; exacts [h.deferOne, h.onBundle, h.deferOne]) h) h

theorem loadEff_canon {t : State} {x sh c ok} (h : t.Canon) : (loadEff x sh c ok t).Canon := canon_ite h h.onBundle.addPend.deferLanes.acqDone

theorem runLoad_canon {x sh} (h : s.Canon) : ResCanon (runLoad x sh s) := h.memIssue (fun _ _ _ h => loadEff_canon h)

theorem State.Canon.pushSq {c op lines} (h : s.Canon) : (s.pushSq c op lines).Canon := h.onBundle

theorem State.Canon.gatherAll {c l} (h : s.Canon) : (s.gatherAll c l).Canon := canon_foldl (fun _ _ h => canon_ite h.gatherD h) h

theorem storeEff_canon {t : State} {x sh c ok} (h : t.Canon) : (storeEff x sh c ok t).Canon := canon_ite h h.gatherAll.pushSq

theorem runStore_canon {x sh} (h : s.Canon) : ResCanon (runStore x sh s) := h.memIssue (fun _ _ _ h => storeEff_canon h)

theorem atomEff_canon {t : State} {x op c ok} (h : t.Canon) : (atomEff x op c ok t).Canon := canon_ite h h.gatherAll.pushSq.addPend

theorem runAtom_canon {x op} (h : s.Canon) : ResCanon (runAtom x op s) := h.memIssue (fun _ _ _ h => atomEff_canon h)

theorem redEff_canon {t : State} {x op c ok} (h : t.Canon) : (redEff x op c ok t).Canon := canon_ite h h.gatherAll.pushSq

theorem runRed_canon {x op} (h : s.Canon) : ResCanon (runRed x op s) := h.memIssue (fun _ _ _ h => redEff_canon h)

theorem execFence_canon {x} (h : s.Canon) : ResCanon (execFence x s) := by
  unfold execFence
  exact h.issue (fun _ => by split <;> exact trivial) (fun _ _ h => advance (canon_ite h.l1DropCore h))

theorem execPf_canon {x} (h : s.Canon) : ResCanon (execPf x s) :=
  h.issue (fun _ => trivial) (fun _ _ h => advance (canon_foldl (fun _ _ h => h.l1Fill) h))

theorem execCinv_canon {x} (h : s.Canon) : ResCanon (execCinv x s) :=
  h.issue (fun _ => trivial) (fun _ _ h => advance (canon_ite h.l1DropCore h.l1Drop))

theorem execCinvall_canon {x} (h : s.Canon) : ResCanon (execCinvall x s) := h.issue (fun _ => trivial) (fun _ _ h => h.l1DropCore.advance)

/-! ### Machine/Copy -/

theorem State.Canon.token {k pid v} (h : s.Canon) : (s.token k pid v).Canon := h.onBundle

theorem State.Canon.pushCopy {c q m} (h : s.Canon) : (s.pushCopy c q m).Canon := h.onCrew

theorem copyEff_canon {t : State} {x q kind len c} (h : t.Canon) : (copyEff x q kind len c t).Canon := h.pushCopy.addPend.advance

theorem ownCp_canon {x c} : OwnCanon (ownCp x s c) := by
  unfold ownCp
  dsimp only
  split
  · exact trivial
  · split
    · exact trivial
    · split <;> exact trivial

theorem execCp_canon {x} (h : s.Canon) : ResCanon (execCp x s) := h.issue (fun _ => ownCp_canon) (fun _ _ h => copyEff_canon h)

theorem ownCpt_canon {x c} : OwnCanon (ownCpt x s c) := by
  unfold ownCpt
  dsimp only
  split
  · exact trivial
  · split
    · exact trivial
    · split <;> exact trivial

theorem execCpt_canon {x} (h : s.Canon) : ResCanon (execCpt x s) := h.issue (fun _ => ownCpt_canon) (fun _ _ h => copyEff_canon h)

theorem streamEff_canon {t : State} {x op sp src len c} (h : t.Canon) : (streamEff x op sp src len c t).Canon := h.pushSq.addPend.advance

theorem runStream_canon {op x} (h : s.Canon) : ResCanon (runStream op x s) := h.issue (fun _ => trivial) (fun _ _ h => streamEff_canon h)

theorem ownAppWr_canon {x c} : OwnCanon (ownAppWr x s c) := by
  unfold ownAppWr
  dsimp only
  split
  · exact trivial
  · split <;> exact trivial

theorem execAppWr_canon {x} (h : s.Canon) : ResCanon (execAppWr x s) := h.issue (fun _ => ownAppWr_canon) (fun _ _ h => streamEff_canon h)

theorem State.Canon.onTile {k n f} (h : s.Canon) : (s.onTile k n f).Canon := h.onCrew

theorem State.Canon.spoilTile {k n ms} (h : s.Canon) : (s.spoilTile k n ms).Canon := canon_ite h h.frame.onTile

theorem State.Canon.observe {u s : State} {c ts} (h : u.Canon) : (State.observe u s c ts).Canon := by
  unfold State.observe
  exact canon_foldl (fun _ _ h => by split; exacts [canon_ite h h.spoilTile.onTile, h]) h

/-! ### Machine/Scalar -/

theorem runS_canon {x val} (h : s.Canon) : ResCanon (runS x val s) := h.issue (fun _ => trivial) (fun _ _ h => h.setDst.advance)

theorem runSI_canon {x val} (h : s.Canon) : ResCanon (runSI x val s) := h.issue (fun _ => trivial) (fun _ _ h => h.setDst.advance)

/-! ### Machine/Control -/

theorem State.Canon.countFetch {c n} (h : s.Canon) : (s.countFetch c n).Canon := canon_foldl (fun _ _ h => h.countForeign) h

theorem State.Canon.mergeTiles {c ts act} (h : s.Canon) : (s.mergeTiles c ts act).Canon := by
  unfold State.mergeTiles
  exact h.onArch

theorem State.Canon.clauseTrap {c cause va} (h : s.Canon) : (s.clauseTrap c cause va).Canon := canon_ite h.haltBundle h.takeTrapAt

theorem execClauseHeader_canon {w} (h : s.Canon) : ResCanon (execClauseHeader w s) := by
  unfold execClauseHeader
  dsimp only
  split
  · exact trivial
  · split
    · exact h
    · split
      · exact h.clauseTrap
      · split
        · exact h.clauseTrap
        · split
          · exact h.clauseTrap
          · split
            · exact h.onPath
            · split
              · exact h.clauseTrap
              · exact h.addMiss.stopAt
              · exact h.stopAt
              · exact h
              · split
                · exact h.countFetch.onPath
                · split
                  · exact h.onPath
                  · split
                    exacts [h.haltBundle, h.countFetch.observe.mergeTiles.onPath]

theorem State.Canon.jumpTo {c target counts} (h : s.Canon) : (s.jumpTo c target counts).Canon := onPath (canon_ite h.onBundle h)

theorem State.Canon.fallThrough {c} (h : s.Canon) : (s.fallThrough c).Canon := h.onBundle.onPath

theorem branchIf_canon {x cond} (h : s.Canon) : ResCanon (branchIf x cond s) :=
  h.issue (fun _ => trivial) (fun _ _ h => canon_ite h.jumpTo h.fallThrough)

theorem ownTarget_canon {x c} : OwnCanon (ownTarget x c) := by
  unfold ownTarget
  dsimp only
  split <;> exact trivial

theorem execJumpR_canon {x} (h : s.Canon) : ResCanon (execJumpR x s) := h.issue (fun _ => ownTarget_canon) (fun _ _ h => h.jumpTo)

theorem execRet_canon {x} (h : s.Canon) : ResCanon (execRet x s) := h.issue (fun _ => ownTarget_canon) (fun _ _ h => h.jumpTo)

theorem execCall_canon {x} (h : s.Canon) : ResCanon (execCall x s) := h.issue (fun _ => trivial) (fun _ _ h => h.setDst.jumpTo)

theorem execCallR_canon {x} (h : s.Canon) : ResCanon (execCallR x s) := h.issue (fun _ => ownTarget_canon) (fun _ _ h => h.setDst.jumpTo)

theorem ownSplit_canon {x c} : OwnCanon (ownSplit x c) := by
  unfold ownSplit
  split
  · exact trivial
  · split <;> exact trivial

theorem execSplit_canon {x} (h : s.Canon) : ResCanon (execSplit x s) :=
  h.issue (fun _ => ownSplit_canon) (fun _ _ h => canon_ite h.setDst.onPath h.setDst.onArch)

theorem ownJoin_canon {x c} : OwnCanon (ownJoin x c) := by
  unfold ownJoin
  split <;> exact trivial

theorem execJoin_canon {x} (h : s.Canon) : ResCanon (execJoin x s) := by
  unfold execJoin
  exact h.issue (fun _ => ownJoin_canon) (fun _ _ h => by split; exacts [h.advance, h.onPath, h.onPath, h.onPath.onArch])

theorem State.Canon.settleExit {c} (h : s.Canon) : (s.settleExit c).Canon := by
  unfold State.settleExit
  split
  exacts [canon_ite h.pushSq h, h]

theorem execExit_canon {x} (h : s.Canon) : ResCanon (execExit x s) := h.issue (fun _ => trivial) (fun _ _ h => h.onArch.settleExit)

theorem execHalt_canon {x} (h : s.Canon) : ResCanon (execHalt x s) := h.issue (fun _ => trivial) (fun _ _ h => h.onArch.settleExit)

theorem execNop_canon {x} (h : s.Canon) : ResCanon (execNop x s) := h.issue (fun _ => trivial) (fun _ _ h => h.advance)

theorem execYield_canon {x} (h : s.Canon) : ResCanon (execYield x s) := h.issue (fun _ => trivial) (fun _ _ h => h.onBundle.advance)

theorem softTrap_canon {x cause} (h : s.Canon) : ResCanon (softTrap x cause s) := h.issue (fun _ => fun _ h => h.charged.takeTrap) (fun _ _ h => h)

theorem execSret_canon {x} (h : s.Canon) : ResCanon (execSret x s) := h.issue (fun _ => trivial) (fun _ _ h => h.onBundle)

/-! ### Machine/Matrix -/

theorem tileMask_canon {k : Own} {x c} (h : OwnCanon k) : OwnCanon (tileMask x c k) := by
  unfold tileMask
  split
  · exact trivial
  · split
    exacts [h, trivial]

theorem tileOwn_canon {x rdy segs c} : OwnCanon (tileOwn x s rdy segs c) := by
  unfold tileOwn
  refine tileMask_canon ?_
  split
  · trivial
  · split
    · trivial
    · split
      · split <;> trivial
      · trivial

theorem tileEff_canon {t : State} {x op rdy drain c} (h : t.Canon) : (tileEff x op rdy drain c t).Canon :=
  advance (canon_ite h (canon_ite h.onCrew.onBundle h.onCrew))

theorem execMz_canon {x} (h : s.Canon) : ResCanon (execMz x s) := h.issue (fun _ => tileOwn_canon) (fun _ _ h => tileEff_canon h)

theorem execMm_canon {x} (h : s.Canon) : ResCanon (execMm x s) := h.issue (fun _ => tileOwn_canon) (fun _ _ h => tileEff_canon h)

theorem execMmv_canon {x} (h : s.Canon) : ResCanon (execMmv x s) := h.issue (fun _ => tileOwn_canon) (fun _ _ h => tileEff_canon h)

theorem execMld_canon {x} (h : s.Canon) : ResCanon (execMld x s) := h.issue (fun _ => tileOwn_canon) (fun _ _ h => tileEff_canon h)

theorem execMdrain_canon {x} (h : s.Canon) : ResCanon (execMdrain x s) := by
  unfold execMdrain
  refine h.issue (fun c => tileMask_canon (own_ite trivial ?_)) fun _ _ h => tileEff_canon h.onBundle
  have own : OwnCanon (tileOwn x s false (placed (c.opB s x).t ((c.opB s x).outSegs ++ (c.opB s x).outScales)) c) := tileOwn_canon
  split
  · exact own_ite trivial trivial
  · exact own

theorem execMwp_canon {x} (h : s.Canon) : ResCanon (execMwp x s) := by
  unfold execMwp
  exact h.issue (fun _ => tileMask_canon (by split <;> exact trivial)) (fun _ _ h => advance (canon_ite h h.onTile))

theorem execMwpr_canon {x} (h : s.Canon) : ResCanon (execMwpr x s) := h.issue (fun _ => trivial) (fun _ _ h => h.setDst.advance)

theorem ownMwait_canon {x c} : OwnCanon (ownMwait x c) := by
  unfold ownMwait
  split
  · split
    · exact trivial
    · split
      exacts [fun _ h => h.haltBundle, trivial]
  · exact trivial

theorem execMwait_canon {x} (h : s.Canon) : ResCanon (execMwait x s) :=
  h.issue (fun _ => ownMwait_canon) (fun _ _ h => h.observe.mergeTiles.advance)

theorem execMflag_canon {x} (h : s.Canon) : ResCanon (execMflag x s) := by
  unfold execMflag
  exact h.issue (fun _ => ownMwait_canon) (fun _ _ h => advance (canon_ite h.observe.mergeTiles.setDst.onTile h.observe.mergeTiles.setDst))

theorem execMprog_canon {x} (h : s.Canon) : ResCanon (execMprog x s) := h.issue (fun _ => trivial) (fun _ _ h => h.setDst.advance)

/-! ### Machine/Sync -/

theorem recWait_canon {c va pa unit} : OwnCanon (s.recWait c va pa unit) :=
  own_ite trivial fun _ h => (onPath (deferOne h.frame)).onBundle

theorem xAccess_canon {c acc pred align va} : AccCanon (s.xAccess c acc pred align va) := by
  unfold State.xAccess
  split
  · split
    · exact recWait_canon
    · trivial
  · trivial
  · exact fun t h => h.addMiss

theorem xRead_canon {c pred align va} : AccCanon (s.xRead c pred align va) := by
  unfold State.xRead
  split
  · rename_i e
    exact (xAccess_canon.error e)
  · split
    · exact trivial
    · split
      · exact recWait_canon
      · split
        exacts [fun _ h => h.haltBundle, trivial]

theorem State.Canon.recRead {t : State} {c a} (h : t.Canon) : (State.recRead t c a).Canon := h.countForeign

theorem ownAcc_canon {r waits} (h : AccCanon r) : OwnCanon (ownAcc r waits) := by
  unfold ownAcc
  split
  · exact h
  · exact own_ite trivial trivial

theorem onAcc_canon {r} {t : State} {f : LaneAcc → State} (h : t.Canon) (hf : ∀ a, (f a).Canon) : (onAcc r t f).Canon := by
  unfold onAcc
  split
  exacts [hf _, h]

theorem State.Canon.done {t : State} {c d v} (h : t.Canon) : (State.done t c d v).Canon := h.setDst.advance

theorem ownBar_canon {k : Own} {x c} (h : OwnCanon k) : OwnCanon (ownBar x c k) := by
  unfold ownBar
  split
  exacts [trivial, h]

theorem execBarArrive_canon {x} (h : s.Canon) : ResCanon (execBarArrive x s) := by
  unfold execBarArrive
  exact h.issue (fun _ => ownBar_canon (by split <;> exact trivial)) (fun _ _ h => canon_ite h.done h.pushSq.addPend.advance)

theorem execBarWait_canon {x} (h : s.Canon) : ResCanon (execBarWait x s) := by
  unfold execBarWait
  exact h.issue (fun _ => ownBar_canon (by split <;> exact trivial)) (fun _ _ h => h.done)

theorem ownSync_canon {x c} : OwnCanon (ownSync x s c) := by
  unfold ownSync
  split
  · split <;> exact trivial
  · refine ownBar_canon ?_
    split
    · trivial
    · split
      exacts [trivial, fun _ h => h.issued.frame.pushSq.onPath]

theorem execBarSync_canon {x} (h : s.Canon) : ResCanon (execBarSync x s) := h.issue (fun _ => ownSync_canon) (fun _ _ h => h.done)

theorem execAboInit_canon {x} (h : s.Canon) : ResCanon (execAboInit x s) := by
  unfold execAboInit
  exact h.issue (fun _ => by split; exacts [trivial, ownAcc_canon xAccess_canon]) (fun _ _ h => onAcc_canon h.advance (fun _ => h.gatherAll.pushSq.advance))

theorem execAboArrive_canon {x} (h : s.Canon) : ResCanon (execAboArrive x s) := by
  unfold execAboArrive
  refine h.issue (fun c => own_ite trivial ?_) fun _ _ h => onAcc_canon h.advance fun _ => h.gatherAll.pushSq.addPend.advance
  split
  · rename_i e
    exact xAccess_canon.error e
  · exact own_ite trivial trivial

theorem State.Canon.aboDone {t : State} {c x pa r lost} (h : t.Canon) : (State.aboDone t c x pa r lost).Canon :=
  done (canon_ite (onArch (canon_ite h.l1Drop.l1DropCore h.l1Drop)) h.l1Drop)

theorem execAboWait_canon {x} (h : s.Canon) : ResCanon (execAboWait x s) := by
  unfold execAboWait
  refine h.issue (fun c => ?_) fun _ _ h => onAcc_canon h.advance fun _ => by split; exacts [h.aboDone, h.advance]
  dsimp only
  split
  · rename_i e
    exact xAccess_canon.error e
  · refine own_ite trivial ?_
    split
    · trivial
    · exact fun _ h => h.onPath

theorem execAboTest_canon {x} (h : s.Canon) : ResCanon (execAboTest x s) := by
  unfold execAboTest
  refine h.issue (fun c => ?_) fun _ _ h => onAcc_canon h.advance fun _ => by split <;> exact h.aboDone
  dsimp only
  split
  · rename_i e
    exact xAccess_canon.error e
  · exact own_ite trivial trivial

theorem execRingInit_canon {x} (h : s.Canon) : ResCanon (execRingInit x s) := by
  unfold execRingInit
  exact h.issue (fun _ => by split <;> exact trivial) (fun _ _ h => h.onCrew.pushSq.advance)

theorem ownRing_canon {x c} {k : Ring → Nat → Own} (hk : ∀ r st, OwnCanon (k r st)) : OwnCanon (ownRing x c k) := by
  unfold ownRing
  split
  · trivial
  · exact own_ite trivial (hk _ _)

theorem execRingPost_canon {x} (h : s.Canon) : ResCanon (execRingPost x s) := by
  unfold execRingPost
  exact h.issue (fun _ => ownRing_canon (fun _ _ => by split <;> exact trivial)) (fun _ _ h => h.pushSq.addPend.advance)

theorem execRingFree_canon {x} (h : s.Canon) : ResCanon (execRingFree x s) := by
  unfold execRingFree
  exact h.issue (fun _ => ownRing_canon (fun _ _ => by split <;> exact trivial)) (fun _ _ h => h.pushSq.advance)

theorem execRingWait_canon {x} (h : s.Canon) : ResCanon (execRingWait x s) := by
  unfold execRingWait
  refine h.issue (fun _ => ownRing_canon ?_) (fun _ _ h => h.done)
  intro _ _
  split
  · trivial
  · split <;> trivial

theorem execEvAdd_canon {x} (h : s.Canon) : ResCanon (execEvAdd x s) := by
  unfold execEvAdd
  exact h.issue (fun _ => ownAcc_canon xAccess_canon) (fun _ _ h => onAcc_canon h.advance (fun _ => h.gatherAll.pushSq.addPend.advance))

theorem armRecord_canon {c x} : AccCanon (s.armRecord c x) := by
  unfold State.armRecord
  split
  · split
    · rename_i e
      exact (xRead_canon.error e)
    · exact trivial
  · exact trivial

theorem ownArm_canon {x c} : OwnCanon (ownArm x s c) := by
  unfold ownArm
  split
  · exact trivial
  · split
    · exact trivial
    · split
      · rename_i e
        exact (xAccess_canon.error e)
      · split
        · rename_i e
          exact (armRecord_canon.error e)
        · split <;> exact trivial

theorem execEvArm_canon {x} (h : s.Canon) : ResCanon (execEvArm x s) := by
  refine h.issue (fun _ => ownArm_canon) (fun c t h => onAcc_canon h.advance (fun _ => ?_))
  exact advance (addPend (pushSq (gatherAll (canon_ite (onAcc_canon h (fun _ => h.recRead)) h))))

theorem ownLaunch_canon {x c} : OwnCanon (ownLaunch x s c) := by
  unfold ownLaunch
  split
  exacts [trivial, ownAcc_canon xRead_canon]

theorem execLaunch_canon {x} (h : s.Canon) : ResCanon (execLaunch x s) :=
  h.issue (fun _ => ownLaunch_canon) (fun _ _ h => onAcc_canon h.advance (fun _ => h.recRead.pushSq.addPend.advance))

theorem ownCwait_canon {x c} : OwnCanon (ownCwait x c) := by
  unfold ownCwait
  dsimp only
  split
  · split <;> exact trivial
  · split
    · split
      exacts [trivial, fun _ h => h.onPath]
    · split <;> exact trivial

theorem execCwait_canon {x} (h : s.Canon) : ResCanon (execCwait x s) :=
  h.issue (fun _ => ownCwait_canon) (fun _ _ h => canon_ite h.l1DropCore.done h.done)

theorem execStep_canon {x} (h : s.Canon) : ResCanon (execStep x s) := by
  unfold execStep
  refine h.issue ?_ (fun _ _ h => h.advance)
  intro _
  split
  · trivial
  · split
    exacts [fun _ h => h.charged.onPath, trivial]

theorem State.Canon.grant {t : State} {c n} (h : t.Canon) : (State.grant t c n).Canon := h.frame.took.onBundle

theorem execRacq_canon {x} (h : s.Canon) : ResCanon (execRacq x s) := by
  unfold execRacq
  dsimp only
  refine h.issue (fun _ => ?_) (fun _ _ h => h.grant.advance)
  split
  · trivial
  · split
    · trivial
    · split
      · split
        exacts [trivial, fun _ h => h.frame.onPath]
      · split <;> trivial

theorem execRtry_canon {x} (h : s.Canon) : ResCanon (execRtry x s) := by
  unfold execRtry
  exact h.issue (fun _ => by split <;> exact trivial) (fun _ _ h => canon_ite h.grant.done h.done)

theorem execRrel_canon {x} (h : s.Canon) : ResCanon (execRrel x s) := h.issue (fun _ => trivial) (fun _ _ h => h.onBundle.advance)

/-! ### Machine/Message -/

theorem ownSend_canon {x c} : OwnCanon (ownSend x s c) := by
  unfold ownSend
  split
  · exact trivial
  · split
    · exact trivial
    · split <;> exact trivial

theorem execSend_canon {x} (h : s.Canon) : ResCanon (execSend x s) := h.issue (fun _ => ownSend_canon) (fun _ _ h => h.pushSq.addPend.advance)

theorem narmWords_canon {c x} : AccCanon (s.narmWords c x) := by
  unfold State.narmWords
  dsimp only
  split
  · rename_i e
    exact (xRead_canon.error e)
  · split
    · exact trivial
    · split
      · rename_i e1
        exact (xRead_canon.error e1)
      · exact trivial

theorem ownNarm_canon {x c} : OwnCanon (ownNarm x s c) := by
  unfold ownNarm
  split
  · exact trivial
  · split
    · rename_i e
      exact (narmWords_canon.error e)
    · split <;> exact trivial

theorem runNarm_canon {x} (h : s.Canon) : ResCanon (runNarm x s) := by
  unfold runNarm
  exact h.issue (fun _ => ownNarm_canon) (fun _ _ h => advance (addPend (pushSq (canon_ite h (canon_foldl (fun _ _ h => h.recRead) h)))))

theorem execColl_canon {x} (h : s.Canon) : ResCanon (execColl x s) := by
  unfold execColl
  exact h.issue (fun _ => by split <;> exact trivial) (fun _ _ h => h.pushSq.advance)

/-! ### Machine/System -/

theorem State.Canon.setTensor {tenant n t} (h : s.Canon) : (s.setTensor tenant n t).Canon :=
  { h with tft := keysFrom_mapPut t h.tft (Nat.zero_le _) }

theorem execTftSet_canon {x} (h : s.Canon) : ResCanon (execTftSet x s) := by
  unfold execTftSet
  exact h.issue (fun _ => ownAcc_canon xRead_canon) (fun _ _ h => onAcc_canon h.advance (fun _ => canon_ite h.recRead.done h.recRead.setTensor.done))

theorem State.Canon.storeAt {t : State} {c a b} (h : t.Canon) : (State.storeAt t c a b).Canon := h.gatherAll.pushSq

theorem execTftGet_canon {x} (h : s.Canon) : ResCanon (execTftGet x s) := by
  unfold execTftGet
  exact h.issue (fun _ => ownAcc_canon xAccess_canon) (fun _ _ h => onAcc_canon h.advance (fun _ => h.storeAt.advance))

theorem execTftHist_canon {x} (h : s.Canon) : ResCanon (execTftHist x s) := by
  unfold execTftHist
  exact h.issue (fun _ => ownAcc_canon xAccess_canon) (fun _ _ h => onAcc_canon h.advance (fun _ => h.gatherAll.pushSq.advance))

theorem ownFmap_canon {x c} : OwnCanon (ownFmap x s c) := by
  unfold ownFmap
  dsimp only
  split
  · exact trivial
  · split
    exacts [trivial, fun _ h => h.onBundle.escalate]

theorem execFmap_canon {x} (h : s.Canon) : ResCanon (execFmap x s) := h.issue (fun _ => ownFmap_canon) (fun _ _ h => h.pushSq.addPend.advance)

theorem execTlbh_canon {x} (h : s.Canon) : ResCanon (execTlbh x s) := h.issue (fun _ => trivial) (fun _ _ h => h.harvestAll.done)

theorem execSysr_canon {x} (h : s.Canon) : ResCanon (execSysr x s) := by
  unfold execSysr
  exact h.issue (fun _ => trivial) (fun _ _ h => advance (by split; exacts [canon_ite h h.onArch, h.setDst]))

theorem execSysw_canon {x} (h : s.Canon) : ResCanon (execSysw x s) := by
  unfold execSysw
  exact h.issue (fun _ => trivial) (fun _ _ h => advance (by split <;> exact h.onArch))

/-! ### Machine/Vector -/

theorem runV_canon {o x} (h : s.Canon) : ResCanon (runV o x s) := h.issue (fun _ => trivial) (fun _ _ h => h.onArch.advance)

theorem sweepIter_canon {t : State} {x c id i bad} (h : t.Canon) : (sweepIter x c id i bad t).Canon := by
  unfold sweepIter
  exact onArch (canon_ite h h.onBundle)

theorem ownSweep_canon {x c} : OwnCanon (ownSweep x s c) := by
  unfold ownSweep
  dsimp only
  split
  · exact trivial
  · split
    exacts [trivial, fun _ h => takeTrap (sweepIter_canon h.issued)]

theorem State.Canon.sweepOn {t : State} {c x done} (h : t.Canon) : (State.sweepOn t c x done).Canon := h.onBundle.onPath

theorem execSweep_canon {x} (h : s.Canon) : ResCanon (execSweep x s) := by
  unfold execSweep
  exact h.issue (fun _ => ownSweep_canon) (fun _ _ h => canon_ite (sweepOn (sweepIter_canon h)) (advance (onBundle (sweepIter_canon h))))

end

end Sys2Proof.Machine

/-! SUPPORT. What the engines do keeps the canonical forms: loads, paging, the network, flash, collectives, copy engines, tile units. -/

namespace Sys2Proof.Machine

section

open State.Canon

variable {s : State}

/-! ### Machine/Engine -/

theorem State.Canon.postPcie {a d} (h : s.Canon) : (s.postPcie a d).Canon := h.frame

theorem State.Canon.askPcie {a n} (h : s.Canon) : (s.askPcie a n).Canon := h.frame

theorem State.Canon.pieces {e acc fuel va n} (h : s.Canon) : ExcCanon (fun r => r.1.Canon) (State.pieces e acc fuel va n s) := by
  induction fuel generalizing va n s with
  | zero => exact h
  | succ fuel ih =>
    unfold State.pieces
    dsimp only
    split
    · exact h
    · split <;> try trivial
      rename_i walked
      split
      · trivial
      · split
        · trivial
        · rename_i e
          exact (ih (h.engineXlate.fst walked)).fst e

theorem State.Canon.extent {e acc va n} (h : s.Canon) : ExcCanon (fun r => r.1.Canon) (s.extent e acc va n) := h.pieces

theorem State.Canon.engRead {e sp a n} (h : s.Canon) : ExcCanon (fun r => r.1.Canon) (s.engRead e sp a n) := by
  unfold State.engRead
  split
  · exact h
  · exact h
  · split
    · exact trivial
    · rename_i e
      exact frame (canon_foldl (fun _ _ h => canon_ite h.askPcie h) (canon_foldl (fun _ _ h => h.countForeign) ((h.extent.fst e))))

theorem State.Canon.writePieces {bad block l d} (h : s.Canon) : (State.writePieces bad block l d s).Canon := by
  induction l generalizing d s with
  | nil => exact h
  | cons p l ih => exact ih (canon_ite h.postPcie (canon_ite h h.visible))

theorem State.Canon.vaultWrote {writer e addrs bad} (h : s.Canon) : (s.vaultWrote writer e addrs bad).Canon := by
  unfold State.vaultWrote
  exact canon_foldl (fun _ _ h => by split; exacts [h.putCrew.noteWrite, h]) h

theorem State.Canon.putLocal {writer e sp parts bad} (h : s.Canon) : (s.putLocal writer e sp parts bad).Canon := by
  unfold State.putLocal
  exact watchLocal (by split; exacts [vaultWrote (canon_foldl (fun _ _ h => canon_foldl (fun _ _ h => h.setVault) h) h), h.onCrew.noteWrite])

theorem State.Canon.engWrite {e sp a d bad block'} (h : s.Canon) : ExcCanon (fun r => r.Canon) (s.engWrite e sp a d bad block') := by
  unfold State.engWrite
  split
  · exact h.putLocal
  · exact h.putLocal
  · split
    · exact trivial
    · rename_i e
      exact l1Drop (((h.extent.fst e)).writePieces)

theorem State.Canon.engRecord {tenant cause source tag w1 w2} (h : s.Canon) : (s.engRecord tenant cause source tag w1 w2).Canon := h.post

theorem State.Canon.engStopped {e x} {rcd : Nat → Nat → State → State} (h : s.Canon) (hr : ∀ c va t, t.Canon → (rcd c va t).Canon) : (s.engStopped e x rcd).Canon := by
  unfold State.engStopped
  split
  · exact hr _ _ _ h
  · exact h.wantMig
  · exact h
  · exact h.frame

theorem State.Canon.hubDo {x} (h : s.Canon) : (s.hubDo x).Canon := by
  unfold State.hubDo
  extract_lets lost align
  have lose : ∀ c, State.Canon (lost c) := fun _ => h.engRecord
  refine canon_ite (lose _) ?_
  split
  · rename_i e
    exact (h.engineXlate.fst e).frame
  · exact lose _
  · exact lose _
  · rename_i e
    exact (h.engineXlate.fst e).wantMig.frame
  · rename_i e
    have ht := h.engineXlate.fst e
    refine canon_ite (lose _) (canon_ite ht.frame ?_)
    split
    exacts [ht.aboArriveAt, ht.counterAdd]

theorem State.Canon.hubRetry (h : s.Canon) : s.hubRetry.Canon := canon_foldl (fun _ _ h => h.hubDo) h.frame

/-! ### Machine/Loads -/

theorem State.Canon.finish {b p} (h : s.Canon) : (s.finish b p).Canon := by
  unfold State.finish
  split
  exacts [canon_ite h.onBundle.l1DropCore h.onBundle, h.onBundle]

theorem State.Canon.onPend {k pid f} (h : s.Canon) : (s.onPend k pid f).Canon := h.onBundle

theorem State.Canon.consume {b source va} (h : s.Canon) : (s.consume b source va).Canon := by
  unfold State.consume
  split
  exacts [h.haltBundle, h]

theorem State.Canon.deferAt {b c p a} (h : s.Canon) : (s.deferAt b c p a).Canon := h.onPend.deferOne

theorem State.Canon.laneDone {b c g p v a} (h : s.Canon) : (s.laneDone b c g p v a).Canon := by
  unfold State.laneDone
  extract_lets na dropped filled held counted asked
  have h1 : dropped.Canon := canon_ite h.l1Drop h
  have h2 : filled.Canon := canon_ite h1.l2Fill h1
  have h3 : held.Canon := canon_ite h2.l1Fill h2
  have h4 : counted.Canon := canon_ite h3.countForeign h3
  have h5 : asked.Canon := canon_ite h4.askPcie h4
  exact h5.onPend

theorem State.Canon.settle {k pid} (h : s.Canon) : (s.settle k pid).Canon := by
  unfold State.settle
  split
  · exact h
  · split
    exacts [canon_ite h.finish h, h]

theorem State.Canon.performLoad {b c g p} (h : s.Canon) : (s.performLoad b c g p).Canon := by
  unfold State.performLoad
  dsimp only
  split
  exacts [h.consume, settle (acqDone (canon_foldl (fun _ _ h => h.laneDone) (canon_foldl (fun _ _ h => h.deferAt) h.frame)))]

theorem State.Canon.respond {x} {f : Bundle → Crew → Grid → Pend → State} (h : s.Canon) (hf : ∀ b c g p, (f b c g p).Canon) : ResCanon (s.respond x f) := by
  unfold State.respond
  split
  · refine res_ite h ?_
    split
    exacts [hf _ _ _ _, h]
  · exact h

theorem State.Canon.response {b c g p} (h : s.Canon) : (s.response b c g p).Canon := by
  unfold State.response
  split
  exacts [h, canon_ite h.finish h, canon_ite h (performLoad (canon_ite h.frame h))]

theorem execLoadResponse_canon {x} (h : s.Canon) : ResCanon (execLoadResponse x s) := h.respond (fun _ _ _ _ => h.response)

theorem State.Canon.lineCame {line} (h : s.Canon) : (s.lineCame line).Canon := by
  unfold State.lineCame
  refine canon_foldl ?_ h
  intro _ _ h
  split
  · split
    exacts [h.response, h]
  · exact h

theorem execFlashReadComplete_canon {line retries} (h : s.Canon) : ResCanon (execFlashReadComplete line retries s) := by
  unfold execFlashReadComplete
  dsimp only
  split
  · exact h
  · split
    · exact h.lineCame
    · split
      exacts [h.frame.lineCame, h.poisonLine.setReg.lineCame]

theorem State.Canon.undefer {d} (h : s.Canon) : (s.undefer d).Canon := h.frame

theorem State.Canon.holdDeferred {d g c cause} (h : s.Canon) : (s.holdDeferred d g c cause).Canon := h.frame.engRecord

theorem State.Canon.replayed {d b c g p pa pbmt} (h : s.Canon) : (s.replayed d b c g p pa pbmt).Canon := by
  unfold State.replayed
  dsimp only
  split
  exacts [h.undefer.consume, h.undefer.frame.laneDone.settle]

theorem State.Canon.heldAt {d pa} (h : s.Canon) : (s.heldAt d pa).Canon := h.frame

theorem State.Canon.deferAgain {d pa} (h : s.Canon) : (s.deferAgain d pa).Canon := h.frame

theorem State.Canon.replay {d} (h : s.Canon) : (s.replay d).Canon := by
  unfold State.replay
  dsimp only
  split
  · split
    · exact h.undefer
    · split
      · exact h
      · split
        · split
          · exact h
          · split
            exacts [h.replayed, h.undefer]
        · split
          · split
            · exact h.heldAt
            · split
              exacts [h.setA.install.replayed, h.setA.install.undefer]
          · exact h.wantMig
          · exact h.deferAgain
          · exact canon_ite h.holdDeferred h.undefer
  · exact h.undefer

theorem State.Canon.takeMoved {grove} (h : s.Canon) : OptCanon (s.takeMoved grove) := opt_map (fun _ => h.frame.replay)

theorem State.Canon.takeLane {grove} (h : s.Canon) : (s.takeLane grove).Canon := by
  unfold State.takeLane
  split
  · exact h
  · split
    · split
      exacts [h.deferOne, canon_ite h.deferOne h.frame.replay, h.frame.replay]
    · exact h

theorem State.Canon.takeIn {grove} (h : s.Canon) : (s.takeIn grove).Canon := canon_ite h (opt_getD h.takeMoved h.takeLane)

theorem State.Canon.takeFrom {gone} (h : s.Canon) : (s.takeFrom gone).Canon :=
  canon_foldl (fun _ _ h => canon_foldl (fun _ _ h => h.takeIn) h) h

theorem State.Canon.replayAll {pick} (h : s.Canon) : (s.replayAll pick).Canon := takeFrom (canon_foldl (fun _ _ h => h.replay) h)

theorem execDeferralTimeout_canon {i} (h : s.Canon) : ResCanon (execDeferralTimeout i s) := by
  unfold execDeferralTimeout
  split
  · exact h
  · split
    exacts [h.frame.setReg.post.frame.consume.takeFrom, h.undefer.takeFrom]

/-! ### Machine/Paging -/

theorem State.Canon.setMisses {l} (h : s.Canon) : (s.setMisses l).Canon := h.frame

theorem execWalkStart_canon {i} (h : s.Canon) : ResCanon (execWalkStart i s) := by
  unfold execWalkStart
  dsimp only
  split
  · exact h
  · split
    · exact h
    · split
      · split
        exacts [h, h.setMisses.setReg]
      · split
        exacts [h, h.setMisses]

theorem State.Canon.note {k n} (h : s.Canon) : (s.note k n).Canon := h.onBundle

theorem State.Canon.park {k n} (h : s.Canon) : (s.park k n).Canon := h.onBundle

theorem State.Canon.walkFor {m w} (h : s.Canon) : (s.walkFor m w).Canon := by
  unfold State.walkFor
  split
  exacts [h.setA.install, h.wantMig.park, h.note, h.note, h]

theorem State.Canon.fireWaiting (h : s.Canon) : s.fireWaiting.Canon := canon_foldl (fun _ _ h => h.fire) h.frame

theorem execWalkComplete_canon {i} (h : s.Canon) : ResCanon (execWalkComplete i s) := by
  unfold execWalkComplete
  split
  · exact h
  · split
    exacts [h, fireWaiting (hubRetry (canon_ite h.setMisses (canon_foldl (fun _ _ h => h.walkFor) h.setMisses.pwFill)))]

theorem State.Canon.unpark {l} (h : s.Canon) : (s.unpark l).Canon := canon_foldl (fun _ _ h => h.onBundle) h

theorem State.Canon.copyPage {src dst n} (h : s.Canon) : (s.copyPage src dst n).Canon :=
  canon_foldl (fun _ _ h => h.poisonFrom.frame) h.setBytes.unitWrote.frame

theorem State.Canon.migEnd {m} (h : s.Canon) : (s.migEnd m).Canon := h.frame.unpark.hubRetry.fireWaiting.replayAll

theorem execMigrationCopyDone_canon {i} (h : s.Canon) : ResCanon (execMigrationCopyDone i s) := by
  unfold execMigrationCopyDone
  dsimp only
  split
  · exact h
  · split
    · exact h
    · split
      exacts [migEnd (post (canon_foldl (fun _ _ h => h.put64) h.setMigs.copyPage)), h.setMigs.copyPage.keepFrame.migEnd]

theorem State.Canon.retryFrames {n} (h : s.Canon) : (s.retryFrames n).Canon := by
  unfold State.retryFrames
  exact canon_foldl (fun _ _ h => by split; exacts [canon_ite h.migFrame.setMigs h, h]) h

theorem State.Canon.unparkPool {n} (h : s.Canon) : (s.unparkPool n).Canon := h.frame

theorem State.Canon.poolWrite {n v} (h : s.Canon) : (s.poolWrite n v).Canon := canon_ite h.setReg h.setReg.unparkPool.retryFrames

theorem execPoolTailWrite_canon {n v} (h : s.Canon) : ResCanon (execPoolTailWrite n v s) := h.poolWrite

theorem State.Canon.sdCommand {t v} (h : s.Canon) : (s.sdCommand t v).Canon :=
  canon_ite h (canon_ite h.setReg (canon_ite h.setReg h.frame.setReg))

theorem runShootdown_canon {kind t v} (h : s.Canon) : ResCanon (runShootdown kind t v s) := by
  unfold runShootdown
  split
  exacts [h.sdCommand, h]

theorem State.Canon.sdResume {d} (h : s.Canon) : (s.sdResume d).Canon := frame (canon_foldl (fun _ _ h => h.migEnd) h.setMigs)

theorem State.Canon.sdRetry {d} (h : s.Canon) : (s.sdRetry d).Canon := h.frame

theorem State.Canon.sdEffect {d} (h : s.Canon) : (s.sdEffect d).Canon := canon_ite h.harvestAll h.harvestAll.frame.sdResume.sdRetry.replayAll

theorem execShootdownDone_canon {t} (h : s.Canon) : ResCanon (execShootdownDone t s) := by
  unfold execShootdownDone
  split
  · exact h
  · split
    exacts [h, h.frame.sdEffect.setReg]

theorem execHarvestTimer_canon {grove} (h : s.Canon) : ResCanon (execHarvestTimer grove s) := h.harvestAll

theorem State.Canon.setReloc {u v} (h : s.Canon) : (s.setReloc u v).Canon := by
  unfold State.setReloc
  split
  exacts [h, canon_foldl (fun _ _ h => h.put64) h]

theorem State.Canon.setSwitching {l} (h : s.Canon) : (s.setSwitching l).Canon := h.frame

theorem execRelocationBegin_canon {unit} (h : s.Canon) : ResCanon (execRelocationBegin unit s) := by
  unfold execRelocationBegin
  split
  exacts [h, h.setReloc.setSwitching]

theorem State.Canon.wakeUnit {u} (h : s.Canon) : (s.wakeUnit u).Canon := h.replayAll

theorem execRelocationSwitchEnd_canon {unit} (h : s.Canon) : ResCanon (execRelocationSwitchEnd unit s) := by
  unfold execRelocationSwitchEnd
  split
  exacts [h, h.setSwitching.setReloc.wakeUnit]

theorem execFlashDieFree_canon {unit} (h : s.Canon) : ResCanon (execFlashDieFree unit s) := by
  unfold execFlashDieFree
  split
  exacts [h, h.frame.wakeUnit]

theorem execRegionEraseDone_canon {n} (h : s.Canon) : ResCanon (execRegionEraseDone n s) := by
  have erased : ∀ {f : Host.Cell → Bool} {poison flash}, ({ s with mem := s.mem.filter f, poison := poison, flash := flash } : State).Canon :=
    fun {f _ _} => { h with mem := memWf_filter f h.mem }
  exact res_ite h erased.setReg.setReg

/-! ### Machine/Net -/

theorem State.Canon.upTo {t} (h : s.Canon) : (s.upTo t).Canon := h.frame

theorem State.Canon.coppice {k used unspared} (h : s.Canon) : (s.coppice k used unspared).Canon := h.setReg

theorem State.Canon.setNet {n} (h : s.Canon) : (s.setNet n).Canon := h.frame

theorem execNetLaneFail_canon {port lane} (h : s.Canon) : ResCanon (execNetLaneFail port lane s) := by
  unfold execNetLaneFail
  split
  · exact h
  · split <;> exact h.setNet.coppice

theorem execNetworkPortStateChange_canon {port lanes} (h : s.Canon) : ResCanon (execNetworkPortStateChange port lanes s) := by
  unfold execNetworkPortStateChange
  split
  · exact h
  · split
    · exact h.setNet
    · split
      exacts [h.setNet, h]

theorem State.Canon.portDiscard {p} (h : s.Canon) : (s.portDiscard p).Canon := h.setNet

theorem State.Canon.emit {l} (h : s.Canon) : (s.emit l).Canon := h.setNet

theorem State.Canon.putSend {x} (h : s.Canon) : (s.putSend x).Canon := h.setNet

theorem State.Canon.netRecord {tenant cause k m fsize repairs seq src dst stripe held tag} (h : s.Canon) :
    (s.netRecord tenant cause k m fsize repairs seq src dst stripe held tag).Canon :=
  h.post

theorem State.Canon.sendToken {x status stripe} (h : s.Canon) : (s.sendToken x status stripe).Canon :=
  canon_ite h.setNet.token.onBundle h.setNet.token.onBundle.netRecord

theorem State.Canon.setRoute {module ip} (h : s.Canon) : (s.setRoute module ip).Canon := h.setNet

theorem State.Canon.sendStart {b c g time pid prof buf len dest} (h : s.Canon) : (s.sendStart b c g time pid prof buf len dest).Canon :=
  canon_ite h.frame.sendToken h.frame

theorem State.Canon.sendFault {x cause va} (h : s.Canon) : (s.sendFault x cause va).Canon := h.engRecord

theorem State.Canon.sendFrags {x stripe q pick} (h : s.Canon) : OptCanon (s.sendFrags x stripe q pick).1 ∧ (s.sendFrags x stripe q pick).2.Canon := by
  unfold State.sendFrags
  extract_lets f k off n
  split
  · exact ⟨trivial, h.engStopped fun _ _ _ h => h.putSend.sendFault⟩
  · rename_i e
    exact ⟨emit (frame (h.engRead.fst e)), h⟩

theorem State.Canon.sendRepair {x stripe q mask} (h : s.Canon) : (s.sendRepair x stripe q mask).Canon := by
  have sent := h.sendFrags (x := x) (stripe := stripe) (q := q) (pick := fun i => mask.testBit i)
  refine canon_ite h (canon_ite h.putSend ?_)
  split <;> rename_i e <;> rw [e] at sent
  · exact sent.2.putSend
  · exact putSend sent.1

theorem execStripeTransmit_canon {send stripe} (h : s.Canon) : ResCanon (execStripeTransmit send stripe s) := by
  unfold execStripeTransmit
  split
  · exact h
  · rename_i x _
    split
    · exact h.sendRepair
    · refine res_ite h ?_
      have sent := h.sendFrags (x := x) (stripe := stripe) (q := 0) (pick := fun _ => true)
      split <;> rename_i e <;> rw [e] at sent
      · exact sent.2
      · exact putSend sent.1

theorem State.Canon.control {s f : State} {p kind} (h : s.Canon) (h1 : f.Canon) : ResCanon (s.control p kind f) := by
  unfold State.control
  split
  · exact h
  · split
    · exact h.portDiscard
    · split
      exacts [h, h1]

theorem State.Canon.answer {p kind body} (h : s.Canon) : (s.answer p kind body).Canon := h.emit

theorem execRepairRequestReceive_canon {p} (h : s.Canon) : ResCanon (execRepairRequestReceive p s) := by
  unfold execRepairRequestReceive
  exact h.control (by split; exacts [h.answer, h.sendRepair])

theorem execStripeConfirmationReceive_canon {p} (h : s.Canon) : ResCanon (execStripeConfirmationReceive p s) := by
  unfold execStripeConfirmationReceive
  exact h.control (by split; exacts [h, h.putSend])

theorem execMessageConfirmationReceive_canon {p} (h : s.Canon) : ResCanon (execMessageConfirmationReceive p s) := by
  unfold execMessageConfirmationReceive
  exact h.control (by split; exacts [h, h.sendToken])

theorem execRefusalReceive_canon {p} (h : s.Canon) : ResCanon (execRefusalReceive p s) := by
  unfold execRefusalReceive
  exact h.control (by split; exacts [h, canon_ite h.sendToken h])

theorem execBusyReceive_canon {p} (h : s.Canon) : ResCanon (execBusyReceive p s) := by
  unfold execBusyReceive
  exact h.control (by split; exacts [h, canon_ite h (canon_ite h.sendToken h.putSend)])

theorem execBusyBackoffExpiry_canon {send} (h : s.Canon) : ResCanon (execBusyBackoffExpiry send s) := by
  unfold execBusyBackoffExpiry
  split
  · exact h
  · split
    exacts [h, h.upTo.putSend]

theorem execLossNoticeReceiveSender_canon {p} (h : s.Canon) : ResCanon (execLossNoticeReceiveSender p s) := by
  unfold execLossNoticeReceiveSender
  exact h.control (by split; exacts [h, canon_ite h.sendToken h])

theorem execSenderDeadlineExpiry_canon {send} (h : s.Canon) : ResCanon (execSenderDeadlineExpiry send s) := by
  unfold execSenderDeadlineExpiry
  split
  · exact h
  · split
    · exact h
    · split
      exacts [h, h.upTo.putSend.emit]

theorem execLossNoticeWaitExpiry_canon {send} (h : s.Canon) : ResCanon (execLossNoticeWaitExpiry send s) := by
  unfold execLossNoticeWaitExpiry
  split
  · exact h
  · split
    exacts [h, h.upTo.sendToken]

theorem execClosedReceiveSender_canon {p} (h : s.Canon) : ResCanon (execClosedReceiveSender p s) := by
  unfold execClosedReceiveSender
  exact h.control (by split; exacts [h, canon_ite h.sendToken h])

theorem State.Canon.rxCount {t hi lo} (h : s.Canon) : (s.rxCount t hi lo).Canon := h.setReg

theorem State.Canon.rxLate {t} (h : s.Canon) : (s.rxLate t).Canon := h.rxCount

theorem State.Canon.rxMismatch {t} (h : s.Canon) : (s.rxMismatch t).Canon := h.rxCount

theorem State.Canon.filterAdd {src tenant seq ok} (h : s.Canon) : (s.filterAdd src tenant seq ok).Canon := h.setNet

theorem execFilterEntryExpiry_canon {i} (h : s.Canon) : ResCanon (execFilterEntryExpiry i s) := by
  unfold execFilterEntryExpiry
  split
  exacts [h, h.upTo.setNet]

theorem State.Canon.recSend {r kind stripe k body} (h : s.Canon) : (s.recSend r kind stripe k body).Canon := h.emit

theorem State.Canon.openVa {ctx va n} (h : s.Canon) : (s.openVa ctx va n).Canon := by
  unfold State.openVa
  exact canon_foldl (fun _ _ h => by split; exacts [h.openRange, h]) h

theorem State.Canon.writeVa {ctx buf l} (h : s.Canon) : (s.writeVa ctx buf l).Canon := by
  unfold State.writeVa
  exact canon_foldl (fun _ _ h => canon_foldl (fun _ _ h => by split; exacts [h.setBytes.unitWrote, h]) h) h

theorem State.Canon.narmSignal {a status} (h : s.Canon) : (s.narmSignal a status).Canon := canon_ite h h.hubDo

theorem State.Canon.recFail {r cause stripe notice} (h : s.Canon) : (s.recFail r cause stripe notice).Canon := by
  unfold State.recFail
  extract_lets _ gone known told slot counted _ told'
  have h1 : known.Canon := h.setNet.filterAdd
  have h2 : told.Canon := canon_ite h1.recSend h1
  have h3 : counted.Canon := h2.rxCount
  have h4 : told'.Canon := by
    dsimp only [told']
    split
    exacts [h3.setNet.openVa.narmSignal, h3]
  exact h4.netRecord

theorem State.Canon.recComplete {r} (h : s.Canon) : (s.recComplete r).Canon := by
  unfold State.recComplete
  extract_lets _ gone known _ delivered
  have h1 : known.Canon := h.setNet.filterAdd
  have h2 : delivered.Canon := by
    dsimp only [delivered]
    split
    · exact canon_ite (narmSignal (canon_ite h1.setNet.openVa h1.setNet.writeVa)) (launchArmed (narmSignal (canon_ite h1.setNet.openVa h1.setNet.writeVa)))
    · exact h1
  exact h2.recSend

theorem State.Canon.setRec {i r} (h : s.Canon) : (s.setRec i r).Canon := h.setNet

theorem State.Canon.place {a kf l r x} (h : s.Canon) : (State.place a kf l r x s).1.Canon := by
  induction l generalizing r x s with
  | nil => exact h
  | cons d l ih =>
    unfold State.place
    dsimp only
    split
    · exact ih h
    · split
      · exact h.engStopped fun _ _ _ h => h
      · rename_i t e
        have written : t.Canon := by
          split at e
          · exact Except.ok.inj e ▸ h
          · exact h.engWrite.ok e
        exact ih written.frame

theorem State.Canon.placeHeld {i r x} (h : s.Canon) : (s.placeHeld i r x).Canon := by
  unfold State.placeHeld
  split
  exacts [h.place.setRec, h]

theorem State.Canon.landParity {r x i d} (h : s.Canon) : (s.landParity r x i d).Canon := by
  unfold State.landParity
  split
  exacts [canon_ite h h.setBytes, h]

theorem State.Canon.repair {i r x} (h : s.Canon) : (s.repair i r x).Canon := h.setRec.recSend.rxCount

theorem State.Canon.fillSlot {i r x p} (h : s.Canon) : (s.fillSlot i r x p).Canon :=
  canon_ite h.rxLate (canon_ite (canon_ite h.repair h.setRec) (canon_ite h.rxLate h.setRec.landParity.placeHeld))

theorem State.Canon.takeSlot {i r p} (h : s.Canon) : (s.takeSlot i r p).Canon := h.setRec.fillSlot

theorem State.Canon.landFrag {i r p} (h : s.Canon) : (s.landFrag i r p).Canon := by
  unfold State.landFrag
  split
  · exact h
  · split
    · exact canon_ite h.takeSlot h
    · exact canon_ite h.fillSlot h.rxMismatch
    · exact canon_ite h.rxLate h.rxMismatch
    · exact canon_ite h.rxLate h.rxMismatch
    · exact canon_ite h.rxLate (canon_ite h.takeSlot h.rxMismatch)
    · exact h.rxMismatch

theorem State.Canon.setBackoff {p b} (h : s.Canon) : (s.setBackoff p b).Canon := h.setNet

theorem State.Canon.newMessage {p} (h : s.Canon) : (s.newMessage p).Canon := by
  unfold State.newMessage
  split
  · exact h.rxLate
  · split
    · exact h.setBackoff.answer.rxCount
    · split
      exacts [h.answer, canon_ite h.answer h.setNet.setBackoff.openVa.landFrag]

theorem execFragmentReceive_canon {p} (h : s.Canon) : ResCanon (execFragmentReceive p s) := by
  unfold execFragmentReceive
  split
  · exact h.portDiscard
  · split
    · split
      exacts [h, h.portDiscard]
    · split
      · split
        exacts [h.rxCount, h.portDiscard]
      · split
        · exact h
        · split
          · exact h.newMessage
          · split
            exacts [h.landFrag, h]

theorem execDecodeComplete_canon {rec' stripe} (h : s.Canon) : ResCanon (execDecodeComplete rec' stripe s) := by
  unfold execDecodeComplete
  split
  · exact h
  · split
    · split
      · exact h
      · split
        exacts [h, h.place.setRec]
    · exact h

theorem State.Canon.stripeConfirm {i r} (h : s.Canon) : (s.stripeConfirm i r).Canon := h.setRec.recSend

theorem execStripeDecoded_canon {rec' stripe} (h : s.Canon) : ResCanon (execStripeDecoded rec' stripe s) := by
  unfold execStripeDecoded
  dsimp only
  split
  · exact h
  · split
    · exact h
    · split
      · exact h
      · split
        · exact h.setRec.recComplete
        · split
          · exact h.setRec.stripeConfirm
          · split
            exacts [h.setRec, h.setRec.setRec]

theorem execStripeConfirmTimer_canon {rec'} (h : s.Canon) : ResCanon (execStripeConfirmTimer rec' s) := by
  unfold execStripeConfirmTimer
  split
  · exact h
  · split
    exacts [h, h.upTo.stripeConfirm]

theorem execHorizonTimerExpiry_canon {rec' stripe} (h : s.Canon) : ResCanon (execHorizonTimerExpiry rec' stripe s) := by
  unfold execHorizonTimerExpiry
  split
  · exact h
  · split
    · exact h
    · split
      · exact h
      · split
        exacts [h.upTo.repair, h.upTo.setRec.recFail]

theorem execLossNoticeReceiveReceiver_canon {p} (h : s.Canon) : ResCanon (execLossNoticeReceiveReceiver p s) := by
  unfold execLossNoticeReceiveReceiver
  refine h.control (canon_ite h ?_)
  split
  · exact h.recFail.answer
  · split
    exacts [h.answer, h.filterAdd.answer]

theorem execClosedReceiveReceiver_canon {p} (h : s.Canon) : ResCanon (execClosedReceiveReceiver p s) := by
  unfold execClosedReceiveReceiver
  exact h.control (by split; exacts [h.recFail, h])

theorem State.Canon.narmArm {g time w launch} (h : s.Canon) : (s.narmArm g time w launch).1.Canon := by
  unfold State.narmArm
  split
  · exact h
  · split
    exacts [h, h.frame.setNet.openVa]

theorem State.Canon.narmDrop {tenant x2} (h : s.Canon) : (s.narmDrop tenant x2).1.Canon := by
  unfold State.narmDrop
  dsimp only
  split
  exacts [h.setNet, h]

theorem State.Canon.deliverOwn (h : s.Canon) : ResCanon s.deliverOwn := by
  unfold State.deliverOwn
  dsimp only
  split
  · exact h
  · split
    · exact h
    · split
      · exact execRepairRequestReceive_canon h.setNet
      · exact execStripeConfirmationReceive_canon h.setNet
      · exact execMessageConfirmationReceive_canon h.setNet
      · exact execRefusalReceive_canon h.setNet
      · exact execBusyReceive_canon h.setNet
      · split
        exacts [execLossNoticeReceiveReceiver_canon h.setNet, execLossNoticeReceiveSender_canon h.setNet]
      · split
        exacts [execClosedReceiveSender_canon h.setNet, execClosedReceiveReceiver_canon h.setNet]
      · exact execFragmentReceive_canon h.setNet

theorem State.Canon.netReset {t} (h : s.Canon) : (s.netReset t).Canon := setNet (canon_foldl (fun _ _ h => h.recFail) h)

/-! ### Machine/Flash -/

theorem State.Canon.setFlash {f} (h : s.Canon) : (s.setFlash f).Canon := h.frame

theorem State.Canon.setStream {f} (h : s.Canon) : (s.setStream f).Canon := h.setFlash

theorem State.Canon.refuse {k pid x3 status} (h : s.Canon) : (s.refuse k pid x3 status).Canon := token (canon_ite h.setReg h)

theorem State.Canon.setOpen {n v} (h : s.Canon) : (s.setOpen n v).Canon := h.setReg

theorem State.Canon.setSealed {n e} (h : s.Canon) : (s.setSealed n e).Canon := h.setReg

theorem State.Canon.placeExtents {base l} (h : s.Canon) : (s.placeExtents base l).Canon := canon_foldl (fun _ _ h => h.setBytes.poisonWrite) h

theorem State.Canon.dropExtents {f n endAt} (h : s.Canon) : (s.dropExtents f n endAt).Canon := h.frame

theorem State.Canon.dropAbove {n endAt} (h : s.Canon) : (s.dropAbove n endAt).Canon := h.l1Drop.setFlash

theorem State.Canon.trySeals {fuel k} (h : s.Canon) : (State.trySeals fuel k s).Canon := by
  induction fuel generalizing s with
  | zero => exact h
  | succ fuel ih =>
    unfold State.trySeals
    split
    · exact h
    · split
      · exact h
      · split
        · exact h
        · refine canon_ite h (ih ?_)
          split
          · exact h.setStream.placeExtents.setSealed.token
          · exact h.setStream.placeExtents.setSealed

theorem State.Canon.trySyncs {x1} (h : s.Canon) : (s.trySyncs x1).Canon := by
  unfold State.trySyncs
  split
  · exact h
  · split
    · exact h
    · split
      · exact canon_ite (token (setFlash (setReg (setOpen (canon_foldl (fun _ _ h => h.token) h.setStream))))) (canon_foldl (fun _ _ h => h.token) h.setStream)
      · exact canon_foldl (fun _ _ h => h.token) h.setStream

theorem execSealCommit_canon {handle} (h : s.Canon) : ResCanon (execSealCommit handle s) := by
  unfold execSealCommit
  split
  · exact h
  · split
    · exact h
    · split
      · exact h
      · split
        exacts [h, h.setStream.setFlash.trySyncs]

theorem State.Canon.acceptOpen {q} (h : s.Canon) : (s.acceptOpen q).Canon := by
  unfold State.acceptOpen
  dsimp only
  split
  exacts [h.setOpen.setReg.setStream.setFlash.token, h.token]

theorem State.Canon.acceptWrite {q f} (h : s.Canon) : (s.acceptWrite q f).Canon :=
  canon_ite h.refuse (canon_ite h.refuse (canon_ite h.refuse h.setStream.setReg))

theorem State.Canon.acceptOn {q f} (h : s.Canon) : (s.acceptOn q f).Canon := by
  unfold State.acceptOn
  split
  exacts [h.acceptWrite, h.setStream.trySeals, h.setStream.trySyncs, h.setReg.setStream.trySeals]

theorem State.Canon.accept {q} (h : s.Canon) : (s.accept q).Canon := by
  unfold State.accept
  dsimp only
  split
  · exact h.acceptOpen
  · split
    · exact h.refuse
    · split
      exacts [h.acceptOn, h]

theorem execSkidderRequestAccept_canon {stack} (h : s.Canon) : ResCanon (execSkidderRequestAccept stack s) := by
  unfold execSkidderRequestAccept
  split
  exacts [h, h.setFlash.accept]

theorem State.Canon.streamRequest {q} (h : s.Canon) : (s.streamRequest q).Canon := canon_ite h.token (canon_ite h.token h.setFlash)

theorem State.Canon.extentBytes {x} (h : s.Canon) : (s.extentBytes x).1.Canon := by
  unfold State.extentBytes
  split
  · split
    · rename_i e
      split
      exacts [((h.engRead.fst e)).frame, (h.engRead.fst e)]
    · exact h
  · exact h.frame

theorem execExtentStaged_canon {handle i} (h : s.Canon) : ResCanon (execExtentStaged handle i s) := by
  unfold execExtentStaged
  split
  · exact h
  · split
    · exact h
    · exact res_ite h h.extentBytes.setStream.setFlash.token.trySeals

theorem execStagingDrain_canon {stack bytes} (h : s.Canon) : ResCanon (execStagingDrain stack bytes s) := h.setFlash

theorem State.Canon.leftError {handle i} (h : s.Canon) : (s.leftError handle i).Canon := by
  unfold State.leftError
  split
  exacts [h.placeExtents, h]

theorem execStagingError_canon {handle i} (h : s.Canon) : ResCanon (execStagingError handle i s) := by
  unfold execStagingError
  split
  · exact h.leftError
  · split
    · exact h.leftError
    · split
      exacts [h, canon_ite h.setStream.placeExtents h.setStream]

theorem execFlashBlockFail_canon {stack exhausted} (h : s.Canon) : ResCanon (execFlashBlockFail stack exhausted s) := by
  unfold execFlashBlockFail
  split <;> exact h.frame.setReg.coppice

theorem State.Canon.closeSlot {x1} (h : s.Canon) : (s.closeSlot x1).Canon := h.setOpen.setReg.setFlash

theorem State.Canon.abortStream {f} (h : s.Canon) : (s.abortStream f).Canon :=
  closeSlot (setSealed (dropAbove (dropExtents (canon_foldl (fun _ _ h => h.refuse) h))))

theorem State.Canon.flashReset {t} (h : s.Canon) : (s.flashReset t).Canon := by
  unfold State.flashReset
  exact setFlash (canon_foldl (fun _ _ h => by split; exacts [h, h.dropExtents.dropAbove.setFlash.setSealed.closeSlot]) h)

theorem State.Canon.flashSettle (h : s.Canon) : s.flashSettle.Canon :=
  setFlash (canon_foldl (fun _ _ h => h.dropExtents.closeSlot) (canon_foldl (fun _ _ h => h.setSealed) h))

theorem keysFrom_filterMap {α : Type} {f : Nat × α → Option (Nat × α)} (hf : ∀ x y, f x = some y → y.1 = x.1) {l : List (Nat × α)} {lo : Nat} (hl : keysFrom lo l = true) :
    keysFrom lo (l.filterMap f) = true := by
  induction l generalizing lo with
  | nil => rfl
  | cons c l ih =>
    simp only [keysFrom, Bool.and_eq_true, decide_eq_true_eq] at hl
    rw [List.filterMap_cons]
    split
    · exact keysFrom_mono (by omega) (ih hl.2)
    · rename_i y e
      simp only [keysFrom, Bool.and_eq_true, decide_eq_true_eq, hf c y e]
      exact ⟨hl.1, ih hl.2⟩

theorem keptReg_key {x y : Nat × Word} (h : keptReg x = some y) : y.1 = x.1 := by
  unfold keptReg at h
  split at h
  · rw [← Option.some.inj h]
  · split at h
    · rw [← Option.some.inj h]
    · split at h
      · rw [← Option.some.inj h]
      · split at h
        · rw [← Option.some.inj h]
        · cases h

theorem State.Canon.reborn {last powered} (h : s.Canon) : (s.reborn last powered).Canon where
  mem := memWf_filter _ h.flashSettle.mem
  regs := keysFrom_mapPut _ (keysFrom_filterMap (fun _ _ => keptReg_key) h.flashSettle.regs) (Nat.zero_le _)
  tft := rfl
  charge := rfl

theorem execInputPowerLoss_canon (h : s.Canon) : ResCanon (execInputPowerLoss s) := by
  unfold execInputPowerLoss
  split
  exacts [h, h.reborn]

/-! ### Machine/Coll -/

theorem State.Canon.setColl {c} (h : s.Canon) : (s.setColl c).Canon := h.frame

theorem State.Canon.writeBits {e a n v bad} (h : s.Canon) : (s.writeBits e a n v bad).Canon := by
  unfold State.writeBits
  dsimp only
  split
  · split
    · rename_i e
      exact (h.engWrite.ok e)
    · exact h
  · exact h

theorem State.Canon.collInputs {rs} (h : s.Canon) : (s.collInputs rs).1.Canon := by
  unfold State.collInputs
  exact canon_foldl_fst (fun _ _ h => by split; exacts [h.frame, h]) h

theorem State.Canon.unnoted {t s : State} (h : t.Canon) : (State.unnoted t s).Canon := h.frame

theorem State.Canon.openRegion {r} (h : s.Canon) : (s.openRegion r).Canon :=
  canon_ite h (unnoted (canon_foldl (fun _ _ h => h.writeBits) h.frame))

theorem State.Canon.fillSlots {fuel stack} (h : s.Canon) : (State.fillSlots fuel stack s).Canon := by
  induction fuel generalizing s with
  | zero => exact h
  | succ fuel ih =>
    unfold State.fillSlots
    split
    · exact h
    · split
      · exact h
      · exact ih h.frame

theorem State.Canon.fillAll (h : s.Canon) : s.fillAll.Canon := canon_foldl (fun _ _ h => h.fillSlots) h

theorem State.Canon.collArrive {r status flags} (h : s.Canon) : (s.collArrive r status flags).Canon := h.setColl.hubDo

theorem State.Canon.collWrite {r vs} (h : s.Canon) : (s.collWrite r vs).Canon := unnoted (canon_foldl (fun _ _ h => h.writeBits) h)

theorem State.Canon.collBack {r} (h : s.Canon) : (s.collBack r).Canon := canon_ite h h.collWrite

theorem State.Canon.collFinish {rs} (h : s.Canon) : (s.collFinish rs).Canon := by
  unfold State.collFinish
  split
  · exact h
  · exact canon_ite (canon_foldl (fun _ _ h => h.collArrive) h) (canon_foldl (fun _ _ h => h.collArrive) (canon_foldl (fun _ _ h => h.collWrite) h.collInputs.frame))

theorem State.Canon.commEnd {n status} (h : s.Canon) : (s.commEnd n status).Canon := by
  unfold State.commEnd
  refine fillAll (canon_foldl (fun _ _ h => h.collArrive) ?_)
  exact canon_ite (canon_foldl (fun _ _ h => h.openRegion) h.setColl.setReg) (canon_foldl (fun _ _ h => h.collBack) h.setColl.setReg)

theorem State.Canon.commFail {n status} (h : s.Canon) : (s.commFail n status).Canon := h.commEnd.setColl

theorem State.Canon.collStart {n} (h : s.Canon) : (s.collStart n).Canon :=
  canon_foldl (fun _ _ h => canon_ite h.setColl.collArrive h.setColl) h

theorem State.Canon.collIssue {b g md sel crd obj t} (h : s.Canon) : (s.collIssue b g md sel crd obj t).Canon := h.setColl.onBundle.collStart

theorem execCollOutcomeExchange_canon {comm seq others} (h : s.Canon) : ResCanon (execCollOutcomeExchange comm seq others s) := by
  unfold execCollOutcomeExchange
  dsimp only
  split
  · exact h.collStart
  · split
    · exact canon_foldl (fun _ _ h => h.collArrive) h.collStart
    · split
      exacts [h.collStart.commFail, setColl (canon_foldl (fun _ _ h => h.openRegion) h.collStart)]

theorem execCollFailureNotice_canon {comm status} (h : s.Canon) : ResCanon (execCollFailureNotice comm status s) := by
  unfold execCollFailureNotice
  split
  exacts [h, h.commEnd]

theorem execChunkCommandArrive_canon {stack ch} (h : s.Canon) : ResCanon (execChunkCommandArrive stack ch s) := by
  unfold execChunkCommandArrive
  dsimp only
  split
  exacts [h, h.setColl.fillSlots]

theorem execChunkEnd_canon {stack fin} (h : s.Canon) : ResCanon (execChunkEnd stack fin s) := by
  unfold execChunkEnd
  split
  · split
    · exact h
    · extract_lets c src coll t rs
      have filled : State.Canon t := fillAll (setColl h)
      clear_value t
      split
      exacts [filled, filled.collFinish]
  · exact res_ite h h.setColl.fillAll
  · exact res_ite h.commFail h

theorem State.Canon.collReset {t} (h : s.Canon) : (s.collReset t).Canon := canon_foldl (fun _ _ h => canon_ite h.commFail h) h

/-! ### Machine/CopyUnit -/

theorem State.Canon.chunkData {e m n} (h : s.Canon) : ExcCanon (fun r => r.1.Canon) (s.chunkData e m n) := by
  unfold State.chunkData
  split
  · exact h
  · split
    · exact trivial
    · rename_i e
      split
      · exact (h.engRead.fst e)
      · split
        · split
          · exact trivial
          · rename_i e1
            exact ((((h.engRead.fst e)).engRead).fst e1)
        · exact (h.engRead.fst e)

theorem State.Canon.moveChunk {e m n block' x5 hurt} (h : s.Canon) : ExcCanon (fun r => r.1.Canon) (s.moveChunk e m n block' x5 hurt) := by
  unfold State.moveChunk
  dsimp only
  split
  · exact trivial
  · rename_i e
    split
    · exact trivial
    · rename_i e1
      exact ((((h.chunkData.fst e)).engWrite).ok e1)

theorem runMoves_canon {e block open? hurt fuel l} {r : CopyRun} (h : r.s.Canon) : (State.runMoves e block open? hurt fuel l r).s.Canon := by
  induction fuel generalizing l r with
  | zero => exact h
  | succ fuel ih =>
    cases l with
    | nil => exact h
    | cons m l =>
      unfold State.runMoves
      dsimp only
      split
      · rename_i e
        exact ih (h.moveChunk.fst e)
      · split
        · exact h
        · split
          · rename_i e
            exact h.moveChunk.fst e
          · exact h

theorem State.Canon.runCopy {e m} (h : s.Canon) : (s.runCopy e m).s.Canon := runMoves_canon (canon_ite h.frame h)

theorem State.Canon.onHead {k q f} (h : s.Canon) : (s.onHead k q f).Canon := h.onCrew

theorem State.Canon.openSpan {e x} (h : s.Canon) : (s.openSpan e x).Canon := by
  unfold State.openSpan
  split
  · exact h.openRange
  · exact h.frame.onCrew
  · exact canon_foldl (fun _ _ h => by split; exacts [h.putCrew, h]) h.frame

theorem State.Canon.settleCopy {e m done} (h : s.Canon) : (s.settleCopy e m done).Canon :=
  canon_ite h (canon_foldl (fun _ _ h => h.openSpan) h)

theorem State.Canon.endCopies {e l} (h : s.Canon) : (s.endCopies e l).Canon := canon_foldl (fun _ _ h => h.settleCopy.token) h

theorem execCpreset_canon {x} (h : s.Canon) : ResCanon (execCpreset x s) := h.issue (fun _ => trivial) (fun _ _ h => h.endCopies.onCrew.advance)

theorem execCopyComplete_canon {k q} (h : s.Canon) : ResCanon (execCopyComplete k q s) := by
  unfold execCopyComplete
  dsimp only
  split
  · split
    exacts [h, h.upTo.runCopy.settleCopy.onHead.token]
  · exact h

theorem State.Canon.copyRecord {e k q off cause va} (h : s.Canon) : (s.copyRecord e k q off cause va).Canon := by
  unfold State.copyRecord
  split
  exacts [h.engRecord, h]

theorem execCopyFaultStall_canon {k q} (h : s.Canon) : ResCanon (execCopyFaultStall k q s) := by
  unfold execCopyFaultStall
  dsimp only
  split
  · split
    exacts [h, h.upTo.runCopy.onHead.engStopped (fun _ _ _ h => h.copyRecord)]
  · exact h

/-! ### Machine/TileUnit -/

theorem State.Canon.elemCode {e t i j} (h : s.Canon) : ExcCanon (fun r => r.1.Canon) (s.elemCode e t i j) := by
  unfold State.elemCode
  dsimp only
  split
  · exact trivial
  · rename_i e
    exact (h.engRead.fst e)

theorem State.Canon.elemScale {e t kRows i j} (h : s.Canon) : ExcCanon (fun r => r.1.Canon) (s.elemScale e t kRows i j) := by
  unfold State.elemScale
  split
  · exact h
  · split
    · exact trivial
    · rename_i e
      exact (h.engRead.fst e)

theorem stage_canon {x : Opnd} {e q o l} {r : Staged} (h : r.s.Canon) : ExcCanon (fun r => r.s.Canon) (x.stage e q o l r) := by
  induction l generalizing r with
  | nil => exact h
  | cons k l ih =>
    unfold Opnd.stage
    dsimp only
    split
    · trivial
    · rename_i code
      split
      · trivial
      · rename_i scale
        exact ih ((h.elemCode.fst code).elemScale.fst scale)

theorem stageRows_canon {x : Opnd} {e q l} {r : Rows} (h : r.s.Canon) : ExcCanon (fun r => r.s.Canon) (x.stageRows e q l r) := by
  induction l generalizing r with
  | nil => exact h
  | cons k l ih =>
    obtain ⟨row, o, ks⟩ := k
    unfold Opnd.stageRows
    split
    · trivial
    · rename_i staged
      have k := (stage_canon (r := ⟨r.s, [], r.fl, r.bad⟩) h).ok staged
      exact ih k

theorem State.Canon.block {e p w b t} (h : s.Canon) : ExcCanon (fun r => r.1.Canon) (s.block e p w b t) := by
  unfold State.block
  extract_lets ar br
  split
  · trivial
  · rename_i ra e
    have first : ra.s.Canon := (stageRows_canon (r := ⟨s, [], 0, false⟩) h).ok e
    split
    · trivial
    · rename_i e'
      exact (stageRows_canon (r := ⟨ra.s, [], ra.fl, ra.bad⟩) first).ok e'

theorem execTileInstructionStart_canon {core} (h : s.Canon) : ResCanon (execTileInstructionStart core s) := by
  unfold execTileInstructionStart
  split
  · exact h
  · split
    exacts [h, h.upTo.onTile]

theorem State.Canon.tileStop {e c n row m x} (h : s.Canon) : (s.tileStop e c n row m x).Canon :=
  h.onTile.engStopped (fun _ _ _ h => h.engRecord)

theorem execTileBlockDone_canon {k tile} (h : s.Canon) : ResCanon (execTileBlockDone k tile s) := by
  unfold execTileBlockDone
  split
  · split
    · exact h
    · split
      · exact h
      · split
        · exact h.tileStop
        · rename_i e
          exact canon_ite (onTile (((h.block.fst e)).frame)) (charged (onTile (((h.block.fst e)).frame)))
  · exact h

theorem State.Canon.putBits {e sp a b n v bad} (h : s.Canon) : ExcCanon (fun r => r.Canon) (s.putBits e sp a b n v bad) := by
  unfold State.putBits
  dsimp only
  split
  · exact h.engWrite
  · split
    · exact trivial
    · rename_i e
      exact ((h.engRead.fst e)).engWrite

theorem rowCodes_canon {x : Opnd} {e t rm i l} (h : s.Canon) : ExcCanon (fun r => r.1.Canon) (x.rowCodes e t rm i l s) := by
  induction l generalizing s with
  | nil => exact h
  | cons j l ih =>
    unfold Opnd.rowCodes
    dsimp only
    split
    · trivial
    · rename_i scale
      split
      · trivial
      · rename_i codes
        exact (ih (h.elemScale.fst scale)).fst codes

theorem writeRow_canon {x : Opnd} {e i bad cs} (h : s.Canon) : ExcCanon (fun r => r.Canon) (x.writeRow e i bad cs s) := by
  unfold Opnd.writeRow
  split
  · exact h
  · split
    · refine List.foldlRecOn (motive := ExcCanon (fun r : State => r.Canon)) _ _ h fun r hr y _ => ?_
      cases r with
      | error z => trivial
      | ok u => exact putBits hr
    · exact h.putBits

theorem drainRows_canon {x : Opnd} {e t rm l} {r : Drained} (h : r.s.Canon) : (x.drainRows e t rm l r).s.Canon := by
  induction l generalizing r with
  | nil => exact h
  | cons i l ih =>
    unfold Opnd.drainRows
    split
    · exact h
    · rename_i codes
      dsimp only
      split
      · exact h
      · rename_i written
        exact ih ((writeRow_canon ((rowCodes_canon h).fst codes)).ok written)

theorem State.Canon.drainAcks {k ls} (h : s.Canon) : (s.drainAcks k ls).Canon := h.frame

theorem State.Canon.drainHist {tenant tf x t} (h : s.Canon) : (s.drainHist tenant tf x t).Canon := h.setTensor

theorem execTileInstructionComplete_canon {k tile} (h : s.Canon) : ResCanon (execTileInstructionComplete k tile s) := by
  unfold execTileInstructionComplete
  extract_lets n
  split
  · split
    · split
      · exact h
      · exact res_ite h h.upTo.onTile.spoilTile
    · split
      · exact h
      · exact res_ite h h.upTo.onTile.spoilTile
    · exact h.onTile
    · extract_lets x rm rows
      split
      · exact h.tileStop
      · rename_i e
        exact spoilTile (onTile ((stageRows_canon (r := ⟨s, [], 0, false⟩) h).ok e))
    · extract_lets x s' t rows r u
      have hu : State.Canon u := onTile (drainRows_canon (r := ⟨s', _, _, _, _⟩) h.upTo.spoilTile)
      split
      · exact hu.tileStop
      · exact hu.onTile.onBundle.drainAcks.drainHist
  · exact h

end

end Sys2Proof.Machine

/-! SUPPORT. What the hub, the links, the host and the command processors do keeps the canonical forms. -/

namespace Sys2Proof.Machine

section

open State.Canon

variable {s : State}

/-! ### Machine/Reset -/

theorem State.Canon.dropTenant {t} (h : s.Canon) : (s.dropTenant t).Canon := by
  unfold State.dropTenant
  exact frame (canon_foldl (fun _ _ h => by split; exacts [h.keepFrame, h]) h)

theorem State.Canon.tenantStart {t} (h : s.Canon) : (s.tenantStart t).Canon := h.setReg.netReset.flashReset.collReset.dropTenant.takeFrom

theorem State.Canon.tenantCtl {t v} (h : s.Canon) : (s.tenantCtl t v).Canon := canon_ite h (canon_ite h.setReg.tenantStart h.setReg)

theorem execTenantReset_canon {t v} (h : s.Canon) : ResCanon (execTenantReset t v s) := h.tenantCtl

theorem execTenantResetComplete_canon {t} (h : s.Canon) : ResCanon (execTenantResetComplete t s) := by
  unfold execTenantResetComplete
  split
  exacts [h, h.sdEffect.post.setReg]

/-! ### Machine/Regs -/

theorem State.Canon.putFields {o v l} (h : s.Canon) : (s.putFields o v l).Canon := h.setReg

theorem State.Canon.ringBase {o entry holds v} (h : s.Canon) : (s.ringBase o entry holds v).Canon := canon_ite h.setReg.openRange h.setReg

theorem State.Canon.setLinkState {port st speed width} (h : s.Canon) : (s.setLinkState port st speed width).Canon := h.setReg

theorem State.Canon.streamClear {port} (h : s.Canon) : (s.streamClear port).Canon := h.frame

theorem State.Canon.startTraining {port} (h : s.Canon) : (s.startTraining port).Canon := h.frame.setLinkState

theorem State.Canon.pcieCtl {port v} (h : s.Canon) : (s.pcieCtl port v).Canon := by
  unfold State.pcieCtl
  exact canon_ite (setLinkState
    (canon_ite h.setReg.streamClear h.setReg))
    (canon_ite (canon_ite h.setReg.streamClear h.setReg) (startTraining
    (canon_ite h.setReg.streamClear h.setReg)))

theorem State.Canon.setBank {core bank role} (h : s.Canon) : (s.setBank core bank role).Canon := canon_ite h h.setReg.frame

theorem State.Canon.bankRoles {core v} (h : s.Canon) : (s.bankRoles core v).Canon := canon_foldl (fun _ _ h => h.setBank) h

theorem State.Canon.putLink {l} (h : s.Canon) : (s.putLink l).Canon := h.frame

theorem State.Canon.linkWrite {g n v} (h : s.Canon) : (s.linkWrite g n v).Canon := h.putLink

theorem State.Canon.groveWrite {g k o v} (h : s.Canon) : (s.groveWrite g k o v).Canon :=
  canon_ite h.linkWrite (canon_ite h.putFields (canon_ite (canon_ite h.setReg h.putFields) (canon_ite h.putFields h)))

theorem State.Canon.regionWrite {n v} (h : s.Canon) : (s.regionWrite n v).Canon := canon_ite h (canon_ite h.setReg.frame.l1Drop h.setReg)

theorem State.Canon.tenantWrite {t k o v} (h : s.Canon) : (s.tenantWrite t k o v).Canon := by
  unfold State.tenantWrite
  exact canon_ite h.putFields
    (canon_ite h.sdCommand
    (canon_ite (canon_ite h.ringBase h.poolWrite)
    (canon_ite h.putFields
    (canon_ite h.ringBase
    (canon_ite h.putFields
    (canon_ite h.tenantCtl h))))))

theorem State.Canon.hubWrite {cp o v} (h : s.Canon) : (s.hubWrite cp o v).Canon := by
  unfold State.hubWrite
  exact canon_ite h.ringBase
    (canon_ite h.putFields
    (canon_ite h.putFields
    (canon_ite h.pcieCtl
    (canon_ite h.pcieCtl
    (canon_ite h.putFields
    (canon_ite h.putFields
    (canon_ite h.putFields
    (canon_ite h
    (canon_ite h.putFields
    (canon_ite h.putFields
    (canon_ite h.setReg
    (canon_ite h.putFields h))))))))))))

theorem State.Canon.storageWrite {cp o v} (h : s.Canon) : (s.storageWrite cp o v).Canon :=
  canon_ite h.putFields (canon_ite h.regionWrite (canon_ite h.putFields h))

theorem State.Canon.regWrite {p o v} (h : s.Canon) : (s.regWrite p o v).Canon := by
  unfold State.regWrite
  exact canon_ite h
    (canon_ite h.hubWrite
    (canon_ite h.tenantWrite
    (canon_ite h.groveWrite
    (canon_ite (canon_ite
    (canon_ite h.bankRoles h)
    (canon_ite h.putFields h)) h.storageWrite))))

theorem State.Canon.regStore {p pa d} (h : s.Canon) : (s.regStore p pa d).Canon := canon_ite h.regWrite h

theorem State.Canon.putHart {k x2} (h : s.Canon) : (s.putHart k x2).Canon := h.frame

theorem State.Canon.csrWrite {k n v} (h : s.Canon) : (s.csrWrite k n v).Canon := by
  unfold State.csrWrite
  exact canon_ite h
    (canon_ite h.putHart
    (canon_ite h
    (canon_ite h.putHart
    (canon_ite h.putHart
    (canon_ite h.putHart.frame
    (canon_ite h.putHart
    (canon_ite h.putHart
    (canon_ite h.putHart h.putHart))))))))

theorem execBankRoleWrite_canon {core v} (h : s.Canon) : ResCanon (execBankRoleWrite core v s) := by
  unfold execBankRoleWrite
  split
  exacts [h.bankRoles, h]

theorem execBankRoleEffect_canon {core bank} (h : s.Canon) : ResCanon (execBankRoleEffect core bank s) := by
  unfold execBankRoleEffect
  split
  exacts [h, canon_ite h.frame.l1DropCore h.frame]

theorem execPcieLinkEnable_canon {port v} (h : s.Canon) : ResCanon (execPcieLinkEnable port v s) := h.pcieCtl

theorem execPcieStreamClear_canon {port v} (h : s.Canon) : ResCanon (execPcieStreamClear port v s) := h.pcieCtl

theorem execPcieTrainingDone_canon {port speed width} (h : s.Canon) : ResCanon (execPcieTrainingDone port speed width s) := by
  unfold execPcieTrainingDone
  dsimp only
  split
  exacts [h, h.setLinkState]

theorem execPcieLinkLoss_canon {port recovery} (h : s.Canon) : ResCanon (execPcieLinkLoss port recovery s) := by
  unfold execPcieLinkLoss
  split
  · exact h
  · split
    exacts [h.setLinkState, h.startTraining]

/-! ### Machine/Pipeline -/

theorem execDemotionTimeout_canon {k} (h : s.Canon) : ResCanon (execDemotionTimeout k s) := by
  unfold execDemotionTimeout
  split
  · exact h
  · split
    exacts [h, h.upTo.onBundle]

theorem State.Canon.localWrites {k e sp parts} (h : s.Canon) : (s.localWrites k e sp parts).Canon := h.putLocal

theorem State.Canon.localWrite {k e sp a d} (h : s.Canon) : (s.localWrite k e sp a d).Canon := h.localWrites

theorem State.Canon.localAtom {k e op ty lanes} (h : s.Canon) : (s.localAtom k e op ty lanes).1.Canon :=
  canon_foldl_fst (fun _ _ h => canon_ite h h.localWrite) h

theorem State.Canon.send {fl} (h : s.Canon) : (s.send fl).Canon := h.frame

theorem State.Canon.l1Out {core ls} (h : s.Canon) : (s.l1Out core ls).Canon := h.l1Drop

theorem State.Canon.leaveMem {b core tenant time block' parts} (h : s.Canon) : LeaveCanon (s.leaveMem b core tenant time block' parts) := by
  unfold State.leaveMem
  dsimp only
  split
  exacts [h, h.l1Store.send]

theorem State.Canon.leaveStore {b c g time block' parts} (h : s.Canon) : LeaveCanon (s.leaveStore b c g time block' parts) := by
  unfold State.leaveStore
  split
  · exact h
  · split
    exacts [h.leaveMem, h.send, h.localWrites]

theorem State.Canon.leaveAtom {b c g pid op ty lanes} (h : s.Canon) : (s.leaveAtom b c g pid op ty lanes).Canon := by
  unfold State.leaveAtom
  split
  · exact h
  · split
    · exact h.l1Out.send
    · split
      · exact h.consume
      · split
        exacts [h.localAtom, h.localAtom.onPend.settle]

theorem State.Canon.arm {b g pid acc kind thr arg value r} (h : s.Canon) : (s.arm b g pid acc kind thr arg value r).Canon :=
  canon_ite h.token (canon_ite h.fire.token h.frame.token)

theorem State.Canon.stageWrite {b c g a v} (h : s.Canon) : (s.stageWrite b c g a v).Canon :=
  canon_ite h.localWrite.onCrew.frame h.localWrite.onCrew

theorem State.Canon.leaveInit {b c g ring parts} (h : s.Canon) : (s.leaveInit b c g ring parts).Canon := h.localWrites.onCrew

theorem State.Canon.leavePost {b c g pid ring st} (h : s.Canon) : LeaveCanon (s.leavePost b c g pid ring st) := by
  unfold State.leavePost
  dsimp only
  split
  · exact h
  · split
    · split
      exacts [h.token, h]
    · exact h.stageWrite.token

theorem State.Canon.leaveFree {b c g ring st} (h : s.Canon) : (s.leaveFree b c g ring st).Canon := by
  unfold State.leaveFree
  split
  exacts [h, canon_ite h h.stageWrite]

theorem State.Canon.leaveFmap {b g pid z va attr} (h : s.Canon) : LeaveCanon (s.leaveFmap b g pid z va attr) := by
  unfold State.leaveFmap
  dsimp only
  split
  · exact h.token
  · split
    · rename_i e
      exact escalate (((h.takeFrame.fst e)).park)
    · rename_i e
      split
      exacts [token (((h.takeFrame.fst e)).keepFrame), token (((h.takeFrame.fst e)).putLeaf)]

theorem State.Canon.leaveLaunch {b g pid r} (h : s.Canon) : LeaveCanon (s.leaveLaunch b g pid r) := by
  unfold State.leaveLaunch
  dsimp only
  split
  · exact h
  · split
    exacts [h.token, h.gridEnter.onBundle.token]

theorem State.Canon.leaveArrive {b c pid i n} (h : s.Canon) : (s.leaveArrive b c pid i n).Canon := canon_ite h.token h.onCrew.token.onBundle

theorem State.Canon.leaveHist {b c g e acc n clear} (h : s.Canon) : LeaveCanon (s.leaveHist b c g e acc n clear) := by
  unfold State.leaveHist
  extract_lets hist
  split
  · rename_i e
    exact h.leaveStore.stays e
  · rename_i e
    exact canon_ite (h.leaveStore.gone e).setTensor (h.leaveStore.gone e)

theorem State.Canon.leaves {b c g e} (h : s.Canon) : LeaveCanon (s.leaves b c g e) := by
  unfold State.leaves
  split
  · exact h.leaveStore
  · exact h.leaveAtom
  · exact h.l1Out.send
  · exact h.l1Out.send
  · exact h.l1Out.send
  · split
    exacts [h, h.onBundle.arm]
  · exact h.leaveInit
  · exact h.leavePost
  · exact h.leaveFree
  · exact h.leaveFmap
  · exact h.leaveLaunch
  · exact h.sendStart
  · exact h.narmArm.token
  · exact h.narmDrop.token
  · exact h.streamRequest
  · exact h.collIssue
  · exact h.leaveArrive
  · exact h.bundleExit
  · exact h.leaveHist

theorem execStoreQueueLeave_canon {k} (h : s.Canon) : ResCanon (execStoreQueueLeave k s) := by
  unfold execStoreQueueLeave
  dsimp only
  split
  · split
    · exact h
    · split
      · exact h
      · split
        · exact h
        · split
          · rename_i e
            exact (h.upTo.leaves.stays e)
          · rename_i e
            exact onBundle ((h.upTo.leaves.gone e))
  · exact h

theorem State.Canon.homeAtom {writer op ty lanes} (h : s.Canon) : (s.homeAtom writer op ty lanes).1.Canon :=
  canon_foldl_fst (fun _ _ h => canon_ite h h.shown) h

theorem State.Canon.ioAccess {tenant a} (h : s.Canon) : (s.ioAccess tenant a).Canon := canon_ite h.regStore h.postPcie

theorem State.Canon.arrives {f} (h : s.Canon) : (s.arrives f).1.Canon := by
  unfold State.arrives
  extract_lets ack hurt mark
  have marked : ∀ t : State, t.Canon → State.Canon (mark t) := fun _ h => canon_ite h.poisonFrom h
  split
  · exact marked _ h.visible
  · split <;> exact marked _ h.homeAtom
  · exact marked _ h.shown.newObj
  · exact marked _ h.aboArriveAt
  · exact marked _ h.counterAdd
  · exact marked _ (canon_foldl (fun _ _ h => h.ioAccess) h)
  · dsimp only
    exact h.putLocal
  · exact h

theorem execHomeSliceWrite_canon {i} (h : s.Canon) : ResCanon (execHomeSliceWrite i s) := by
  unfold execHomeSliceWrite
  split
  · exact h
  · split
    exacts [h, h.frame.arrives.frame]

theorem State.Canon.respArrives {k pid va got line bad} (h : s.Canon) : (s.respArrives k pid va got line bad).Canon := by
  unfold State.respArrives
  split
  · exact h
  · split
    · exact h
    · split
      · exact h.consume
      · split
        · exact h.consume
        · split
          exacts [h.token, h.onPend.settle]

theorem State.Canon.hostOld {hart tag old bad} (h : s.Canon) : (s.hostOld hart tag old bad).Canon := h.onHost

theorem execAcknowledgement_canon {i} (h : s.Canon) : ResCanon (execAcknowledgement i s) := by
  unfold execAcknowledgement
  split
  · exact h
  · split
    · exact h
    · split
      exacts [h.frame.onBundle.respArrives, h.frame.onBundle]
    · split
      exacts [h.frame.hostOld, h.frame]
    · exact h.frame

theorem State.Canon.rollCrew {k} (h : s.Canon) : (s.rollCrew k).Canon := by
  unfold State.rollCrew
  split
  exacts [h, h.frame.putCrew]

theorem State.Canon.regrant {core k} (h : s.Canon) : (s.regrant core k).Canon := by
  unfold State.regrant
  split
  exacts [h.putBundle.took, h]

theorem State.Canon.returnBlocks {core bs} (h : s.Canon) : OptCanon (s.returnBlocks core bs) := opt_map (fun _ => h.regrant)

theorem State.Canon.starve {bs} (h : s.Canon) : (s.starve bs).Canon := by
  unfold State.starve
  split
  · exact h
  · split
    exacts [h, h.takeTrap]

theorem execCoreReclaim_canon {core} (h : s.Canon) : ResCanon (execCoreReclaim core s) := by
  unfold execCoreReclaim
  extract_lets all bs
  split
  · rename_i e
    exact h.returnBlocks.some e
  · refine res_ite h ?_
    split
    · exact res_ite h.frame.onBundle h.starve
    · exact h.starve

/-! ### Machine/Grids -/

theorem State.Canon.stepRelease {g} (h : s.Canon) : (s.stepRelease g).Canon := by
  unfold State.stepRelease
  split
  · exact h
  · split
    exacts [h.frame.putGrid, h]

theorem State.Canon.stepSettle {c} (h : s.Canon) : (s.stepSettle c).Canon := canon_ite h.stepRelease h

theorem State.Canon.countMove {c} (h : s.Canon) : (s.countMove c).Canon := canon_ite h.setReg h

theorem State.Canon.fitBlocks {core ks} (h : s.Canon) : (s.fitBlocks core ks).Canon := by
  unfold State.fitBlocks
  exact canon_foldl (fun _ _ h => by split; exacts [canon_ite h.regrant h, h]) h

theorem State.Canon.moveDeferred {k grove} (h : s.Canon) : (s.moveDeferred k grove).Canon := h.frame

theorem State.Canon.restoreCrew {g c core} (h : s.Canon) : (s.restoreCrew g c core).Canon :=
  h.frame.moveDeferred.putCrew.took.fitBlocks.l1DropCore.countMove.replayAll.stepSettle

theorem State.Canon.restoreAll {g ok l} (h : s.Canon) : OptCanon (State.restoreAll g ok l s) := by
  induction l generalizing s with
  | nil => exact h
  | cons c l ih =>
    unfold State.restoreAll
    split
    · trivial
    · exact opt_ite trivial (ih h.restoreCrew)

theorem State.Canon.placeAll {g ok l} (h : s.Canon) : OptCanon (State.placeAll g ok l s) := by
  induction l generalizing s with
  | nil => exact h
  | cons i l ih =>
    unfold State.placeAll
    split
    · exact ih h.placeCrew
    · trivial

theorem execGridDieSet_canon {g} (h : s.Canon) : ResCanon (execGridDieSet g s) := by
  unfold execGridDieSet
  dsimp only
  split
  · exact h
  · split
    · exact h
    · split
      · exact h
      · split
        · exact h.putGrid
        · split
          · rename_i e
            exact (h.putGrid.placeAll.some e)
          · exact h

theorem execCrewPlace_canon {die} (h : s.Canon) : ResCanon (execCrewPlace die s) := by
  unfold execCrewPlace
  dsimp only
  split
  exacts [h.placeCrew, h]

theorem execCrewRetire_canon {k} (h : s.Canon) : ResCanon (execCrewRetire k s) := by
  unfold execCrewRetire
  dsimp only
  split
  · exact h
  · split
    exacts [h, h.putCrew.stepSettle]

theorem State.Canon.childGone {p g} (h : s.Canon) : (s.childGone p g).Canon := canon_ite h.onBundle.onCrew h.onBundle

theorem execGridRetire_canon {g} (h : s.Canon) : ResCanon (execGridRetire g s) := by
  unfold execGridRetire
  split
  · exact h
  · rename_i x _
    refine res_ite h ?_
    extract_lets grids crews bundles gone harvested waiting
    have h1 : harvested.Canon := h.frame.harvestAll
    have h2 : waiting.Canon := by
      dsimp only [waiting]
      split
      exacts [h1.childGone.fireWaiting, h1.fireWaiting]
    exact canon_ite h2 h2.hubDo

theorem execStepAnnounce_canon {g add} (h : s.Canon) : ResCanon (execStepAnnounce g add s) := by
  unfold execStepAnnounce
  split
  · exact h
  · split
    exacts [h, h.putGrid]

theorem execStepChange_canon {g} (h : s.Canon) : ResCanon (execStepChange g s) := by
  unfold execStepChange
  dsimp only
  split
  · exact h
  · split
    · exact h
    · split
      exacts [h, h.frame.putGrid.stepRelease]

theorem State.Canon.saveCrew {g c} (h : s.Canon) : (s.saveCrew g c).Canon := h.upTo.frame.putCrew.takeFrom

theorem State.Canon.unsave {c} (h : s.Canon) : (s.unsave c).Canon := h.putCrew.stepSettle

theorem State.Canon.restoreFault {g c reason} (h : s.Canon) : (s.restoreFault g c reason).Canon := canon_ite h h.putCrew.post

theorem State.Canon.haltSaved {g c} (h : s.Canon) : (s.haltSaved g c).Canon := by
  unfold State.haltSaved
  exact canon_foldl (fun _ _ h => by split; exacts [onBundle (canon_ite h.haltBundle h), h]) h.restoreFault.onCrew

theorem execCrewRestore_canon {k} (h : s.Canon) : ResCanon (execCrewRestore k s) := by
  unfold execCrewRestore
  split
  · split
    · exact h
    · split
      · exact canon_ite h h.haltSaved
      · split
        · rename_i e
          exact (h.restoreAll.some e)
        · split
          exacts [h.restoreFault, h]
  · exact h

theorem execCrewSave_canon {k} (h : s.Canon) : ResCanon (execCrewSave k s) := by
  unfold execCrewSave
  dsimp only
  split
  · split
    · exact h
    · split
      · exact canon_foldl (fun _ _ h => h.unsave) h
      · split
        exacts [h, canon_foldl (fun _ _ h => h.saveCrew) h]
  · exact h

theorem State.Canon.without {x1 j} (h : s.Canon) : (s.without x1 j).Canon := h.frame

theorem State.Canon.preempt {k why} (h : s.Canon) : (s.preempt k why).Canon := by
  unfold State.preempt
  split
  exacts [canon_ite h (canon_foldl (fun _ _ h => h.putCrew) h), h]

theorem execPreemptRequest_canon {k why} (h : s.Canon) : ResCanon (execPreemptRequest k why s) := by
  unfold execPreemptRequest
  exact preempt (by split; exacts [canon_ite h.upTo h, h])

theorem State.Canon.decay {n} (h : s.Canon) : (State.decay n s).Canon := by
  induction n generalizing s with
  | zero => exact h
  | succ n ih => exact ih h.setReg

theorem execShareDecay_canon (h : s.Canon) : ResCanon (execShareDecay s) := h.decay

theorem State.Canon.heatNext {grove col} (h : s.Canon) : (s.heatNext grove col).Canon := by
  unfold State.heatNext
  dsimp only
  split
  · exact h
  · split
    exacts [h.preempt, h]

theorem execColumnHot_canon {grove col temp} (h : s.Canon) : ResCanon (execColumnHot grove col temp s) := by
  unfold execColumnHot
  split
  exacts [h, canon_ite h.setReg.heatNext h.setReg]

/-! ### Machine/Links -/

theorem execVlinkBeatReceive_canon {id b} (h : s.Canon) : ResCanon (execVlinkBeatReceive id b s) := by
  unfold execVlinkBeatReceive
  dsimp only
  split
  · exact h
  · split
    · exact h.putLink
    · split
      exacts [h, h.putLink]

theorem execVlinkAckReceive_canon {id upTo nak} (h : s.Canon) : ResCanon (execVlinkAckReceive id upTo nak s) := by
  unfold execVlinkAckReceive
  dsimp only
  split
  · exact h
  · split
    exacts [h, h.putLink]

theorem State.Canon.undelivered {x1} (h : s.Canon) : (s.undelivered x1).Canon := by
  unfold State.undelivered
  split
  exacts [h.frame, h.onCrew, h.onBundle, h.frame, h.onCrew, h.onTile, h.frame]

theorem State.Canon.linkDown {l} (h : s.Canon) : (s.linkDown l).Canon := by
  unfold State.linkDown
  split
  exacts [frame (canon_foldl (fun _ _ h => h.undelivered) h.putLink), canon_foldl (fun _ _ h => h.undelivered) h.putLink]

theorem execLaneTestDone_canon {id failed} (h : s.Canon) : ResCanon (execLaneTestDone id failed s) := by
  unfold execLaneTestDone
  dsimp only
  split
  · exact h
  · split
    · exact canon_ite h h.putLink
    · split
      · exact h.putLink
      · split
        exacts [h.coppice.linkDown, h.coppice.putLink]

theorem execLaneRetrainDone_canon {id} (h : s.Canon) : ResCanon (execLaneRetrainDone id s) := by
  unfold execLaneRetrainDone
  dsimp only
  split
  exacts [h, h.putLink]

/-! ### Machine/Phys -/

theorem State.Canon.setPhys {p} (h : s.Canon) : (s.setPhys p).Canon := h.frame

theorem execRowRefresh_canon {r} (h : s.Canon) : ResCanon (execRowRefresh r s) := by
  unfold execRowRefresh
  split
  exacts [h, h.upTo.setPhys]

theorem execRetentionPatrol_canon {r m} (h : s.Canon) : ResCanon (execRetentionPatrol r m s) := by
  unfold execRetentionPatrol
  dsimp only
  split
  · exact h
  · split
    · exact h.setPhys
    · split <;> exact h.setPhys.coppice

theorem execRowRemapCopyDone_canon {r} (h : s.Canon) : ResCanon (execRowRemapCopyDone r s) := h.setPhys.hubRetry.fireWaiting

theorem execDramTemperatureChange_canon {stack hot} (h : s.Canon) : ResCanon (execDramTemperatureChange stack hot s) := by
  unfold execDramTemperatureChange
  split
  exacts [h, h.setPhys]

theorem execThrottle_canon {die raise} (h : s.Canon) : ResCanon (execThrottle die raise s) := res_ite h h.setPhys

theorem execOverTemperature_canon {_die} (h : s.Canon) : ResCanon (execOverTemperature _die s) := by
  unfold execOverTemperature
  split
  exacts [h.reborn, h]

theorem execUndervoltage_canon (h : s.Canon) : ResCanon (execUndervoltage s) := by
  unfold execUndervoltage
  split
  exacts [h.reborn, h]

theorem State.Canon.saveCore {core why} (h : s.Canon) : (s.saveCore core why).Canon := canon_foldl (fun _ _ h => h.preempt) h

theorem execCoreSpareBringIn_canon {core} (h : s.Canon) : ResCanon (execCoreSpareBringIn core s) := by
  unfold execCoreSpareBringIn
  dsimp only
  split
  · exact h
  · split
    · split
      exacts [h.frame.saveCore, h.frame.coppice.l1DropCore]
    · exact h.frame.coppice.saveCore

theorem execVaultRowRemap_canon {grove col row} (h : s.Canon) : ResCanon (execVaultRowRemap grove col row s) := by
  unfold execVaultRowRemap
  dsimp only
  split
  · exact h
  · split
    exacts [h.setPhys.coppice, h.coppice]

/-! ### Machine/Ingress -/

theorem State.Canon.setPcie {p} (h : s.Canon) : (s.setPcie p).Canon := h.frame

theorem State.Canon.putPstream {p} (h : s.Canon) : (s.putPstream p).Canon := h.setPcie

theorem State.Canon.aerReport {port kind} (h : s.Canon) : (s.aerReport port kind).Canon := h.frame

theorem State.Canon.dropLater {port k after} (h : s.Canon) : (s.dropLater port k after).Canon := h.setPcie

theorem State.Canon.streamError {port k after} (h : s.Canon) : (s.streamError port k after).Canon :=
  canon_ite h.dropLater h.dropLater.setPcie.aerReport.setReg

theorem State.Canon.forwardLines {p k id ls} (h : s.Canon) : (s.forwardLines p k id ls).Canon := by
  unfold State.forwardLines
  exact setPcie (putPstream (send (canon_foldl (fun _ _ h => by split; exacts [h.put64, h]) h)))

theorem State.Canon.inCount {r} (h : s.Canon) : (s.inCount r).Canon := by
  unfold State.inCount
  exact canon_foldl (fun _ _ h => by split; exacts [h.countForeign, h]) h

theorem State.Canon.forward {p k id tx} (h : s.Canon) : OptCanon (s.forward p k id tx) := by
  unfold State.forward
  split
  · dsimp only
    split
    · exact opt_ite h.forwardLines trivial
    · trivial
    · exact opt_ite h.aerReport.streamError trivial
  · exact opt_ite h.frame trivial
  · exact opt_ite h (opt_ite trivial (opt_ite h.inCount.setPcie trivial))

theorem State.Canon.arrive {port k tx} (h : s.Canon) : (s.arrive port k tx).Canon := by
  unfold State.arrive
  dsimp only
  split
  · rename_i e
    exact (h.setPcie.forward.some e)
  · exact h.setPcie.setPcie

theorem State.Canon.ingress {w msi} (h : s.Canon) : (s.ingress w msi).Canon := canon_ite h (canon_ite h.aerReport.streamError h.arrive)

theorem execIngressPostedWrite_canon {w} (h : s.Canon) : ResCanon (execIngressPostedWrite w s) := h.ingress

theorem execIngressMsi_canon {w} (h : s.Canon) : ResCanon (execIngressMsi w s) := h.ingress

theorem execIngressReadRequest_canon {r} (h : s.Canon) : ResCanon (execIngressReadRequest r s) := by
  unfold execIngressReadRequest
  split
  exacts [h, h.arrive]

theorem execHeldWriteForward_canon {i} (h : s.Canon) : ResCanon (execHeldWriteForward i s) := by
  unfold execHeldWriteForward
  dsimp only
  split
  · exact h
  · split
    · rename_i e
      exact (h.setPcie.forward.some e)
    · exact h

theorem execOrderingPointAck_canon {i} (h : s.Canon) : ResCanon (execOrderingPointAck i s) := by
  unfold execOrderingPointAck
  dsimp only
  split
  · exact h
  · split
    · split
      exacts [h.frame, canon_ite h.frame.putPstream.setPcie.streamError h.frame.putPstream.setPcie]
    · exact h

theorem execAtsTranslationRequest_canon {r} (h : s.Canon) : ResCanon (execAtsTranslationRequest r s) := by
  unfold execAtsTranslationRequest
  split
  exacts [h, h.setPcie]

theorem execPriPageRequest_canon {r} (h : s.Canon) : ResCanon (execPriPageRequest r s) := by
  unfold execPriPageRequest
  dsimp only
  split
  · exact h
  · split
    · exact h
    · split
      exacts [h.wantMig.setPcie, h]

/-! ### Machine/Host -/

theorem State.Canon.hostCsrWrite {x1 n v} (h : s.Canon) : (s.hostCsrWrite x1 n v).Canon :=
  canon_ite h.onHost (canon_ite h.onHost (canon_ite h.onHost (canon_ite h.onHost (canon_ite h.onHost.frame h.onHost))))

theorem State.Canon.hostPart {hart block' pa d} (h : s.Canon) : (s.hostPart hart block' pa d).Canon :=
  canon_ite h.regStore (canon_ite h.postPcie h.send)

theorem State.Canon.hostTrap {hart cause va} (h : s.Canon) : (s.hostTrap hart cause va).Canon := h.onHost

theorem State.Canon.hostStore {a d} (h : s.Canon) : (s.hostStore a d).Canon := by
  unfold State.hostStore
  split
  exacts [h, h.hostTrap, canon_foldl_fst (fun _ _ h => h.hostPart) h]

theorem State.Canon.hostAtom {a op len v} (h : s.Canon) : (s.hostAtom a op len v).Canon := by
  unfold State.hostAtom
  split
  · exact h.hostTrap
  · split
    exacts [h, h.hostTrap, canon_ite h.hostTrap h.send]

theorem State.Canon.hostRead {tenant pa n} (h : s.Canon) : (s.hostRead tenant pa n).Canon := canon_ite h.askPcie.frame h.countForeign

theorem State.Canon.hostLoad {a acc n put} (h : s.Canon) : (s.hostLoad a acc n put).Canon := by
  unfold State.hostLoad
  split
  exacts [h, h.hostTrap, canon_ite h (onHost (canon_foldl (fun _ _ h => h.hostRead) h))]

theorem State.Canon.hostSc {a len v} (h : s.Canon) : (s.hostSc a len v).Canon := by
  unfold State.hostSc
  split
  · exact h.hostTrap
  · split
    exacts [h, h.hostTrap, canon_ite h.hostTrap (canon_ite h (canon_ite h.visible.onHost h.onHost))]

theorem State.Canon.hostCsrOp {a n v} (h : s.Canon) : (s.hostCsrOp a n v).Canon := by
  unfold State.hostCsrOp
  split
  · exact h.hostTrap
  · split
    exacts [h.hostCsrWrite, h.onHost.frame]

theorem execHostHartAccess_canon {a} (h : s.Canon) : ResCanon (execHostHartAccess a s) := by
  unfold execHostHartAccess
  split
  · exact h
  · split
    · exact h.hostLoad
    · exact h.hostLoad
    · exact h.hostStore
    · exact h.hostAtom
    · split
      exacts [h.hostTrap, h.hostLoad]
    · exact h.hostSc
    · exact h.onHost
    · exact h.hostCsrOp
    · exact h.hostCsrOp
    · exact h.onHost
    · exact h.onHost
    · split
      exacts [h, h.frame.onHost]
    · exact h.onHost

theorem execLaunchWindowWrite_canon {i} (h : s.Canon) : ResCanon (execLaunchWindowWrite i s) := by
  unfold execLaunchWindowWrite
  split
  · exact h
  · split
    exacts [execHomeSliceWrite_canon h, h]

theorem State.Canon.setCp {c} (h : s.Canon) : (s.setCp c).Canon := h.frame

theorem execLaunchRecord_canon {q} (h : s.Canon) : ResCanon (execLaunchRecord q s) := by
  unfold execLaunchRecord
  dsimp only
  split
  · exact h
  · split
    · exact h
    · split
      · exact h.setCp.postReject
      · split
        exacts [h, h.setCp.gridEnter]

/-! ### Machine/Firmware -/

theorem State.Canon.bootField {hi lo v} (h : s.Canon) : (s.bootField hi lo v).Canon := h.setReg

theorem execPowerGood_canon (h : s.Canon) : ResCanon (execPowerGood s) := by
  unfold execPowerGood
  split
  exacts [h, h.frame.bootField]

theorem State.Canon.restartHart {k x11 pc} (h : s.Canon) : (s.restartHart k x11 pc).Canon := h.putHart

theorem State.Canon.startHarts {x x11} (h : s.Canon) : (s.startHarts x x11).Canon := canon_foldl (fun _ _ h => h.restartHart) h

theorem State.Canon.kickAll (h : s.Canon) : s.kickAll.Canon := h.setCp

theorem State.Canon.otherSlot {x} (h : s.Canon) : (s.otherSlot x).Canon :=
  canon_ite h.setReg.bootField (canon_ite h.setReg.bootField h.setReg)

theorem State.Canon.norRead {x} (h : s.Canon) : (s.norRead x).Canon := h.setCp.openRange

theorem State.Canon.bootSlot {x activeOk otherOk} (h : s.Canon) : (s.bootSlot x activeOk otherOk).1.Canon := by
  unfold State.bootSlot
  split
  · exact h
  · split
    exacts [h.otherSlot, h]

theorem State.Canon.bootTo {r : State × Bool} {next} (h : r.1.Canon) : (State.bootTo r next).Canon := canon_ite h.bootField h.bootField

theorem State.Canon.reserve (h : s.Canon) : s.reserve.Canon := h.frame

theorem execBootStep_canon {activeOk otherOk} (h : s.Canon) : ResCanon (execBootStep activeOk otherOk s) := by
  have ht : ∀ {t}, (s.upTo t).Canon := h.upTo
  unfold execBootStep
  refine res_ite h ?_
  dsimp only
  split
  · exact bootTo ht.norRead.norRead.bootSlot.bootSlot
  · exact ht.startHarts.bootField
  · exact ht.startHarts.kickAll.reserve.bootField
  · exact canon_ite (bootField (openRange (bootTo ht.norRead.bootSlot))) (bootTo ht.norRead.bootSlot)
  · exact ht.bootField

theorem State.Canon.fwState {x v} (h : s.Canon) : (s.fwState x v).Canon := h.setReg

theorem State.Canon.swapDone {x} (h : s.Canon) : (s.swapDone x).Canon := h.otherSlot.setReg

theorem State.Canon.abortSwap {x} (h : s.Canon) : (s.abortSwap x).Canon := by
  unfold State.abortSwap
  split
  exacts [h, h.fwState.setCp]

theorem execFwVerifyDone_canon {x took} (h : s.Canon) : ResCanon (execFwVerifyDone x took s) := by
  unfold execFwVerifyDone
  split
  · exact h
  · split
    · exact h.upTo.fwState
    · split
      exacts [h.upTo.fwState.swapDone, h.upTo.fwState.setCp]

theorem State.Canon.advanceHeads {x1} (h : s.Canon) : (s.advanceHeads x1).Canon := setCp (canon_foldl (fun _ _ h => h.setQueue.headMoved) h)

theorem State.Canon.handOver {k} (h : s.Canon) : (s.handOver k).Canon := by
  unfold State.handOver
  dsimp only
  split
  exacts [h, canon_ite h (canon_ite h.restartHart.fwState.setCp h.restartHart.fwState.fwState.swapDone.setCp)]

theorem State.Canon.goBack {k} (h : s.Canon) : (s.goBack k).Canon := canon_ite h.restartHart.setCp h

theorem State.Canon.checkpoint {k} (h : s.Canon) : (s.checkpoint k).Canon := canon_ite h h.openRange

theorem State.Canon.settleIrq {x1} (h : s.Canon) : (s.settleIrq x1).Canon := canon_ite h.putHart h

theorem execCpQuiesceWrite_canon {hart} (h : s.Canon) : ResCanon (execCpQuiesceWrite hart s) := by
  unfold execCpQuiesceWrite
  split
  · exact canon_ite h h.checkpoint.goBack.handOver
  · split
    exacts [h, h.checkpoint.advanceHeads.settleIrq.goBack.handOver]

theorem execHandoverTimeout_canon {hart} (h : s.Canon) : ResCanon (execHandoverTimeout hart s) := by
  unfold execHandoverTimeout
  dsimp only
  split
  · split
    exacts [h.upTo.abortSwap, h]
  · exact h

theorem State.Canon.csrRead {k n rd} (h : s.Canon) : (s.csrRead k n rd).Canon := canon_ite h.putHart h.putHart.frame

theorem State.Canon.fwLoad {k rd n signed va} (h : s.Canon) : (s.fwLoad k rd n signed va).Canon := by
  unfold State.fwLoad
  dsimp only
  split
  · exact h.putHart
  · split
    exacts [h.putHart, canon_ite h (putHart (canon_ite h.askPcie.frame h.countForeign))]

theorem State.Canon.fwStore {k n va v} (h : s.Canon) : (s.fwStore k n va v).Canon := by
  unfold State.fwStore
  dsimp only
  split
  · exact h.putHart
  · split
    exacts [h.putHart, canon_ite h (canon_ite (canon_ite h.regStore h) (canon_ite h.postPcie h.visible))]

theorem execRegisterWrite_canon {p addr v} (h : s.Canon) : ResCanon (execRegisterWrite p addr v s) := by
  unfold execRegisterWrite
  extract_lets hart
  have runs : ∀ k t, t.Canon → ResCanon (hart k t) := fun _ _ ht => res_ite ht h
  split
  · exact h.csrWrite
  · exact res_ite h.setRoute h
  · exact runs _ _ h.csrRead
  · exact runs _ _ h.fwLoad
  · exact runs _ _ h.fwStore
  · exact runs _ _ h.putHart
  · exact runs _ _ h.putHart
  · exact res_ite h.regWrite h

theorem State.Canon.dropCopies {c} (h : s.Canon) : (s.dropCopies c).Canon := by
  unfold State.dropCopies
  split
  exacts [h.putCrew.endCopies, h.putCrew]

theorem State.Canon.dropMig {m} (h : s.Canon) : (s.dropMig m).Canon := by
  unfold State.dropMig
  exact migEnd (setMigs (by split; exacts [h.keepFrame, h]))

theorem State.Canon.dropSend {x} (h : s.Canon) : (s.dropSend x).Canon := h.frame.sendToken

theorem State.Canon.dropRec {r} (h : s.Canon) : (s.dropRec r).Canon := h.frame.recFail

theorem State.Canon.engineReset {e} (h : s.Canon) : (s.engineReset e).Canon := by
  unfold State.engineReset
  split
  · exact canon_foldl (fun _ _ h => h.dropCopies) h
  · exact h.setMisses
  · exact replayAll (canon_foldl (fun _ _ h => h.dropMig) h)
  · exact setFlash (canon_foldl (fun _ _ h => h.refuse) (canon_foldl (fun _ _ h => h.abortStream) h))
  · exact canon_foldl (fun _ _ h => h.dropRec) (canon_foldl (fun _ _ h => h.dropSend) h)
  · exact canon_foldl (fun _ _ h => h.commFail) h

theorem State.Canon.wdCount {level} (h : s.Canon) : (s.wdCount level).Canon := setReg (canon_ite h h.abortSwap.abortSwap)

theorem State.Canon.wdRecord {ts level who} (h : s.Canon) : (s.wdRecord ts level who).Canon := canon_foldl (fun _ _ h => h.post) h

theorem State.Canon.level3 {q} (h : s.Canon) : (s.level3 q).Canon := canon_ite h h.wdCount.tenantStart

theorem State.Canon.level2 {qs x2} (h : s.Canon) : (s.level2 qs x2).Canon := h.wdCount.otherSlot.setCp.startHarts.kickAll.wdRecord

theorem State.Canon.level1 {x1 qs} (h : s.Canon) : (s.level1 x1 qs).Canon :=
  canon_ite (canon_ite h.level2 (canon_foldl (fun _ _ h => h.level3) h)) h.wdCount.setCp.restartHart.wdRecord

theorem State.Canon.level0 {q} (h : s.Canon) : (s.level0 q).Canon := h.wdCount.setCp.putHart

theorem execWatchdogQueueStall_canon {q} (h : s.Canon) : ResCanon (execWatchdogQueueStall q s) := by
  unfold execWatchdogQueueStall
  dsimp only
  split
  · exact h
  · split
    · exact h.upTo.headMoved.level3
    · split
      exacts [h.upTo.headMoved.level0.setCp.level1, h.upTo.headMoved.level0]

theorem execWatchdogKickMissed_canon {hart} (h : s.Canon) : ResCanon (execWatchdogKickMissed hart s) := by
  unfold execWatchdogKickMissed
  split
  exacts [h, h.upTo.setCp.level1]

theorem execCpWdogKick_canon {hart v} (h : s.Canon) : ResCanon (execCpWdogKick hart v s) := h.setCp

theorem State.Canon.level4 {e ts} (h : s.Canon) : (s.level4 e ts).Canon := h.wdCount.setCp.engineReset.wdRecord

theorem execEngineNoProgress_canon {e} (h : s.Canon) : ResCanon (execEngineNoProgress e s) := by
  unfold execEngineNoProgress
  dsimp only
  split
  · exact h
  · split
    · split
      exacts [h.upTo.level4, h.upTo.upTo.reborn]
    · exact h.upTo.level4

theorem execHubTimerExpiry_canon (h : s.Canon) : ResCanon (execHubTimerExpiry s) := by
  unfold execHubTimerExpiry
  split
  exacts [h.upTo.reborn, h]

theorem State.Canon.countRas {core hi lo} (h : s.Canon) : (s.countRas core hi lo).Canon := h.setReg

theorem State.Canon.regError {k r lane multi} (h : s.Canon) : (s.regError k r lane multi).Canon := by
  unfold State.regError
  split
  · split
    · exact h
    · split
      exacts [h, canon_ite h.countRas (canon_ite h.countRas h.onBundle)]
  · exact h

theorem State.Canon.crewError {k multi f} (h : s.Canon) : (s.crewError k multi f).Canon := by
  unfold State.crewError
  split
  exacts [h, canon_ite h (canon_ite h.putCrew h.countRas)]

theorem State.Canon.poisonHere {pa} (h : s.Canon) : (s.poisonHere pa).Canon := canon_ite h.poisonFrom h.poisonLine

theorem State.Canon.lineError {pa} (h : s.Canon) : (s.lineError pa).Canon := by
  unfold State.lineError
  split
  · exact h
  · split
    · exact h.reborn
    · split
      · split
        exacts [h.level4, canon_ite h.reborn h.poisonHere]
      · exact h.poisonHere

theorem State.Canon.arrayError {x} (h : s.Canon) : (s.arrayError x).Canon := by
  unfold State.arrayError
  split
  · exact h.regError
  · exact h.crewError
  · exact h.crewError
  · exact canon_ite h.onCrew h
  · exact canon_ite h.lineError h
  · exact canon_ite h.onCrew h
  · exact canon_ite h.level4 h
  · exact canon_ite h.reborn h
  · exact canon_ite h.onHost h

theorem execStrikeReport_canon {r} (h : s.Canon) : ResCanon (execStrikeReport r s) :=
  canon_foldl (fun _ _ h => h.arrayError) (canon_foldl (fun _ _ h => h.setReg) (canon_foldl (fun _ _ h => h.rollCrew) h))

/-! ### Machine/Commands -/

theorem State.Canon.reply {r value status} (h : s.Canon) : (s.reply r value status).Canon := canon_ite h.visible.setReg.frame h.visible.setReg

theorem State.Canon.no {status} (h : s.Canon) : (s.no status).s.Canon := h

theorem State.Canon.command {pick} {run : List Word → State → Reply} (h : s.Canon) (hrun : ∀ r t, t.Canon → (run r t).s.Canon) : ResCanon (s.command pick run) := by
  unfold State.command
  split
  · exact h
  · refine res_ite h (reply ?_)
    split
    exacts [h.no, hrun _ _ h]

theorem State.Canon.commandAfter {pick waits} {run : List Word → State → Reply} (h : s.Canon) (hrun : ∀ r t, t.Canon → (run r t).s.Canon) :
    ResCanon (s.commandAfter pick waits run) := by
  unfold State.commandAfter
  split
  · exact res_ite h (h.command hrun)
  · exact h

theorem State.Canon.putCtx {c} (h : s.Canon) : (s.putCtx c).Canon := h.frame

theorem cmdBind_canon {r} (h : s.Canon) : (cmdBind r s).s.Canon := by
  unfold cmdBind
  dsimp only
  split
  · exact h.no
  · split
    · exact h.putCtx
    · split
      · exact h.putCtx
      · split
        exacts [h.sdEffect.putCtx, h.no]

theorem cmdUnbind_canon {r} (h : s.Canon) : (cmdUnbind r s).s.Canon := by
  unfold cmdUnbind
  split
  · exact h.no
  · split
    exacts [h.no, h.sdEffect.frame]

theorem execCmdBindContext_canon (h : s.Canon) : ResCanon (execCmdBindContext s) := h.commandAfter (fun _ _ h => cmdBind_canon h)

theorem execCmdUnbindContext_canon (h : s.Canon) : ResCanon (execCmdUnbindContext s) := h.commandAfter (fun _ _ h => cmdUnbind_canon h)

theorem cmdScheme_canon {r} (h : s.Canon) : (cmdScheme r s).s.Canon := by
  unfold cmdScheme
  dsimp only
  split
  · exact h.no
  · split
    · exact h.no
    · split
      exacts [h, h.frame.openRange]

theorem execCmdSetFrameScheme_canon (h : s.Canon) : ResCanon (execCmdSetFrameScheme s) := h.command (fun _ _ h => cmdScheme_canon h)

theorem cmdGrant_canon {r} (h : s.Canon) : (cmdGrant r s).s.Canon := by
  unfold cmdGrant
  dsimp only
  split
  · exact h.no
  · split
    · exact h.no
    · split
      exacts [h.no, h.regionWrite.setSealed]

theorem cmdFree_canon {r} (h : s.Canon) : (cmdFree r s).s.Canon := by
  unfold cmdFree
  extract_lets n
  refine reply_ite h.no (reply_ite h.no ?_)
  dsimp only
  exact h.regionWrite

theorem cmdReadOnly_canon {r} (h : s.Canon) : (cmdReadOnly r s).s.Canon := by
  unfold cmdReadOnly
  extract_lets n
  refine reply_ite h.no (reply_ite h.no ?_)
  dsimp only
  exact h.regionWrite

theorem execCmdGrantRegion_canon (h : s.Canon) : ResCanon (execCmdGrantRegion s) := h.command (fun _ _ h => cmdGrant_canon h)

theorem execCmdFreeRegion_canon (h : s.Canon) : ResCanon (execCmdFreeRegion s) := h.command (fun _ _ h => cmdFree_canon h)

theorem execCmdSetRegionReadOnly_canon (h : s.Canon) : ResCanon (execCmdSetRegionReadOnly s) := h.command (fun _ _ h => cmdReadOnly_canon h)

theorem cmdAnchor_canon {r} (h : s.Canon) : (cmdAnchor r s).s.Canon := by
  unfold cmdAnchor
  extract_lets
  exact reply_ite h.no (reply_ite h.no (reply_ite h.setFlash h))

theorem execCmdAnchorFlashLeaf_canon (h : s.Canon) : ResCanon (execCmdAnchorFlashLeaf s) := h.command (fun _ _ h => cmdAnchor_canon h)

theorem cmdProfile_canon {r} (h : s.Canon) : (cmdProfile r s).s.Canon := by
  unfold cmdProfile
  split
  exacts [h.no, h.hubWrite]

theorem cmdQuotas_canon {r} (h : s.Canon) : (cmdQuotas r s).s.Canon := by
  unfold cmdQuotas
  split
  exacts [h.no, canon_foldl (fun _ _ h => h.setReg) h.setReg]

theorem cmdAbort_canon {r} (h : s.Canon) : (cmdAbort r s).s.Canon := by
  unfold cmdAbort
  dsimp only
  split
  · exact h.no
  · split
    · exact h.no
    · split
      exacts [h.no, h.abortStream]

theorem execCmdWriteCodeProfile_canon (h : s.Canon) : ResCanon (execCmdWriteCodeProfile s) := h.command (fun _ _ h => cmdProfile_canon h)

theorem execCmdSetQuotas_canon (h : s.Canon) : ResCanon (execCmdSetQuotas s) := h.command (fun _ _ h => cmdQuotas_canon h)

theorem execCmdAbortStream_canon (h : s.Canon) : ResCanon (execCmdAbortStream s) := h.command (fun _ _ h => cmdAbort_canon h)

theorem cmdLoad_canon {r} (h : s.Canon) : (cmdLoad r s).s.Canon := by
  unfold cmdLoad
  dsimp only
  split
  · exact h.no
  · split
    exacts [h.no, h.setCp.setBytes.setReg.fwState]

theorem cmdCommit_canon {r} (h : s.Canon) : (cmdCommit r s).s.Canon := by
  unfold cmdCommit
  dsimp only
  split
  exacts [h.no, canon_ite h.setReg h]

theorem execCmdLoadFirmwareImage_canon (h : s.Canon) : ResCanon (execCmdLoadFirmwareImage s) := h.command (fun _ _ h => cmdLoad_canon h)

theorem execCmdCommitFirmware_canon (h : s.Canon) : ResCanon (execCmdCommitFirmware s) := h.command (fun _ _ h => cmdCommit_canon h)

theorem cmdEngine_canon {r} (h : s.Canon) : (cmdEngine r s).s.Canon := by
  unfold cmdEngine
  split
  exacts [h.no, h.engineReset]

theorem execCmdResetEngine_canon (h : s.Canon) : ResCanon (execCmdResetEngine s) := h.command (fun _ _ h => cmdEngine_canon h)

theorem execCmdResetDevice_canon (h : s.Canon) : ResCanon (execCmdResetDevice s) := by
  unfold execCmdResetDevice
  split
  · split
    exacts [h.reborn, h]
  · exact h

theorem cmdCreate_canon {r} (h : s.Canon) : (cmdCreate r s).s.Canon := by
  unfold cmdCreate
  dsimp only
  split
  · exact h.no
  · split
    · exact h.no
    · split
      exacts [h.no, h.setReg.setReg.setBytes.setColl]

theorem cmdDestroy_canon {r} (h : s.Canon) : (cmdDestroy r s).s.Canon := by
  unfold cmdDestroy
  dsimp only
  split
  · exact h.no
  · split
    · exact h.no
    · split
      exacts [h.no, h.setReg.setColl]

theorem execCmdCreateCommunicator_canon (h : s.Canon) : ResCanon (execCmdCreateCommunicator s) := h.command (fun _ _ h => cmdCreate_canon h)

theorem execCmdDestroyCommunicator_canon (h : s.Canon) : ResCanon (execCmdDestroyCommunicator s) := h.command (fun _ _ h => cmdDestroy_canon h)

theorem execCmdUnknownCode_canon (h : s.Canon) : ResCanon (execCmdUnknownCode s) := h.command (fun _ _ h => h.no)

end

end Sys2Proof.Machine

/-! SUPPORT. Every step keeps the canonical forms (O5), and reset has them (O6). -/

namespace Sys2Proof.Machine

section

open State.Canon

variable {s : State}

/-! ### Machine/Dispatch -/

theorem exec_canon {i : Instr} (h : s.Canon) : ResCanon (exec i s) := by
  cases i with
  | clauseHeader => exact execClauseHeader_canon h
  | sAdd | sSub | sMul | sMulh | sDiv | sRem | sAbs | sMin | sMax | sAnd | sOr | sXor | sAndn | sShl | sShr | sRotl | sRotr | sCmp | sSel | sMov
  | sClz | sCtz | sPopc | sBfx | sBfi | lea | sext | mand | mor | mxor | mandn | mnot | mmov | mpop | mfirst | mlow => exact runS_canon h
  | movi | addi | movhi => exact runSI_canon h
  | br | bmz | bmnz | jump => exact branchIf_canon h
  | jumpR => exact execJumpR_canon h
  | call => exact execCall_canon h
  | callR => exact execCallR_canon h
  | ret => exact execRet_canon h
  | split => exact execSplit_canon h
  | join => exact execJoin_canon h
  | vAdd | vSub | vMul | vMulh | vFma | vDiv | vMin | vMax | vAbs | vNeg | vSqrt | vRcp | vRsqrt | vExp2 | vLog2 | vAddsat | vSubsat | vAnd | vOr
  | vXor | vNot | vShl | vShr | vCmp | vSel | vMov | vClz | vPopc | cvt | pack | unpack | perm | shfl | bcast | rdx | scan | vote | frnd | vClass
  | copysign | vBfx | vBfi | ldexp | fract => exact runV_canon h
  | sweep => exact execSweep_canon h
  | ld | ldb | lds => exact runLoad_canon h
  | st | stb | sts => exact runStore_canon h
  | atomAdd | atomMin | atomMax | atomAnd | atomOr | atomXor | atomXchg | cas => exact runAtom_canon h
  | redAdd | redMin | redMax | redAnd | redOr | redXor => exact runRed_canon h
  | fence => exact execFence_canon h
  | pf => exact execPf_canon h
  | cinv => exact execCinv_canon h
  | cinvall => exact execCinvall_canon h
  | cp => exact execCp_canon h
  | cpt => exact execCpt_canon h
  | cpreset => exact execCpreset_canon h
  | appOpen | appSeal | appSync | appClose => exact runStream_canon h
  | appWr => exact execAppWr_canon h
  | mz => exact execMz_canon h
  | mm => exact execMm_canon h
  | mmv => exact execMmv_canon h
  | mld => exact execMld_canon h
  | mdrain => exact execMdrain_canon h
  | mwp => exact execMwp_canon h
  | mwpr => exact execMwpr_canon h
  | mwait => exact execMwait_canon h
  | mflag => exact execMflag_canon h
  | mprog => exact execMprog_canon h
  | barArrive => exact execBarArrive_canon h
  | barWait => exact execBarWait_canon h
  | barSync => exact execBarSync_canon h
  | aboInit => exact execAboInit_canon h
  | aboArrive => exact execAboArrive_canon h
  | aboWait => exact execAboWait_canon h
  | aboTest => exact execAboTest_canon h
  | ringInit => exact execRingInit_canon h
  | ringPost => exact execRingPost_canon h
  | ringWait => exact execRingWait_canon h
  | ringFree => exact execRingFree_canon h
  | evAdd => exact execEvAdd_canon h
  | evArm => exact execEvArm_canon h
  | launch => exact execLaunch_canon h
  | cwait => exact execCwait_canon h
  | step => exact execStep_canon h
  | send => exact execSend_canon h
  | narm | narmCancel => exact runNarm_canon h
  | coll => exact execColl_canon h
  | racq => exact execRacq_canon h
  | rtry => exact execRtry_canon h
  | rrel => exact execRrel_canon h
  | tftSet => exact execTftSet_canon h
  | tftGet => exact execTftGet_canon h
  | tftHist => exact execTftHist_canon h
  | fmap => exact execFmap_canon h
  | tlbh => exact execTlbh_canon h
  | sret => exact execSret_canon h
  | yield => exact execYield_canon h
  | nop => exact execNop_canon h
  | halt => exact execHalt_canon h
  | exit => exact execExit_canon h
  | sysr => exact execSysr_canon h
  | sysw => exact execSysw_canon h
  | trap | brk => exact softTrap_canon h
  | demotionTimeout => exact execDemotionTimeout_canon h
  | storeQueueLeave => exact execStoreQueueLeave_canon h
  | homeSliceWrite => exact execHomeSliceWrite_canon h
  | acknowledgement => exact execAcknowledgement_canon h
  | loadResponse => exact execLoadResponse_canon h
  | strikeReport => exact execStrikeReport_canon h
  | coreReclaim => exact execCoreReclaim_canon h
  | vlinkBeatReceive => exact execVlinkBeatReceive_canon h
  | vlinkAckReceive => exact execVlinkAckReceive_canon h
  | laneTestDone => exact execLaneTestDone_canon h
  | laneRetrainDone => exact execLaneRetrainDone_canon h
  | rowRefresh => exact execRowRefresh_canon h
  | retentionPatrol => exact execRetentionPatrol_canon h
  | rowRemapCopyDone => exact execRowRemapCopyDone_canon h
  | throttle => exact execThrottle_canon h
  | overTemperature die => exact execOverTemperature_canon (_die := die) h
  | undervoltage => exact execUndervoltage_canon h
  | inputPowerLoss => exact execInputPowerLoss_canon h
  | powerGood => exact execPowerGood_canon h
  | bootStep => exact execBootStep_canon h
  | pcieLinkEnable => exact execPcieLinkEnable_canon h
  | pcieTrainingDone => exact execPcieTrainingDone_canon h
  | pcieStreamClear => exact execPcieStreamClear_canon h
  | ingressPostedWrite => exact execIngressPostedWrite_canon h
  | ingressReadRequest => exact execIngressReadRequest_canon h
  | ingressMsi => exact execIngressMsi_canon h
  | orderingPointAck => exact execOrderingPointAck_canon h
  | heldWriteForward => exact execHeldWriteForward_canon h
  | atsTranslationRequest => exact execAtsTranslationRequest_canon h
  | priPageRequest => exact execPriPageRequest_canon h
  | netLaneFail => exact execNetLaneFail_canon h
  | stripeTransmit => exact execStripeTransmit_canon h
  | fragmentReceive => exact execFragmentReceive_canon h
  | decodeComplete => exact execDecodeComplete_canon h
  | stripeDecoded => exact execStripeDecoded_canon h
  | stripeConfirmTimer => exact execStripeConfirmTimer_canon h
  | horizonTimerExpiry => exact execHorizonTimerExpiry_canon h
  | repairRequestReceive => exact execRepairRequestReceive_canon h
  | stripeConfirmationReceive => exact execStripeConfirmationReceive_canon h
  | messageConfirmationReceive => exact execMessageConfirmationReceive_canon h
  | refusalReceive => exact execRefusalReceive_canon h
  | busyReceive => exact execBusyReceive_canon h
  | busyBackoffExpiry => exact execBusyBackoffExpiry_canon h
  | lossNoticeReceiveSender => exact execLossNoticeReceiveSender_canon h
  | lossNoticeReceiveReceiver => exact execLossNoticeReceiveReceiver_canon h
  | closedReceiveSender => exact execClosedReceiveSender_canon h
  | closedReceiveReceiver => exact execClosedReceiveReceiver_canon h
  | senderDeadlineExpiry => exact execSenderDeadlineExpiry_canon h
  | lossNoticeWaitExpiry => exact execLossNoticeWaitExpiry_canon h
  | filterEntryExpiry => exact execFilterEntryExpiry_canon h
  | walkStart => exact execWalkStart_canon h
  | walkComplete => exact execWalkComplete_canon h
  | migrationCopyDone => exact execMigrationCopyDone_canon h
  | shootdownPage | shootdownContext | shootdownTenant | shootdownHarvest => exact runShootdown_canon h
  | shootdownDone => exact execShootdownDone_canon h
  | harvestTimer => exact execHarvestTimer_canon h
  | poolTailWrite => exact execPoolTailWrite_canon h
  | flashReadComplete => exact execFlashReadComplete_canon h
  | relocationBegin => exact execRelocationBegin_canon h
  | relocationSwitchEnd => exact execRelocationSwitchEnd_canon h
  | flashDieFree => exact execFlashDieFree_canon h
  | deferralTimeout => exact execDeferralTimeout_canon h
  | regionEraseDone => exact execRegionEraseDone_canon h
  | skidderRequestAccept => exact execSkidderRequestAccept_canon h
  | extentStaged => exact execExtentStaged_canon h
  | sealCommit => exact execSealCommit_canon h
  | stagingDrain => exact execStagingDrain_canon h
  | stagingError => exact execStagingError_canon h
  | flashBlockFail => exact execFlashBlockFail_canon h
  | launchWindowWrite => exact execLaunchWindowWrite_canon h
  | launchRecord => exact execLaunchRecord_canon h
  | cmdBindContext => exact execCmdBindContext_canon h
  | cmdUnbindContext => exact execCmdUnbindContext_canon h
  | cmdSetFrameScheme => exact execCmdSetFrameScheme_canon h
  | cmdGrantRegion => exact execCmdGrantRegion_canon h
  | cmdFreeRegion => exact execCmdFreeRegion_canon h
  | cmdSetRegionReadOnly => exact execCmdSetRegionReadOnly_canon h
  | cmdAnchorFlashLeaf => exact execCmdAnchorFlashLeaf_canon h
  | cmdWriteCodeProfile => exact execCmdWriteCodeProfile_canon h
  | cmdSetQuotas => exact execCmdSetQuotas_canon h
  | cmdLoadFirmwareImage => exact execCmdLoadFirmwareImage_canon h
  | cmdCommitFirmware => exact execCmdCommitFirmware_canon h
  | cmdAbortStream => exact execCmdAbortStream_canon h
  | cmdResetEngine => exact execCmdResetEngine_canon h
  | cmdResetDevice => exact execCmdResetDevice_canon h
  | cmdCreateCommunicator => exact execCmdCreateCommunicator_canon h
  | cmdDestroyCommunicator => exact execCmdDestroyCommunicator_canon h
  | cmdUnknownCode => exact execCmdUnknownCode_canon h
  | fwVerifyDone => exact execFwVerifyDone_canon h
  | cpQuiesceWrite => exact execCpQuiesceWrite_canon h
  | handoverTimeout => exact execHandoverTimeout_canon h
  | cpWdogKick => exact execCpWdogKick_canon h
  | watchdogQueueStall => exact execWatchdogQueueStall_canon h
  | watchdogKickMissed => exact execWatchdogKickMissed_canon h
  | engineNoProgress => exact execEngineNoProgress_canon h
  | hubTimerExpiry => exact execHubTimerExpiry_canon h
  | tenantReset => exact execTenantReset_canon h
  | gridDieSet => exact execGridDieSet_canon h
  | crewPlace => exact execCrewPlace_canon h
  | crewRetire => exact execCrewRetire_canon h
  | gridRetire => exact execGridRetire_canon h
  | stepAnnounce => exact execStepAnnounce_canon h
  | stepChange => exact execStepChange_canon h
  | preemptRequest => exact execPreemptRequest_canon h
  | crewSave => exact execCrewSave_canon h
  | crewRestore => exact execCrewRestore_canon h
  | shareDecay => exact execShareDecay_canon h
  | columnHot => exact execColumnHot_canon h
  | bankRoleWrite => exact execBankRoleWrite_canon h
  | bankRoleEffect => exact execBankRoleEffect_canon h
  | copyComplete => exact execCopyComplete_canon h
  | tileInstructionStart => exact execTileInstructionStart_canon h
  | tileBlockDone => exact execTileBlockDone_canon h
  | tileInstructionComplete => exact execTileInstructionComplete_canon h
  | collOutcomeExchange => exact execCollOutcomeExchange_canon h
  | chunkCommandArrive => exact execChunkCommandArrive_canon h
  | chunkEnd => exact execChunkEnd_canon h
  | collFailureNotice => exact execCollFailureNotice_canon h
  | coreSpareBringIn => exact execCoreSpareBringIn_canon h
  | vaultRowRemap => exact execVaultRowRemap_canon h
  | registerWrite => exact execRegisterWrite_canon h
  | hostHartAccess => exact execHostHartAccess_canon h
  | pcieLinkLoss => exact execPcieLinkLoss_canon h
  | networkPortStateChange => exact execNetworkPortStateChange_canon h
  | copyFaultStall => exact execCopyFaultStall_canon h
  | tenantResetComplete => exact execTenantResetComplete_canon h
  | dramTemperatureChange => exact execDramTemperatureChange_canon h

/-! ### Machine/Step -/

theorem State.Canon.frontWord {c cl} (h : s.Canon) : FrontCanon (s.frontWord c cl) := by
  unfold State.frontWord
  split
  · split
    exacts [trivial, canon_ite h.notIssued h.trapAll]
  · exact trivial

theorem State.Canon.front (h : s.Canon) : FrontCanon s.front := by
  unfold State.front
  split
  · exact trivial
  · split
    · exact trivial
    · split
      · exact h.frontWord
      · split
        · exact trivial
        · split
          · exact h.notIssued
          · split
            · exact h.clauseTrap
            · split
              exacts [trivial, h.clauseTrap, h.addMiss.stopAt, h.stopAt]

theorem State.Canon.aim {b slot} (h : s.Canon) : (s.aim b slot).Canon := h.frame

theorem State.Canon.markReady {but} (h : s.Canon) : (s.markReady but).Canon := h.frame

theorem State.Canon.unmark (h : s.Canon) : s.unmark.Canon := canon_ite h h.frame

theorem State.Canon.after {s t : State} (h1 : t.Canon) : (s.after t).Canon := canon_ite h1 h1.unmark

theorem State.Canon.afterIssue {s t : State} {b slot} (h1 : t.Canon) : (s.afterIssue t b slot).Canon := canon_ite h1 h1.after

theorem State.Canon.turn {t} (h : s.Canon) : ResCanon (s.turn t) := by
  cases t with
  | event i =>
    have run := exec_canon (i := i) (h.markReady (but := none))
    unfold State.turn
    dsimp only
    split
    · rename_i e
      rw [e] at run
      exact State.Canon.after run
    · exact run
  | issue b slot =>
    have ready := (h.markReady (but := some b)).aim (b := b) (slot := slot)
    have front := ready.front
    unfold State.turn
    extract_lets u
    refine res_ite ready.markReady ?_
    split <;> rename_i e <;> rw [e] at front
    · rename_i i
      have run := exec_canon (i := i) ready
      split
      · rename_i e
        rw [e] at run
        exact State.Canon.afterIssue run
      · exact run
    · exact State.Canon.afterIssue front
    · exact ready

theorem State.Canon.firstAct {l} (h : s.Canon) (hl : ActsCanon l) : OptCanon (s.firstAct l) := by
  unfold State.firstAct
  cases e : l.findSome? _ with
  | none => trivial
  | some t =>
    obtain ⟨f, mem, found⟩ := List.exists_of_findSome?_eq_some e
    have kept := hl f mem s h
    revert kept found
    cases f s with
    | next u =>
      intro found kept
      by_cases same : s.sameAs u
      · exact nomatch (if_pos same).symm.trans found
      · exact Option.some.inj ((if_neg same).symm.trans found) ▸ kept
    | fault r => exact fun e _ => nomatch e
    | refused r => exact fun e _ => nomatch e

theorem State.Canon.tick (h : s.Canon) : s.tick.Canon := h.frame

theorem acts_nil : ActsCanon [] := fun _ hf => absurd hf (List.not_mem_nil)

theorem acts_cons {f : State → Res} {l : List (State → Res)} (hf : ∀ s : State, s.Canon → ResCanon (f s)) (hl : ActsCanon l) : ActsCanon (f :: l) :=
  List.forall_mem_cons.2 ⟨hf, hl⟩

theorem acts_append {l m : List (State → Res)} (hl : ActsCanon l) (hm : ActsCanon m) : ActsCanon (l ++ m) :=
  List.forall_mem_append.2 ⟨hl, hm⟩

theorem acts_map {α : Type} {f : α → State → Res} {l : List α} (hf : ∀ x (s : State), s.Canon → ResCanon (f x s)) : ActsCanon (l.map f) :=
  List.forall_mem_map.2 fun x _ => hf x

theorem acts_flatMap {α : Type} {f : α → List (State → Res)} {l : List α} (hf : ∀ x, ActsCanon (f x)) : ActsCanon (l.flatMap f) := fun a ha => by
  obtain ⟨x, -, hx⟩ := List.mem_flatMap.1 ha
  exact hf x a hx

theorem acts_ite {c : Prop} [Decidable c] {l m : List (State → Res)} (hl : ActsCanon l) (hm : ActsCanon m) : ActsCanon (if c then l else m) := by
  split
  exacts [hl, hm]

theorem acts_pair {f g : State → Res} (hf : ∀ s : State, s.Canon → ResCanon (f s)) (hg : ∀ s : State, s.Canon → ResCanon (g s)) : ActsCanon [f, g] :=
  acts_cons hf (acts_cons hg acts_nil)

theorem fabricActs_canon : ActsCanon s.fabricActs := by
  unfold State.fabricActs
  refine acts_append (acts_append (acts_append (acts_append (acts_append (acts_append (acts_append ?stores ?loads) ?writes) ?acks) ?held) ?walks) ?migs) ?shoots
  case stores => exact acts_flatMap fun _ => acts_pair (fun _ h => execStoreQueueLeave_canon h) (fun _ h => execLoadResponse_canon h)
  case loads => exact acts_flatMap fun _ => acts_map fun _ _ h => execLoadResponse_canon h
  case writes => exact acts_map fun _ _ h => execHomeSliceWrite_canon h
  case acks => exact acts_flatMap fun _ => acts_pair (fun _ h => execAcknowledgement_canon h) (fun _ h => execOrderingPointAck_canon h)
  case held => exact acts_map fun _ _ h => execHeldWriteForward_canon h
  case walks => exact acts_flatMap fun _ => acts_pair (fun _ h => execWalkStart_canon h) (fun _ h => execWalkComplete_canon h)
  case migs => exact acts_map fun _ _ h => execMigrationCopyDone_canon h
  case shoots =>
    refine acts_map fun _ _ h => ?_
    split
    exacts [execShootdownDone_canon h, h]

theorem engineActs_canon : ActsCanon s.engineActs := by
  unfold State.engineActs
  refine acts_append (acts_append (acts_append (acts_append (acts_append (acts_append (acts_append (acts_append (acts_append (acts_append ?copies ?tiles) ?cores)
    ?skidder) ?flash) ?sends) ?recs) ?colls) ?chunks) ?roles) ?own
  case copies => exact acts_flatMap fun _ => acts_flatMap fun _ => acts_pair (fun _ h => execCopyComplete_canon h) (fun _ h => execCopyFaultStall_canon h)
  case tiles => exact acts_flatMap fun _ => acts_flatMap fun _ => acts_pair (fun _ h => execTileBlockDone_canon h) (fun _ h => execTileInstructionComplete_canon h)
  case cores => exact acts_flatMap fun _ => acts_pair (fun _ h => execTileInstructionStart_canon h) (fun _ h => execCoreReclaim_canon h)
  case skidder => exact acts_map fun _ _ h => execSkidderRequestAccept_canon h
  case flash => exact acts_flatMap fun _ => acts_append (acts_map fun _ _ h => execExtentStaged_canon h) (acts_cons (fun _ h => execSealCommit_canon h) acts_nil)
  case sends => exact acts_flatMap fun _ => acts_cons (fun _ h => execStripeTransmit_canon h) (acts_map fun _ _ h => execStripeTransmit_canon h)
  case recs => exact acts_flatMap fun _ => acts_flatMap fun _ => acts_flatMap fun _ => acts_pair (fun _ h => execDecodeComplete_canon h) (fun _ h => execStripeDecoded_canon h)
  case colls => exact acts_map fun _ _ h => execCollOutcomeExchange_canon h
  case chunks => exact acts_flatMap fun _ => acts_map fun _ _ h => execChunkEnd_canon h
  case roles => exact acts_map fun _ _ h => execBankRoleEffect_canon h
  case own => exact acts_cons (fun _ h => h.deliverOwn) acts_nil

/-- The commands of the administrative ring, each as an act. -/
theorem commandActs_canon : ActsCanon
    [execCmdBindContext, execCmdUnbindContext, execCmdSetFrameScheme, execCmdGrantRegion, execCmdFreeRegion, execCmdSetRegionReadOnly,
     execCmdAnchorFlashLeaf, execCmdWriteCodeProfile, execCmdSetQuotas, execCmdLoadFirmwareImage, execCmdCommitFirmware, execCmdAbortStream,
     execCmdResetEngine, execCmdResetDevice, execCmdCreateCommunicator, execCmdDestroyCommunicator, execCmdUnknownCode] :=
  acts_cons (fun _ h => execCmdBindContext_canon h) <| acts_cons (fun _ h => execCmdUnbindContext_canon h) <|
  acts_cons (fun _ h => execCmdSetFrameScheme_canon h) <| acts_cons (fun _ h => execCmdGrantRegion_canon h) <|
  acts_cons (fun _ h => execCmdFreeRegion_canon h) <| acts_cons (fun _ h => execCmdSetRegionReadOnly_canon h) <|
  acts_cons (fun _ h => execCmdAnchorFlashLeaf_canon h) <| acts_cons (fun _ h => execCmdWriteCodeProfile_canon h) <|
  acts_cons (fun _ h => execCmdSetQuotas_canon h) <| acts_cons (fun _ h => execCmdLoadFirmwareImage_canon h) <|
  acts_cons (fun _ h => execCmdCommitFirmware_canon h) <| acts_cons (fun _ h => execCmdAbortStream_canon h) <|
  acts_cons (fun _ h => execCmdResetEngine_canon h) <| acts_cons (fun _ h => execCmdResetDevice_canon h) <|
  acts_cons (fun _ h => execCmdCreateCommunicator_canon h) <| acts_cons (fun _ h => execCmdDestroyCommunicator_canon h) <|
  acts_cons (fun _ h => execCmdUnknownCode_canon h) acts_nil

theorem hubActs_canon : ActsCanon s.hubActs := by
  unfold State.hubActs
  refine acts_append (acts_append (acts_append (acts_append (acts_append (acts_append ?launches ?quiesce) ?grids) ?places) ?crews) ?preempts) ?cmds
  case launches => exact acts_map fun _ _ h => execLaunchRecord_canon h
  case quiesce => exact acts_ite acts_nil (acts_map fun _ _ h => execCpQuiesceWrite_canon h)
  case grids => exact acts_flatMap fun _ => acts_cons (fun _ h => execGridDieSet_canon h) (acts_pair (fun _ h => execStepChange_canon h) fun _ h => execGridRetire_canon h)
  case places => exact acts_map fun _ _ h => execCrewPlace_canon h
  case crews => exact acts_flatMap fun _ => acts_cons (fun _ h => execCrewRetire_canon h) (acts_pair (fun _ h => execCrewSave_canon h) fun _ h => execCrewRestore_canon h)
  case preempts =>
    refine acts_flatMap fun _ => acts_ite ?_ acts_nil
    exact acts_cons (fun _ h => execPreemptRequest_canon h) (acts_pair (fun _ h => execPreemptRequest_canon h) fun _ h => execPreemptRequest_canon h)
  case cmds => exact acts_ite acts_nil commandActs_canon

theorem unitActs_canon : ActsCanon s.unitActs :=
  acts_append (acts_append fabricActs_canon engineActs_canon) hubActs_canon

theorem issueActs_canon : ActsCanon s.issueActs :=
  acts_flatMap fun _ => acts_pair (fun _ h => h.turn) (fun _ h => h.turn)

theorem State.Canon.auto (h : s.Canon) : s.auto.Canon := by
  have ready := h.markReady (but := none)
  unfold State.auto
  dsimp only
  split
  · rename_i e
    exact State.Canon.after ((ready.firstAct unitActs_canon).some e)
  · exact opt_getD (ready.firstAct issueActs_canon) h

theorem step_canon (h : s.Canon) : ResCanon (step s) := by
  unfold step
  split
  · exact h.auto.settleArmed.tick
  · rename_i t rest _
    have run : ResCanon (State.turn { s with agenda := rest } t) := State.Canon.turn h.frame
    split <;> rename_i e
    · rw [e] at run
      exact run.settleArmed.tick
    · trivial
    · trivial

/-- Settles O5: a step is an act of the machine and what settles after it, and every act keeps the canonical forms, since memory and the sorted maps
change only through their own puts and filters. -/
theorem canonicalFormsKept : Obligations.CanonicalFormsKept := by
  unfold Obligations.CanonicalFormsKept
  intro s t canon next
  have kept := step_canon (State.canon_iff_wf.2 canon)
  rw [next] at kept
  exact State.canon_iff_wf.1 kept

/-- Settles O6: the reset state's maps are empty lists, and what memory does not list reads as the model's choice of log 2. -/
theorem resetIsCanonical : Obligations.ResetIsCanonical := by
  unfold Obligations.ResetIsCanonical
  exact ⟨rfl, rfl, rfl, rfl, fun _ => rfl, rfl, rfl⟩

end

end Sys2Proof.Machine

/-! SUPPORT. Words that a unit writes in memory, one and several (R122, R206), and what such writes and the posting of records leave alone. -/

namespace Sys2Proof.Machine

/-! ### One word -/

theorem byte_unitWrote (s : State) (a n x : Nat) : (s.unitWrote a n).byte x = s.byte x := by
  obtain ⟨_, _, e⟩ := unitWrote_frame s a n
  rw [e]
  exact byte_congr rfl rfl x

theorem mem_unitWrote (s : State) (a n : Nat) : (s.unitWrote a n).mem = s.mem := by
  obtain ⟨_, _, e⟩ := unitWrote_frame s a n
  rw [e]

theorem byte_put64_out (s : State) {a x : Nat} (w : Word) (h : x < a ∨ a + 8 ≤ x) : (s.put64 a w).byte x = s.byte x :=
  (byte_unitWrote _ _ _ _).trans (byte_wr64_out s a w x h)

theorem rd64_congr {s t : State} {a : Nat} (h : ∀ i < 8, t.byte (a + i) = s.byte (a + i)) : t.rd64 a = s.rd64 a := by
  rw [State.rd64, rdMem_congr h, State.rd64]

theorem rd64_put64_out (s : State) {a x : Nat} (w : Word) (h : x + 8 ≤ a ∨ a + 8 ≤ x) : (s.put64 a w).rd64 x = s.rd64 x :=
  rd64_congr fun i hi => byte_put64_out s w (by omega)

theorem rd64_put64_self {s : State} (wf : memWf s.mem = true) (a : Nat) (w : Word) : (s.put64 a w).rd64 a = w :=
  (rd64_congr fun _ _ => byte_unitWrote _ _ _ _).trans (rd64_setBytes_leBytes a w wf)

theorem memWf_put64 {s : State} (wf : memWf s.mem = true) (a : Nat) (w : Word) : memWf (s.put64 a w).mem = true := by
  rw [State.put64, mem_unitWrote]
  exact memWf_wr64 s a w wf

theorem recordsOnly_refl (s : State) : RecordsOnly s s := ⟨_, _, _, _, rfl⟩

theorem recordsOnly_put64 (s : State) (a : Nat) (w : Word) : RecordsOnly s (s.put64 a w) := (recordsOnly_wr64 s a w).trans (recordsOnly_unitWrote _ a 8)

theorem recordsOnly_foldl {α : Type} {f : State → α → State} (step : ∀ s x, RecordsOnly s (f s x)) (l : List α) (s : State) : RecordsOnly s (l.foldl f s) :=
  List.foldlRecOn l f (motive := RecordsOnly s) (recordsOnly_refl s) fun t ht x _ => ht.trans (step t x)

theorem RecordsOnly.xl {s t : State} (h : RecordsOnly s t) : t.xl = s.xl := by
  obtain ⟨_, _, _, _, rfl⟩ := h
  rfl

theorem RecordsOnly.bundles {s t : State} (h : RecordsOnly s t) : t.bundles = s.bundles := by
  obtain ⟨_, _, _, _, rfl⟩ := h
  rfl

theorem RecordsOnly.crews {s t : State} (h : RecordsOnly s t) : t.crews = s.crews := by
  obtain ⟨_, _, _, _, rfl⟩ := h
  rfl

/-! ### Several words -/

section
variable {l : List (Nat × Word)} {g : Word → Word}

theorem byte_foldl_put64 (s : State) {x : Nat} (h : ∀ p ∈ l, x < p.1 ∨ p.1 + 8 ≤ x) : (l.foldl (fun t p => t.put64 p.1 (g p.2)) s).byte x = s.byte x :=
  List.foldlRecOn l _ (motive := fun t => t.byte x = s.byte x) rfl fun t ht p hp => (byte_put64_out t _ (h p hp)).trans ht

/-- Words written at places apart from one another each read back. -/
theorem rd64_foldl_put64 {s : State} (wf : memWf s.mem = true) (apart : l.Pairwise fun p q => p.1 + 8 ≤ q.1 ∨ q.1 + 8 ≤ p.1) {p : Nat × Word} (hp : p ∈ l) :
    (l.foldl (fun t p => t.put64 p.1 (g p.2)) s).rd64 p.1 = g p.2 := by
  induction l generalizing s with
  | nil => cases hp
  | cons q l ih =>
    obtain ⟨first, rest⟩ := List.pairwise_cons.1 apart
    rw [List.foldl_cons]
    obtain rfl | later := List.mem_cons.1 hp
    · refine (rd64_congr fun i hi => byte_foldl_put64 _ fun q hq => ?_).trans (rd64_put64_self wf _ _)
      have := first q hq
      omega
    · exact ih (memWf_put64 wf _ _) rest later

end

/-! ### Records (R84) -/

/-- The registers of the windows' counts, of one tenant or another. -/
def isWindowReg (o : Nat) : Prop := ∃ n, o = 0x1000040 + 0x10000 * (n / 4) + 8 * (n % 4)

theorem reg_unitWrote {o : Nat} (h : ¬ isWindowReg o) (s : State) (a n : Nat) : (s.unitWrote a n).reg o = s.reg o := by
  unfold State.unitWrote
  refine List.foldlRecOn _ _ (motive := fun t : State => t.reg o = s.reg o) rfl fun t ht i _ => ?_
  extract_lets lo hi
  clear_value lo hi
  split
  · next k _ => exact (reg_setReg_ne t _ fun e => h ⟨k, e⟩).trans ht
  · exact ht

theorem reg_put64 {o : Nat} (h : ¬ isWindowReg o) (s : State) (a : Nat) (w : Word) : (s.put64 a w).reg o = s.reg o :=
  (reg_unitWrote h _ _ _).trans (reg_congr (wr64_regs s a w) o)

theorem not_isWindowReg_offFq (t : Nat) : ¬ isWindowReg (offFq t) := by
  rintro ⟨n, e⟩
  unfold offFq at e
  omega

/-- The record of a tenant is written in the tenant's ring, and nowhere else. -/
theorem byte_post_out (s : State) (t : Nat) (w0 w1 w2 : Word) (hi3 : Nat) {x : Nat}
    (h : ¬ (fld (s.reg (offFq t)) 55 12 * 4096 ≤ x ∧ x < fld (s.reg (offFq t)) 55 12 * 4096 + 32 * 2 ^ fld (s.reg (offFq t)) 4 0)) : (s.post t w0 w1 w2 hi3).byte x = s.byte x := by
  unfold State.post
  dsimp only
  generalize fld (s.reg (offFq t)) 55 12 * 4096 = page at h ⊢
  generalize fld (s.reg (offFq t)) 4 0 = size at h ⊢
  split
  · rfl
  · have room := Nat.mod_lt (fld (s.reg (offFq t + 8)) 63 48) (Nat.two_pow_pos size)
    generalize fld (s.reg (offFq t + 8)) 63 48 % 2 ^ size = row at room ⊢
    have place : x < page + 32 * row ∨ page + 32 * row + 32 ≤ x := by omega
    generalize page + 32 * row = pa at place ⊢
    have msi (u : State) (asked : Bool) (l : List Nat) : (if asked = true then { u with hub := { u.hub with msis := l } } else u).byte x = u.byte x := by cases asked <;> rfl
    refine (byte_congr (setReg_mem _ _ _) (setReg_memOpen _ _ _) x).trans ((msi _ _ _).trans ((byte_unitWrote _ _ _ _).trans ?_))
    rw [byte_wr64_out _ _ _ _ (by omega), byte_wr64_out _ _ _ _ (by omega), byte_wr64_out _ _ _ _ (by omega), byte_wr64_out _ _ _ _ (by omega)]

end Sys2Proof.Machine

/-! SUPPORT. Steps of translation that touch its queues and registers alone: a walk starts, a shoot-down is asked for, a pool has a new tail (R75, R76, R82, R83). -/

namespace Sys2Proof.Machine

/-! ### A walk starts -/

section
variable {s : State} {i : Nat} {m : Miss} (hm : s.xl.misses[i]? = some m) (idle : m.walking = false)
include hm idle

theorem exec_walkStart_starts (first : ∀ x ∈ s.xl.misses.take i, x.grove = m.grove → x.tenant = m.tenant → x.walking = true)
    (quota : s.walking m.grove m.tenant < fld (s.reg (offWalk m.grove m.tenant)) 7 0) (room : (s.xl.misses.filter fun x => x.walking && x.grove == m.grove).length < 128) :
    exec (.walkStart i) s = .next (s.setMisses (s.xl.misses.set i { m with walking := true })) := by
  have early : earlierWaits s.xl.misses i m = false := by
    refine List.any_eq_false.2 fun x hx => ?_
    have walks := first x hx
    grind
  show execWalkStart i s = _
  simp only [execWalkStart, hm, idle, Nat.not_le.2 quota, early, Nat.not_le.2 room, decide_false, Bool.or_self, Bool.false_eq_true, if_false]

theorem exec_walkStart_counts (full : fld (s.reg (offWalk m.grove m.tenant)) 7 0 ≤ s.walking m.grove m.tenant) (new : m.waited = false) :
    exec (.walkStart i) s = .next ((s.setMisses (s.xl.misses.set i { m with waited := true })).setReg (offWalk m.grove m.tenant)
      (satAdd (s.reg (offWalk m.grove m.tenant)) 31 24 1)) := by
  show execWalkStart i s = _
  simp only [execWalkStart, hm, idle, full, new, Bool.false_eq_true, if_false, if_true]

end

/-! ### A shoot-down is asked for -/

/-- What HUB_SD_CMD_t reads with a result and its go bit: the context and the kind above them. -/
theorem sdWord_fields (v : Word) {result go : Nat} (hr : result < 4) (hg : go < 2) :
    fld (wordOf [(54, fld v 63 54), (48, fld v 49 48), (1, result), (0, go)]) 2 1 = result ∧
    (wordOf [(54, fld v 63 54), (48, fld v 49 48), (1, result), (0, go)]).getLsbD 0 = go.testBit 0 := by
  refine ⟨fld_wordOf [(54, _), (48, _)] (by omega) (by omega) (by simp) (by simpa using hr) ⟨by omega, by simpa using hg, trivial⟩, ?_⟩
  rw [getLsbD_eq_testBit_fld]
  exact congrArg (Nat.testBit · 0) (fld_wordOf [(54, _), (48, _), (1, _)] (by omega) (by omega) (by simp) (by simpa using hg) trivial)

theorem exec_runShootdown {s : State} {kind : Nat} {t : Fin 64} {v : Word} (hk : fld v 49 48 = kind) (go : v.getLsbD 0 = true)
    (idle : (s.reg (offSd t.val + 8)).getLsbD 0 = false) :
    ∃ u, runShootdown kind t v s = .next u ∧
      if kind = 2 ∨ ∃ c ∈ s.xl.ctxs, c.num = fld v 63 54 ∧ c.tenant = t.val then
        u.xl = { s.xl with shoots := s.xl.shoots ++ [⟨t.val, kind, fld v 63 54, fld (s.reg (offSd t.val)) 56 12⟩] } ∧ (u.reg (offSd t.val + 8)).getLsbD 0 = true
      else u.xl = s.xl ∧ fld (u.reg (offSd t.val + 8)) 2 1 = 1 ∧ (u.reg (offSd t.val + 8)).getLsbD 0 = false := by
  refine ⟨_, if_pos hk, ?_⟩
  have owner : (s.xl.ctxs.any fun c => c.num == fld v 63 54 && c.tenant == t.val) = true ↔ ∃ c ∈ s.xl.ctxs, c.num = fld v 63 54 ∧ c.tenant = t.val := by
    simp only [List.any_eq_true, Bool.and_eq_true, beq_iff_eq]
  simp only [State.sdCommand, idle, go, hk, Bool.not_true, Bool.false_eq_true, if_false]
  by_cases taken : kind = 2 ∨ ∃ c ∈ s.xl.ctxs, c.num = fld v 63 54 ∧ c.tenant = t.val
  · rw [if_pos taken, if_neg fun refused => by simp only [Bool.not_eq_true', ← Bool.not_eq_true, owner] at refused; exact taken.elim refused.1 refused.2]
    exact ⟨rfl, by rw [reg_setReg_self, ← hk]; exact (sdWord_fields v (by omega) (by omega)).2⟩
  · rw [if_neg taken, if_pos (by simp only [Bool.not_eq_true', ← Bool.not_eq_true, owner]; exact not_or.1 taken)]
    rw [setReg_xl, reg_setReg_self, ← hk]
    exact ⟨rfl, sdWord_fields v (by omega) (by omega)⟩

/-! ### A pool has a new tail -/

/-- A migration that holds a frame, or has a size that no pool gives, does not try the pool. -/
theorem retryFrames_of_none {s : State} {n : Nat} (h : ∀ m ∈ s.xl.migs, 3 * m.tenant + m.size = n → m.size = 3 ∨ m.frame ≠ none) : s.retryFrames n = s := by
  unfold State.retryFrames
  refine List.foldlRecOn (motive := (· = s)) _ _ rfl fun t ht i _ => ?_
  subst ht
  split
  · next m hm =>
    have held := h m (List.mem_of_getElem? hm)
    rw [if_neg]
    rintro ⟨pool, size, none⟩
    exact (held pool).elim size fun k => k (Option.isNone_iff_eq_none.1 none)
  · rfl

theorem exec_poolTailWrite {s : State} {n : Fin 192} {v : Word} (h : ∀ m ∈ s.xl.migs, 3 * m.tenant + m.size = n.val → m.size = 3 ∨ m.frame ≠ none) :
    ∃ t, exec (.poolTailWrite n v) s = .next t ∧ fld (t.reg (offPool n + 8)) 63 48 = fld (s.reg (offPool n + 8)) 63 48 ∧ fld (t.reg (offPool n + 8)) 47 8 = fld v 47 8 ∧
      (fld v 47 32 ≠ fld (s.reg (offPool n + 8)) 47 32 → ∀ b ∈ t.bundles, b.parked ≠ some n.val) ∧ ∀ r, r ≠ offPool n + 8 → t.reg r = s.reg r := by
  have runs : exec (.poolTailWrite n v) s = .next (s.poolWrite n.val v) := rfl
  have idle (w : Word) : ((s.setReg (offPool n + 8) w).unparkPool n.val).retryFrames n.val = (s.setReg (offPool n + 8) w).unparkPool n.val := retryFrames_of_none h
  have head := fld_wordOf [] (hi := 63) (lo := 48) (v := fld (s.poolPtr n) 63 48) (post := [(8, fld v 47 8)]) (by omega) (by omega) (by simp) (fld_lt _ 63 48) ⟨by omega, fld_lt v 47 8, trivial⟩
  have tail := fld_wordOf [(48, fld (s.poolPtr n) 63 48)] (hi := 47) (lo := 8) (v := fld v 47 8) (post := []) (by omega) (by omega) (by simp) (fld_lt v 47 8) trivial
  rw [runs, State.poolWrite]
  split
  · next same => exact ⟨_, rfl, by rw [reg_setReg_self]; exact head, by rw [reg_setReg_self]; exact tail, fun new => absurd same.symm new, fun r hr => reg_setReg_ne _ _ hr⟩
  · rw [idle]
    refine ⟨_, rfl, (congrArg (fld · 63 48) (reg_setReg_self s _ _)).trans head, (congrArg (fld · 47 8) (reg_setReg_self s _ _)).trans tail, fun _ b hb => ?_, fun r hr => reg_setReg_ne s _ hr⟩
    obtain ⟨b, -, rfl⟩ := List.mem_map.1 hb
    split
    · simp
    · assumption

end Sys2Proof.Machine

/-! SUPPORT. Marks gathered in TLBs go to their leaves (R77), and what stands when nothing waits at the hub (R160). -/

namespace Sys2Proof.Machine

theorem recordsOnly_harvest (s : State) (e : TlbEnt) : RecordsOnly s (s.harvest e) := by
  unfold State.harvest
  split
  · exact recordsOnly_refl s
  · refine recordsOnly_foldl (fun t h => ?_) _ s
    dsimp only
    split
    · exact recordsOnly_put64 _ _ _
    · exact recordsOnly_refl t

/-- What an element of a list makes of a state, and the others keep, stands at the end of the list. -/
theorem foldl_reaches_mem {α σ : Type} {f : σ → α → σ} {Q P : σ → Prop} {l : List α} (before : ∀ s, ∀ y ∈ l, Q s → Q (f s y)) (after : ∀ s, ∀ y ∈ l, P s → P (f s y)) {x : α}
    (made : ∀ s, Q s → P (f s x)) (hx : x ∈ l) {s : σ} (hs : Q s) : P (l.foldl f s) := by
  obtain ⟨l₁, l₂, rfl⟩ := List.append_of_mem hx
  rw [List.foldl_append, List.foldl_cons]
  have first : Q (l₁.foldl f s) := List.foldlRecOn l₁ f hs fun t ht y hy => before t y (List.mem_append_left _ hy) ht
  exact List.foldlRecOn l₂ f (made _ first) fun t ht y hy => after t y (List.mem_append_right _ (List.mem_cons_of_mem x hy)) ht

/-- An entry whose marks were harvested. -/
def TlbEnt.unmarked (e : TlbEnt) : TlbEnt := { e with a := false, d := false }

theorem harvestAll_frame (s : State) (pick : TlbAt × TlbEnt → Bool) :
    ∃ u, RecordsOnly s u ∧ s.harvestAll pick = { u with xl := { s.xl with tlb := s.xl.tlb.map fun x => if pick x then (x.1, x.2.unmarked) else x } } := by
  have kept : RecordsOnly s ((s.xl.tlb.filter pick).foldl (fun t x => t.harvest x.2) s) := recordsOnly_foldl (fun t (x : TlbAt × TlbEnt) => recordsOnly_harvest t x.2) _ s
  unfold State.harvestAll
  generalize (s.xl.tlb.filter pick).foldl (fun t x => t.harvest x.2) s = u at kept ⊢
  exact ⟨u, kept, by rw [← kept.xl]; rfl⟩

/-! ### The marks in the leaves -/

/-- Every aligned word of t is that of s, with A or D set besides. -/
def MarksOver (s t : State) : Prop := memWf t.mem = true ∧ ∀ p, p % 8 = 0 → ∃ m, t.rd64 p = s.rd64 p ||| m ∧ ∀ i, m.getLsbD i = true → i = 6 ∨ i = 7

theorem marksOver_refl {s : State} (wf : memWf s.mem = true) : MarksOver s s := ⟨wf, fun _ _ => ⟨0, by simp, by simp⟩⟩

theorem MarksOver.put64 {s t : State} (h : MarksOver s t) {p : Nat} (aligned : p % 8 = 0) {m : Word} (bits : ∀ i, m.getLsbD i = true → i = 6 ∨ i = 7) :
    MarksOver s (t.put64 p (t.rd64 p ||| m)) := by
  refine ⟨memWf_put64 h.1 _ _, fun q hq => ?_⟩
  obtain ⟨k, hk, only⟩ := h.2 q hq
  by_cases e : q = p
  · subst e
    refine ⟨k ||| m, by rw [rd64_put64_self h.1, hk, BitVec.or_assoc], fun i hi => ?_⟩
    rw [BitVec.getLsbD_or, Bool.or_eq_true] at hi
    exact hi.elim (only i) (bits i)
  · exact ⟨k, by rw [rd64_put64_out t _ (by omega), hk], only⟩

theorem fld_or_of_clear {l m : Word} {hi lo : Nat} (h : ∀ i, lo ≤ i → i ≤ hi → m.getLsbD i = false) : fld (l ||| m) hi lo = fld l hi lo := by
  refine Nat.eq_of_testBit_eq fun i => ?_
  rw [testBit_fld, testBit_fld, BitVec.getLsbD_or]
  by_cases inside : i < hi + 1 - lo
  · rw [h (lo + i) (by omega) (by omega), Bool.or_false]
  · simp [inside]

theorem MarksOver.valid {s t : State} (h : MarksOver s t) {p : Nat} (aligned : p % 8 = 0) : leafV (t.rd64 p) = leafV (s.rd64 p) := by
  obtain ⟨m, e, bits⟩ := h.2 p aligned
  have clear : m.getLsbD 0 = false := Bool.eq_false_iff.2 fun set => by have := bits 0 set; omega
  rw [e, leafV, BitVec.getLsbD_or, clear, Bool.or_false, leafV]

theorem MarksOver.ppn {s t : State} (h : MarksOver s t) {p : Nat} (aligned : p % 8 = 0) : leafPpn (t.rd64 p) = leafPpn (s.rd64 p) := by
  obtain ⟨m, e, bits⟩ := h.2 p aligned
  rw [e]
  exact fld_or_of_clear fun i low _ => Bool.eq_false_iff.2 fun set => by have := bits i set; omega

/-- The marks of an entry, as bits of its leaf. -/
def TlbEnt.marks (e : TlbEnt) : Word := (if e.a then 0x40 else 0) ||| if e.d then 0x80 else 0

theorem TlbEnt.marks_bits (e : TlbEnt) (i : Nat) (h : e.marks.getLsbD i = true) : i = 6 ∨ i = 7 := by
  have all : ∀ i < 64, e.marks.getLsbD i = true → i = 6 ∨ i = 7 := by
    rw [TlbEnt.marks]
    cases e.a <;> cases e.d <;> decide
  exact all i (BitVec.lt_of_getLsbD h) h

/-- One leaf of a harvested entry. -/
def State.markLeaf (t : State) (e : TlbEnt) (h : Nat × Nat) : State :=
  if leafV (t.rd64 h.1) && leafPpn (t.rd64 h.1) == h.2 then t.put64 h.1 (t.rd64 h.1 ||| e.marks) else t

theorem harvest_eq (s : State) (e : TlbEnt) : s.harvest e = if !(e.a || e.d) then s else e.homes.foldl (fun t h => t.markLeaf e h) s := by
  simp only [State.harvest, State.markLeaf, TlbEnt.marks, BitVec.or_assoc]

section
variable {s t : State} {e : TlbEnt}

theorem MarksOver.markLeaf (h : MarksOver s t) {p : Nat × Nat} (aligned : p.1 % 8 = 0) : MarksOver s (t.markLeaf e p) := by
  unfold State.markLeaf
  split
  · exact h.put64 aligned e.marks_bits
  · exact h

theorem MarksOver.harvest (h : MarksOver s t) (aligned : ∀ p ∈ e.homes, p.1 % 8 = 0) : MarksOver s (t.harvest e) := by
  rw [harvest_eq]
  split
  · exact h
  · exact List.foldlRecOn _ _ h fun u hu p hp => hu.markLeaf (aligned p hp)

/-- A mark that is set in a leaf stays set. -/
theorem bit_markLeaf (wf : memWf t.mem = true) {p : Nat × Nat} (aligned : p.1 % 8 = 0) {q i : Nat} (hq : q % 8 = 0) (set : (t.rd64 q).getLsbD i = true) :
    ((t.markLeaf e p).rd64 q).getLsbD i = true := by
  obtain ⟨m, more, -⟩ := ((marksOver_refl wf).markLeaf (e := e) aligned).2 q hq
  rw [more, BitVec.getLsbD_or, set, Bool.true_or]

theorem bit_harvest (wf : memWf t.mem = true) (aligned : ∀ p ∈ e.homes, p.1 % 8 = 0) {q i : Nat} (hq : q % 8 = 0) (set : (t.rd64 q).getLsbD i = true) :
    ((t.harvest e).rd64 q).getLsbD i = true := by
  obtain ⟨m, more, -⟩ := ((marksOver_refl wf).harvest aligned).2 q hq
  rw [more, BitVec.getLsbD_or, set, Bool.true_or]

/-- A harvested entry's marks stand in each leaf of its that is valid and has its page still. -/
theorem bit_harvest_home (mo : MarksOver s t) (aligned : ∀ p ∈ e.homes, p.1 % 8 = 0) {p : Nat × Nat} (hp : p ∈ e.homes) (valid : leafV (s.rd64 p.1) = true)
    (page : leafPpn (s.rd64 p.1) = p.2) {i : Nat} (mark : e.marks.getLsbD i = true) : ((t.harvest e).rd64 p.1).getLsbD i = true := by
  have marked : (!(e.a || e.d)) = false := by
    revert mark
    rw [TlbEnt.marks]
    cases e.a <;> cases e.d <;> simp
  rw [harvest_eq, marked, if_neg Bool.false_ne_true]
  refine foldl_reaches_mem (Q := MarksOver s) (P := fun u => MarksOver s u ∧ (u.rd64 p.1).getLsbD i = true) (fun u q hq hu => hu.markLeaf (aligned q hq))
    (fun u q hq hu => ⟨hu.1.markLeaf (aligned q hq), bit_markLeaf hu.1.1 (aligned q hq) (aligned p hp) hu.2⟩) (fun u hu => ⟨hu.markLeaf (aligned p hp), ?_⟩) hp mo |>.2
  have here : (leafV (u.rd64 p.1) && leafPpn (u.rd64 p.1) == p.2) = true := by simp [hu.valid (aligned p hp), hu.ppn (aligned p hp), valid, page]
  rw [State.markLeaf, if_pos here, rd64_put64_self hu.1, BitVec.getLsbD_or, mark, Bool.or_true]

theorem byte_harvest_out (t : State) {a : Nat} (h : ∀ p ∈ e.homes, a < p.1 ∨ p.1 + 8 ≤ a) : (t.harvest e).byte a = t.byte a := by
  rw [harvest_eq]
  split
  · rfl
  · refine List.foldlRecOn _ _ (motive := fun u : State => u.byte a = t.byte a) rfl fun u hu p hp => ?_
    unfold State.markLeaf
    split
    · exact (byte_put64_out u _ (h p hp)).trans hu
    · exact hu

end

/-- The harvest timer of a grove (R77). -/
theorem exec_harvestTimer {s : State} {g : Nat} (wf : memWf s.mem = true) (aligned : ∀ x ∈ s.xl.tlb, ∀ h ∈ x.2.homes, h.1 % 8 = 0) :
    ∃ t, exec (.harvestTimer g) s = .next t ∧ (∀ x ∈ t.xl.tlb, x.1.ofGrove g = true → x.2.a = false ∧ x.2.d = false) ∧ (∀ x ∈ s.xl.tlb, x.1.ofGrove g = false → x ∈ t.xl.tlb) ∧
      (∀ x ∈ s.xl.tlb, x.1.ofGrove g = true → ∀ h ∈ x.2.homes, leafV (s.rd64 h.1) = true → leafPpn (s.rd64 h.1) = h.2 →
        (x.2.a = true → (t.rd64 h.1).getLsbD 6 = true) ∧ (x.2.d = true → (t.rd64 h.1).getLsbD 7 = true)) ∧
      ∀ a, (∀ x ∈ s.xl.tlb, x.1.ofGrove g = true → ∀ h ∈ x.2.homes, a < h.1 ∨ h.1 + 8 ≤ a) → t.byte a = s.byte a := by
  have kept := recordsOnly_foldl (fun t (x : TlbAt × TlbEnt) => recordsOnly_harvest t x.2) (s.xl.tlb.filter fun x => x.1.ofGrove g) s
  have entries : (s.harvestAll fun x => x.1.ofGrove g).xl.tlb = s.xl.tlb.map fun x => if x.1.ofGrove g then (x.1, x.2.unmarked) else x := by
    obtain ⟨u, -, e⟩ := harvestAll_frame s fun x => x.1.ofGrove g
    rw [e]
  refine ⟨_, rfl, ?marks, ?others, ?leaves, ?bytes⟩
  case marks =>
    rw [entries]
    intro x hx grove
    obtain ⟨y, -, rfl⟩ := List.mem_map.1 hx
    split at grove
    · next h => rw [if_pos h]; exact ⟨rfl, rfl⟩
    · contradiction
  case others =>
    intro x hx grove
    rw [entries]
    exact List.mem_map.2 ⟨x, hx, by rw [grove, if_neg Bool.false_ne_true]⟩
  case leaves =>
    intro x hx grove h hh valid page
    have reaches {i : Nat} (mark : x.2.marks.getLsbD i = true) :
        (((s.xl.tlb.filter fun x => x.1.ofGrove g).foldl (fun t x => t.harvest x.2) s).rd64 h.1).getLsbD i = true := by
      have mine (y : TlbAt × TlbEnt) (hy : y ∈ s.xl.tlb.filter fun x => x.1.ofGrove g) := aligned y (List.mem_filter.1 hy).1
      exact foldl_reaches_mem (Q := MarksOver s) (P := fun u => MarksOver s u ∧ (u.rd64 h.1).getLsbD i = true) (fun u y hy hu => hu.harvest (mine y hy))
        (fun u y hy hu => ⟨hu.1.harvest (mine y hy), bit_harvest hu.1.1 (mine y hy) (aligned x hx h hh) hu.2⟩)
        (fun u hu => ⟨hu.harvest (aligned x hx), bit_harvest_home hu (aligned x hx) hh valid page mark⟩) (List.mem_filter.2 ⟨hx, grove⟩) (marksOver_refl wf) |>.2
    refine ⟨fun a => reaches ?_, fun d => reaches ?_⟩
    · rw [TlbEnt.marks, a]
      cases x.2.d <;> decide
    · rw [TlbEnt.marks, d]
      cases x.2.a <;> decide
  case bytes =>
    intro a apart
    refine List.foldlRecOn _ _ (motive := fun u : State => u.byte a = s.byte a) rfl fun u hu x hx => ?_
    obtain ⟨there, grove⟩ := List.mem_filter.1 hx
    exact (byte_harvest_out u (apart x there grove)).trans hu

end Sys2Proof.Machine

/-! SUPPORT. The ends of shoot-downs and of migrations (R76, R79, R80, R458). -/

namespace Sys2Proof.Machine

/-! ### Nothing waits at the hub -/

/-- No effect of the hub's own, no armed action and no deferred access waits. -/
structure State.Quiet (s : State) : Prop where
  hub : s.hubFx = []
  armed : ∀ a ∈ s.armed, a.waits = false
  deferred : s.flash.deferred = []

theorem RecordsOnly.quiet {s t : State} (h : RecordsOnly s t) (quiet : s.Quiet) : t.Quiet := by
  obtain ⟨_, _, _, _, rfl⟩ := h
  exact ⟨quiet.hub, quiet.armed, quiet.deferred⟩

theorem replayAll_of_none {s : State} (h : s.flash.deferred = []) (pick : Deferral → Bool) : s.replayAll pick = s := by
  rw [State.replayAll, h]
  rfl

theorem bundle?_onBundle_map (s : State) (k : BKey) {f : Bundle → Bundle} (hf : ∀ b, (f b).key = b.key) : (s.onBundle k f).bundle? k = (s.bundle? k).map f := by
  cases h : s.bundle? k with
  | none => rw [State.onBundle, h, h, Option.map_none]
  | some b => exact bundle?_onBundle_self h (hf b)

/-- A bundle that is parked on no migration any more. -/
def Bundle.unparked (b : Bundle) : Bundle := if b.parked = some parkMig then { b with parked := none } else b

theorem unparked_key (b : Bundle) : b.unparked.key = b.key := by
  unfold Bundle.unparked
  split <;> rfl

theorem unparked_parked (b : Bundle) : b.unparked.parked ≠ some parkMig := by
  unfold Bundle.unparked
  split
  · simp
  · assumption

theorem unpark_eq (s : State) (l : List BKey) : s.unpark l = l.foldl (fun t k => t.onBundle k Bundle.unparked) s := rfl

theorem unpark_frame (s : State) (l : List BKey) : ∃ bundles, s.unpark l = { s with bundles := bundles } := by
  refine List.foldlRecOn l _ (motive := fun t : State => ∃ bundles, t = { s with bundles := bundles }) ⟨s.bundles, rfl⟩ fun t ht k _ => ?_
  obtain ⟨_, rfl⟩ := ht
  exact ⟨_, onBundle_frame _ _ _⟩

/-- A migration's bundles are parked on it no more. -/
theorem unpark_unparks (s : State) {l : List BKey} {k : BKey} (h : k ∈ l) {b : Bundle} (hb : (s.unpark l).bundle? k = some b) : b.parked ≠ some parkMig := by
  have made (t : State) (b : Bundle) (hb : (t.onBundle k Bundle.unparked).bundle? k = some b) : b.parked ≠ some parkMig := by
    rw [bundle?_onBundle_map t k unparked_key] at hb
    obtain ⟨c, -, rfl⟩ := Option.map_eq_some_iff.1 hb
    exact unparked_parked c
  rw [unpark_eq] at hb
  refine foldl_reaches (f := fun (t : State) k => t.onBundle k Bundle.unparked) (Q := fun _ => True) (P := fun t => ∀ b, t.bundle? k = some b → b.parked ≠ some parkMig) (fun _ _ h => h) (fun t j ht b hb => ?_)
    (fun t _ => made t) h trivial b hb
  by_cases same : k = j
  · subst same
    exact made t b hb
  · rw [bundle?_onBundle_ne unparked_key same] at hb
    exact ht b hb

/-- Where nothing waits at the hub, a migration's end unparks its waiters and forgets the request for its page. -/
theorem migEnd_of_quiet {s : State} (quiet : s.Quiet) (m : Mig) :
    s.migEnd m = ({ s with pcie := { s.pcie with asked := s.pcie.asked.filter fun x => x != (m.ctx, m.vpn) } } : State).unpark m.waiters := by
  unfold State.migEnd
  dsimp only
  obtain ⟨bundles, e⟩ := unpark_frame { s with pcie := { s.pcie with asked := s.pcie.asked.filter fun x => x != (m.ctx, m.vpn) } } m.waiters
  rw [e, hubRetry_of_none (by exact quiet.hub), fireWaiting_of_none (by exact quiet.armed), replayAll_of_none (by exact quiet.deferred)]

theorem migEnd_frame {s : State} (quiet : s.Quiet) (m : Mig) : ∃ pcie bundles, s.migEnd m = { s with pcie := pcie, bundles := bundles } := by
  rw [migEnd_of_quiet quiet]
  obtain ⟨_, e⟩ := unpark_frame { s with pcie := { s.pcie with asked := s.pcie.asked.filter fun x => x != (m.ctx, m.vpn) } } m.waiters
  exact ⟨_, _, e⟩

/-! ### A shoot-down is done -/

section
variable {s : State} (d : Shoot)

theorem sdCovers_congr {t : State} (ctxs : t.xl.ctxs = s.xl.ctxs) (ctx vpn pages : Nat) : t.sdCovers d ctx vpn pages = s.sdCovers d ctx vpn pages := by
  simp only [State.sdCovers, State.ctx?, ctxs]

theorem sdResume_frame (quiet : s.Quiet) : ∃ migs pcie bundles, s.sdResume d = { s with xl := { s.xl with migs := migs }, pcie := pcie, bundles := bundles } := by
  unfold State.sdResume
  extract_lets ended done s0 s1 free
  have resumed : ∃ pcie bundles, s1 = { s0 with pcie := pcie, bundles := bundles } := by
    refine List.foldlRecOn done _ (motive := fun t : State => ∃ pcie bundles, t = { s0 with pcie := pcie, bundles := bundles }) ⟨s0.pcie, s0.bundles, rfl⟩ fun t ht m _ => ?_
    obtain ⟨_, _, rfl⟩ := ht
    obtain ⟨_, _, e⟩ := migEnd_frame (s := { s0 with pcie := _, bundles := _ }) ⟨quiet.hub, quiet.armed, quiet.deferred⟩ m
    exact ⟨_, _, e⟩
  obtain ⟨_, _, e⟩ := resumed
  rw [e]
  exact ⟨_, _, _, rfl⟩

/-- What waited in scope goes on, and the entries of the TLBs and other shoot-downs stand. -/
theorem sdResume_keeps (quiet : s.Quiet) (again : Deferral → Bool) :
    (((s.sdResume d).sdRetry d).replayAll again).xl.shoots = s.xl.shoots ∧ (((s.sdResume d).sdRetry d).replayAll again).xl.tlb = s.xl.tlb := by
  obtain ⟨_, _, _, e⟩ := sdResume_frame d quiet
  have none : ((s.sdResume d).sdRetry d).flash.deferred = [] := by
    rw [e, State.sdRetry]
    dsimp only
    rw [quiet.deferred, List.map_nil]
  rw [replayAll_of_none none, e]
  exact ⟨rfl, rfl⟩

/-- A shoot-down's effect on what the TLBs hold: the entries in scope give up their marks, and are gone unless it is a harvest. -/
theorem sdEffect_xl (quiet : s.Quiet) : (s.sdEffect d).xl.shoots = s.xl.shoots ∧
    (s.sdEffect d).xl.tlb = (if d.kind = 3 then id else List.filter fun x => !s.sdCovers d x.2.ctx x.2.vpn x.2.pages)
      (s.xl.tlb.map fun x => if s.sdCovers d x.2.ctx x.2.vpn x.2.pages then (x.1, x.2.unmarked) else x) := by
  obtain ⟨u, records, harvested⟩ := harvestAll_frame s fun x => s.sdCovers d x.2.ctx x.2.vpn x.2.pages
  have calm := records.quiet quiet
  rw [State.sdEffect, harvested]
  by_cases harvest : d.kind = 3
  · simp only [if_pos harvest, id, and_self]
  · simp only [if_neg harvest]
    refine sdResume_keeps d ?_ _
    exact ⟨calm.hub, calm.armed, calm.deferred⟩

/-- The page of an entry, which is what a shoot-down looks at, stands as its marks go. -/
theorem sdCovers_harvested (x : TlbAt × TlbEnt) : let y := if s.sdCovers d x.2.ctx x.2.vpn x.2.pages then (x.1, x.2.unmarked) else x
    s.sdCovers d y.2.ctx y.2.vpn y.2.pages = s.sdCovers d x.2.ctx x.2.vpn x.2.pages := by
  dsimp only
  split <;> rfl

theorem sdEffect_covered (quiet : s.Quiet) {x : TlbAt × TlbEnt} (hx : x ∈ (s.sdEffect d).xl.tlb) (covered : s.sdCovers d x.2.ctx x.2.vpn x.2.pages = true) :
    d.kind = 3 ∧ x.2.a = false ∧ x.2.d = false := by
  rw [(sdEffect_xl d quiet).2] at hx
  by_cases harvest : d.kind = 3
  · rw [if_pos harvest] at hx
    obtain ⟨y, -, rfl⟩ := List.mem_map.1 hx
    rw [sdCovers_harvested] at covered
    rw [if_pos covered]
    exact ⟨harvest, rfl, rfl⟩
  · rw [if_neg harvest] at hx
    have gone := (List.mem_filter.1 hx).2
    rw [covered] at gone
    cases gone

theorem sdEffect_other (quiet : s.Quiet) {x : TlbAt × TlbEnt} (hx : x ∈ s.xl.tlb) (other : s.sdCovers d x.2.ctx x.2.vpn x.2.pages = false) : x ∈ (s.sdEffect d).xl.tlb := by
  have stands : x ∈ s.xl.tlb.map fun x => if s.sdCovers d x.2.ctx x.2.vpn x.2.pages then (x.1, x.2.unmarked) else x :=
    List.mem_map.2 ⟨x, hx, by rw [other, if_neg Bool.false_ne_true]⟩
  rw [(sdEffect_xl d quiet).2]
  split
  · exact stands
  · exact List.mem_filter.2 ⟨stands, by rw [other]; rfl⟩

end

theorem exec_shootdownDone {s : State} {t : Fin 64} {d : Shoot} (first : s.xl.shoots.find? (fun d => d.tenant == t.val) = some d) (free : d.kind = 3 ∨ s.sdWaits d = false) (quiet : s.Quiet) :
    ∃ u, exec (.shootdownDone t) s = .next u ∧ (u.reg (offSd t.val + 8)).getLsbD 0 = false ∧ (∀ x ∈ u.xl.shoots, x.tenant ≠ t.val) ∧
      (∀ x ∈ u.xl.tlb, s.sdCovers d x.2.ctx x.2.vpn x.2.pages = true → d.kind = 3 ∧ x.2.a = false ∧ x.2.d = false) ∧
      ∀ x ∈ s.xl.tlb, s.sdCovers d x.2.ctx x.2.vpn x.2.pages = false → x ∈ u.xl.tlb := by
  have done : ¬ (d.kind ≠ 3 ∧ s.sdWaits d = true) := fun ⟨kind, waits⟩ => free.elim kind fun idle => by rw [idle] at waits; cases waits
  have runs : exec (.shootdownDone t) s = execShootdownDone t s := rfl
  have calm : ({ s with xl := { s.xl with shoots := s.xl.shoots.filter fun x => x.tenant != t.val } } : State).Quiet := ⟨quiet.hub, quiet.armed, quiet.deferred⟩
  rw [runs, execShootdownDone, first]
  refine ⟨_, if_neg done, ?_, ?_, fun x hx covered => sdEffect_covered d calm hx covered, fun x hx other => sdEffect_other d calm hx other⟩
  · rw [reg_setReg_self, getLsbD_setFld _ _ _ (by omega) (by omega)]
    rfl
  · intro x hx
    rw [setReg_xl, (sdEffect_xl d calm).1] at hx
    simpa using (List.mem_filter.1 hx).2

/-! ### A migration's page is copied -/

theorem copyPage_frame (s : State) (src dst n : Nat) : ∃ poison mended poisonBy,
    s.copyPage src dst n = { (s.setBytes dst (bytesFrom s.byte src n)).unitWrote dst n with poison := poison, mended := mended, poisonBy := poisonBy } := by
  unfold State.copyPage
  extract_lets bad t cleared
  refine List.foldlRecOn bad _ (motive := fun u : State => ∃ poison mended poisonBy, u = { t with poison := poison, mended := mended, poisonBy := poisonBy }) ⟨cleared.poison, t.mended, t.poisonBy, rfl⟩
    fun u hu l _ => ?_
  obtain ⟨_, _, _, rfl⟩ := hu
  exact ⟨_, _, _, rfl⟩

section
variable (s : State) (src dst n : Nat)

theorem byte_copyPage (x : Nat) : (s.copyPage src dst n).byte x = (s.setBytes dst (bytesFrom s.byte src n)).byte x := by
  obtain ⟨_, _, _, e⟩ := copyPage_frame s src dst n
  rw [e]
  exact (byte_congr rfl rfl x).trans (byte_unitWrote _ dst n x)

theorem length_bytesFrom (f : Nat → Byte) (a n : Nat) : (bytesFrom f a n).length = n := by rw [bytesFrom_eq, List.length_map, List.length_range]

theorem byte_copyPage_in {s : State} (wf : memWf s.mem = true) {j : Nat} (hj : j < n) : (s.copyPage src dst n).byte (dst + j) = s.byte (src + j) := by
  rw [byte_copyPage, byte_setBytes_in dst wf (by rw [length_bytesFrom]; exact hj)]
  simp only [bytesFrom_eq, List.getElem_map, List.getElem_range]

theorem byte_copyPage_out {x : Nat} (h : x < dst ∨ dst + n ≤ x) : (s.copyPage src dst n).byte x = s.byte x := by
  rw [byte_copyPage]
  exact byte_setBytes_out _ _ _ _ (by rw [length_bytesFrom]; exact h)

theorem reg_copyPage {o : Nat} (h : ¬ isWindowReg o) : (s.copyPage src dst n).reg o = s.reg o := by
  obtain ⟨_, _, _, e⟩ := copyPage_frame s src dst n
  rw [e]
  exact (reg_unitWrote h _ _ _).trans (reg_congr (setBytes_regs _ _ _) o)

theorem xl_copyPage : (s.copyPage src dst n).xl = s.xl := by
  obtain ⟨_, _, _, e⟩ := copyPage_frame s src dst n
  rw [e]
  exact (recordsOnly_unitWrote _ _ _).xl.trans (setBytes_xl _ _ _)

theorem memWf_copyPage {s : State} (wf : memWf s.mem = true) : memWf (s.copyPage src dst n).mem = true := by
  obtain ⟨_, _, _, e⟩ := copyPage_frame s src dst n
  rw [e]
  exact (congrArg (memWf · = true) (mem_unitWrote _ _ _)).mpr (memWf_setBytes s dst _ wf)

theorem quiet_copyPage {s : State} (quiet : s.Quiet) : (s.copyPage src dst n).Quiet := by
  obtain ⟨_, _, _, e⟩ := copyPage_frame s src dst n
  have written := (recordsOnly_unitWrote (s.setBytes dst (bytesFrom s.byte src n)) dst n).quiet
    ⟨(setBytes_hubFx _ _ _).trans quiet.hub, by rw [setBytes_armed]; exact quiet.armed, by rw [setBytes_flash]; exact quiet.deferred⟩
  rw [e]
  exact ⟨written.hub, written.armed, written.deferred⟩

end

/-- The entries of a leaf lie apart from one another. -/
theorem leafEntries_apart (pte : Nat) (l : Word) : (leafEntries pte l).Pairwise fun p q => p + 8 ≤ q ∨ q + 8 ≤ p := by
  unfold leafEntries
  split
  · rw [List.pairwise_map]
    exact List.pairwise_lt_range.imp fun h => by omega
  · exact List.pairwise_singleton _ _

theorem zip_apart {l : List Nat} (h : l.Pairwise fun p q => p + 8 ≤ q ∨ q + 8 ≤ p) {ws : List Word} (len : l.length ≤ ws.length) :
    (l.zip ws).Pairwise fun p q => p.1 + 8 ≤ q.1 ∨ q.1 + 8 ≤ p.1 := by
  rw [← List.map_fst_zip len, List.pairwise_map] at h
  exact h

/-- A migration's leaves written over those it read. -/
def State.leavesMoved (s : State) (m : Mig) (f : Nat × Nat) : State := (m.entries.zip m.leaf).foldl (fun t x => t.put64 x.1 (migLeaf m.size f x.2)) s

section
variable (s : State) (m : Mig) (f : Nat × Nat)

theorem recordsOnly_leavesMoved : RecordsOnly s (s.leavesMoved m f) :=
  recordsOnly_foldl (fun t (x : Nat × Word) => recordsOnly_put64 t x.1 (migLeaf m.size f x.2)) _ s

theorem rd64_leavesMoved {s : State} {m : Mig} (wf : memWf s.mem = true) (len : m.entries.length = m.leaf.length) {x : Nat × Word} (hx : x ∈ m.entries.zip m.leaf) :
    (s.leavesMoved m f).rd64 x.1 = migLeaf m.size f x.2 :=
  rd64_foldl_put64 (g := migLeaf m.size f) wf (zip_apart (leafEntries_apart _ _) (Nat.le_of_eq len)) hx

theorem byte_leavesMoved_out {m : Mig} {x : Nat} (h : ∀ e ∈ m.entries, x < e ∨ e + 8 ≤ x) : (s.leavesMoved m f).byte x = s.byte x :=
  byte_foldl_put64 s fun p hp => h p.1 (List.of_mem_zip hp).1

theorem reg_leavesMoved {o : Nat} (h : ¬ isWindowReg o) : (s.leavesMoved m f).reg o = s.reg o :=
  foldl_keeps _ (fun t : State => t.reg o) (fun t (_ : Nat × Word) => reg_put64 h t _ _) _ s

/-- The page as it stands in its new frame. -/
def State.pageMoved (s : State) (i : Nat) (m : Mig) (f : Nat × Nat) : State :=
  (s.setMigs (s.xl.migs.eraseIdx i)).copyPage (leafPpn (m.leaf.headD 0) / zPages m.size * zPages m.size * 4096) (f.2 * 4096) (zPages m.size * 4096)

/-- The compare-and-swap succeeds where the entries hold what was read as the page has been copied. -/
theorem exec_migrationCopyDone_swaps {s : State} {i : Nat} {m : Mig} {f : Nat × Nat} (hm : s.xl.migs[i]? = some m) (frame : m.frame = some f)
    (unchanged : m.entries.map (s.pageMoved i m f).rd64 = m.leaf) :
    exec (.migrationCopyDone i) s = .next ((((s.pageMoved i m f).leavesMoved m f).post m.tenant (wordOf [(56, 0x10), (54, m.size), (38, m.ctx), (32, m.tenant)]) (vpnVa m.vpn)
      (wordOf [(12, leafPpn (m.leaf.headD 0))]) 0).migEnd m) := by
  have runs : exec (.migrationCopyDone i) s = execMigrationCopyDone i s := rfl
  rw [runs, execMigrationCopyDone, hm]
  dsimp only
  rw [frame]
  exact if_pos unchanged

end

theorem byte_migEnd {s : State} (quiet : s.Quiet) (m : Mig) (x : Nat) : (s.migEnd m).byte x = s.byte x := by
  obtain ⟨_, _, e⟩ := migEnd_frame quiet m
  rw [e]
  exact byte_congr rfl rfl x

theorem exec_migrationCopyDone {s : State} {i : Nat} {m : Mig} {f : Nat × Nat} {dst n : Nat} (hdst : dst = f.2 * 4096) (hn : n = zPages m.size * 4096) {ring : Nat → Prop}
    (hring : ∀ a, ring a ↔ fld (s.reg (offFq m.tenant)) 55 12 * 4096 ≤ a ∧ a < fld (s.reg (offFq m.tenant)) 55 12 * 4096 + 32 * 2 ^ fld (s.reg (offFq m.tenant)) 4 0)
    (wf : memWf s.mem = true) (hm : s.xl.migs[i]? = some m) (frame : m.frame = some f) (read : m.entries.map s.rd64 = m.leaf) (quiet : s.Quiet)
    (apart : ∀ e ∈ m.entries, e + 8 ≤ dst ∨ dst + n ≤ e) (entriesOut : ∀ e ∈ m.entries, ∀ j < 8, ¬ ring (e + j)) (pageOut : ∀ j < n, ¬ ring (dst + j)) :
    ∃ t, exec (.migrationCopyDone i) s = .next t ∧ (∀ j < n, t.byte (dst + j) = s.byte (leafPpn (m.leaf.headD 0) / zPages m.size * n + j)) ∧
      (∀ x ∈ m.entries.zip m.leaf, t.rd64 x.1 = migLeaf m.size f x.2) ∧ t.xl.migs = s.xl.migs.eraseIdx i ∧ ∀ k ∈ m.waiters, ∀ b, t.bundle? k = some b → b.parked ≠ some 192 := by
  subst hdst hn
  have wfc : memWf (s.pageMoved i m f).mem = true := memWf_copyPage (s := s.setMigs _) _ _ _ wf
  have calm : (s.pageMoved i m f).Quiet := quiet_copyPage (s := s.setMigs _) _ _ _ ⟨quiet.hub, quiet.armed, quiet.deferred⟩
  have len : m.entries.length = m.leaf.length := by rw [← read, List.length_map]
  have unchanged : m.entries.map (s.pageMoved i m f).rd64 = m.leaf := by
    rw [← read]
    exact List.map_congr_left fun e he => rd64_congr fun j hj => byte_copyPage_out (s.setMigs _) _ _ _ (by have := apart e he; omega)
  have queue : ((s.pageMoved i m f).leavesMoved m f).reg (offFq m.tenant) = s.reg (offFq m.tenant) :=
    (reg_leavesMoved _ m f (not_isWindowReg_offFq _)).trans (reg_copyPage (s.setMigs _) _ _ _ (not_isWindowReg_offFq _))
  have leaves := recordsOnly_leavesMoved (s.pageMoved i m f) m f
  have posted := leaves.trans (recordsOnly_post _ m.tenant (wordOf [(56, 0x10), (54, m.size), (38, m.ctx), (32, m.tenant)]) (vpnVa m.vpn) (wordOf [(12, leafPpn (m.leaf.headD 0))]) 0)
  have outRing {x : Nat} (h : ¬ ring x) (w0 w1 w2 : Word) : (((s.pageMoved i m f).leavesMoved m f).post m.tenant w0 w1 w2 0).byte x = ((s.pageMoved i m f).leavesMoved m f).byte x :=
    byte_post_out _ _ _ _ _ _ (by rw [queue, ← hring]; exact h)
  refine ⟨_, exec_migrationCopyDone_swaps hm frame unchanged, fun j hj => ?_, fun x hx => ?_, ?_, fun k hk b hb => ?_⟩
  · have beside (e : Nat) (he : e ∈ m.entries) : f.2 * 4096 + j < e ∨ e + 8 ≤ f.2 * 4096 + j := by
      have := apart e he
      omega
    rw [byte_migEnd (posted.quiet calm), outRing (pageOut j hj), byte_leavesMoved_out _ f beside, ← Nat.mul_assoc]
    exact byte_copyPage_in (s := s.setMigs (s.xl.migs.eraseIdx i)) _ _ _ wf hj
  · rw [← rd64_leavesMoved f wfc len hx]
    exact rd64_congr fun j hj => (byte_migEnd (posted.quiet calm) m _).trans (outRing (entriesOut x.1 (List.of_mem_zip hx).1 j hj) _ _ _)
  · obtain ⟨_, _, e⟩ := migEnd_frame (posted.quiet calm) m
    rw [e]
    exact congrArg Xl.migs (posted.xl.trans (xl_copyPage (s.setMigs _) _ _ _))
  · rw [migEnd_of_quiet (posted.quiet calm)] at hb
    exact unpark_unparks _ hk hb

end Sys2Proof.Machine

/-! SUPPORT. A walk ends: what the page-walk cache makes of it, and the leaf, the migration or the fault for its waiter (R69, R73, R74, R77). -/

namespace Sys2Proof.Machine

/-! ### The page-walk cache -/

theorem pwFill_frame (s : State) (grove ctx : Nat) (va : Word) : ∃ pwc, s.pwFill grove ctx va = { s with xl := { s.xl with pwc := pwc } } := by
  unfold State.pwFill
  split
  · exact ⟨s.xl.pwc, rfl⟩
  · exact ⟨_, rfl⟩

theorem vpnOf_eq (va : Word) : vpnOf va = fld va 56 0 / 4096 := by
  simp only [vpnOf, fld, natBits, Nat.shiftRight_eq_div_pow]
  omega

section
variable {s : State} {a a' : Nat}

/-- The page number decides which entry of a table a walk reads. -/
theorem pteAt_congr (page : a' / 4096 = a / 4096) (two : Bool) (table lvl : Nat) : pteAt two table lvl a' = pteAt two table lvl a := by
  have split (x : Nat) : x / 2 ^ (12 + 9 * lvl) = x / 4096 / 2 ^ (9 * lvl) := by rw [show (4096 : Nat) = 2 ^ 12 from rfl, Nat.div_div_eq_div_mul, ← pow_add]
  rw [pteAt, pteAt, split, split, page]

theorem walkPath_levels {look : Look} {place : Place} {two : Bool} {lvl table : Nat} {x : Nat × Nat × Nat × Word} (h : x ∈ s.walkPath look place two a lvl table) : x.1 ≤ lvl := by
  induction lvl generalizing table with
  | zero =>
    rw [State.walkPath] at h
    split at h
    · cases h
    · rw [List.mem_singleton.1 h]
  | succ lvl ih =>
    rw [State.walkPath] at h
    split at h
    · cases h
    · obtain rfl | later := List.mem_cons.1 h
      · exact Nat.le_refl _
      · dsimp only at later
        split at later
        · exact Nat.le_succ_of_le (ih later)
        · cases later

theorem walkPath_succ (lvl table : Nat) : let p := pteAt false table (lvl + 1) a
    s.walkPath noLook .ok false a (lvl + 1) table = (lvl + 1, p, p, s.rd64 p) ::
      (if (inHbm p || inLp p) && leafV (s.rd64 p) && !isLeaf (s.rd64 p) && fld (s.rd64 p) 63 54 == 0 then s.walkPath noLook .ok false a lvl (leafPpn (s.rd64 p)) else []) := by
  rw [State.walkPath]
  rfl

/-- A walk whose page-walk cache holds, at each level, only what the walk would read in memory there, is the walk of memory. -/
theorem walkFrom_look {look : Look} (page : a' / 4096 = a / 4096) {lvl table : Nat}
    (cached : ∀ n w, n ≤ lvl → look false n (a' / 4096) = some w → ∃ q pte, (n, q, pte, w) ∈ s.walkPath noLook .ok false a lvl table) :
    s.walkFrom look .ok false a' lvl table = s.walkFrom noLook .ok false a' lvl table := by
  induction lvl generalizing table with
  | zero => rw [State.walkFrom, State.walkFrom]
  | succ lvl ih =>
    have entry : s.entryAt look false (lvl + 1) a' (pteAt false table (lvl + 1) a') = s.rd64 (pteAt false table (lvl + 1) a') := by
      unfold State.entryAt
      cases held : look false (lvl + 1) (a' / 4096) with
      | none => rfl
      | some w =>
        obtain ⟨q, pte, there⟩ := cached _ w (Nat.le_refl _) held
        rw [walkPath_succ] at there
        obtain here | later := List.mem_cons.1 there
        · obtain ⟨-, -, word⟩ : _ ∧ _ ∧ w = s.rd64 (pteAt false table (lvl + 1) a) := by simpa using here
          rw [pteAt_congr page, word]
          rfl
        · split at later
          · exact absurd (walkPath_levels later) (by simp)
          · cases later
    rw [State.walkFrom, State.walkFrom]
    dsimp only
    rw [entry, show s.entryAt noLook false (lvl + 1) a' (pteAt false table (lvl + 1) a') = s.rd64 (pteAt false table (lvl + 1) a') from rfl]
    split
    · rfl
    · next placed =>
      split
      · rfl
      · next valid =>
        split
        · rfl
        · next pointer =>
          split
          · rfl
          · next below =>
            refine ih fun n w hn held => ?_
            obtain ⟨q, pte, there⟩ := cached n w (Nat.le_succ_of_le hn) held
            rw [walkPath_succ] at there
            obtain here | later := List.mem_cons.1 there
            · exact absurd (congrArg Prod.fst here) (by simp; omega)
            · rw [← pteAt_congr page] at later
              rw [if_pos (by simp_all)] at later
              exact ⟨q, pte, later⟩

end

section
variable {s : State} {grove ctx : Nat}

theorem look_of_empty (empty : s.xl.pwc = []) : s.look grove ctx = noLook := by
  funext two lvl page
  rw [State.look, empty]
  rfl

/-- What an empty page-walk cache holds after a walk of one stage: entries that the walk read. -/
theorem look_pwFill (empty : s.xl.pwc = []) {c : Ctx} (bound : s.ctx? ctx = some c) (one : s.guestRoot c = none) {va : Word} {n page : Nat} {w : Word}
    (held : (s.pwFill grove ctx va).look grove ctx false n page = some w) : ∃ q pte, (n, q, pte, w) ∈ s.walkPath noLook .ok false (fld va 56 0) 4 c.root := by
  obtain ⟨e, there, rfl⟩ := Option.map_eq_some_iff.1 held
  have fits := List.find?_some there
  have mem := List.mem_of_find?_eq_some there
  simp only [Bool.and_eq_true, beq_iff_eq] at fits
  obtain ⟨⟨⟨⟨-, -⟩, -⟩, rfl⟩, -⟩ := fits
  rw [State.pwFill, bound] at mem
  simp only [empty, State.paths, one, List.filter_nil, List.append_nil, List.flatMap_nil, look_of_empty empty] at mem
  have new := List.mem_eraseDups.1 (List.mem_of_mem_take mem)
  obtain ⟨x, hx, rfl⟩ := List.mem_map.1 new
  obtain ⟨⟨lvl, q, pte, l⟩, hy, rfl⟩ := List.mem_map.1 hx
  exact ⟨q, pte, (List.mem_filter.1 hy).1⟩

/-- A walk for a page right after another for it, through a page-walk cache that was empty, answers what memory says. -/
theorem gwalk_pwFill (empty : s.xl.pwc = []) (one : ∀ c, s.ctx? ctx = some c → s.guestRoot c = none) {va va' : Word} (page : vpnOf va' = vpnOf va) (sup : Bool) (acc : Acc) :
    (s.pwFill grove ctx va).gwalk grove ctx sup acc va' = s.walk ctx sup acc va' := by
  rw [vpnOf_eq, vpnOf_eq] at page
  have cached := fun c (bound : s.ctx? ctx = some c) n w (_ : n ≤ 4) h => look_pwFill (grove := grove) (va := va) (n := n) (page := fld va' 56 0 / 4096) (w := w) empty bound (one c bound) h
  obtain ⟨pwc, e⟩ := pwFill_frame s grove ctx va
  rw [e] at cached ⊢
  rw [State.gwalk, State.walk, State.walkBy, State.walkBy]
  generalize State.look _ grove ctx = look at cached ⊢
  have same : ({ s with xl := { s.xl with pwc := pwc } } : State).ctx? ctx = s.ctx? ctx := rfl
  rw [same]
  cases bound : s.ctx? ctx with
  | none => rfl
  | some c =>
    have found : ({ s with xl := { s.xl with pwc := pwc } } : State).found look c sup acc va' = s.found noLook c sup acc va' := by
      have root : ({ s with xl := { s.xl with pwc := pwc } } : State).guestRoot c = none := one c bound
      have walks := (walkFrom_congr (s := s) (t := { s with xl := { s.xl with pwc := pwc } }) (fun _ => rfl) look .ok false (fld va' 56 0) 4 c.root).trans (walkFrom_look page (cached c bound))
      rw [State.found, State.found, root, one c bound]
      dsimp only
      rw [walks]
    dsimp only
    rw [found]
    rfl

/-- A walk of one stage does not look at the misses. -/
theorem walk_setMisses (one : ∀ c, s.ctx? ctx = some c → s.guestRoot c = none) (l : List Miss) (sup : Bool) (acc : Acc) (va : Word) :
    (s.setMisses l).walk ctx sup acc va = s.walk ctx sup acc va := by
  have same : (s.setMisses l).ctx? ctx = s.ctx? ctx := rfl
  rw [State.walk, State.walk, State.walkBy, State.walkBy, same]
  cases bound : s.ctx? ctx with
  | none => rfl
  | some c =>
    have found : (s.setMisses l).found noLook c sup acc va = s.found noLook c sup acc va := by
      have root : (s.setMisses l).guestRoot c = none := one c bound
      rw [State.found, State.found, root, one c bound]
      dsimp only
      rw [walkFrom_congr (s := s) (t := s.setMisses l) fun _ => rfl]
    dsimp only
    rw [found]
    rfl

end

end Sys2Proof.Machine

/-! SUPPORT. What a walk's end does for its waiter, and the proof of O51. -/

namespace Sys2Proof.Machine

/-! ### A leaf is installed (R73, R77) -/

theorem harvest_of_unmarked (s : State) {e : TlbEnt} (a : e.a = false) (d : e.d = false) : s.harvest e = s := by
  rw [State.harvest, a, d]
  rfl

theorem mem_tlbRivals {s : State} {p : TlbAt} {vpn : Nat} {x : TlbAt × TlbEnt} (h : x ∈ s.tlbRivals p vpn) : x ∈ s.xl.tlb ∧ x.1 = p := by
  have mine (hx : x ∈ s.xl.tlb.filter fun x => x.1 == p) : x ∈ s.xl.tlb ∧ x.1 = p := by simpa using List.mem_filter.1 hx
  unfold State.tlbRivals at h
  dsimp only at h
  split at h
  · split at h
    · exact mine h
    · exact mine (List.mem_filter.1 h).1
  · exact mine h

/-- A translation put where none with gathered marks stands: nothing is harvested, and the other places keep theirs. -/
theorem tlbPut_clean {s : State} {e : TlbEnt} {p : TlbAt} (clean : ∀ x ∈ s.xl.tlb, x.1 = p → x.2.a = false ∧ x.2.d = false) :
    ∃ tlb free, s.tlbPut e p = { s with xl := { s.xl with tlb := tlb }, free := free } ∧ (p, e) ∈ tlb ∧ ∀ x, x.1 ≠ p → (x ∈ tlb ↔ x ∈ s.xl.tlb) := by
  unfold State.tlbPut
  extract_lets same rivals out t _ _
  have here (x : TlbAt × TlbEnt) (hx : x ∈ out) : x ∈ s.xl.tlb ∧ x.1 = p := by
    obtain h | h := List.mem_append.1 hx
    · obtain ⟨there, serves⟩ := List.mem_filter.1 h
      simp only [same, Bool.and_eq_true, beq_iff_eq] at serves
      exact ⟨there, serves.1⟩
    · split at h
      · cases h
      · exact mem_tlbRivals (List.mem_filter.1 (List.mem_of_getElem? (Option.mem_toList.1 h))).1
  have stands : t = s := List.foldlRecOn out _ (motive := fun u : State => u = s) rfl fun u hu x hx => by
    obtain ⟨there, place⟩ := here x hx
    obtain ⟨a, d⟩ := clean x there place
    rw [harvest_of_unmarked u a d, hu]
  clear_value t
  subst stands
  refine ⟨_, _, rfl, List.mem_cons_self, fun x hx => ?_⟩
  have stays : x ∉ out := fun gone => hx (here x gone).2
  simp [List.mem_cons, List.mem_filter, stays, show x ≠ (p, e) from fun eq => hx (congrArg Prod.fst eq)]

/-- The entry that a leaf of one stage makes, its access gathered in A. -/
def leafEnt (ctx : Nat) (va : Word) (pte : Nat) (l : Word) (lvl : Nat) : TlbEnt :=
  ⟨ctx, vpnOf va / leafPages lvl l * leafPages lvl l, leafPages lvl l, l ||| 0x40, pte, true, false, []⟩

theorem install_clean {s : State} {p q : TlbAt} (two : q ≠ p) (clean : ∀ x ∈ s.xl.tlb, x.2.a = false ∧ x.2.d = false) {ctx pte lvl : Nat} {va l : Word} (one : s.alsoLeaves ctx va pte = []) :
    ∃ tlb free, s.install [p, q] ctx va pte l lvl false = { s with xl := { s.xl with tlb := tlb }, free := free } ∧ (p, leafEnt ctx va pte l lvl) ∈ tlb ∧ (q, leafEnt ctx va pte l lvl) ∈ tlb := by
  obtain ⟨tlb, free, first, there, others⟩ := tlbPut_clean (e := leafEnt ctx va pte l lvl) fun x hx (_ : x.1 = p) => clean x hx
  have put : s.install [p, q] ctx va pte l lvl false = (s.tlbPut (leafEnt ctx va pte l lvl) p).tlbPut (leafEnt ctx va pte l lvl) q := by
    rw [State.install, one]
    rfl
  obtain ⟨tlb', free', second, there', others'⟩ := tlbPut_clean (s := { s with xl := { s.xl with tlb := tlb }, free := free }) (e := leafEnt ctx va pte l lvl) (p := q)
    fun x hx place => clean x ((others x (place ▸ two)).1 hx)
  exact ⟨tlb', free', by rw [put, first, second], (others' _ two.symm).2 there, there'⟩

/-! ### A migration is wanted (R80, R82 to R84) -/

/-- t is s but for memory, registers, the hub, the frames kept and the migrations: what an allocation of a frame for a migration changes. -/
def FramesOnly (s t : State) : Prop := ∃ mem unknown regs hub kept migs, t = { s with mem := mem, memOpen := unknown, regs := regs, hub := hub, xl := { s.xl with kept := kept, migs := migs } }

theorem RecordsOnly.frames {s t : State} (h : RecordsOnly s t) : FramesOnly s t := by
  obtain ⟨mem, unknown, regs, hub, rfl⟩ := h
  exact ⟨mem, unknown, regs, hub, s.xl.kept, s.xl.migs, rfl⟩

theorem FramesOnly.trans {s t u : State} : FramesOnly s t → FramesOnly t u → FramesOnly s u := by
  rintro ⟨_, _, _, _, _, _, rfl⟩ ⟨_, _, _, _, _, _, rfl⟩
  exact ⟨_, _, _, _, _, _, rfl⟩

theorem recordsOnly_poolLow (s : State) (n : Nat) : RecordsOnly s (s.poolLow n) := by
  unfold State.poolLow
  dsimp only
  split
  · exact recordsOnly_post _ _ _ _ _ _
  · exact recordsOnly_refl s

theorem recordsOnly_takeDesc (s : State) (n fuel : Nat) : RecordsOnly s (s.takeDesc n fuel).1 := by
  induction fuel generalizing s with
  | zero => exact recordsOnly_refl s
  | succ fuel ih =>
    rw [State.takeDesc]
    split
    · exact recordsOnly_refl s
    · dsimp only
      have low (w : Word) := (recordsOnly_setReg s (offPool n + 8) w).trans (recordsOnly_poolLow _ n)
      split
      · exact ((low _).trans (recordsOnly_setReg _ _ _)).trans (ih _)
      · exact low _

theorem framesOnly_takeFrame (s : State) (t z : Nat) : FramesOnly s (s.takeFrame t z).1 := by
  unfold State.takeFrame
  split
  · exact ⟨s.mem, s.memOpen, s.regs, s.hub, _, s.xl.migs, rfl⟩
  · exact (recordsOnly_takeDesc _ _ _).frames

theorem framesOnly_migFrame (s : State) (m : Mig) : FramesOnly s (s.migFrame m).1 := by
  have taken := framesOnly_takeFrame s m.tenant m.size
  unfold State.migFrame
  split
  · exact (recordsOnly_post _ _ _ _ _ _).frames
  · split
    · next h => rwa [h] at taken
    · next h =>
      rw [h] at taken
      exact taken.trans (recordsOnly_post _ _ _ _ _ _).frames

theorem framesOnly_setMigs (s : State) (l : List Mig) : FramesOnly s (s.setMigs l) := ⟨s.mem, s.memOpen, s.regs, s.hub, s.xl.kept, l, rfl⟩

theorem framesOnly_wantMig (s : State) (tenant ctx : Nat) (va : Word) (pte : Nat) (l : Word) (lvl tag : Nat) (w : Option BKey) : FramesOnly s (s.wantMig tenant ctx va pte l lvl tag w) := by
  unfold State.wantMig
  dsimp only
  split
  · exact framesOnly_setMigs s _
  · exact (framesOnly_migFrame s _).trans (framesOnly_setMigs _ _)

/-! ### A walk ends -/

theorem misses_newEntries (s : State) (tlb : List (TlbAt × TlbEnt)) (free : Nat) : ({ s with xl := { s.xl with tlb := tlb }, free := free } : State).xl.misses = s.xl.misses := rfl

theorem byte_newEntries (s : State) (tlb : List (TlbAt × TlbEnt)) (free a : Nat) : ({ s with xl := { s.xl with tlb := tlb }, free := free } : State).byte a = s.byte a := byte_congr rfl rfl a

theorem alsoLeaves_of_one {s : State} {ctx : Nat} (one : ∀ c, s.ctx? ctx = some c → s.guestRoot c = none) (va : Word) (pte : Nat) : s.alsoLeaves ctx va pte = [] := by
  unfold State.alsoLeaves
  split
  · rfl
  · next c bound => rw [one c bound]

theorem settled {t : State} (hub : t.hubFx = []) (armed : ∀ a ∈ t.armed, a.waits = false) : t.hubRetry.fireWaiting = t := by
  rw [hubRetry_of_none hub, fireWaiting_of_none armed]

section
variable {s u : State} {i : Nat} {m : Miss} {w : Waiter} {k : BKey} (hm : s.xl.misses[i]? = some m) (walking : m.walking = true) (fresh : m.stale = false)
  (free : s.walkHeld m.ctx (vpnVa m.vpn) = false) (alone : m.waiters = [w]) (who : w.who = some k) (hub : s.hubFx = []) (armed : ∀ a ∈ s.armed, a.waits = false)
  (hu : u = (s.setMisses (s.xl.misses.eraseIdx i)).pwFill m.grove m.ctx (vpnVa m.vpn))

include hm walking fresh free alone hu

theorem exec_walkComplete : exec (.walkComplete i) s = .next (u.walkFor m w).hubRetry.fireWaiting := by
  have runs : exec (.walkComplete i) s = execWalkComplete i s := rfl
  rw [runs, execWalkComplete, hm]
  simp only [walking, free, fresh, alone, hu, Bool.not_true, Bool.or_self, Bool.false_eq_true, if_false, List.foldl_cons, List.foldl_nil]

include hub armed

/-- The walk found the leaf: A is set in it, and the core's TLB and its grove's serve it. -/
theorem exec_walkComplete_ok (who : w.who = some k) (wf : memWf s.mem = true) (one : ∀ x, s.ctx? m.ctx = some x → s.guestRoot x = none) (clean : ∀ x ∈ s.xl.tlb, x.2.a = false ∧ x.2.d = false)
    {pte lvl pa : Nat} {l : Word} (found : u.gwalk m.grove m.ctx w.sup w.acc w.va = .ok pte l lvl pa) :
    ∃ t, exec (.walkComplete i) s = .next t ∧ t.xl.misses = s.xl.misses.eraseIdx i ∧ t.rd64 pte = s.rd64 pte ||| 0x40 ∧ (∀ a, a < pte ∨ pte + 8 ≤ a → t.byte a = s.byte a) ∧
      (.grove m.grove, leafEnt m.ctx w.va pte l lvl) ∈ t.xl.tlb ∧ (if w.acc = .fetch then TlbAt.inst (s.coreOfB k) else .core (s.coreOfB k), leafEnt m.ctx w.va pte l lvl) ∈ t.xl.tlb := by
  have runs := exec_walkComplete hm walking fresh free alone hu
  obtain ⟨pwc, filled⟩ := pwFill_frame (s.setMisses (s.xl.misses.eraseIdx i)) m.grove m.ctx (vpnVa m.vpn)
  rw [← hu] at filled
  have core : u.coreOfB k = s.coreOfB k := by rw [filled]; rfl
  have own : w.who.toList.map (fun k => if w.acc = .fetch then TlbAt.inst (u.coreOfB k) else .core (u.coreOfB k)) = [if w.acc = .fetch then .inst (s.coreOfB k) else .core (s.coreOfB k)] := by
    rw [who, Option.toList_some, List.map_singleton, core]
  have does : u.walkFor m w = (u.setA pte).install [if w.acc = .fetch then .inst (s.coreOfB k) else .core (s.coreOfB k), .grove m.grove] m.ctx w.va pte l lvl false := by
    unfold State.walkFor
    rw [found]
    dsimp only
    rw [own, List.singleton_append]
  have set : RecordsOnly u (u.setA pte) := recordsOnly_put64 u pte _
  have single : (u.setA pte).alsoLeaves m.ctx w.va pte = [] := alsoLeaves_of_one (fun c bound => by
    rw [State.ctx?, set.xl, filled] at bound
    rw [State.guestRoot, set.xl, filled]
    exact one c bound) _ _
  have place : TlbAt.grove m.grove ≠ if w.acc = .fetch then .inst (s.coreOfB k) else .core (s.coreOfB k) := by split <;> simp
  obtain ⟨tlb, ticks, installed, there, grove⟩ := install_clean (s := u.setA pte) place (by rw [set.xl, filled]; exact clean) (va := w.va) (l := l) (lvl := lvl) single
  have quietly : (u.walkFor m w).hubRetry.fireWaiting = u.walkFor m w := by
    rw [does, installed]
    obtain ⟨_, _, _, _, e⟩ := set
    exact settled (by rw [e, filled]; exact hub) (by rw [e, filled]; exact armed)
  have byte (a : Nat) : (u.walkFor m w).byte a = (u.setA pte).byte a := by
    rw [does, installed]
    exact byte_newEntries _ tlb ticks a
  have before (a : Nat) : u.byte a = s.byte a := by
    rw [filled]
    exact byte_congr rfl rfl a
  refine ⟨_, runs.trans (congrArg _ quietly), ?_, ?_, fun a out => ?_, ?_, ?_⟩
  · rw [does, installed, misses_newEntries, set.xl, filled]
    rfl
  · rw [rd64_congr fun j _ => byte (pte + j), ← rd64_congr fun j _ => before (pte + j)]
    exact rd64_put64_self (by rw [filled]; exact wf) _ _
  · rw [byte, ← before]
    exact byte_put64_out u _ out
  · rw [does, installed]
    exact grove
  · rw [does, installed]
    exact there

/-- The walk found a tier-3 leaf: the waiter is parked on the page's migration. -/
theorem exec_walkComplete_tier3 (who : w.who = some k) {b : Bundle} (hb : s.bundle? k = some b) {pte lvl : Nat} {l : Word} (found : u.gwalk m.grove m.ctx w.sup w.acc w.va = .tier3 pte l lvl) :
    ∃ t, exec (.walkComplete i) s = .next t ∧ t.xl.misses = s.xl.misses.eraseIdx i ∧ (∃ b', t.bundle? k = some b' ∧ b'.parked = some 192) ∧
      ∃ g ∈ t.xl.migs, g.ctx = m.ctx ∧ g.vpn = vpnOf w.va / leafPages lvl l * leafPages lvl l := by
  have runs := exec_walkComplete hm walking fresh free alone hu
  obtain ⟨pwc, filled⟩ := pwFill_frame (s.setMisses (s.xl.misses.eraseIdx i)) m.grove m.ctx (vpnVa m.vpn)
  rw [← hu] at filled
  have does : u.walkFor m w = (u.wantMig m.tenant m.ctx w.va pte l lvl (u.tagOf k) (some k)).park k parkMig := by
    unfold State.walkFor
    rw [found, who]
  obtain ⟨g, inProgress, page⟩ := wantMig_starts u m.tenant m.ctx w.va pte l lvl (u.tagOf k) (some k)
  obtain ⟨_, _, _, _, _, _, wanted⟩ := framesOnly_wantMig u m.tenant m.ctx w.va pte l lvl (u.tagOf k) (some k)
  have there : (u.wantMig m.tenant m.ctx w.va pte l lvl (u.tagOf k) (some k)).bundle? k = some b := by
    rw [wanted, filled]
    exact hb
  have quietly : (u.walkFor m w).hubRetry.fireWaiting = u.walkFor m w := by
    rw [does, State.park]
    refine settled ?_ ?_
    · rw [onBundle_hubFx, wanted, filled]
      exact hub
    · rw [onBundle_armed, wanted, filled]
      exact armed
  refine ⟨_, runs.trans (congrArg _ quietly), ?_, ⟨_, by rw [does]; exact bundle?_onBundle_self there rfl, rfl⟩, g, ?_, page⟩
  · rw [does, State.park, onBundle_xl, wanted, filled]
    rfl
  · rw [does, State.park, onBundle_xl]
    exact inProgress

/-- The walk met a fault, or was deferred: it is noted with the waiter. -/
theorem exec_walkComplete_notes {b : Bundle} (hb : s.bundle? k = some b) {n : Note} (does : u.walkFor m w = u.note k n) :
    ∃ t, exec (.walkComplete i) s = .next t ∧ t.xl.misses = s.xl.misses.eraseIdx i ∧ t.bundle? k = some { b with notes := b.notes ++ [n] } ∧ t.xl.tlb = s.xl.tlb := by
  have runs := exec_walkComplete hm walking fresh free alone hu
  obtain ⟨pwc, filled⟩ := pwFill_frame (s.setMisses (s.xl.misses.eraseIdx i)) m.grove m.ctx (vpnVa m.vpn)
  rw [← hu] at filled
  have there : u.bundle? k = some b := by
    rw [filled]
    exact hb
  have quietly : (u.walkFor m w).hubRetry.fireWaiting = u.walkFor m w := by
    rw [does, State.note]
    refine settled ?_ ?_
    · rw [onBundle_hubFx, filled]
      exact hub
    · rw [onBundle_armed, filled]
      exact armed
  refine ⟨_, runs.trans (congrArg _ quietly), ?_, by rw [does]; exact bundle?_onBundle_self there rfl, ?_⟩
  · rw [does, State.note, onBundle_xl, filled]
    rfl
  · rw [does, State.note, onBundle_xl, filled]
    rfl

end

/-- Settles O51: each of translation's own steps, as its own lemma says. -/
theorem translationMovesOn : Obligations.TranslationMovesOn := by
  unfold Obligations.TranslationMovesOn
  refine ⟨?starts, ?ends, ?moves, ?asked, ?done, fun s g wf aligned => exec_harvestTimer wf aligned, ?pools⟩
  case starts =>
    intro s i m o mine hm idle first
    exact ⟨fun quota room => exec_walkStart_starts hm idle first quota room, fun full new => exec_walkStart_counts hm idle full new⟩
  case ends =>
    intro s i m k w b u walk wf hm walking fresh free one alone who hb hub armed clean
    refine ⟨fun empty page => (gwalk_pwFill (s := s.setMisses (s.xl.misses.eraseIdx i)) empty one page w.sup w.acc).trans (walk_setMisses one _ _ _ _), ?_⟩
    have found : u.gwalk m.grove m.ctx w.sup w.acc w.va = walk := rfl
    clear_value walk
    cases walk with
    | ok pte l lvl pa =>
      obtain ⟨t, runs, misses, set, bytes, grove, core⟩ := exec_walkComplete_ok hm walking fresh free alone hub armed rfl who wf one clean found
      refine ⟨t, runs, misses, ?_, nofun, nofun⟩
      rintro _ _ _ _ ⟨⟩
      exact ⟨set, bytes, grove, core⟩
    | tier3 pte l lvl =>
      obtain ⟨t, runs, misses, parked, inProgress⟩ := exec_walkComplete_tier3 hm walking fresh free alone hub armed rfl who hb found
      refine ⟨t, runs, misses, nofun, ?_, nofun⟩
      rintro _ _ _ ⟨⟩
      exact ⟨parked, inProgress⟩
    | defer pa =>
      obtain ⟨t, runs, misses, -, -⟩ := exec_walkComplete_notes (n := ⟨m.vpn, w.acc, .defer pa⟩) hm walking fresh free alone hub armed rfl hb (by rw [State.walkFor, found, who])
      exact ⟨t, runs, misses, nofun, nofun, nofun⟩
    | fault q =>
      obtain ⟨t, runs, misses, noted, entries⟩ := exec_walkComplete_notes (n := ⟨m.vpn, w.acc, .fault q⟩) hm walking fresh free alone hub armed rfl hb (by rw [State.walkFor, found, who])
      refine ⟨t, runs, misses, nofun, nofun, ?_⟩
      rintro _ ⟨⟩
      exact ⟨noted, entries⟩
  case moves =>
    intro s i m f n src dst q ring wf hm frame read hub armed deferred apart entriesOut pageOut
    exact exec_migrationCopyDone rfl rfl (ring := ring) (fun _ => Iff.rfl) wf hm frame read ⟨hub, armed, deferred⟩ apart entriesOut pageOut
  case asked =>
    intro p hp s t v o ctx kind go idle
    simp only [List.mem_cons, List.not_mem_nil, or_false] at hp
    obtain rfl | rfl | rfl | rfl := hp <;> exact exec_runShootdown kind go idle
  case done =>
    intro s t d first free deferred hub armed
    have place : 0x1000008 + 0x10000 * t.val = offSd t.val + 8 := by
      unfold offSd
      omega
    rw [place]
    exact exec_shootdownDone first free ⟨hub, armed, deferred⟩
  case pools =>
    intro s n v o idle
    have place : o = offPool n + 8 := by
      unfold o offPool
      omega
    rw [place]
    exact exec_poolTailWrite idle

end Sys2Proof.Machine


/-! SUPPORT. Proof of O58: a copy whose source page is being walked for another waits for that walk, and no stall is recorded (R74, R85). -/

namespace Sys2Proof.Machine

/-- The crew of the loader's grid. -/
def copyCrew : CKey := ⟨0, 0⟩

/-- A copy of one byte into the window from 0x2000, where the loader's context maps nothing. -/
def copyOfUnmapped : CopyCmd where
  owner := ⟨0, 0, 0⟩
  pid := 0
  time := 0
  kind := .bytes .ls .mem 0 0x2000
  len := 1
  done := 0
  bad := false
  stall := none
  hurt := []

/-- The walk of the copy's source page, in progress on its grove for a load of a bundle. -/
def walkOfSource : Miss where
  grove := 0
  ctx := 0
  vpn := 2
  tenant := 0
  waiters := [⟨some ⟨0, 0, 0⟩, false, .load, 0x2000⟩]
  walking := true
  stale := false
  waited := false

/-- The copy stands at the head of the crew's first queue while a bundle's load waits for the walk of the page that the copy reads. -/
def copyDuringWalk : State :=
  let s := State.reset.withLoader 0 none
  { s with crews := s.crews.map fun c => { c with copies := c.copies.set 0 [copyOfUnmapped] }, xl := { s.xl with misses := [walkOfSource] } }

/-- The queues of the crew after a step. -/
def copiesAfter (r : Res) : Option (List (List CopyCmd)) :=
  match r with
  | .next t => (t.crew? copyCrew).map fun c => c.copies
  | _ => none

/-- By the tables alone, the source is a page fault. -/
theorem copyDuringWalk_faults : copyDuringWalk.walk 0 false .load 0x2000 = .fault 0x10 := by decide +kernel

/-- The copy's translation joins the walk in progress (R74): the engine's access waits for it, and the command stands as it did. -/
theorem copyDuringWalk_waits : copiesAfter (exec (.copyFaultStall copyCrew 0) copyDuringWalk) = some [[copyOfUnmapped], [], [], []] := by decide +kernel

/-- Refutes O58: the stall of a copy is said of every page that the tables do not map, but the engine's translation is not the tables' alone. Where a walk of the page is in progress on the grove,
the copy joins it and records no stall. -/
theorem not_enginesRunTheirQueues : ¬ Obligations.EnginesRunTheirQueues := by
  rintro ⟨-, stalls, -⟩
  obtain ⟨c, hc, queue⟩ := Option.map_eq_some_iff.1 (show (copyDuringWalk.crew? copyCrew).map (fun c => c.copies) = some [[copyOfUnmapped], [], [], []] by decide +kernel)
  obtain ⟨g, hg, ctx⟩ := Option.map_eq_some_iff.1 (show (copyDuringWalk.grid? copyCrew.grid).map (fun g => g.ctx) = some 0 by decide +kernel)
  obtain ⟨t, c', runs, after, copies, -, -⟩ := stalls copyDuringWalk copyCrew 0 copyOfUnmapped [] c g 0 0x2000 0x10 hc hg (by rw [queue]; rfl) rfl rfl rfl rfl (by decide)
    (by rw [ctx]; exact copyDuringWalk_faults)
  have stands := copyDuringWalk_waits
  rw [runs, copiesAfter, after, Option.map_some, copies, queue] at stands
  exact absurd stands (by decide)

end Sys2Proof.Machine

/-! SUPPORT. Stream instructions at issue (R101, R221, R390, R391), and the proof of O23. -/

namespace Sys2Proof.Machine

section
variable {s : State} {c : Cur} {x : RArgs} {k : Fin 64}

/-- A stream request joins the store queue with the number of its token (R276, R391). -/
theorem streamEff_sendsToken {i : Instr} {n : Need} (hc : s.cur = some c) (hd : x.dst = .s k) {op src len : Nat} {sp : Space}
    (runs : exec i s = .next (streamEff x op sp src len c (s.issued c n))) :
    SendsToken i s c n x.dst (fun pid => .stream pid op (c.raw x.a.sel) sp src len) 0 :=
  sendsTokenAfter_of (l := []) hc (issuesFrom_issued hc n) rfl hd runs

/-- app.open, app.seal, app.sync and app.close have no checks of their own. -/
theorem runStream_sendsToken {i : Instr} {op : Nat} (run : exec i s = runStream op x s) (ready : Ready s c (needStream x 1 c)) (hd : x.dst = .s k) :
    SendsToken i s c (needStream x 1 c) x.dst (fun pid => .stream pid op (c.raw x.a.sel) .mem 0 0) 0 :=
  streamEff_sendsToken ready.1 hd (run.trans (issue_ready ready rfl))

/-- Where the source of app.wr may be read, what makes it wait are its bundle's own accesses (R221, R391). -/
theorem ownAppWr_fine
    (fine : 1 ≤ (c.raw x.c.sel).toNat → (c.raw x.c.sel).toNat ≤ 4096 →
      s.spaceBad c (if x.md.val % 2 = 0 then .ls else .vlt) (c.raw x.b.sel).toNat (c.raw x.c.sel).toNat = none) :
    ownAppWr x s c = if c.b.acquiring || (c.b.sq.any fun e => e.op.local) || s.vaultFlies c.b.key then .block else .go := by
  have none_bad : (if 1 ≤ (c.raw x.c.sel).toNat ∧ (c.raw x.c.sel).toNat ≤ 4096 then
      s.spaceBad c (if x.md.val % 2 = 0 then .ls else .vlt) (c.raw x.b.sel).toNat (c.raw x.c.sel).toNat else none) = none := by
    split
    · next len => exact fine len.1 len.2
    · rfl
  simp only [ownAppWr, none_bad]

end

/-- Settles O23: the four requests without a source issue at once; app.wr issues or stops as its bundle's own accesses say. -/
theorem streamRequestsAreQueued : Obligations.StreamRequestsAreQueued := by
  refine ⟨fun p hp x s c k hd ready => ?_, fun x s c k hd ready => ⟨fun fine acquire queue flight => ?_, fun waits fine => ?_⟩⟩
  · simp only [List.mem_cons, List.not_mem_nil, or_false] at hp
    rcases hp with rfl | rfl | rfl | rfl <;> exact runStream_sendsToken rfl ready hd
  · refine streamEff_sendsToken ready.1 hd (issue_ready ready ?_)
    rw [ownAppWr_fine fine, acquire, queue, flight]
    rfl
  · refine issue_own_block ready ?_
    rw [ownAppWr_fine fine, if_pos]
    simpa [or_assoc] using waits

end Sys2Proof.Machine

/-! SUPPORT. Proof of O54: what has drained out of staging is no longer a stream's there, an open stream's too (R106, R107). -/

namespace Sys2Proof.Machine

/-- Draining takes from the streams of its stack the committed extents that staging has no room for any more; other stacks' streams keep theirs. -/
theorem exec_stagingDrain_streams {s t : State} {k : Fin 4} {n : Nat} (runs : exec (.stagingDrain k n) s = .next t) :
    t.flash.streams = s.flash.streams.map fun x => if x.1 / 64 = k.val then (x.1, x.2.drained (natsGet s.flash.staging k.val - n)) else x := by
  cases runs
  rfl

/-! ### The stream -/

/-- An append of 64 bytes at the start of a region, staged. -/
def stagedExtent : Extent where
  off := 0
  len := 64
  owner := ⟨0, 0, 0⟩
  pid := 0
  space := .ls
  src := 0
  staged := true
  bad := false
  data := List.replicate 64 0
  since := 0

/-- An open stream in slot 0 whose one append is sealed and committed, and still in staging. -/
def committedStream : FStream where
  handle := 0
  count := 1
  extents := [(0, stagedExtent)]
  seals := [{ endAt := 64, token := none, covers := 1, done := true, committed := true }]
  syncs := []
  sealed := 1
  close := none
  broken := false

/-- Region 0, of 16 units, is granted to tenant 0; its stream's 64 bytes are all that stack 0 has in staging. -/
def beforeDrain : State :=
  let s := ((State.reset.setReg (offRegion 0) (wordOf [(62, 1), (0, 16)])).setReg (offRegionEnd 0) (wordOf [(63, 1), (0, 64)])).setReg (offStream 0) (streamReg 1 0 0 64)
  s.setFlash { s.flash with streams := [(0, committedStream)], staging := [(0, 64)], committed := [(0, 64)] }

/-- Refutes O54: a drain changes more of the flash tier than the bytes in staging and what closed streams have left there. An open stream's committed extent that has drained is no longer among
the stream's extents, so that an error in staging cannot meet it (R106, R109). -/
theorem not_streamsReachFlash : ¬ Obligations.StreamsReachFlash := by
  rintro ⟨-, -, -, drains, -⟩
  obtain ⟨t, runs, -, -, only⟩ := drains beforeDrain 0 64 (by decide)
  have kept : t.flash.streams = beforeDrain.flash.streams := by rw [only]
  have drained := exec_stagingDrain_streams runs
  rw [kept] at drained
  exact absurd drained (by decide)

end Sys2Proof.Machine

/-! SUPPORT. Grids by name; a grid takes its die set, a change of it is announced and made at a step (R146, R151, R152). -/

namespace Sys2Proof.Machine

/-! ### Grids by name -/

theorem grid?_id {s : State} {n : Nat} {g : Grid} (h : s.grid? n = some g) : g.id = n := by
  simpa using List.find?_some h

theorem grid?_putGrid (s : State) (g : Grid) (j : Nat) :
    (s.putGrid g).grid? j = if j = g.id then (s.grid? j).map fun _ => g else s.grid? j := find?_map_put Grid.id s.grids g j

theorem grid?_putGrid_self {s : State} {x : Grid} (y : Grid) (hx : s.grid? x.id = some x) (same : y.id = x.id) : (s.putGrid y).grid? x.id = some y := by
  rw [grid?_putGrid, if_pos same.symm, hx, Option.map_some]

theorem grid?_putGrid_ne (s : State) {g : Grid} {j : Nat} (h : j ≠ g.id) : (s.putGrid g).grid? j = s.grid? j := by
  rw [grid?_putGrid, if_neg h]

/-! ### A die set is found (R146) -/

section
variable {s : State} {x : Grid} {ds : List Nat} (hx : s.grid? x.id = some x) (waits : x.st = .waiting) (found : s.findDies x = some ds)
include hx waits found

/-- A cooperative grid takes its set with all its crews placed, or not at all (R150). -/
theorem exec_gridDieSet_coop (coop : x.coop = true) : let y := { x with st := .running, dies := ds }
    exec (.gridDieSet x.id) s = .next ((State.placeAll y (fun i k => !s.taken x i k) (List.range y.ncrews) (s.putGrid y)).getD s) := by
  have runs : exec (.gridDieSet x.id) s = execGridDieSet x.id s := rfl
  rw [runs, execGridDieSet]
  simp only [hx, waits, found, coop, bne_self_eq_false, Bool.not_true, Bool.false_eq_true, if_false]
  cases State.placeAll _ _ _ _ <;> rfl

theorem exec_gridDieSet_alone (alone : x.coop = false) :
    ∃ t, exec (.gridDieSet x.id) s = .next t ∧ t.grid? x.id = some { x with st := .running, dies := ds } ∧ (∀ g, g ≠ x.id → t.grid? g = s.grid? g) ∧ t = { s with grids := t.grids } := by
  have runs : exec (.gridDieSet x.id) s = execGridDieSet x.id s := rfl
  refine ⟨s.putGrid { x with st := .running, dies := ds }, ?_, grid?_putGrid_self _ hx rfl, fun g hg => grid?_putGrid_ne s hg, rfl⟩
  rw [runs, execGridDieSet]
  simp only [hx, waits, found, alone, bne_self_eq_false, Bool.not_false, Bool.false_eq_true, if_false, if_true]

end

/-! ### A change is announced and made (R151, R152) -/

/-- The set that a grid has once the change announced to it is made: where none of its bundles is blocked at step, the old one. -/
def State.changedDies (s : State) (x : Grid) (add : Bool) : List Nat := if s.steps x.id then s.newDies x add else x.dies

/-- A crew assigned anew among the dies that its grid changes to. -/
def Crew.reassigned (c : Crew) (x : Grid) (dies : List Nat) : Crew :=
  if c.key.grid = x.id ∧ c.st ≠ .retired ∧ dies ≠ x.dies then
    let d := dieOfCrew { x with dies := dies, oldDies := some x.dies } c.key.crew
    { c with die := d, save := if c.st = .resident ∧ dieOf c.core ≠ d then some .dieLeft else c.save }
  else c

theorem reassigned_key (c : Crew) (x : Grid) (dies : List Nat) : (c.reassigned x dies).key = c.key := by
  unfold Crew.reassigned
  split <;> rfl

theorem reassigned_moves (c : Crew) {x : Grid} {dies : List Nat} (y : Grid) (hy : y.dies = dies) (crews : y.ncrews = x.ncrews) (mine : (c.reassigned x dies).key.grid = x.id)
    (resident : (c.reassigned x dies).st = .resident) (changed : dies ≠ x.dies)
    (away : dieOf (c.reassigned x dies).core ≠ dieOfCrew y (c.reassigned x dies).key.crew) : (c.reassigned x dies).save = some .dieLeft := by
  subst hy
  have die : dieOfCrew y c.key.crew = dieOfCrew { x with dies := y.dies, oldDies := some x.dies } c.key.crew := by rw [dieOfCrew, dieOfCrew, crews]
  rw [reassigned_key] at mine
  rw [reassigned_key, die] at away
  unfold Crew.reassigned at resident away ⊢
  split at resident
  · next h =>
    rw [if_pos h] at away
    dsimp only at resident away
    simp only [if_pos h, if_pos (And.intro resident away)]
  · next h =>
    exact absurd ⟨mine, by rw [resident]; decide, changed⟩ h

/-- The steps of a grid whose crews all stand on their dies are released: it reads the new set. -/
theorem stepRelease_settles {t : State} {y : Grid} (hy : t.grid? y.id = some y) (still : ∀ c ∈ t.crews, c.key.grid = y.id → c.save ≠ some .dieLeft) :
    (t.stepRelease y.id).grid? y.id = some { y with announce := none, oldDies := none } := by
  have no : ¬ (t.crews.any fun c => c.key.grid == y.id && c.save == some .dieLeft) = true := fun h => by
    obtain ⟨c, hc, is⟩ := List.any_eq_true.1 h
    simp only [Bool.and_eq_true, beq_iff_eq] at is
    exact still c hc is.1 is.2
  rw [State.stepRelease, if_neg no, hy]
  exact grid?_putGrid_self (s := { t with bundles := _ }) (x := y) { y with announce := none, oldDies := none } hy rfl

theorem stepRelease_waits {t : State} {g : Nat} (moving : ∃ c ∈ t.crews, c.key.grid = g ∧ c.save = some .dieLeft) : t.stepRelease g = t := by
  obtain ⟨c, hc, mine, left⟩ := moving
  exact if_pos (List.any_eq_true.2 ⟨c, hc, by simp [mine, left]⟩)

theorem stepRelease_frame (t : State) (g : Nat) : ∃ bundles grids, t.stepRelease g = { t with bundles := bundles, grids := grids } := by
  unfold State.stepRelease
  split
  · exact ⟨_, _, rfl⟩
  · split <;> exact ⟨_, _, rfl⟩

theorem stepRelease_crews (t : State) (g : Nat) : (t.stepRelease g).crews = t.crews := by
  obtain ⟨_, _, e⟩ := stepRelease_frame t g
  rw [e]

section
variable {s : State} {x : Grid} {add : Bool} (hx : s.grid? x.id = some x)
include hx

theorem exec_stepAnnounce (running : x.st = .running) (quiet : x.announce = none) (wide : x.minDies < x.maxDies) (new : s.newDies x add ≠ x.dies) :
    ∃ t, exec (.stepAnnounce x.id add) s = .next t ∧ t.grid? x.id = some { x with announce := some add } ∧ t = { s with grids := t.grids } := by
  have runs : exec (.stepAnnounce x.id add) s = execStepAnnounce x.id add s := rfl
  have changes : (x.st != .running || x.announce.isSome || decide (x.maxDies ≤ x.minDies) || s.newDies x add == x.dies) = false := by
    simp [running, quiet, new, wide]
  refine ⟨s.putGrid { x with announce := some add }, ?_, grid?_putGrid_self _ hx rfl, rfl⟩
  rw [runs, execStepAnnounce, hx]
  exact if_neg (by simp [changes])

/-- The change is made, and the steps are released as far as no crew has to move. -/
theorem exec_stepChange_makes (announced : x.announce = some add)
    (ready : ∀ c ∈ s.crews, c.key.grid = x.id → c.save ≠ some .dieLeft ∧ (c.st = .resident → ∀ b ∈ s.crewBundles c.key, b.atStep = true)) :
    let dies := s.changedDies x add
    exec (.stepChange x.id) s = .next ((({ s with crews := s.crews.map fun c => c.reassigned x dies } : State).putGrid { x with dies := dies, oldDies := some x.dies }).stepRelease x.id) := by
  have runs : exec (.stepChange x.id) s = execStepChange x.id s := rfl
  have noCrew (p : Crew → Bool) (not : ∀ c ∈ s.crews, c.key.grid = x.id → p c = false) : (s.crews.filter fun c => c.key.grid == x.id).any p = false := by
    refine List.any_eq_false.2 fun c hc => ?_
    obtain ⟨there, mine⟩ := List.mem_filter.1 hc
    simpa using not c there (by simpa using mine)
  have still : ((s.crews.filter fun c => c.key.grid == x.id).any fun c => c.save == some .dieLeft) = false :=
    noCrew _ fun c hc mine => by simpa using (ready c hc mine).1
  have stand : ((s.crews.filter fun c => c.key.grid == x.id).any fun c => c.st == .resident && (s.crewBundles c.key).any fun b => !b.atStep) = false := by
    refine noCrew _ fun c hc mine => ?_
    by_cases resident : c.st = .resident
    · have all := (ready c hc mine).2 resident
      rw [Bool.and_eq_false_iff]
      exact .inr (List.any_eq_false.2 fun b hb => by simp [all b hb])
    · simp [resident]
  rw [runs, execStepChange]
  simp only [hx, announced, still, stand, Bool.or_self, Bool.false_eq_true, if_false]
  rfl

theorem exec_stepChange (announced : x.announce = some add)
    (ready : ∀ c ∈ s.crews, c.key.grid = x.id → c.save ≠ some .dieLeft ∧ (c.st = .resident → ∀ b ∈ s.crewBundles c.key, b.atStep = true)) :
    ∃ t y, exec (.stepChange x.id) s = .next t ∧ t.grid? x.id = some y ∧ y.dies = (if s.steps x.id = true then s.newDies x add else x.dies) ∧
      ((∀ c ∈ t.crews, c.key.grid = x.id → c.save ≠ some .dieLeft) → y.announce = none ∧ y.oldDies = none) ∧
      ((∃ c ∈ t.crews, c.key.grid = x.id ∧ c.save = some .dieLeft) → y.announce = some add ∧ y.oldDies = some x.dies) ∧
      (∀ c ∈ t.crews, c.key.grid = x.id → c.st = .resident → y.dies ≠ x.dies → dieOf c.core ≠ dieOfCrew y c.key.crew → c.save = some .dieLeft) := by
  have runs := exec_stepChange_makes hx announced ready
  dsimp only at runs
  have dies : s.changedDies x add = if s.steps x.id = true then s.newDies x add else x.dies := rfl
  rw [← dies]
  generalize s.changedDies x add = new at runs
  let y : Grid := { x with dies := new, oldDies := some x.dies }
  let t := ({ s with crews := s.crews.map fun c => c.reassigned x new } : State).putGrid y
  have crews : (t.stepRelease x.id).crews = s.crews.map fun c => c.reassigned x new := stepRelease_crews t x.id
  have hy : t.grid? y.id = some y := grid?_putGrid_self (s := { s with crews := _ }) (x := x) y hx rfl
  have moves (z : Grid) (hz : z.dies = new) (number : z.ncrews = x.ncrews) : ∀ c ∈ (t.stepRelease x.id).crews, c.key.grid = x.id → c.st = .resident → z.dies ≠ x.dies →
      dieOf c.core ≠ dieOfCrew z c.key.crew → c.save = some .dieLeft := by
    intro c hc mine resident changed away
    rw [crews] at hc
    obtain ⟨c, -, rfl⟩ := List.mem_map.1 hc
    exact reassigned_moves c z hz number mine resident (hz ▸ changed) away
  by_cases moving : ∃ c ∈ t.crews, c.key.grid = x.id ∧ c.save = some .dieLeft
  · have same := stepRelease_waits moving
    refine ⟨_, y, runs, ?_, rfl, fun still => ?_, fun _ => ⟨announced, rfl⟩, moves y rfl rfl⟩
    · rw [same]
      exact hy
    · obtain ⟨c, hc, mine, left⟩ := moving
      exact absurd left (still c (same.symm ▸ hc) mine)
  · have still : ∀ c ∈ t.crews, c.key.grid = x.id → c.save ≠ some .dieLeft := fun c hc mine left => moving ⟨c, hc, mine, left⟩
    refine ⟨_, { y with announce := none, oldDies := none }, runs, stepRelease_settles hy still, rfl, fun _ => ⟨rfl, rfl⟩, fun ⟨c, hc, mine, left⟩ => ?_, moves { y with announce := none, oldDies := none } rfl rfl⟩
    exact absurd left (still c ((stepRelease_crews t x.id) ▸ hc) mine)

end

end Sys2Proof.Machine

/-! SUPPORT. A crew is placed, its save is asked for, it retires; fair shares decay (R138, R140, R148, R149, R154, R161). -/

namespace Sys2Proof.Machine

/-! ### Crews by name -/

theorem crew?_putCrew_self {s : State} {k : CKey} {c : Crew} (d : Crew) (hc : s.crew? k = some c) (same : d.key = k) : (s.putCrew d).crew? k = some d := by
  rw [crew?_putCrew, if_pos same.symm, hc, Option.map_some]

theorem crew?_putCrew_ne (s : State) {c : Crew} {j : CKey} (h : j ≠ c.key) : (s.putCrew c).crew? j = s.crew? j := by
  rw [crew?_putCrew, if_neg h]

theorem stepSettle_of_other (s : State) {c : Crew} (h : c.save ≠ some .dieLeft) : s.stepSettle c = s := if_neg h

theorem stepSettle_frame (s : State) (c : Crew) : ∃ bundles grids, s.stepSettle c = { s with bundles := bundles, grids := grids } := by
  unfold State.stepSettle
  split
  · exact stepRelease_frame s c.key.grid
  · exact ⟨_, _, rfl⟩

theorem stepSettle_crew? (s : State) (c : Crew) (k : CKey) : (s.stepSettle c).crew? k = s.crew? k := by
  obtain ⟨_, _, e⟩ := stepSettle_frame s c
  rw [e]
  rfl

theorem stepSettle_l1 (s : State) (c : Crew) : (s.stepSettle c).l1 = s.l1 := by
  obtain ⟨_, _, e⟩ := stepSettle_frame s c
  rw [e]

/-! ### Placement (R140, R148, R149) -/

/-- A new bundle stands at its grid's entry, with s0 and s1 as the grid gives them. -/
theorem newBundle_starts (s : State) (g : Grid) (k : BKey) (core fid ctx : Nat) (grans : List Nat) : let b := s.newBundle g k core fid ctx grans
    b.key = k ∧ b.live = true ∧ b.s 0 = g.args ∧ b.s 1 = BitVec.ofNat 64 g.ncrews ∧ b.arch.slot0 = some (startPath g) ∧ b.arch.slot1 = none ∧ b.sq = [] ∧ b.pend = [] ∧ b.ackcnt = 0 := by
  refine ⟨rfl, rfl, ?_, bankGet_mapPut_self _ _ _ _, rfl, rfl, rfl, rfl, rfl⟩
  exact (bankGet_mapPut_ne _ _ _ Nat.zero_ne_one).trans (bankGet_mapPut_self _ _ _ _)

theorem placeCrew_places (s : State) (x : Grid) (i k : Nat) : ∃ c bs, (s.placeCrew x i k).crews = s.crews ++ [c] ∧ c.key = ⟨x.id, i⟩ ∧ c.core = k ∧ c.st = .resident ∧
    (s.placeCrew x i k).bundles = s.bundles ++ bs ∧ bs.length = x.bundles ∧
    (∀ (j : Nat) (b : Bundle), bs[j]? = some b → b.key = ⟨x.id, i, j⟩ ∧ b.live = true ∧ b.s 0 = x.args ∧ b.s 1 = BitVec.ofNat 64 x.ncrews ∧
      b.arch.slot0 = some (startPath x) ∧ b.arch.slot1 = none ∧ b.sq = [] ∧ b.pend = [] ∧ b.ackcnt = 0) ∧
    c.grans = s.freeGrans k x.scratchNeed ∧ (∀ y ∈ (s.placeCrew x i k).l1, y.core ≠ k) ∧ ∀ a, (s.placeCrew x i k).byte a = s.byte a := by
  refine ⟨_, _, rfl, rfl, rfl, rfl, rfl, by rw [List.length_map, List.length_range], fun j b hb => ?_, rfl, fun y hy => ?_, byte_congr rfl rfl⟩
  · obtain ⟨n, hn, rfl⟩ := Option.map_eq_some_iff.1 ((List.getElem?_map ..).symm.trans hb)
    obtain ⟨-, rfl⟩ := List.getElem?_eq_some_iff.1 hn
    rw [List.getElem_range]
    exact newBundle_starts ..
  · simpa using (List.mem_filter.1 hy).2

/-- The crew that is placed is the first in the order for which a core has room that no crew ahead of it can use. -/
theorem exec_crewPlace_first {s : State} {die i k : Nat} {x : Grid} {l r : List Cand} (order : s.cands die = l ++ ⟨x, i, false⟩ :: r)
    (stuck : ∀ y ∈ l, y.saved = true ∨ s.bestCore y.g y.crew true ((dieCores die).filter fun k => !s.taken y.g y.crew k) = none)
    (core : s.bestCore x i true ((dieCores die).filter fun k => !s.taken x i k) = some k) : exec (.crewPlace die) s = .next (s.placeCrew x i k) := by
  have runs : exec (.crewPlace die) s = execCrewPlace die s := rfl
  rw [runs, execCrewPlace, order, List.findSome?_append, List.findSome?_eq_none_iff.2 fun y hy => ?_, Option.none_or, List.findSome?_cons]
  · simp only [Bool.false_eq_true, if_false, core, Option.map_some]
  · obtain saved | none := stuck y hy
    · exact if_pos saved
    · simp only [none, Option.map_none, ite_self]

/-! ### Retirement (R138) -/

theorem exec_crewRetire {s : State} {k : CKey} {c : Crew} (hc : s.crew? k = some c) (resident : c.st = .resident) (exited : ∀ b ∈ s.crewBundles k, b.live = false ∧ b.sq = [] ∧ b.drains = 0)
    (copies : ∀ q ∈ c.copies, q = []) (tiles : ∀ t ∈ c.tiles, t.busy = none ∧ t.queue = []) (childless : s.crewChildren k = []) (stays : c.save = none) :
    ∃ t, exec (.crewRetire k) s = .next t ∧ t.crew? k = some { c with st := .retired, record := false, backing := [], places := [], grove := none, save := none, area := 0 } ∧
      (∀ j, j ≠ k → t.crew? j = s.crew? j) ∧ t = { s with crews := t.crews } := by
  have runs : exec (.crewRetire k) s = execCrewRetire k s := rfl
  have key := crew?_key hc
  have bundles : ((s.crewBundles k).any fun b => b.live || !b.sq.isEmpty || b.drains != 0) = false := List.any_eq_false.2 fun b hb => by simp [exited b hb]
  have queues : (c.copies.any fun q => !q.isEmpty) = false := List.any_eq_false.2 fun q hq => by simp [copies q hq]
  have idle : (c.tiles.any fun t => t.busy.isSome || !t.queue.isEmpty) = false := List.any_eq_false.2 fun t ht => by simp [tiles t ht]
  refine ⟨s.putCrew { c with st := .retired, record := false, backing := [], places := [], grove := none, save := none, area := 0 }, ?_,
    crew?_putCrew_self _ hc key, fun j hj => crew?_putCrew_ne s (by rwa [key]), rfl⟩
  rw [runs, execCrewRetire, hc]
  simp only [resident, bundles, queues, idle, childless]
  exact congrArg Host.Outcome.next (stepSettle_of_other _ (by rw [stays]; decide))

/-! ### The save of a crew is asked for (R161) -/

/-- A crew of a grid that is not cooperative is saved alone. -/
theorem together_alone (s : State) {g : Grid} (c : Crew) (st : CrewSt) (alone : g.coop = false) : s.together g c st = [c] := by
  rw [State.together, alone, if_neg Bool.false_ne_true]

theorem preempt_alone {s : State} {k : CKey} {why : PreemptWhy} {c : Crew} {g : Grid} (hc : s.crew? k = some c) (hg : s.grid? k.grid = some g) (alone : g.coop = false)
    (resident : c.st = .resident) (stays : c.save = none) (cause : s.causeHolds g c why = true) :
    s.preempt k why = s.putCrew { c with save := some why, copyHold := why == .hotColumn } := by
  have own : mateCause why c c = why := if_neg fun h => h.2 rfl
  rw [State.preempt, hc, hg]
  simp only [resident, stays, cause, together_alone s c _ alone, List.foldl_cons, List.foldl_nil, own]
  rfl

/-- When a cause is looked at: for a crew of lower rank, no earlier than 100 µs after it was placed. -/
def State.causeTime (s : State) (g : Grid) (c : Crew) (why : PreemptWhy) : Nat :=
  if why = .ranked ∧ s.outranked g c = true then max s.clock (c.since + usCycles 100) else s.clock

theorem exec_preemptRequest_at {s : State} {k : CKey} {why : PreemptWhy} {c : Crew} {g : Grid} (hc : s.crew? k = some c) (hg : s.grid? k.grid = some g) :
    exec (.preemptRequest k why) s = .next (State.preempt { s with clock := s.causeTime g c why } k why) := by
  have runs : exec (.preemptRequest k why) s = execPreemptRequest k why s := rfl
  rw [runs]
  unfold execPreemptRequest State.causeTime
  generalize usCycles 100 = wait  -- a time that stays a variable: the checker would compute with it
  cases why with
  | ranked =>
    simp only [hc, hg, true_and]
    split <;> rfl
  | dieLeft | childWait | hotColumn | retired | commanded => simp only [reduceCtorEq, false_and, if_false]

theorem exec_preemptRequest {s : State} {k : CKey} {why : PreemptWhy} {c : Crew} {g : Grid} {now : Nat} (hnow : now = s.causeTime g c why) (hc : s.crew? k = some c)
    (hg : s.grid? k.grid = some g) (alone : g.coop = false) (resident : c.st = .resident) (stays : c.save = none) (cause : { s with clock := now }.causeHolds g c why = true) :
    ∃ t, exec (.preemptRequest k why) s = .next t ∧ t.crew? k = some { c with save := some why, copyHold := why == .hotColumn } ∧ (∀ j, j ≠ k → t.crew? j = s.crew? j) ∧
      t = { s with clock := now, crews := t.crews } := by
  subst hnow
  have key := crew?_key hc
  refine ⟨_, exec_preemptRequest_at hc hg, ?_⟩
  rw [preempt_alone (s := { s with clock := s.causeTime g c why }) hc hg alone resident stays cause]
  exact ⟨crew?_putCrew_self (s := { s with clock := s.causeTime g c why }) _ hc key, fun j hj => crew?_putCrew_ne _ (by rwa [key]), rfl⟩

/-! ### Fair shares (R154) -/

theorem decay_frame (n : Nat) (s : State) : s.decay n = { s with regs := (s.decay n).regs } := by
  induction n generalizing s with
  | zero => rfl
  | succ n ih => exact ih _

theorem reg_decay_out {n o : Nat} (h : ∀ m < n, o ≠ 0x400 + 8 * m) (s : State) : (s.decay n).reg o = s.reg o := by
  induction n generalizing s with
  | zero => rfl
  | succ n ih =>
    rw [State.decay, ih (fun m hm => h m (by omega)), reg_setReg_ne _ _ (h n (by omega))]

theorem reg_decay {n m : Nat} (h : m < n) (s : State) : (s.decay n).reg (0x400 + 8 * m) = setFld (s.reg (0x400 + 8 * m)) 55 0 (fld (s.reg (0x400 + 8 * m)) 55 0 / 2) := by
  induction n generalizing s with
  | zero => omega
  | succ n ih =>
    rw [State.decay]
    by_cases last : m = n
    · subst last
      rw [reg_decay_out (fun j hj => by omega), reg_setReg_self]
    · rw [ih (by omega), reg_setReg_ne _ _ (by omega)]

theorem exec_shareDecay (s : State) : ∃ t, exec .shareDecay s = .next t ∧ t = { s with regs := t.regs } ∧
    ∀ n < 64, fld (t.reg (0x400 + 8 * n)) 55 0 = fld (s.reg (0x400 + 8 * n)) 55 0 / 2 ∧ fld (t.reg (0x400 + 8 * n)) 63 56 = fld (s.reg (0x400 + 8 * n)) 63 56 := by
  refine ⟨_, rfl, decay_frame 64 s, fun n hn => ?_⟩
  have small := fld_lt (s.reg (0x400 + 8 * n)) 55 0
  rw [reg_decay hn, fld_setFld_self _ _ (by omega) (by omega), fld_setFld_of_disjoint _ _ (by omega) (by omega) (by omega), Nat.mod_eq_of_lt (by omega)]
  exact ⟨rfl, rfl⟩

end Sys2Proof.Machine

/-! SUPPORT. A crew is saved at its pre-emption point and restored on a core that takes it (R162 to R165). -/

namespace Sys2Proof.Machine

/-! ### Saving (R162, R163) -/

theorem bundle?_map (s : State) {f : Bundle → Bundle} (key : ∀ b, (f b).key = b.key) (j : BKey) :
    ({ s with bundles := s.bundles.map f } : State).bundle? j = (s.bundle? j).map f := by
  have same : (fun b : Bundle => b.key == j) ∘ f = fun b => b.key == j := funext fun b => by rw [Function.comp_apply, key]
  exact List.find?_map.trans (by rw [same]; rfl)

/-- A bundle of a crew that is saved: what its core holds of it beside its own state goes. -/
def Bundle.stripped (b : Bundle) : Bundle := { b with window := [], results := [], grans := [], hold := [], ready := none }

/-- The bundles of a crew are stripped, the others stay. -/
def Bundle.strippedOf (k : CKey) (b : Bundle) : Bundle := if b.key.ck = k then b.stripped else b

theorem strippedOf_key (k : CKey) (b : Bundle) : (b.strippedOf k).key = b.key := by
  unfold Bundle.strippedOf
  split <;> rfl

/-- Where no access is deferred, a save moves the clock on, strips the crew's bundles and leaves the crew saved. -/
theorem saveCrew_eq {s : State} (calm : s.flash.deferred = []) (g : Grid) (c : Crew) :
    s.saveCrew g c = ({ s.upTo (s.lastIssue c.key + Config.horizon) with bundles := s.bundles.map (Bundle.strippedOf c.key) } : State).putCrew (c.saved (saveGranules g (s.crewBundles c.key))) := by
  have none : (s.upTo (s.lastIssue c.key + Config.horizon)).flash.deferred = [] := calm
  unfold State.saveCrew
  dsimp only
  rw [none]
  rfl

section
variable {s : State} {k : CKey} {c : Crew} {g : Grid} (hc : s.crew? k = some c) (hg : s.grid? k.grid = some g) (alone : g.coop = false)
include hc hg alone

theorem exec_crewSave_saves (resident : c.st = .resident) (asked : c.save ≠ none) (elsewhere : c.save = some .hotColumn → (s.restoreCore g c fun _ => true).isSome = true)
    (room : saveGranules g (s.crewBundles k) + s.areaUsed (fun j => j == k) ≤ 262144) (point : s.atPoint c = true) : exec (.crewSave k) s = .next (s.saveCrew g c) := by
  have runs : exec (.crewSave k) s = execCrewSave k s := rfl
  have key := crew?_key hc
  have own : (fun j => [c].any fun x => x.key == j) = fun j => j == k := funext fun j => by simp [key, Bool.beq_comm (a := k)]
  have fits : decide (([c].map fun x => saveGranules g (s.crewBundles x.key)).sum + s.areaUsed (fun j => [c].any fun x => x.key == j) ≤ 262144) = true := by
    rw [own, List.map_singleton, List.sum_singleton, key]
    exact decide_eq_true room
  have waits : (c.st != .resident || c.save.isNone) = false := by simp [resident, Option.isSome_iff_ne_none, asked]
  have finds : (c.save == some .hotColumn && (s.restoreCore g c fun _ => true).isNone) = false := by
    by_cases hot : c.save = some .hotColumn
    · obtain ⟨core, found⟩ := Option.isSome_iff_exists.1 (elsewhere hot)
      simp [found]
    · simp [hot]
  rw [runs, execCrewSave, hc, hg]
  dsimp only
  rw [together_alone s c _ alone, fits, waits, finds, if_neg Bool.false_ne_true, if_neg (by simp), if_neg (by simp [point])]
  rfl

theorem exec_crewSave (resident : c.st = .resident) (asked : c.save ≠ none) (elsewhere : c.save = some .hotColumn → (s.restoreCore g c fun _ => true).isSome = true)
    (room : saveGranules g (s.crewBundles k) + s.areaUsed (fun j => j == k) ≤ 262144) (point : s.atPoint c = true) (calm : s.flash.deferred = []) :
    ∃ t c', exec (.crewSave k) s = .next t ∧ t.crew? k = some c' ∧ c'.st = .saved ∧ c'.area = saveGranules g (s.crewBundles k) ∧ c'.win = c.win ∧ c'.bars = c.bars ∧
      t.clock = max s.clock (s.lastIssue k + 40) ∧ (∀ j, j ≠ k → t.crew? j = s.crew? j) ∧ (∀ a, t.byte a = s.byte a) ∧
      ∀ b, s.bundle? b.key = some b → b.key.ck = k → t.bundle? b.key = some { b with window := [], results := [], grans := [], hold := [], ready := none } := by
  have key := crew?_key hc
  refine ⟨_, c.saved (saveGranules g (s.crewBundles k)), exec_crewSave_saves hc hg alone resident asked elsewhere room point, ?_⟩
  rw [saveCrew_eq calm, key]
  refine ⟨crew?_putCrew_self (c := c) _ hc key, rfl, rfl, rfl, rfl, rfl, fun j hj => crew?_putCrew_ne (c := c.saved _) _ (by rwa [← key] at hj), byte_congr rfl rfl, fun b hb mine => ?_⟩
  refine (bundle?_map (s.upTo (s.lastIssue k + Config.horizon)) (strippedOf_key k) b.key).trans ?_
  have there : (s.upTo (s.lastIssue k + Config.horizon)).bundle? b.key = some b := hb
  rw [there, Option.map_some, Bundle.strippedOf, if_pos mine]
  rfl

end

/-! ### Restoring (R164) -/

theorem foldl_none_iff {α : Type} {pick : Option α → α → Option α} (some : ∀ b k, (pick b k).isSome = true) (l : List α) : l.foldl pick none = none ↔ l = [] := by
  refine ⟨fun h => by_contra fun more => ?_, fun h => by rw [h, List.foldl_nil]⟩
  have picked := foldl_isSome pick some l none (.inr more)
  rw [h] at picked
  cases picked

/-- Where no core can take a saved crew, none that a test allows can. -/
theorem restoreCore_none {s : State} {g : Grid} {c : Crew} (h : (s.restoreCore g c fun _ => true) = none) (ok : Nat → Bool) : s.restoreCore g c ok = none := by
  have fewer (ks : List Nat) (h : (ks.filter fun k => true && s.refits g c k) = []) : (ks.filter fun k => ok k && s.refits g c k) = [] := by
    refine List.filter_eq_nil_iff.2 fun k hk both => List.filter_eq_nil_iff.1 h k hk ?_
    rw [Bool.and_eq_true] at both
    exact both.2
  unfold State.restoreCore at h ⊢
  dsimp only at h ⊢
  rw [Option.or_eq_none_iff, Option.or_eq_none_iff, foldl_none_iff, foldl_none_iff, foldl_none_iff] at h ⊢
  · exact ⟨⟨fewer _ h.1.1, fewer _ h.1.2⟩, fewer _ h.2⟩
  all_goals
    intro b k
    cases b with
    | none => rfl
    | some j => dsimp only; split <;> rfl

theorem regrant_frame (s : State) (core : Nat) (k : BKey) : ∃ bundles parts, s.regrant core k = { s with bundles := bundles, parts := parts } := by
  unfold State.regrant
  split <;> exact ⟨_, _, rfl⟩

theorem fitBlocks_frame (s : State) (core : Nat) (ks : List BKey) : ∃ bundles parts, s.fitBlocks core ks = { s with bundles := bundles, parts := parts } := by
  refine List.foldlRecOn ks _ (motive := fun t : State => ∃ bundles parts, t = { s with bundles := bundles, parts := parts }) ⟨_, _, rfl⟩ fun t ht k _ => ?_
  obtain ⟨_, _, rfl⟩ := ht
  split
  · split
    · obtain ⟨_, _, e⟩ := regrant_frame { s with bundles := _, parts := _ } core ‹Bundle›.key
      exact ⟨_, _, e⟩
    · exact ⟨_, _, rfl⟩
  · exact ⟨_, _, rfl⟩

theorem countMove_frame (s : State) (c : Crew) : ∃ regs, s.countMove c = { s with regs := regs } := by
  unfold State.countMove
  dsimp only
  split <;> exact ⟨_, rfl⟩

theorem moveDeferred_of_none {s : State} (calm : s.flash.deferred = []) (k : CKey) (grove : Nat) : s.moveDeferred k grove = s := by
  have same : { s.flash with deferred := [] } = s.flash := by rw [← calm]
  unfold State.moveDeferred
  dsimp only
  rw [calm, List.filter_nil, List.filter_nil, List.mapIdx_nil, List.append_nil, same]

/-- Where no access is deferred, a restore puts the crew on its core, where the L1 keeps no line. -/
theorem restoreCrew_frame {s : State} (calm : s.flash.deferred = []) (g : Grid) (c : Crew) (core : Nat) : ∃ bundles parts regs,
    s.restoreCrew g c core = (({ s with bundles := bundles, parts := parts, regs := regs, l1 := s.l1.filter fun l => !(l.core == core) } : State).putCrew (s.moved g c core)).stepSettle c := by
  unfold State.restoreCrew
  extract_lets bs new bundles m t fitted dropped
  have none : t.flash.deferred = [] := by
    simp only [t, moveDeferred_of_none (s := { s with bundles := bundles }) calm]
    exact calm
  obtain ⟨regs, column⟩ : ∃ regs, dropped = { fitted.l1DropCore core with regs := regs } := countMove_frame _ c
  obtain ⟨given, parts, blocks⟩ : ∃ bundles parts, fitted = { t with bundles := bundles, parts := parts } := fitBlocks_frame t core _
  have quiet : dropped.flash.deferred = [] := by
    rw [column, blocks]
    exact none
  rw [replayAll_of_none quiet, column, blocks]
  simp only [t, moveDeferred_of_none (s := { s with bundles := bundles }) calm]
  exact ⟨given, parts, regs, rfl⟩

section
variable {s : State} {k : CKey} {c : Crew} {g : Grid} (hc : s.crew? k = some c) (hg : s.grid? k.grid = some g) (alone : g.coop = false) (saved : c.st = .saved) (whole : c.areaBad = false)
include hc hg alone saved whole

theorem exec_crewRestore_takes {core : Nat} (takes : s.restoreCore g c (fun j => !s.taken g k.crew j) = some core) (noVault : g.vault = 0) :
    exec (.crewRestore k) s = .next (s.restoreCrew g c core) := by
  have runs : exec (.crewRestore k) s = execCrewRestore k s := rfl
  have restored : State.restoreAll g (fun i k => !s.taken g i k) [c] s = some (s.restoreCrew g c core) := by
    rw [State.restoreAll, crew?_key hc, takes]
    simp only [noVault, bne_self_eq_false, Bool.false_and, Bool.false_eq_true, if_false, State.restoreAll]
  rw [runs, execCrewRestore, hc, hg]
  simp only [saved, whole, together_alone s c _ alone, restored, bne_self_eq_false, Bool.false_eq_true, if_false]

theorem exec_crewRestore_restores {core : Nat} (takes : s.restoreCore g c (fun j => !s.taken g k.crew j) = some core) (noVault : g.vault = 0) (calm : s.flash.deferred = []) :
    ∃ t c', exec (.crewRestore k) s = .next t ∧ t.crew? k = some c' ∧ c'.st = .resident ∧ c'.core = core ∧ c'.die = dieOf core ∧ c'.save = none ∧ c'.area = 0 ∧ c'.win = c.win ∧
      c'.grans = s.freeGrans core g.scratchNeed ∧ c'.tileAt = s.freeTiles core g.acc ∧ (∀ y ∈ t.l1, y.core ≠ core) ∧ c'.plgen = (if core = c.core then c.plgen else (c.plgen + 1) % 2 ^ 32) := by
  obtain ⟨bundles, parts, regs, restored⟩ := restoreCrew_frame calm g c core
  have key := crew?_key hc
  refine ⟨_, s.moved g c core, exec_crewRestore_takes hc hg alone saved whole takes noVault, ?_, rfl, rfl, rfl, rfl, rfl, rfl, rfl, rfl, fun y hy => ?_, rfl⟩
  · rw [restored, stepSettle_crew?]
    exact crew?_putCrew_self (c := c) _ hc key
  · rw [restored, stepSettle_l1] at hy
    simpa using (List.mem_filter.1 hy).2

/-- A restore that finds no core is recorded, once. -/
theorem exec_crewRestore_faults (nowhere : (s.restoreCore g c fun _ => true) = none) : ∃ t, exec (.crewRestore k) s = .next t ∧ t.crew? k = some { c with restFault := true } := by
  have runs : exec (.crewRestore k) s = execCrewRestore k s := rfl
  have key := crew?_key hc
  have fails : State.restoreAll g (fun i k => !s.taken g i k) [c] s = none := by rw [State.restoreAll, restoreCore_none nowhere]
  refine ⟨s.restoreFault g c 1, ?_, ?_⟩
  · rw [runs, execCrewRestore, hc, hg]
    simp only [saved, whole, together_alone s c _ alone, fails, nowhere, bne_self_eq_false, Bool.false_eq_true, if_false, Option.isNone_none, if_true]
  · unfold State.restoreFault
    by_cases before : c.restFault = true
    · rw [if_pos before, hc, ← before]
    · rw [if_neg before, State.crew?, (recordsOnly_post _ _ _ _ _ _).crews]
      exact crew?_putCrew_self (c := c) _ hc key

end

end Sys2Proof.Machine

/-! SUPPORT. A grid retires (R77, R124, R138). -/

namespace Sys2Proof.Machine

/-- A change of one bundle leaves every bundle under its name. -/
theorem mem_onBundle {s : State} {k : BKey} {f : Bundle → Bundle} (key : ∀ b, (f b).key = b.key) {b : Bundle} (h : b ∈ (s.onBundle k f).bundles) : ∃ a ∈ s.bundles, a.key = b.key := by
  unfold State.onBundle at h
  split at h
  · next x hx =>
    obtain ⟨a, ha, rfl⟩ := List.mem_map.1 h
    split
    · exact ⟨x, List.mem_of_find?_eq_some hx, (key x).symm⟩
    · exact ⟨a, ha, rfl⟩
  · exact ⟨b, h, rfl⟩

theorem mem_onCrew {s : State} {k : CKey} {f : Crew → Crew} (key : ∀ c, (f c).key = c.key) {c : Crew} (h : c ∈ (s.onCrew k f).crews) : ∃ a ∈ s.crews, a.key = c.key := by
  unfold State.onCrew at h
  split at h
  · next x hx =>
    obtain rfl | ⟨there, -⟩ := mem_putCrew h
    · exact ⟨x, List.mem_of_find?_eq_some hx, (key x).symm⟩
    · exact ⟨c, there, rfl⟩
  · exact ⟨c, h, rfl⟩

/-- A child that leaves its parent's list changes bundles and crews, none of their names. -/
theorem childGone_frame (s : State) (p : BKey) (g : Nat) : ∃ bundles crews, s.childGone p g = { s with bundles := bundles, crews := crews } ∧
    (∀ b ∈ bundles, ∃ a ∈ s.bundles, a.key = b.key) ∧ ∀ c ∈ crews, ∃ a ∈ s.crews, a.key = c.key := by
  have leaves (f : Bundle → Bundle) (key : ∀ b, (f b).key = b.key) : ∃ bundles, s.onBundle p f = { s with bundles := bundles } ∧ ∀ b ∈ bundles, ∃ a ∈ s.bundles, a.key = b.key :=
    ⟨_, onBundle_frame s p f, fun b hb => mem_onBundle key hb⟩
  obtain ⟨bundles, e, named⟩ := leaves (fun b => { b with children := b.children.filter fun x => x != g }) fun _ => rfl
  unfold State.childGone
  dsimp only
  rw [e]
  split
  · exact ⟨bundles, _, onCrew_frame _ _ _, named, fun c hc => mem_onCrew (s := { s with bundles := bundles }) (f := fun c => { c with record := false }) (fun _ => rfl) hc⟩
  · exact ⟨bundles, s.crews, rfl, named, fun c hc => ⟨c, hc, rfl⟩⟩

/-- A harvest changes no armed action, grid, crew or bundle. -/
theorem harvestAll_keeps (s : State) (pick : TlbAt × TlbEnt → Bool) : (s.harvestAll pick).armed = s.armed ∧ (s.harvestAll pick).grids = s.grids ∧ (s.harvestAll pick).crews = s.crews ∧
    (s.harvestAll pick).bundles = s.bundles ∧ (s.harvestAll pick).xl.tlb = s.xl.tlb.map fun x => if pick x then (x.1, x.2.unmarked) else x := by
  obtain ⟨u, ⟨_, _, _, _, rfl⟩, e⟩ := harvestAll_frame s pick
  rw [e]
  exact ⟨rfl, rfl, rfl, rfl, rfl⟩

/-- Of t's grids, crews, bundles and marks, what is a grid's of s is gone, and nothing waits to fire. -/
structure GridGone (s t : State) (x : Grid) : Prop where
  armed : ∀ a ∈ t.armed, a.waits = false
  grids : t.grids = s.grids.filter fun y => y.id != x.id
  crews : ∀ c ∈ t.crews, c.key.grid ≠ x.id
  bundles : ∀ b ∈ t.bundles, b.key.grid ≠ x.id
  marks : ∀ e ∈ t.xl.tlb, e.2.ctx = x.ctx → e.2.a = false ∧ e.2.d = false

/-- The machine without a grid, its crews and its bundles. -/
def State.withoutGrid (s : State) (x : Grid) : State :=
  { s with grids := s.grids.filter fun y => y.id != x.id
           crews := s.crews.filter fun c => c.key.grid != x.id
           bundles := s.bundles.filter fun b => b.key.grid != x.id }

theorem gridGone_harvest {s : State} (armed : ∀ a ∈ s.armed, a.waits = false) (x : Grid) : GridGone s ((s.withoutGrid x).harvestAll fun y => y.2.ctx == x.ctx) x := by
  obtain ⟨sameArmed, sameGrids, sameCrews, sameBundles, tlb⟩ := harvestAll_keeps (s.withoutGrid x) fun y => y.2.ctx == x.ctx
  constructor
  · rw [sameArmed]
    exact armed
  · rw [sameGrids]
    rfl
  · rw [sameCrews]
    exact fun c hc => by simpa using (List.mem_filter.1 hc).2
  · rw [sameBundles]
    exact fun b hb => by simpa using (List.mem_filter.1 hb).2
  · rw [tlb]
    intro e he mine
    obtain ⟨y, -, rfl⟩ := List.mem_map.1 he
    by_cases own : (y.2.ctx == x.ctx) = true
    · rw [if_pos own]
      exact ⟨rfl, rfl⟩
    · rw [if_neg own] at mine
      exact absurd (beq_iff_eq.2 mine) own

theorem GridGone.childGone {s t : State} {x : Grid} (h : GridGone s t x) (p : BKey) (g : Nat) : GridGone s (t.childGone p g) x := by
  obtain ⟨bundles, crews, e, sameBundles, sameCrews⟩ := childGone_frame t p g
  rw [e]
  refine ⟨h.armed, h.grids, fun c hc => ?_, fun b hb => ?_, h.marks⟩
  · obtain ⟨a, ha, key⟩ := sameCrews c hc
    exact key ▸ h.crews a ha
  · obtain ⟨a, ha, key⟩ := sameBundles b hb
    exact key ▸ h.bundles a ha

section
variable {s : State} {x : Grid} (hx : s.grid? x.id = some x) (placed : x.ncrews ≤ (s.crews.filter fun c => c.key.grid == x.id).length)
  (retired : ∀ c ∈ s.crews, c.key.grid = x.id → c.st = .retired) (childless : ∀ y ∈ s.grids, ∀ b, y.parent = some b → b.grid ≠ x.id) (landed : s.gridFlies x.id = false) (uncounted : x.done = 0)
include hx placed retired childless landed uncounted

theorem exec_gridRetire_leaves : let t := (s.withoutGrid x).harvestAll fun y => y.2.ctx == x.ctx
    exec (.gridRetire x.id) s = .next (x.parent.elim t fun p => t.childGone p x.id).fireWaiting := by
  have runs : exec (.gridRetire x.id) s = execGridRetire x.id s := rfl
  have all : ((s.crews.filter fun c => c.key.grid == x.id).any fun c => c.st != .retired) = false := List.any_eq_false.2 fun c hc => by
    obtain ⟨there, mine⟩ := List.mem_filter.1 hc
    simp [retired c there (by simpa using mine)]
  have kids : (s.grids.any fun y => y.parent.any fun b => b.grid == x.id) = false := List.any_eq_false.2 fun y hy kid => by
    obtain ⟨b, hb, is⟩ := (Option.any_eq_true _ _).1 kid
    exact childless y hy b hb (by simpa using is)
  have enough : decide ((s.crews.filter fun c => c.key.grid == x.id).length < x.ncrews) = false := decide_eq_false (Nat.not_lt.2 placed)
  rw [runs, execGridRetire, hx]
  simp only [enough, all, kids, landed, uncounted, Bool.or_self, Bool.false_eq_true, if_false, if_true]
  cases x.parent <;> rfl

theorem exec_gridRetire (armed : ∀ a ∈ s.armed, a.waits = false) :
    ∃ t, exec (.gridRetire x.id) s = .next t ∧ t.grids = s.grids.filter (fun y => y.id != x.id) ∧ (∀ c ∈ t.crews, c.key.grid ≠ x.id) ∧ (∀ b ∈ t.bundles, b.key.grid ≠ x.id) ∧
      ∀ e ∈ t.xl.tlb, e.2.ctx = x.ctx → e.2.a = false ∧ e.2.d = false := by
  have harvested := gridGone_harvest armed x
  have gone : GridGone s (x.parent.elim ((s.withoutGrid x).harvestAll fun y => y.2.ctx == x.ctx) fun p => ((s.withoutGrid x).harvestAll fun y => y.2.ctx == x.ctx).childGone p x.id) x := by
    cases x.parent with
    | none => exact harvested
    | some p => exact harvested.childGone p x.id
  have runs := exec_gridRetire_leaves hx placed retired childless landed uncounted
  dsimp only at runs
  rw [fireWaiting_of_none gone.armed] at runs
  exact ⟨_, runs, gone.grids, gone.crews, gone.bundles, gone.marks⟩

end

end Sys2Proof.Machine

/-! SUPPORT. A tenant's reset stops everything of the tenant (R64, R110, R126, R127, R269), and its completion is counted (R76, R127). -/

namespace Sys2Proof.Machine

/-! ### Its records, streams and communicators -/

theorem netReset_of_none {s : State} {t : Nat} (none : ∀ r ∈ s.net.recs, r.tenant ≠ t) : s.netReset t = s.setNet { s.net with sends := s.net.sends.filter fun x => x.tenant != t } := by
  have no : (s.net.recs.filter fun r => r.tenant == t) = [] := List.filter_eq_nil_iff.2 fun r hr => by simpa using none r hr
  rw [State.netReset, no, List.foldl_nil]

/-- t is s but for flash, poison, L1s and registers of flash. -/
def FlashOnly (s t : State) : Prop := (∃ flash poison l1 regs, t = { s with flash := flash, poison := poison, l1 := l1, regs := regs }) ∧ ∀ o < 0x30030000, t.reg o = s.reg o

theorem flashOnly_refl (s : State) : FlashOnly s s := ⟨⟨_, _, _, _, rfl⟩, fun _ _ => rfl⟩

theorem FlashOnly.trans {s t u : State} : FlashOnly s t → FlashOnly t u → FlashOnly s u := by
  rintro ⟨⟨_, _, _, _, rfl⟩, st⟩ ⟨⟨_, _, _, _, rfl⟩, tu⟩
  exact ⟨⟨_, _, _, _, rfl⟩, fun o ho => (tu o ho).trans (st o ho)⟩

theorem FlashOnly.keeps {s t : State} (h : FlashOnly s t) : t.grids = s.grids ∧ t.crews = s.crews ∧ t.bundles = s.bundles ∧ t.coll = s.coll := by
  obtain ⟨⟨_, _, _, _, rfl⟩, -⟩ := h
  exact ⟨rfl, rfl, rfl, rfl⟩

theorem flashOnly_setFlash (s : State) (f : Flash) : FlashOnly s (s.setFlash f) := ⟨⟨_, _, _, _, rfl⟩, fun _ _ => rfl⟩

theorem flashOnly_dropExtents (s : State) (f : FStream) (n e : Nat) : FlashOnly s (s.dropExtents f n e) := ⟨⟨_, _, _, _, rfl⟩, fun _ _ => rfl⟩

theorem flashOnly_dropAbove (s : State) (n e : Nat) : FlashOnly s (s.dropAbove n e) := ⟨⟨_, _, _, _, rfl⟩, fun _ _ => rfl⟩

theorem flashOnly_setSealed (s : State) (n e : Nat) : FlashOnly s (s.setSealed n e) :=
  ⟨⟨_, _, _, _, rfl⟩, fun _ ho => reg_setReg_ne s _ (by simp only [offRegionEnd]; omega)⟩

theorem flashOnly_closeSlot (s : State) (h : Nat) : FlashOnly s (s.closeSlot h) := ⟨⟨_, _, _, _, rfl⟩, fun _ ho => reg_closeSlot_low s h ho⟩

theorem flashOnly_flashReset (s : State) (t : Nat) : FlashOnly s (s.flashReset t) := by
  unfold State.flashReset
  refine FlashOnly.trans ?_ (flashOnly_setFlash _ _)
  refine List.foldlRecOn _ _ (motive := FlashOnly s) (flashOnly_refl s) fun u hu h _ => ?_
  split
  · exact hu
  · extract_lets n e v
    have dropped : FlashOnly s v := (hu.trans (flashOnly_dropExtents u _ n e)).trans (flashOnly_dropAbove _ n e)
    exact ((dropped.trans (flashOnly_setFlash v _)).trans (flashOnly_setSealed _ n e)).trans (flashOnly_closeSlot _ h)

/-- Chunks that take slots change the hub's order and the collective engine, none of its collectives. -/
theorem fillSlots_frame (fuel stack : Nat) (s : State) : ∃ hub coll, State.fillSlots fuel stack s = { s with hub := hub, coll := coll } ∧ coll.recs = s.coll.recs := by
  induction fuel generalizing s with
  | zero => exact ⟨_, _, rfl, rfl⟩
  | succ fuel ih =>
    rw [State.fillSlots]
    split
    · exact ⟨_, _, rfl, rfl⟩
    · split
      · exact ⟨_, _, rfl, rfl⟩
      · extract_lets q order _ hub _ coll
        obtain ⟨hub', coll', e, recs⟩ := ih { s with hub := hub, coll := coll }
        exact ⟨hub', coll', e, recs⟩

theorem fillAll_frame (s : State) : ∃ hub coll, s.fillAll = { s with hub := hub, coll := coll } ∧ coll.recs = s.coll.recs := by
  refine List.foldlRecOn (List.range 12) _ (motive := fun t : State => ∃ hub coll, t = { s with hub := hub, coll := coll } ∧ coll.recs = s.coll.recs) ⟨_, _, rfl, rfl⟩ fun t ht k _ => ?_
  obtain ⟨hub, coll, rfl, recs⟩ := ht
  obtain ⟨hub', coll', e, recs'⟩ := fillSlots_frame 4 k { s with hub := hub, coll := coll }
  exact ⟨hub', coll', e, recs'.trans recs⟩

/-- A communicator without a collective fails: its state is 2. -/
theorem commFail_idle {s : State} {n : Nat} (idle : ∀ r ∈ s.coll.recs, r.comm ≠ n) :
    ∃ hub coll, s.commFail n 1 = { s.setReg (offComm n) (setFld (s.reg (offComm n)) 63 62 2) with hub := hub, coll := coll } ∧ coll.recs = s.coll.recs := by
  have none : (s.coll.recs.filter fun r => r.comm == n && r.started) = [] := List.filter_eq_nil_iff.2 fun r hr => by simp [idle r hr]
  unfold State.commFail State.commEnd
  rw [none]
  extract_lets flight queues _ cleared failed settled t
  have base : failed = { s.setReg (offComm n) (setFld (s.reg (offComm n)) 63 62 2) with coll := failed.coll } := rfl
  have there : failed.coll.recs = s.coll.recs := rfl
  have same : settled = failed := ite_self _
  clear_value failed
  obtain ⟨hub, coll, e, recs⟩ : ∃ hub coll, t = { settled with hub := hub, coll := coll } ∧ coll.recs = settled.coll.recs := fillAll_frame _
  clear_value t
  subst e
  rw [same] at recs ⊢
  rw [base]
  exact ⟨hub, _, rfl, recs.trans there⟩

/-- t is s but for failed communicators: their registers, the hub's order, and the collective engine, which has the same collectives. -/
def CommsOnly (s t : State) : Prop :=
  (∃ regs hub coll, t = { s with regs := regs, hub := hub, coll := coll } ∧ coll.recs = s.coll.recs) ∧ (∀ o, 0x2800 ≤ o → t.reg o = s.reg o) ∧ ∀ n, t.commTenant n = s.commTenant n

theorem commsOnly_refl (s : State) : CommsOnly s s := ⟨⟨_, _, _, rfl, rfl⟩, fun _ _ => rfl, fun _ => rfl⟩

theorem CommsOnly.trans {s t u : State} : CommsOnly s t → CommsOnly t u → CommsOnly s u := by
  rintro ⟨⟨_, _, _, rfl, recs⟩, regs, tenants⟩ ⟨⟨_, _, _, rfl, recs'⟩, regs', tenants'⟩
  exact ⟨⟨_, _, _, rfl, recs'.trans recs⟩, fun o ho => (regs' o ho).trans (regs o ho), fun n => (tenants' n).trans (tenants n)⟩

theorem CommsOnly.keeps {s t : State} (h : CommsOnly s t) : t.grids = s.grids ∧ t.crews = s.crews ∧ t.bundles = s.bundles := by
  obtain ⟨⟨_, _, _, rfl, -⟩, -, -⟩ := h
  exact ⟨rfl, rfl, rfl⟩

section
variable {s : State} {n : Nat} (idle : ∀ r ∈ s.coll.recs, r.comm ≠ n)
include idle

theorem reg_commFail_self : (s.commFail n 1).reg (offComm n) = setFld (s.reg (offComm n)) 63 62 2 := by
  obtain ⟨_, _, e, -⟩ := commFail_idle idle
  rw [e]
  exact reg_setReg_self s _ _

theorem reg_commFail_ne {o : Nat} (h : o ≠ offComm n) : (s.commFail n 1).reg o = s.reg o := by
  obtain ⟨_, _, e, -⟩ := commFail_idle idle
  rw [e]
  exact reg_setReg_ne s _ h

theorem commState_commFail_self : (s.commFail n 1).commState n = 2 := by
  rw [State.commState, reg_commFail_self idle, fld_setFld_self _ _ (by omega) (by omega)]
  rfl

theorem commState_commFail_ne {m : Nat} (h : m ≠ n) : (s.commFail n 1).commState m = s.commState m := by
  rw [State.commState, reg_commFail_ne idle (by unfold offComm; omega), State.commState]

theorem commsOnly_commFail (hn : n < 256) : CommsOnly s (s.commFail n 1) := by
  refine ⟨?_, fun o ho => reg_commFail_ne idle (by unfold offComm; omega), fun m => ?_⟩
  · obtain ⟨hub, coll, e, recs⟩ := commFail_idle idle
    exact ⟨_, hub, coll, e, recs⟩
  · rw [State.commTenant, State.commTenant]
    by_cases same : m = n
    · rw [same, reg_commFail_self idle, fld_setFld_of_disjoint _ _ (by omega) (by omega) (by omega)]
    · rw [reg_commFail_ne idle (by unfold offComm; omega)]

end

/-- One communicator in a tenant's reset. -/
def State.collResetOne (t : Nat) (u : State) (n : Nat) : State := if u.commState n = 1 ∧ u.commTenant n = t then u.commFail n 1 else u

theorem collReset_eq (s : State) (t : Nat) : s.collReset t = (List.range 256).foldl (State.collResetOne t) s := rfl

section
variable {s : State} {t : Nat} (idle : ∀ r ∈ s.coll.recs, r.comm < 256 → s.commTenant r.comm ≠ t)
include idle

theorem commsOnly_idle {u : State} (h : CommsOnly s u) : ∀ r ∈ u.coll.recs, r.comm < 256 → u.commTenant r.comm ≠ t := by
  obtain ⟨⟨_, _, _, rfl, recs⟩, -, tenants⟩ := h
  intro r hr known
  rw [tenants]
  exact idle r (recs ▸ hr) known

/-- A communicator of the tenant has no collective. -/
theorem idle_of_tenant {n : Nat} (hn : n < 256) (mine : s.commTenant n = t) : ∀ r ∈ s.coll.recs, r.comm ≠ n := by
  rintro r hr rfl
  exact idle r hr hn mine

theorem commsOnly_collResetOne {n : Nat} (hn : n < 256) : CommsOnly s (s.collResetOne t n) := by
  unfold State.collResetOne
  split
  · next h => exact commsOnly_commFail (idle_of_tenant idle hn h.2) hn
  · exact commsOnly_refl s

theorem commState_collResetOne_ne {m n : Nat} (hn : n < 256) (h : m ≠ n) : (s.collResetOne t n).commState m = s.commState m := by
  unfold State.collResetOne
  split
  · next mine => exact commState_commFail_ne (idle_of_tenant idle hn mine.2) h
  · rfl

theorem commState_collResetOne_self {n : Nat} (hn : n < 256) (active : s.commState n = 1) (mine : s.commTenant n = t) : (s.collResetOne t n).commState n = 2 := by
  rw [State.collResetOne, if_pos ⟨active, mine⟩]
  exact commState_commFail_self (idle_of_tenant idle hn mine)

theorem commState_collResetOne_failed {m n : Nat} (hm : m < 256) (failed : s.commState n = 2) : (s.collResetOne t m).commState n = 2 := by
  by_cases same : n = m
  · subst same
    rw [State.collResetOne, if_neg (by rw [failed]; exact fun h => absurd h.1 (by decide)), failed]
  · rw [commState_collResetOne_ne idle hm same, failed]

theorem commsOnly_collReset : CommsOnly s (s.collReset t) := by
  rw [collReset_eq]
  exact List.foldlRecOn _ _ (commsOnly_refl s) fun u hu n hn => hu.trans (commsOnly_collResetOne (commsOnly_idle idle hu) (List.mem_range.1 hn))

/-- A tenant's reset fails each of its communicators. -/
theorem commState_collReset {n : Nat} (hn : n < 256) (active : s.commState n = 1) (mine : s.commTenant n = t) : (s.collReset t).commState n = 2 := by
  have keeps {u : State} (hu : CommsOnly s u) {m : Nat} (hm : m ∈ List.range 256) : CommsOnly s (u.collResetOne t m) := hu.trans (commsOnly_collResetOne (commsOnly_idle idle hu) (List.mem_range.1 hm))
  have stays {u : State} (hu : CommsOnly s u) {m : Nat} (hm : m ∈ List.range 256) : u.commState n = 2 → (u.collResetOne t m).commState n = 2 :=
    commState_collResetOne_failed (commsOnly_idle idle hu) (List.mem_range.1 hm)
  have fails {u : State} (hu : CommsOnly s u) (h : u.commState n = 1 ∨ u.commState n = 2) : (u.collResetOne t n).commState n = 2 :=
    h.elim (fun active => commState_collResetOne_self (commsOnly_idle idle hu) hn active ((hu.2.2 n).trans mine)) (stays hu (List.mem_range.2 hn))
  rw [collReset_eq]
  refine (foldl_reaches_mem (f := State.collResetOne t) (Q := fun u => CommsOnly s u ∧ (u.commState n = 1 ∨ u.commState n = 2)) (P := fun u => CommsOnly s u ∧ u.commState n = 2)
    (fun u m hm hu => ⟨keeps hu.1 hm, ?_⟩) (fun u m hm hu => ⟨keeps hu.1 hm, stays hu.1 hm hu.2⟩) (fun u hu => ⟨keeps hu.1 (List.mem_range.2 hn), fails hu.1 hu.2⟩) (List.mem_range.2 hn)
    ⟨commsOnly_refl s, .inl active⟩).2
  by_cases same : n = m
  · subst same
    exact .inr (fails hu.1 hu.2)
  · rw [commState_collResetOne_ne (commsOnly_idle idle hu.1) (List.mem_range.1 hm) same]
    exact hu.2

end

end Sys2Proof.Machine

/-! SUPPORT. A tenant's reset runs (R126, R127), and its completion is counted (R76, R127). -/

namespace Sys2Proof.Machine

/-! ### Everything of a tenant goes -/

/-- Steps that change translation's state alone change nothing else along a list. -/
theorem foldl_xlOnly {α : Type} {f : State → α → State} (step : ∀ u x, ∃ xl, f u x = { u with xl := xl }) (l : List α) (s : State) : ∃ xl, l.foldl f s = { s with xl := xl } := by
  refine List.foldlRecOn l f (motive := fun u : State => ∃ xl, u = { s with xl := xl }) ⟨s.xl, rfl⟩ fun u hu x _ => ?_
  obtain ⟨_, rfl⟩ := hu
  obtain ⟨xl, e⟩ := step { s with xl := _ } x
  exact ⟨xl, e⟩

/-- Is a number that of a grid of a tenant? -/
def State.ownsGrid (s : State) (t n : Nat) : Bool := s.grids.any fun x => x.id == n && x.tenant == t

theorem not_ownsGrid_iff {s : State} {t n : Nat} : (!s.ownsGrid t n) = true ↔ ∀ g ∈ s.grids, g.id = n → g.tenant ≠ t := by
  simp [State.ownsGrid]

/-- The frames of a tenant's migrations are kept, and its grids, crews, bundles, records and actions go. -/
theorem dropTenant_frame (s : State) (t : Nat) : ∃ focus hubFx hub cp xl coll pcie, s.dropTenant t =
    { s with
      grids := s.grids.filter fun g => g.tenant != t, crews := s.crews.filter fun c => !s.ownsGrid t c.key.grid, bundles := s.bundles.filter fun b => !s.ownsGrid t b.key.grid
      armed := s.armed.filter fun a => a.tenant != t, hub := hub, focus := focus, hubFx := hubFx, cp := cp, xl := xl, coll := coll, pcie := pcie } ∧
    hub.queues = s.hub.queues.filter fun q => q.1 / 4 != t := by
  unfold State.dropTenant
  extract_lets own kept _ hub
  obtain ⟨xl, e⟩ : ∃ xl, kept = { s with xl := xl } := foldl_xlOnly (fun u m => by cases m.frame <;> exact ⟨_, rfl⟩) _ s
  have queues : hub.queues = s.hub.queues.filter fun q => q.1 / 4 != t := by
    show kept.hub.queues.filter _ = _
    rw [e]
  clear_value hub kept
  subst e
  exact ⟨_, _, hub, _, _, _, _, rfl, queues⟩

theorem dropTenant_drops (s : State) (t : Nat) : (∀ o, (s.dropTenant t).reg o = s.reg o) ∧ (s.dropTenant t).grids = s.grids.filter (fun g => g.tenant != t) ∧
    (∀ b ∈ (s.dropTenant t).bundles, b ∈ s.bundles ∧ ∀ g ∈ s.grids, g.id = b.key.grid → g.tenant ≠ t) ∧
    (∀ c ∈ (s.dropTenant t).crews, c ∈ s.crews ∧ ∀ g ∈ s.grids, g.id = c.key.grid → g.tenant ≠ t) ∧
    (∀ q ∈ (s.dropTenant t).hub.queues, q.1 / 4 ≠ t) ∧ ∀ a ∈ (s.dropTenant t).armed, a.tenant ≠ t := by
  obtain ⟨_, _, hub, _, _, _, _, e, queues⟩ := dropTenant_frame s t
  rw [e]
  refine ⟨fun _ => rfl, rfl, fun b hb => ?_, fun c hc => ?_, fun q hq => ?_, fun a ha => ?_⟩
  · obtain ⟨there, other⟩ := List.mem_filter.1 hb
    exact ⟨there, not_ownsGrid_iff.1 other⟩
  · obtain ⟨there, other⟩ := List.mem_filter.1 hc
    exact ⟨there, not_ownsGrid_iff.1 other⟩
  · have mine : q ∈ hub.queues := hq
    rw [queues] at mine
    simpa using (List.mem_filter.1 mine).2
  · simpa using (List.mem_filter.1 ha).2

/-! ### A reset is asked for (R126, R127) -/

section
variable {s : State} {t : Nat} (records : ∀ r ∈ s.net.recs, r.tenant ≠ t) (colls : ∀ r ∈ s.coll.recs, r.comm < 256 → s.commTenant r.comm ≠ t)
include records colls

/-- Before anything of the tenant goes, its sends, streams and communicators end: grids, crews and bundles stand, and no register of the hub's for tenants changes. -/
theorem ended_keeps : let v := ((s.netReset t).flashReset t).collReset t
    v.grids = s.grids ∧ v.crews = s.crews ∧ v.bundles = s.bundles ∧ (∀ o, 0x2800 ≤ o → o < 0x30030000 → v.reg o = s.reg o) ∧
      ∀ n < 256, s.commState n = 1 → s.commTenant n = t → v.commState n = 2 := by
  dsimp only
  rw [netReset_of_none records]
  have flash := flashOnly_flashReset (s.setNet { s.net with sends := s.net.sends.filter fun x => x.tenant != t }) t
  generalize State.flashReset _ t = w at flash
  have same (o : Nat) (ho : o < 0x30030000) : w.reg o = s.reg o := flash.2 o ho
  obtain ⟨grids, crews, bundles, coll⟩ := flash.keeps
  have comm (n : Nat) (hn : n < 256) : w.reg (offComm n) = s.reg (offComm n) := same _ (by unfold offComm; omega)
  have tenant (n : Nat) (hn : n < 256) : w.commTenant n = s.commTenant n := by rw [State.commTenant, comm n hn, State.commTenant]
  have idle : ∀ r ∈ w.coll.recs, r.comm < 256 → w.commTenant r.comm ≠ t := fun r hr known => by
    rw [tenant _ known]
    exact colls r (coll ▸ hr) known
  have comms := commsOnly_collReset idle
  obtain ⟨grids', crews', bundles'⟩ := comms.keeps
  refine ⟨grids'.trans grids, crews'.trans crews, bundles'.trans bundles, fun o lo hi => (comms.2.1 o lo).trans (same o hi), fun n hn active mine => commState_collReset idle hn ?_ ?_⟩
  · rw [State.commState, comm n hn]
    exact active
  · rw [tenant n hn]
    exact mine

end

/-- Where no access of a tenant's is deferred, none waits for the room that its reset would leave. -/
theorem tenantStart_eq {s : State} {t : Nat} (deferred : ∀ d ∈ s.flash.deferred, ∀ g ∈ s.grids, g.id = d.owner.grid → g.tenant ≠ t) :
    s.tenantStart t = ((((s.setReg (offTenant t) (setFld (s.reg (offTenant t)) 0 0 1)).netReset t).flashReset t).collReset t).dropTenant t := by
  have none : (s.flash.deferred.filter fun d => (s.grid? d.owner.grid).any fun g => g.tenant == t) = [] := List.filter_eq_nil_iff.2 fun d hd own => by
    obtain ⟨g, hg, mine⟩ := (Option.any_eq_true _ _).1 own
    exact deferred d hd g (List.mem_of_find?_eq_some hg) (grid?_id hg) (by simpa using mine)
  unfold State.tenantStart
  extract_lets u gone
  have same : gone = [] := none
  rw [same]
  rfl

theorem exec_tenantReset {s : State} {t : Fin 64} {v : Word} (idle : s.resetting t.val = false) (asked : v.getLsbD 0 = true) (records : ∀ r ∈ s.net.recs, r.tenant ≠ t.val)
    (colls : ∀ r ∈ s.coll.recs, s.commTenant r.comm ≠ t.val) (deferred : ∀ d ∈ s.flash.deferred, ∀ g ∈ s.grids, g.id = d.owner.grid → g.tenant ≠ t.val) :
    ∃ u, exec (.tenantReset t v) s = .next u ∧ u.resetting t.val = true ∧ u.grids = s.grids.filter (fun g => g.tenant != t.val) ∧
      (∀ b ∈ u.bundles, b ∈ s.bundles ∧ ∀ g ∈ s.grids, g.id = b.key.grid → g.tenant ≠ t.val) ∧ (∀ c ∈ u.crews, c ∈ s.crews ∧ ∀ g ∈ s.grids, g.id = c.key.grid → g.tenant ≠ t.val) ∧
      (∀ q ∈ u.hub.queues, q.1 / 4 ≠ t.val) ∧ (∀ a ∈ u.armed, a.tenant ≠ t.val) ∧ (∀ n < 256, s.commState n = 1 → s.commTenant n = t.val → u.commState n = 2) := by
  have runs : exec (.tenantReset t v) s = .next (s.tenantCtl t.val v) := rfl
  let counted := s.setReg (offTenant t.val) (wordOf [(8, fld v 15 8)])
  let busy := counted.setReg (offTenant t.val) (setFld (counted.reg (offTenant t.val)) 0 0 1)
  have starts : s.tenantCtl t.val v = (((busy.netReset t.val).flashReset t.val).collReset t.val).dropTenant t.val := by
    rw [State.tenantCtl, idle, if_neg Bool.false_ne_true]
    exact (if_pos asked).trans (tenantStart_eq deferred)
  have place : 0x2800 ≤ offTenant t.val ∧ offTenant t.val < 0x30030000 := by unfold offTenant; omega
  have comm (n : Nat) (hn : n < 256) : busy.reg (offComm n) = s.reg (offComm n) := by
    have other : offComm n ≠ offTenant t.val := by unfold offComm; omega
    exact (reg_setReg_ne _ _ other).trans (reg_setReg_ne _ _ other)
  have tenant (n : Nat) (hn : n < 256) : busy.commTenant n = s.commTenant n := by rw [State.commTenant, comm n hn, State.commTenant]
  obtain ⟨grids, crews, bundles, regs, fails⟩ := ended_keeps (s := busy) records fun r hr known => by rw [tenant _ known]; exact colls r hr
  generalize ((busy.netReset t.val).flashReset t.val).collReset t.val = ended at *
  obtain ⟨regs', grids', bundles', crews', queues, armed⟩ := dropTenant_drops ended t.val
  rw [grids] at grids' bundles' crews'
  rw [crews] at crews'
  rw [bundles] at bundles'
  refine ⟨_, runs.trans (congrArg _ starts), ?_, grids', bundles', crews', queues, armed, fun n hn active mine => ?_⟩
  · have set : (ended.dropTenant t.val).reg (offTenant t.val) = setFld (counted.reg (offTenant t.val)) 0 0 1 := ((regs' _).trans (regs _ place.1 place.2)).trans (reg_setReg_self _ _ _)
    have one : (setFld (counted.reg (offTenant t.val)) 0 0 1).getLsbD 0 = true := by
      rw [getLsbD_setFld _ _ _ (by omega) (by omega)]
      rfl
    exact (congrArg (BitVec.getLsbD · 0) set).trans one
  · rw [State.commState, regs']
    refine fails n hn ?_ ((tenant n hn).trans mine)
    rw [State.commState, comm n hn]
    exact active

/-! ### A reset is complete (R76, R127) -/

theorem reg_harvest {o : Nat} (h : ¬ isWindowReg o) (s : State) (e : TlbEnt) : (s.harvest e).reg o = s.reg o := by
  rw [harvest_eq]
  split
  · rfl
  · refine foldl_keeps _ (State.reg · o) (fun t p => ?_) _ s
    unfold State.markLeaf
    split
    · exact reg_put64 h t _ _
    · rfl

theorem reg_harvestAll {o : Nat} (h : ¬ isWindowReg o) (s : State) (pick : TlbAt × TlbEnt → Bool) : (s.harvestAll pick).reg o = s.reg o := by
  have folded := foldl_keeps (fun (t : State) (x : TlbAt × TlbEnt) => t.harvest x.2) (State.reg · o) (fun t x => reg_harvest h t x.2) (s.xl.tlb.filter pick) s
  exact folded

/-- Where nothing waits at the hub, what goes on after a shoot-down changes no register. -/
theorem reg_resumed {s : State} (quiet : s.Quiet) (d : Shoot) (again : Deferral → Bool) (o : Nat) : (((s.sdResume d).sdRetry d).replayAll again).reg o = s.reg o := by
  obtain ⟨_, _, _, e⟩ := sdResume_frame d quiet
  have none : ((s.sdResume d).sdRetry d).flash.deferred = [] := by
    rw [e, State.sdRetry]
    dsimp only
    rw [quiet.deferred, List.map_nil]
  rw [replayAll_of_none none, e]
  rfl

/-- Where nothing waits at the hub, a shoot-down changes registers only as it counts writes to windows. -/
theorem reg_sdEffect {o : Nat} (h : ¬ isWindowReg o) {s : State} (quiet : s.Quiet) (d : Shoot) : (s.sdEffect d).reg o = s.reg o := by
  have harvested := reg_harvestAll h s fun x => s.sdCovers d x.2.ctx x.2.vpn x.2.pages
  obtain ⟨u, records, e⟩ := harvestAll_frame s fun x => s.sdCovers d x.2.ctx x.2.vpn x.2.pages
  have calm := records.quiet quiet
  rw [e] at harvested
  rw [State.sdEffect, e]
  by_cases harvest : d.kind = 3
  · simp only [if_pos harvest]
    exact harvested
  · simp only [if_neg harvest]
    refine (reg_resumed ?_ d _ o).trans harvested
    exact ⟨calm.hub, calm.armed, calm.deferred⟩

/-- A record of a tenant changes the pointers of the tenant's fault queue, and else only counts writes to windows. -/
theorem reg_post {o : Nat} (window : ¬ isWindowReg o) {t : Nat} (queue : o ≠ offFq t + 8) (s : State) (w0 w1 w2 : Word) (hi3 : Nat) : (s.post t w0 w1 w2 hi3).reg o = s.reg o := by
  unfold State.post
  dsimp only
  split
  · exact reg_setReg_ne s _ queue
  · generalize fld (s.reg (offFq t)) 55 12 * 4096 = page
    generalize page + _ = pa  -- an address that stays a variable: the checker would compute with it
    have msi (u : State) (asked : Bool) (l : List Nat) : (if asked = true then { u with hub := { u.hub with msis := l } } else u).reg o = u.reg o := by cases asked <;> rfl
    refine (reg_setReg_ne _ _ queue).trans ((msi _ _ _).trans ((reg_unitWrote window _ _ _).trans (reg_congr ?_ o)))
    simp only [wr64_regs]

theorem not_isWindowReg_offTenant (t : Nat) : ¬ isWindowReg (offTenant t) := by
  rintro ⟨n, e⟩
  unfold offTenant at e
  omega

theorem exec_tenantResetComplete {s : State} {t : Fin 64} (busy : s.resetting t.val = true) (free : s.sdWaits ⟨t.val, 2, 0, 0⟩ = false) (arrived : s.orphans = false) (quiet : s.Quiet) :
    ∃ u, exec (.tenantResetComplete t) s = .next u ∧ u.resetting t.val = false ∧ fld (u.reg (offTenant t.val)) 15 8 = min (fld (s.reg (offTenant t.val)) 15 8 + 1) 255 ∧
      ∀ x ∈ u.xl.tlb, ∀ c, s.ctx? x.2.ctx = some c → c.tenant ≠ t.val := by
  have runs : exec (.tenantResetComplete t) s = execTenantResetComplete t s := rfl
  let d : Shoot := ⟨t.val, 2, 0, 0⟩
  let u := (s.sdEffect d).post t.val (wordOf [(56, 0x41), (32, t.val)]) 0 0 0
  have stands : u.reg (offTenant t.val) = s.reg (offTenant t.val) :=
    (reg_post (not_isWindowReg_offTenant _) (by unfold offTenant offFq; omega) _ _ _ _ _).trans (reg_sdEffect (not_isWindowReg_offTenant _) quiet d)
  have small := fld_lt (s.reg (offTenant t.val)) 15 8
  refine ⟨u.setReg (offTenant t.val) (setFld (satAdd (u.reg (offTenant t.val)) 15 8 1) 0 0 0), ?_, ?_, ?_, fun x hx c hc mine => ?_⟩
  · rw [runs, execTenantResetComplete, busy, free, arrived]
    rfl
  · rw [State.resetting]
    refine (congrArg (BitVec.getLsbD · 0) (reg_setReg_self u (offTenant t.val) _)).trans ?_
    rw [getLsbD_setFld _ _ _ (by omega) (by omega)]
    rfl
  · rw [reg_setReg_self, fld_setFld_of_disjoint _ _ (by omega) (by omega) (by omega), satAdd, fld_setFld_self _ _ (by omega) (by omega), stands]
    exact Nat.mod_eq_of_lt (by omega)
  · have tlb : u.xl = (s.sdEffect d).xl := (recordsOnly_post _ _ _ _ _ _).xl
    have covered : s.sdCovers d x.2.ctx x.2.vpn x.2.pages = true := by
      rw [State.sdCovers]
      simp only [d, hc, mine, beq_self_eq_true]
    have harvest : 2 = 3 := (sdEffect_covered d quiet (tlb ▸ hx) covered).1
    exact absurd harvest (by decide)

end Sys2Proof.Machine

/-! PROOFS. O57: tenants reset, grids get die sets, crews are placed, retired, saved and restored (R126, R127, R138, R140, R146 to R152, R154, R161 to R165). -/

namespace Sys2Proof.Machine

/-- Settles O57, a clause at a time: a reset and its completion, a die set, a placement, the retirement of a crew and of a grid, a step at which a die set changes, the cause of a save, a save, a restore,
and the decay of fair shares, each as its own lemma says. -/
theorem crewsComeAndGo : Obligations.CrewsComeAndGo := by
  refine ⟨fun s t v => exec_tenantReset, fun s t busy free arrived deferred hub armed => exec_tenantResetComplete busy free arrived ⟨hub, armed, deferred⟩,
    fun s x ds hx waits found => ⟨exec_gridDieSet_coop hx waits found, exec_gridDieSet_alone hx waits found⟩, fun s die i k x l r order stuck core => ?place, fun s k c => exec_crewRetire,
    fun s x => exec_gridRetire, fun s x add hx running => ⟨exec_stepAnnounce hx running, exec_stepChange hx⟩, fun s k why c g => exec_preemptRequest rfl,
    fun s k c g hc hg alone => exec_crewSave hc hg alone, fun s k c g hc hg alone saved whole => ⟨fun core => exec_crewRestore_restores hc hg alone saved whole, exec_crewRestore_faults hc hg alone saved whole⟩,
    exec_shareDecay⟩
  obtain ⟨c, bs, placed⟩ := placeCrew_places s x i k
  exact ⟨_, c, bs, exec_crewPlace_first order stuck core, placed⟩

end Sys2Proof.Machine
